-- ==== Sys2Proof/Word.lean ====
section
/-!
DEFINITION. The word types of the 9600 and their plainest arithmetic (00 R3, 06 R101).
-/
namespace Sys2Proof

/-- A 64-bit value: a lane, a scalar register, a device word (R101, R67). -/
abbrev W64 := BitVec 64
/-- An instruction word or a position of a stream (R124, R48). -/
abbrev W32 := BitVec 32
/-- One byte of device memory. -/
abbrev Byte := BitVec 8
/-- The lanes of a vector, lane 0 first; a lane past the end of the list reads as 0. -/
abbrev Lanes := List W64

end Sys2Proof
end

