-- ==== Sys2Proof/Config.lean ====
section
/-!
DEFINITION. What the spec leaves open. A constant here has no body: nothing can evaluate it, and every statement holds
whatever it is. Each names its entry of the assumption log.
-/
namespace Sys2Proof.Config

/-- What an address that memory does not list reads as (19 R325: a cleaned frame is zero; assumption 3). -/
def unlisted : Byte := 0#8

/-- The time that a copy engine reckons for a record of which so many bytes are left, when it computes a promise (R217,
R343): a free value (assumption 9). -/
opaque copyTime : Nat → Nat → Nat
/-- The check bits of a line's sideband over its data and bits 9:0 (R68; assumption 4). -/
opaque ecc : List Byte → BitVec 10 → BitVec 22
/-- The edge block that owns a physical line (R67, R214), 0 to 191; the spec gives no mapping (assumption 11). -/
opaque homeEdge : Nat → Nat
/-- The DRAM channel of a frame, 0 to 1,535 (R374); the spec gives no mapping (assumption 11). -/
opaque channelOf : Nat → Nat
/-- Which entry of a full leaf cache gives way (R317); the spec gives no order (assumption 10). -/
opaque leafVictim : Nat → Nat
/-- Virtual address of a launch's argument area (R300); reserved memory has no stated address (assumption 11). -/
opaque argAddr : Nat → BitVec 48
/-- Virtual address of a glade's page-request doorbell word in the service address space (R321; assumption 11). -/
opaque doorbell : Nat → W64
/-- Virtual addresses of the page-request queue, its answer register and its status word (R321; assumption 11). -/
opaque prqAddr : W64
opaque prqAnswer : W64
opaque prqStatus : W64
/-- Virtual address of a border core's service table (R329; assumption 46). -/
opaque serviceTable : Nat → W64
/-- What an address of the configuration network names: a counter record of a plane's channel (the plane's key, the channel)
or of a fabric node's input (column, row and slot of the node, the input), and the word of the record (R95; assumption 46). -/
opaque tileCounter : W64 → Option (Nat × Nat × Nat)
opaque nodeCounter : W64 → Option (Nat × Nat × Nat × Nat × Nat)
/-- The same of a region's steering input (column and row of the region), of a port's drop counter (R318), and of a word of a
glade's sample ring (glade, entry, word; R98; assumption 46). -/
opaque steerCounter : W64 → Option (Nat × Nat × Nat)
opaque dropCounter : W64 → Option Nat
opaque sampleRing : W64 → Option (Nat × Nat × Nat)
/-- What a load of the answer register of the page-request queue returns (R321, R324): free, by a running number (assumption 46). -/
opaque answerRead : Nat → W64
/-- Ed448 signature check: public key, message, signature (R359, R361, R373; assumption 12). -/
opaque ed448Ok : List Byte → List Byte → List Byte → Bool
/-- The Ibnal public key in the boot ROM's flash, whose digest is fused (R360; assumption 12). -/
opaque ibnalKey : List Byte
/-- The bytes of an SPDM response that the spec does not lay out: the request code, the transcript (assumption 12). -/
opaque spdmBytes : Nat → List Byte → List Byte
/-- The sealing of a confidential launch's context image (R370; assumption 12), for a fresh key of that number: its X448 public
key; the AES-256-GCM tag under the tenant's key; byte i of the key stream under the tenant's key. -/
opaque freshPublic : Nat → BitVec 448
opaque gcmTag : List W64 → Nat → List Byte → BitVec 128
opaque gcmStream : List W64 → Nat → Nat → Byte
/-- A line as AES-256-XTS stores it under the key of a tenant, for the line's physical address (R370; assumption 12). -/
opaque xts : Nat → Nat → List Byte → List Byte
/-- The key block (R361; assumption 12): the public key of an Ed448 key, a signature by one over a message, and the alias key
that it derives from the fused secret and the measurements. -/
opaque ed448Public : List Byte → List Byte
opaque ed448Sign : List Byte → List Byte → List Byte
opaque bootKey : List Byte → List Byte → List Byte
/-- Bytes of a context image whose place the spec does not fix (R345): a free value (assumption 13). -/
opaque ctxByte : Nat → Byte
/-- The value of a special function whose rounding the bounded evaluation of Numbers.lean does not decide: function
code, type code, input, rounding mode (assumption 15). -/
opaque special : Nat → Nat → W64 → Nat → W64

end Sys2Proof.Config
end

