-- ==== Sys2Proof/Syntax.lean ====
section
/-!
DEFINITION. The instructions and the steps of the 9600: one constructor for each row of the opcode table
(spec/opcode_table.json). The first part holds the operand types that the encodings of 07 R124 to R127, 08 to 11 give.
-/
namespace Sys2Proof

/-- Predicate mode PR (R124): 00 always, 01 on a true predicate, 10 on a false one; 11 is illegal. -/
inductive PR where
  | always | onTrue | onFalse
  deriving DecidableEq, Repr

/-- Element type codes 0 to 12 (R101). -/
inductive ETy where
  | i8 | i16 | i32 | i64 | u8 | u16 | u32 | u64 | f16 | bf16 | f32 | e4m3 | e5m2
  deriving DecidableEq, Repr

/-- Width of a scalar operation (R165): TY 0000, 0001 and 0010. -/
inductive SW where
  | d64 | sx32 | zx32
  deriving DecidableEq, Repr

/-- A target field (R125): the operand or predicate slot that receives a result. -/
inductive Tgt where
  | none
  | a (slot : BitVec 6)
  | b (slot : BitVec 6)
  | c (slot : BitVec 6)
  | p (slot : BitVec 6)
  deriving DecidableEq, Repr

/-- Memory width codes 000 to 110 (R126, R197). -/
inductive Width where
  | b | h | w | d | q | l | v
  deriving DecidableEq, Repr

/-- The wave fields of format M (R129): SEQ, PDL, SDL. -/
structure Link where
  seq : BitVec 5
  pdl : BitVec 4
  sdl : BitVec 4
  deriving DecidableEq, Repr

/-- Conditions of TST, TY bits 2:0 (R156). -/
inductive Cond where
  | eq | ne | lt | ge | ltu | geu | any | none
  deriving DecidableEq, Repr

/-- Source width of EXTS and EXTZ (R171). -/
inductive XW where
  | b | h | w
  deriving DecidableEq, Repr

/-- Fence scopes (R209). -/
inductive Scope where
  | tile | glade | dev | sys
  deriving DecidableEq, Repr

/-- Access classes of XFENCE (R211). -/
inductive AClass where
  | fab | cpy | mtx | lnk | hst
  deriving DecidableEq, Repr

/-- What RDPERF reads (R249): a channel record field, an event counter, or its event code. -/
inductive PerfSel where
  | chan (c : BitVec 4) (k : BitVec 2)
  | ctr (n : BitVec 2)
  | ev (n : BitVec 2)
  deriving DecidableEq, Repr

/-- The instructions and steps: the 201 rows that have a word, in the order of the opcode table, then the 128 rows that
have none. Each docstring names the row and its rule. A step without a word takes its operands (which plane, launch,
node, stream, core, or the data that came from outside) from `State.cur`. -/
inductive Instr where
  /-- NOP (R145). -/
  | nop (pr : PR)
  /-- MOVI (R146). -/
  | movi (pr : PR) (imm : BitVec 13) (ta : Tgt)
  /-- CONST (R146). -/
  | const (pr : PR) (k : BitVec 4) (ta : Tgt)
  /-- MOV (R147). -/
  | mov (pr : PR) (tb ta : Tgt)
  /-- GET (R151). -/
  | get (pr : PR) (h : BitVec 6) (tag : Option ETy) (ta : Tgt)
  /-- PUT (R152). -/
  | put (pr : PR) (h : BitVec 6)
  /-- GETV (R151). -/
  | getv (pr : PR) (h : BitVec 4) (tag : Option ETy) (ta : Tgt)
  /-- PUTV (R152). -/
  | putv (pr : PR) (h : BitVec 4) (m : Bool)
  /-- GETM (R150). -/
  | getm (pr : PR) (h : BitVec 3) (ta : Tgt)
  /-- PUTM (R152). -/
  | putm (pr : PR) (h : BitVec 3)
  /-- RECV (R153). -/
  | recv (pr : PR) (c : BitVec 4) (n : BitVec 2) (ta : Tgt)
  /-- SEND (R154). -/
  | send (pr : PR) (c : BitVec 4)
  /-- SENDC (R155). -/
  | sendc (pr : PR) (c : BitVec 4) (k : BitVec 4)
  /-- NULL (R148). -/
  | null (pr : PR) (tb ta : Tgt)
  /-- TST (R156). -/
  | tst (pr : PR) (cond : Cond) (w32 : Bool) (tb ta : Tgt)
  /-- SEL (R149). -/
  | sel (pr : PR) (tb ta : Tgt)
  /-- BR (R157). -/
  | br (pr : PR) (imm : BitVec 13)
  /-- BRI (R158). -/
  | bri (pr : PR)
  /-- CALL (R159). -/
  | call (pr : PR) (imm : BitVec 13)
  /-- RET (R157). -/
  | ret (pr : PR)
  /-- TEND (R161). -/
  | tend (pr : PR)
  /-- TIMER (R163). -/
  | timer (pr : PR) (c : BitVec 4) (rel : Bool)
  /-- RDCYC (R162). -/
  | rdcyc (pr : PR) (tb ta : Tgt)
  /-- RDID (R164). -/
  | rdid (pr : PR) (k : BitVec 4) (ta : Tgt)
  /-- PYIELD (R160). -/
  | pyield (pr : PR) (imm : BitVec 13)
  /-- ADD (R166). -/
  | add (pr : PR) (sw : SW) (tb ta : Tgt)
  /-- SUB (R166). -/
  | sub (pr : PR) (sw : SW) (tb ta : Tgt)
  /-- ADDI (R167). -/
  | addi (pr : PR) (imm : BitVec 13) (ta : Tgt)
  /-- MUL (R166). -/
  | mul (pr : PR) (sw : SW) (tb ta : Tgt)
  /-- MULH (R166). -/
  | mulh (pr : PR) (sw : SW) (tb ta : Tgt)
  /-- MULHU (R166). -/
  | mulhu (pr : PR) (sw : SW) (tb ta : Tgt)
  /-- DIV (R166). -/
  | div (pr : PR) (sw : SW) (tb ta : Tgt)
  /-- DIVU (R166). -/
  | divu (pr : PR) (sw : SW) (tb ta : Tgt)
  /-- REM (R166). -/
  | rem (pr : PR) (sw : SW) (tb ta : Tgt)
  /-- REMU (R166). -/
  | remu (pr : PR) (sw : SW) (tb ta : Tgt)
  /-- MADD (R166). -/
  | madd (pr : PR) (sw : SW) (tb ta : Tgt)
  /-- LEA (R169). -/
  | lea (pr : PR) (s : BitVec 2) (tb ta : Tgt)
  /-- ADDC (R168). -/
  | addc (pr : PR) (sw : SW) (tb ta : Tgt)
  /-- SUBB (R168). -/
  | subb (pr : PR) (sw : SW) (tb ta : Tgt)
  /-- NEG (R166). -/
  | neg (pr : PR) (sw : SW) (tb ta : Tgt)
  /-- ABS (R166). -/
  | abs (pr : PR) (sw : SW) (tb ta : Tgt)
  /-- AND (R166). -/
  | and (pr : PR) (sw : SW) (tb ta : Tgt)
  /-- OR (R166). -/
  | or (pr : PR) (sw : SW) (tb ta : Tgt)
  /-- XOR (R166). -/
  | xor (pr : PR) (sw : SW) (tb ta : Tgt)
  /-- ANDN (R166). -/
  | andn (pr : PR) (sw : SW) (tb ta : Tgt)
  /-- NOT (R166). -/
  | not (pr : PR) (sw : SW) (tb ta : Tgt)
  /-- SHL (R166). -/
  | shl (pr : PR) (sw : SW) (tb ta : Tgt)
  /-- SHR (R166). -/
  | shr (pr : PR) (sw : SW) (tb ta : Tgt)
  /-- SRA (R166). -/
  | sra (pr : PR) (sw : SW) (tb ta : Tgt)
  /-- ROTL (R166). -/
  | rotl (pr : PR) (sw : SW) (tb ta : Tgt)
  /-- ROTR (R166). -/
  | rotr (pr : PR) (sw : SW) (tb ta : Tgt)
  /-- SHLI (R167). -/
  | shli (pr : PR) (imm : BitVec 13) (ta : Tgt)
  /-- SHRI (R167). -/
  | shri (pr : PR) (imm : BitVec 13) (ta : Tgt)
  /-- SRAI (R167). -/
  | srai (pr : PR) (imm : BitVec 13) (ta : Tgt)
  /-- ANDI (R167). -/
  | andi (pr : PR) (imm : BitVec 13) (ta : Tgt)
  /-- ORI (R167). -/
  | ori (pr : PR) (imm : BitVec 13) (ta : Tgt)
  /-- XORI (R167). -/
  | xori (pr : PR) (imm : BitVec 13) (ta : Tgt)
  /-- CLZ (R166). -/
  | clz (pr : PR) (sw : SW) (tb ta : Tgt)
  /-- CTZ (R166). -/
  | ctz (pr : PR) (sw : SW) (tb ta : Tgt)
  /-- POPC (R166). -/
  | popc (pr : PR) (sw : SW) (tb ta : Tgt)
  /-- BREV (R166). -/
  | brev (pr : PR) (sw : SW) (tb ta : Tgt)
  /-- BSWAP (R166). -/
  | bswap (pr : PR) (sw : SW) (tb ta : Tgt)
  /-- BFX (R170). -/
  | bfx (pr : PR) (sx : Bool) (tb ta : Tgt)
  /-- BFI (R170). -/
  | bfi (pr : PR) (tb ta : Tgt)
  /-- MIN (R166). -/
  | min (pr : PR) (sw : SW) (tb ta : Tgt)
  /-- MAX (R166). -/
  | max (pr : PR) (sw : SW) (tb ta : Tgt)
  /-- MINU (R166). -/
  | minu (pr : PR) (sw : SW) (tb ta : Tgt)
  /-- MAXU (R166). -/
  | maxu (pr : PR) (sw : SW) (tb ta : Tgt)
  /-- EXTS (R171). -/
  | exts (pr : PR) (x : XW) (tb ta : Tgt)
  /-- EXTZ (R171). -/
  | extz (pr : PR) (x : XW) (tb ta : Tgt)
  /-- VADD (R176). -/
  | vadd (pr : PR) (ty : ETy) (tb ta : Tgt)
  /-- VSUB (R176). -/
  | vsub (pr : PR) (ty : ETy) (tb ta : Tgt)
  /-- VMUL (R176). -/
  | vmul (pr : PR) (ty : ETy) (tb ta : Tgt)
  /-- VFMA (R176). -/
  | vfma (pr : PR) (ty : ETy) (tb ta : Tgt)
  /-- VFMS (R176). -/
  | vfms (pr : PR) (ty : ETy) (tb ta : Tgt)
  /-- VMIN (R177). -/
  | vmin (pr : PR) (ty : ETy) (tb ta : Tgt)
  /-- VMAX (R177). -/
  | vmax (pr : PR) (ty : ETy) (tb ta : Tgt)
  /-- VABS (R177). -/
  | vabs (pr : PR) (ty : ETy) (tb ta : Tgt)
  /-- VNEG (R177). -/
  | vneg (pr : PR) (ty : ETy) (tb ta : Tgt)
  /-- VDIV (R176). -/
  | vdiv (pr : PR) (ty : ETy) (tb ta : Tgt)
  /-- VSQRT (R179). -/
  | vsqrt (pr : PR) (ty : ETy) (tb ta : Tgt)
  /-- VRCP (R179). -/
  | vrcp (pr : PR) (ty : ETy) (tb ta : Tgt)
  /-- VRSQ (R179). -/
  | vrsq (pr : PR) (ty : ETy) (tb ta : Tgt)
  /-- VEXP2 (R179). -/
  | vexp2 (pr : PR) (ty : ETy) (tb ta : Tgt)
  /-- VLOG2 (R179). -/
  | vlog2 (pr : PR) (ty : ETy) (tb ta : Tgt)
  /-- VSIN (R179). -/
  | vsin (pr : PR) (ty : ETy) (tb ta : Tgt)
  /-- VCOS (R179). -/
  | vcos (pr : PR) (ty : ETy) (tb ta : Tgt)
  /-- VTANH (R179). -/
  | vtanh (pr : PR) (ty : ETy) (tb ta : Tgt)
  /-- VSIGM (R179). -/
  | vsigm (pr : PR) (ty : ETy) (tb ta : Tgt)
  /-- VMULH (R176). -/
  | vmulh (pr : PR) (ty : ETy) (tb ta : Tgt)
  /-- VAND (R176). -/
  | vand (pr : PR) (ty : ETy) (tb ta : Tgt)
  /-- VOR (R176). -/
  | vor (pr : PR) (ty : ETy) (tb ta : Tgt)
  /-- VXOR (R176). -/
  | vxor (pr : PR) (ty : ETy) (tb ta : Tgt)
  /-- VSHL (R176). -/
  | vshl (pr : PR) (ty : ETy) (tb ta : Tgt)
  /-- VSHR (R176). -/
  | vshr (pr : PR) (ty : ETy) (tb ta : Tgt)
  /-- VSRA (R176). -/
  | vsra (pr : PR) (ty : ETy) (tb ta : Tgt)
  /-- VCLZ (R176). -/
  | vclz (pr : PR) (ty : ETy) (tb ta : Tgt)
  /-- VPOPC (R176). -/
  | vpopc (pr : PR) (ty : ETy) (tb ta : Tgt)
  /-- VCEQ (R178). -/
  | vceq (pr : PR) (ty : ETy) (tb ta : Tgt)
  /-- VCNE (R178). -/
  | vcne (pr : PR) (ty : ETy) (tb ta : Tgt)
  /-- VCLT (R178). -/
  | vclt (pr : PR) (ty : ETy) (tb ta : Tgt)
  /-- VCLE (R178). -/
  | vcle (pr : PR) (ty : ETy) (tb ta : Tgt)
  /-- VSEL (R181). -/
  | vsel (pr : PR) (ty : ETy) (tb ta : Tgt)
  /-- VBCAST (R181). -/
  | vbcast (pr : PR) (ty : ETy) (tb ta : Tgt)
  /-- VEXT (R181). -/
  | vext (pr : PR) (ty : ETy) (tb ta : Tgt)
  /-- VINS (R181). -/
  | vins (pr : PR) (ty : ETy) (tb ta : Tgt)
  /-- VSHUF (R181). -/
  | vshuf (pr : PR) (ty : ETy) (tb ta : Tgt)
  /-- VROT (R181). -/
  | vrot (pr : PR) (ty : ETy) (tb ta : Tgt)
  /-- VRSUM (R182). -/
  | vrsum (pr : PR) (ty : ETy) (tb ta : Tgt)
  /-- VRMIN (R182). -/
  | vrmin (pr : PR) (ty : ETy) (tb ta : Tgt)
  /-- VRMAX (R182). -/
  | vrmax (pr : PR) (ty : ETy) (tb ta : Tgt)
  /-- VSCAN (R182). -/
  | vscan (pr : PR) (ty : ETy) (tb ta : Tgt)
  /-- VCVT (R183). -/
  | vcvt (pr : PR) (ty : ETy) (tb ta : Tgt)
  /-- MAND (R180). -/
  | mand (pr : PR) (tb ta : Tgt)
  /-- MOR (R180). -/
  | mor (pr : PR) (tb ta : Tgt)
  /-- MNOT (R180). -/
  | mnot (pr : PR) (tb ta : Tgt)
  /-- MPOPC (R180). -/
  | mpopc (pr : PR) (tb ta : Tgt)
  /-- VFILT (R184). -/
  | vfilt (pr : PR) (ty : ETy) (tb ta : Tgt)
  /-- VEXPD (R184). -/
  | vexpd (pr : PR) (ty : ETy) (tb ta : Tgt)
  /-- VIOTA (R181). -/
  | viota (pr : PR) (ty : ETy) (tb ta : Tgt)
  /-- VCLAMP (R177). -/
  | vclamp (pr : PR) (ty : ETy) (tb ta : Tgt)
  /-- VMRG (R186). -/
  | vmrg (pr : PR) (ty : ETy) (tb ta : Tgt)
  /-- VISX (R187). -/
  | visx (pr : PR) (ty : ETy) (tb ta : Tgt)
  /-- VDEDUP (R188). -/
  | vdedup (pr : PR) (ty : ETy) (tb ta : Tgt)
  /-- SACC (R190). -/
  | sacc (pr : PR) (ty : ETy)
  /-- SACCF (R191). -/
  | saccf (pr : PR) (tb ta : Tgt)
  /-- SACCZ (R192). -/
  | saccz (pr : PR)
  /-- RNGX (R194). -/
  | rngx (pr : PR) (tb ta : Tgt)
  /-- LDL (R201). -/
  | ldl (pr : PR) (lk : Link) (wd : Width) (s : BitVec 6)
  /-- STL (R201). -/
  | stl (pr : PR) (lk : Link) (wd : Width)
  /-- LDN (R201). -/
  | ldn (pr : PR) (lk : Link) (wd : Width) (s : BitVec 6)
  /-- STN (R201). -/
  | stn (pr : PR) (lk : Link) (wd : Width)
  /-- LD (R203). -/
  | ld (pr : PR) (lk : Link) (wd : Width) (c : BitVec 4)
  /-- ST (R203). -/
  | st (pr : PR) (lk : Link) (wd : Width)
  /-- LDW (R203). -/
  | ldw (pr : PR) (lk : Link) (wd : Width) (c : BitVec 4)
  /-- LDC (R203). -/
  | ldc (pr : PR) (lk : Link) (wd : Width) (c : BitVec 4)
  /-- STF (R203). -/
  | stf (pr : PR) (lk : Link) (wd : Width)
  /-- STS (R203). -/
  | sts (pr : PR) (lk : Link) (wd : Width)
  /-- FEMPTY (R203). -/
  | fempty (pr : PR) (lk : Link) (wd : Width)
  /-- FEQ (R70). -/
  | feq (pr : PR) (lk : Link) (wd : Width) (c : BitVec 4)
  /-- AADD (R205). -/
  | aadd (pr : PR) (lk : Link) (d : Bool) (c : BitVec 4)
  /-- AAND (R205). -/
  | aand (pr : PR) (lk : Link) (d : Bool) (c : BitVec 4)
  /-- AOR (R205). -/
  | aor (pr : PR) (lk : Link) (d : Bool) (c : BitVec 4)
  /-- AXOR (R205). -/
  | axor (pr : PR) (lk : Link) (d : Bool) (c : BitVec 4)
  /-- AMIN (R205). -/
  | amin (pr : PR) (lk : Link) (d : Bool) (c : BitVec 4)
  /-- AMAX (R205). -/
  | amax (pr : PR) (lk : Link) (d : Bool) (c : BitVec 4)
  /-- ASWAP (R205). -/
  | aswap (pr : PR) (lk : Link) (d : Bool) (c : BitVec 4)
  /-- CAS (R205). -/
  | cas (pr : PR) (lk : Link) (d : Bool) (c : BitVec 4)
  /-- UADD (R206). -/
  | uadd (pr : PR) (lk : Link) (d : Bool)
  /-- UAND (R206). -/
  | uand (pr : PR) (lk : Link) (d : Bool)
  /-- UOR (R206). -/
  | uor (pr : PR) (lk : Link) (d : Bool)
  /-- UXOR (R206). -/
  | uxor (pr : PR) (lk : Link) (d : Bool)
  /-- UMIN (R206). -/
  | umin (pr : PR) (lk : Link) (d : Bool)
  /-- UMAX (R206). -/
  | umax (pr : PR) (lk : Link) (d : Bool)
  /-- UFADD (R206). -/
  | ufadd (pr : PR) (lk : Link)
  /-- SRD (R208). -/
  | srd (pr : PR) (lk : Link) (wd : Width) (c : BitVec 4)
  /-- SWR (R208). -/
  | swr (pr : PR) (lk : Link) (wd : Width)
  /-- SWR_EOS (R54). -/
  | swrEos (pr : PR) (lk : Link) (wd : Width)
  /-- SREL (R208). -/
  | srel (pr : PR) (lk : Link)
  /-- SREL_FRC (R63). -/
  | srelFrc (pr : PR) (lk : Link)
  /-- SREW (R208). -/
  | srew (pr : PR) (lk : Link)
  /-- SPOS (R208). -/
  | spos (pr : PR) (lk : Link) (c : BitVec 4)
  /-- FENCE (R209). -/
  | fence (pr : PR) (lk : Link) (sc : Scope)
  /-- SBAR (R210). -/
  | sbar (pr : PR) (lk : Link)
  /-- XFENCE (R211). -/
  | xfence (pr : PR) (lk : Link) (src dst : AClass)
  /-- BARINIT (R213). -/
  | barinit (pr : PR) (lk : Link)
  /-- BARARV (R213). -/
  | bararv (pr : PR) (lk : Link)
  /-- BAREXP (R213). -/
  | barexp (pr : PR) (lk : Link)
  /-- BARWT (R213). -/
  | barwt (pr : PR) (lk : Link) (c : BitVec 4)
  /-- COPY (R215). -/
  | copy (pr : PR) (lk : Link) (c : BitVec 4)
  /-- PREF (R220). -/
  | pref (pr : PR) (lk : Link) (bank : Bool)
  /-- WBACK (R221). -/
  | wback (pr : PR) (lk : Link)
  /-- SETBUD (R222). -/
  | setbud (pr : PR) (lk : Link)
  /-- MMPOST (R224). -/
  | mmpost (pr : PR) (lk : Link)
  /-- VAMAX (R237). -/
  | vamax (pr : PR) (ty : ETy) (tb ta : Tgt)
  /-- VQNT (R238). -/
  | vqnt (pr : PR) (ty : ETy) (tb ta : Tgt)
  /-- VDQNT (R240). -/
  | vdqnt (pr : PR) (tb ta : Tgt)
  /-- VCBQ (R239). -/
  | vcbq (pr : PR) (ty : ETy) (tb ta : Tgt)
  /-- CBSET (R241). -/
  | cbset (pr : PR)
  /-- TRAP (R242). -/
  | trap (pr : PR) (code : BitVec 12)
  /-- FREAD (R244). -/
  | fread (pr : PR) (c : BitVec 4) (k : BitVec 2) (ta : Tgt)
  /-- REPAIR (R245). -/
  | repair (pr : PR)
  /-- BLAZE (R243). -/
  | blaze (pr : PR) (stop : Bool)
  /-- BRKT (R242). -/
  | brkt (pr : PR) (code : BitVec 12)
  /-- SVC (R247). -/
  | svc (pr : PR) (c : BitVec 4) (n : BitVec 7)
  /-- RDPERF (R249). -/
  | rdperf (pr : PR) (sel : PerfSel) (ta : Tgt)
  /-- WRPERF (R250). -/
  | wrperf (pr : PR) (c : BitVec 2) (cnt : Bool)
  /-- HRESUME (R246). -/
  | hresume (pr : PR)
  /-- HABORT (R246). -/
  | habort (pr : PR)
  /-- JLAUNCH (R253). -/
  | jlaunch (rd rs1 rs2 : BitVec 5)
  /-- JFENCE (R254). -/
  | jfence (rd rs1 rs2 : BitVec 5)
  /-- JQUERY (R254). -/
  | jquery (rd rs1 rs2 : BitVec 5)
  /-- JINVR (R255). -/
  | jinvr (rd rs1 rs2 : BitVec 5)
  /-- JCMD_KILL (R340). -/
  | jcmdKill (rd rs1 rs2 : BitVec 5)
  /-- JCMD_PRE (R256). -/
  | jcmdPre (rd rs1 rs2 : BitVec 5)
  /-- JCMD_SNAP (R256). -/
  | jcmdSnap (rd rs1 rs2 : BitVec 5)
  /-- JCMD_STOP (R256). -/
  | jcmdStop (rd rs1 rs2 : BitVec 5)
  /-- JCMD_RESUME (R256). -/
  | jcmdResume (rd rs1 rs2 : BitVec 5)
  /-- JWAITW (R257). -/
  | jwaitw (rd rs1 rs2 : BitVec 5)
  /-- JCTXSAVE (R258). -/
  | jctxsave (rd rs1 rs2 : BitVec 5)
  /-- JCTXLOAD (R295). -/
  | jctxload (rd rs1 rs2 : BitVec 5)
  /-- TASK_FIRING (R21). -/
  | taskFiring
  /-- CONTROL_STEP (R25). -/
  | controlStep
  /-- BLOCK_COMMIT (R132). -/
  | blockCommit
  /-- WAVE_ADMISSION (R130). -/
  | waveAdmission
  /-- PYIELD_RELEASE (R160). -/
  | pyieldRelease
  /-- TOKEN_DELIVERY (R94). -/
  | tokenDelivery
  /-- STEER_NODE (R32). -/
  | steerNode
  /-- MERGE_NODE (R33). -/
  | mergeNode
  /-- FILTER_NODE (R34). -/
  | filterNode
  /-- INTERSECT_NODE (R35). -/
  | intersectNode
  /-- DELAY_NODE (R36). -/
  | delayNode
  /-- GRAPH_COMPLETION (R28). -/
  | graphCompletion
  /-- RESPONSE_DELIVERY (R24). -/
  | responseDelivery
  /-- TIMER_DUE (R163). -/
  | timerDue
  /-- STREAM_WRITE (R53). -/
  | streamWrite
  /-- STREAM_CLOSE (R54). -/
  | streamClose
  /-- STREAM_READ (R55). -/
  | streamRead
  /-- STREAM_RELEASE (R58). -/
  | streamRelease
  /-- STREAM_REWIND (R60). -/
  | streamRewind
  /-- FORCED_RELEASE (R63). -/
  | forcedRelease
  /-- FRAME_RECYCLE (R59). -/
  | frameRecycle
  /-- STREAM_STALL (R62). -/
  | streamStall
  /-- HOST_HWM_PUBLISH (R64). -/
  | hostHwmPublish
  /-- HOST_READER_RELEASE (R64). -/
  | hostReaderRelease
  /-- HOME_ACCESS (R203). -/
  | homeAccess
  /-- PARK_TIMEOUT_CHECK (R74). -/
  | parkTimeoutCheck
  /-- ATOMIC_PERFORM (R205). -/
  | atomicPerform
  /-- UPDATE_PERFORM (R78). -/
  | updatePerform
  /-- UPDATE_LINE_MERGE (R79). -/
  | updateLineMerge
  /-- ANCHOR_RELEASE (R93). -/
  | anchorRelease
  /-- LAUNCH_COMMIT (R85). -/
  | launchCommit
  /-- FOLD (R85). -/
  | fold
  /-- OLDEST_ONLY_START (R90). -/
  | oldestOnlyStart
  /-- RECOVERY_RUNG (R338). -/
  | recoveryRung
  /-- BLAZE_ARRIVAL (R342). -/
  | blazeArrival
  /-- SNAP_CADENCE (R306). -/
  | snapCadence
  /-- EVENT_COUNTER_OVERFLOW (R98). -/
  | eventCounterOverflow
  /-- TRAIL_WALK (R99). -/
  | trailWalk
  /-- MATRIX_RECORD_ACCEPT (R226). -/
  | matrixRecordAccept
  /-- SEQUENCER_DISPATCH (R227). -/
  | sequencerDispatch
  /-- MM_CHUNK (R119). -/
  | mmChunk
  /-- COMMAND_COMPLETION (R231). -/
  | commandCompletion
  /-- DRAIN_TILE (R232). -/
  | drainTile
  /-- COPY_ACCEPT (R216). -/
  | copyAccept
  /-- COPY_LINE_WRITE (R218). -/
  | copyLineWrite
  /-- PROMISE_MISSED (R343). -/
  | promiseMissed
  /-- BARRIER_PERFORM (R213). -/
  | barrierPerform
  /-- CALL_ANSWER (R312). -/
  | callAnswer
  /-- BUDGET_TIMER (R312). -/
  | budgetTimer
  /-- LAUNCH_HEAD_CHECK (R301). -/
  | launchHeadCheck
  /-- LAUNCH_START (R304). -/
  | launchStart
  /-- HOST_RING_DRAIN (R309). -/
  | hostRingDrain
  /-- HOST_RING_RESET (R309). -/
  | hostRingReset
  /-- FRAME_TABLE_STEP (R310). -/
  | frameTableStep
  /-- RUN_AHEAD_FETCH (R318). -/
  | runAheadFetch
  /-- PORT_INVALIDATION (R319). -/
  | portInvalidation
  /-- PORT_ACKNOWLEDGE (R319). -/
  | portAcknowledge
  /-- QUICK_SERVICE_SCAN_OUT (R323). -/
  | quickServiceScanOut
  /-- PRQ_ANSWER_RESUME (R324). -/
  | prqAnswerResume
  /-- PRQ_ANSWER_FAULT (R324). -/
  | prqAnswerFault
  /-- PRQ_ANSWER_ABORT (R324). -/
  | prqAnswerAbort
  /-- PRQ_ANSWER_REFUSED (R324). -/
  | prqAnswerRefused
  /-- FRAME_SCRUB (R325). -/
  | frameScrub
  /-- PAGE_OUT (R77). -/
  | pageOut
  /-- PAGE_IN (R77). -/
  | pageIn
  /-- FAULT_DELIVERY (R334). -/
  | faultDelivery
  /-- PLAIN_APERTURE_READ (R349). -/
  | plainApertureRead
  /-- PLAIN_APERTURE_WRITE (R349). -/
  | plainApertureWrite
  /-- FILL_APERTURE_READ (R349). -/
  | fillApertureRead
  /-- FILL_APERTURE_WRITE (R349). -/
  | fillApertureWrite
  /-- PROBE_APERTURE_READ (R350). -/
  | probeApertureRead
  /-- PROBE_APERTURE_WRITE (R349). -/
  | probeApertureWrite
  /-- REGISTER_WRITE (R347). -/
  | registerWrite
  /-- LINK_TRAINING (R355). -/
  | linkTraining
  /-- FLIT_RECEIVE (R353). -/
  | flitReceive
  /-- PEER_ACCESS (R354). -/
  | peerAccess
  /-- PEER_RETRY (R354). -/
  | peerRetry
  /-- COLLECTIVE_COMPLETE (R358). -/
  | collectiveComplete
  /-- FRAME_CLAIM (R357). -/
  | frameClaim
  /-- FRAME_RETURN (R330). -/
  | frameReturn
  /-- ASID_SET (R357). -/
  | asidSet
  /-- QUEUE_BIND (R357). -/
  | queueBind
  /-- RING_REGISTER (R357). -/
  | ringRegister
  /-- SVC_WEIGHT (R357). -/
  | svcWeight
  /-- HOST_RANGE (R357). -/
  | hostRange
  /-- COLLECTIVE (R357). -/
  | collective
  /-- NOTICE_WORD (R357). -/
  | noticeWord
  /-- NOTICE_READ (R357). -/
  | noticeRead
  /-- PRQ_INFO (R357). -/
  | prqInfo
  /-- POWER_ON_BOOT (R360). -/
  | powerOnBoot
  /-- FORESTER_RESET (R362). -/
  | foresterReset
  /-- POWER_STEP (R368). -/
  | powerStep
  /-- PATROL_SCRUB (R374). -/
  | patrolScrub
  /-- LAYOUT (R366). -/
  | layout
  /-- LAYOUT_READ (R364). -/
  | layoutRead
  /-- POWER (R368). -/
  | power
  /-- FRAME_TABLE (R364). -/
  | frameTable
  /-- GLADE_PARAMS (R364). -/
  | gladeParams
  /-- TENANT (R364). -/
  | tenant
  /-- GLADE_ASSIGN (R364). -/
  | gladeAssign
  /-- SVC_BUDGET (R364). -/
  | svcBudget
  /-- L2_QUOTA (R369). -/
  | l2Quota
  /-- TWIN (R372). -/
  | twin
  /-- PEER_ROUTE (R364). -/
  | peerRoute
  /-- SVN_RAISE (R364). -/
  | svnRaise
  /-- RAS_READ (R374). -/
  | rasRead
  /-- RAS_CLEAR (R364). -/
  | rasClear
  /-- GLADE_COUNTERS (R371). -/
  | gladeCounters
  /-- GET_VERSION (R373). -/
  | getVersion
  /-- GET_CAPABILITIES (R373). -/
  | getCapabilities
  /-- NEGOTIATE_ALGORITHMS (R373). -/
  | negotiateAlgorithms
  /-- GET_DIGESTS (R373). -/
  | getDigests
  /-- GET_CERTIFICATE (R373). -/
  | getCertificate
  /-- CHALLENGE (R373). -/
  | challenge
  /-- GET_MEASUREMENTS (R373). -/
  | getMeasurements
  /-- KEY_EXCHANGE (R373). -/
  | keyExchange
  /-- FINISH (R373). -/
  | finish
  /-- JWAITW_TIMEOUT (R257). -/
  | jwaitwTimeout
  /-- F_SOFT (R335). -/
  | fSoft
  /-- BARRIER_WAIT_QUEUE_TIMEOUT (R214). -/
  | barrierWaitQueueTimeout
  /-- HELD_STREAM_READ_TIMEOUT (R284). -/
  | heldStreamReadTimeout
  /-- TENANT_BUDGET_PERIOD (R312). -/
  | tenantBudgetPeriod
  /-- INTERRUPT_TAKEN (R257). -/
  | interruptTaken
  /-- HOST_LINK_TRAINING (R346). -/
  | hostLinkTraining
  /-- BREAKPOINT_COMPARATOR_ARM (R96). -/
  | breakpointComparatorArm
  /-- OPERATOR_CERTIFICATE_INSTALL (R363). -/
  | operatorCertificateInstall
  /-- SHARED_SET_DECLARATION (R370). -/
  | sharedSetDeclaration
  /-- DEBUG_AUTHORISATION (R371). -/
  | debugAuthorisation
  deriving DecidableEq, Repr

end Sys2Proof
end

