-- ==== Sys2Proof/WellFormed.lean ====
section
/-!
DEFINITION. Well-formed instructions: the limits that a single word must keep (R101, R136, R164, R175, R195, R211,
R223). The rules that span a block are checked when the block is fetched (R133).
-/
namespace Sys2Proof

/-- INT of R175: element codes 0 to 7. -/
def intTy : List ETy := [.i8, .i16, .i32, .i64, .u8, .u16, .u32, .u64]
/-- FLT of R175: element codes 8 to 10. -/
def fltTy : List ETy := [.f16, .bf16, .f32]
/-- INT and FLT of R175. -/
def numTy : List ETy := [.i8, .i16, .i32, .i64, .u8, .u16, .u32, .u64, .f16, .bf16, .f32]
/-- ALL of R175: element codes 0 to 12. -/
def allTy : List ETy := [.i8, .i16, .i32, .i64, .u8, .u16, .u32, .u64, .f16, .bf16, .f32, .e4m3, .e5m2]
/-- The types SACC accepts (R175). -/
def saccTy : List ETy := [.i32, .i64, .u32, .u64, .f16, .bf16, .f32]
/-- Widths B to V (R195). -/
def allWid : List Width := [.b, .h, .w, .d, .q, .l, .v]
/-- Widths of SRD and SWR (R195). -/
def sWid : List Width := [.b, .h, .w, .d, .q, .v]
/-- Widths of STF (R69). -/
def fWid : List Width := [.b, .h, .w, .d]

/-- The limits one word must keep. Every other instruction word is well-formed with every operand value. -/
def Instr.wf : Instr → Bool
  | .rdid _ k _ => decide (k.toNat < 10)
  | .vadd _ ty _ _ => numTy.contains ty
  | .vsub _ ty _ _ => numTy.contains ty
  | .vmul _ ty _ _ => numTy.contains ty
  | .vfma _ ty _ _ => numTy.contains ty
  | .vfms _ ty _ _ => numTy.contains ty
  | .vmin _ ty _ _ => numTy.contains ty
  | .vmax _ ty _ _ => numTy.contains ty
  | .vabs _ ty _ _ => numTy.contains ty
  | .vneg _ ty _ _ => numTy.contains ty
  | .vdiv _ ty _ _ => numTy.contains ty
  | .vsqrt _ ty _ _ => fltTy.contains ty
  | .vrcp _ ty _ _ => fltTy.contains ty
  | .vrsq _ ty _ _ => fltTy.contains ty
  | .vexp2 _ ty _ _ => fltTy.contains ty
  | .vlog2 _ ty _ _ => fltTy.contains ty
  | .vsin _ ty _ _ => fltTy.contains ty
  | .vcos _ ty _ _ => fltTy.contains ty
  | .vtanh _ ty _ _ => fltTy.contains ty
  | .vsigm _ ty _ _ => fltTy.contains ty
  | .vmulh _ ty _ _ => intTy.contains ty
  | .vand _ ty _ _ => intTy.contains ty
  | .vor _ ty _ _ => intTy.contains ty
  | .vxor _ ty _ _ => intTy.contains ty
  | .vshl _ ty _ _ => intTy.contains ty
  | .vshr _ ty _ _ => intTy.contains ty
  | .vsra _ ty _ _ => intTy.contains ty
  | .vclz _ ty _ _ => intTy.contains ty
  | .vpopc _ ty _ _ => intTy.contains ty
  | .vceq _ ty _ _ => numTy.contains ty
  | .vcne _ ty _ _ => numTy.contains ty
  | .vclt _ ty _ _ => numTy.contains ty
  | .vcle _ ty _ _ => numTy.contains ty
  | .vsel _ ty _ _ => allTy.contains ty
  | .vbcast _ ty _ _ => allTy.contains ty
  | .vext _ ty _ _ => allTy.contains ty
  | .vins _ ty _ _ => allTy.contains ty
  | .vshuf _ ty _ _ => allTy.contains ty
  | .vrot _ ty _ _ => allTy.contains ty
  | .vrsum _ ty _ _ => numTy.contains ty
  | .vrmin _ ty _ _ => numTy.contains ty
  | .vrmax _ ty _ _ => numTy.contains ty
  | .vscan _ ty _ _ => numTy.contains ty
  | .vcvt _ ty _ _ => allTy.contains ty
  | .vfilt _ ty _ _ => allTy.contains ty
  | .vexpd _ ty _ _ => allTy.contains ty
  | .viota _ ty _ _ => intTy.contains ty
  | .vclamp _ ty _ _ => numTy.contains ty
  | .vmrg _ ty _ _ => intTy.contains ty
  | .visx _ ty _ _ => intTy.contains ty
  | .vdedup _ ty _ _ => intTy.contains ty
  | .sacc _ ty => saccTy.contains ty
  | .stf _ _ wd => fWid.contains wd
  | .srd _ _ wd _ => sWid.contains wd
  | .swr _ _ wd => sWid.contains wd
  | .swrEos _ _ wd => sWid.contains wd
  | .xfence _ _ src dst => decide (src ≠ dst)
  | .vamax _ ty _ _ => fltTy.contains ty
  | .vqnt _ ty _ _ => fltTy.contains ty
  | .vcbq _ ty _ _ => fltTy.contains ty
  | _ => true

/-- The constructors that have a word: the tile instructions and the border-core instructions. -/
def Instr.hasWord : Instr → Bool
  | .taskFiring => false
  | .controlStep => false
  | .blockCommit => false
  | .waveAdmission => false
  | .pyieldRelease => false
  | .tokenDelivery => false
  | .steerNode => false
  | .mergeNode => false
  | .filterNode => false
  | .intersectNode => false
  | .delayNode => false
  | .graphCompletion => false
  | .responseDelivery => false
  | .timerDue => false
  | .streamWrite => false
  | .streamClose => false
  | .streamRead => false
  | .streamRelease => false
  | .streamRewind => false
  | .forcedRelease => false
  | .frameRecycle => false
  | .streamStall => false
  | .hostHwmPublish => false
  | .hostReaderRelease => false
  | .homeAccess => false
  | .parkTimeoutCheck => false
  | .atomicPerform => false
  | .updatePerform => false
  | .updateLineMerge => false
  | .anchorRelease => false
  | .launchCommit => false
  | .fold => false
  | .oldestOnlyStart => false
  | .recoveryRung => false
  | .blazeArrival => false
  | .snapCadence => false
  | .eventCounterOverflow => false
  | .trailWalk => false
  | .matrixRecordAccept => false
  | .sequencerDispatch => false
  | .mmChunk => false
  | .commandCompletion => false
  | .drainTile => false
  | .copyAccept => false
  | .copyLineWrite => false
  | .promiseMissed => false
  | .barrierPerform => false
  | .callAnswer => false
  | .budgetTimer => false
  | .launchHeadCheck => false
  | .launchStart => false
  | .hostRingDrain => false
  | .hostRingReset => false
  | .frameTableStep => false
  | .runAheadFetch => false
  | .portInvalidation => false
  | .portAcknowledge => false
  | .quickServiceScanOut => false
  | .prqAnswerResume => false
  | .prqAnswerFault => false
  | .prqAnswerAbort => false
  | .prqAnswerRefused => false
  | .frameScrub => false
  | .pageOut => false
  | .pageIn => false
  | .faultDelivery => false
  | .plainApertureRead => false
  | .plainApertureWrite => false
  | .fillApertureRead => false
  | .fillApertureWrite => false
  | .probeApertureRead => false
  | .probeApertureWrite => false
  | .registerWrite => false
  | .linkTraining => false
  | .flitReceive => false
  | .peerAccess => false
  | .peerRetry => false
  | .collectiveComplete => false
  | .frameClaim => false
  | .frameReturn => false
  | .asidSet => false
  | .queueBind => false
  | .ringRegister => false
  | .svcWeight => false
  | .hostRange => false
  | .collective => false
  | .noticeWord => false
  | .noticeRead => false
  | .prqInfo => false
  | .powerOnBoot => false
  | .foresterReset => false
  | .powerStep => false
  | .patrolScrub => false
  | .layout => false
  | .layoutRead => false
  | .power => false
  | .frameTable => false
  | .gladeParams => false
  | .tenant => false
  | .gladeAssign => false
  | .svcBudget => false
  | .l2Quota => false
  | .twin => false
  | .peerRoute => false
  | .svnRaise => false
  | .rasRead => false
  | .rasClear => false
  | .gladeCounters => false
  | .getVersion => false
  | .getCapabilities => false
  | .negotiateAlgorithms => false
  | .getDigests => false
  | .getCertificate => false
  | .challenge => false
  | .getMeasurements => false
  | .keyExchange => false
  | .finish => false
  | .jwaitwTimeout => false
  | .fSoft => false
  | .barrierWaitQueueTimeout => false
  | .heldStreamReadTimeout => false
  | .tenantBudgetPeriod => false
  | .interruptTaken => false
  | .hostLinkTraining => false
  | .breakpointComparatorArm => false
  | .operatorCertificateInstall => false
  | .sharedSetDeclaration => false
  | .debugAuthorisation => false
  | _ => true

end Sys2Proof
end

