-- ==== Sys2Proof/Decode.lean ====
section
/-!
DEFINITION. The decoder, total on every word and every byte sequence, rejecting by name (R122 to R126, R134 to R136,
R164, R175, R195, R211, R223, R249 to R252), and after it the encoder, written from the same tables.
-/
namespace Sys2Proof

/-- Why a word is refused. -/
inductive Reject where
  | unassigned   -- an opcode R135 leaves unassigned, or a border-core word outside custom-0
  | badPr        -- PR = 11 (R136)
  | badType      -- a TY the opcode does not accept (R136)
  | badTarget    -- a reserved target kind, or slot bits with kind none (R125)
  | badField     -- an unused field that is not zero, or a field value out of range (R136)
  | badWidth     -- a width code the form does not accept (R126)
  | badChannel   -- a channel or register number out of range (R126, R136)
  | short        -- fewer than four bytes
  deriving DecidableEq, Repr

/-! ### Fields of a word (R124) -/

/-- TA, or the response field. -/
def fTA (w : W32) : BitVec 9 := w.extractLsb' 0 9
/-- TB of format G2. -/
def fTB (w : W32) : BitVec 9 := w.extractLsb' 9 9
/-- TY of format G2. -/
def fTY (w : W32) : BitVec 4 := w.extractLsb' 18 4
/-- IMM13 of format GI. -/
def fImm (w : W32) : BitVec 13 := w.extractLsb' 9 13
/-- HND/CH of format C. -/
def fHnd (w : W32) : BitVec 6 := w.extractLsb' 16 6
/-- AUX of format C. -/
def fAux (w : W32) : BitVec 7 := w.extractLsb' 9 7
/-- Bits 5:0 of the response field (R126). -/
def fRsp (w : W32) : BitVec 6 := w.extractLsb' 0 6
/-- The width code, bits 8:6 (R126). -/
def fWd (w : W32) : BitVec 3 := w.extractLsb' 6 3

/-- Predicate mode of bits 23:22 (R124). -/
def rdPR (b : BitVec 2) : Except Reject PR :=
  match b.toNat with
  | 0 => .ok .always
  | 1 => .ok .onTrue
  | 2 => .ok .onFalse
  | _ => .error .badPr

/-- The encoding of a predicate mode. -/
def wrPR : PR → BitVec 2
  | .always => 0#2
  | .onTrue => 1#2
  | .onFalse => 2#2

/-- A target field (R125). -/
def rdTgt (t : BitVec 9) : Except Reject Tgt :=
  match (t.extractLsb' 6 3).toNat with
  | 0 => if t.extractLsb' 0 6 = 0#6 then .ok .none else .error .badTarget
  | 1 => .ok (.a (t.extractLsb' 0 6))
  | 2 => .ok (.b (t.extractLsb' 0 6))
  | 3 => .ok (.c (t.extractLsb' 0 6))
  | 4 => .ok (.p (t.extractLsb' 0 6))
  | _ => .error .badTarget

/-- The encoding of a target field. -/
def wrTgt : Tgt → BitVec 9
  | .none => 0#9
  | .a s => 1#3 ++ s
  | .b s => 2#3 ++ s
  | .c s => 3#3 ++ s
  | .p s => 4#3 ++ s

/-- Element type of a code 0 to 12 (R101). -/
def tyOf (c : BitVec 4) : Option ETy :=
  match c.toNat with
  | 0 => some .i8 | 1 => some .i16 | 2 => some .i32 | 3 => some .i64
  | 4 => some .u8 | 5 => some .u16 | 6 => some .u32 | 7 => some .u64
  | 8 => some .f16 | 9 => some .bf16 | 10 => some .f32 | 11 => some .e4m3 | 12 => some .e5m2
  | _ => none

/-- The code of an element type (R101). -/
def tyCode : ETy → BitVec 4
  | .i8 => 0#4 | .i16 => 1#4 | .i32 => 2#4 | .i64 => 3#4
  | .u8 => 4#4 | .u16 => 5#4 | .u32 => 6#4 | .u64 => 7#4
  | .f16 => 8#4 | .bf16 => 9#4 | .f32 => 10#4 | .e4m3 => 11#4 | .e5m2 => 12#4

/-- Width of a code (R126). -/
def widOf (c : BitVec 3) : Option Width :=
  match c.toNat with
  | 0 => some .b | 1 => some .h | 2 => some .w | 3 => some .d
  | 4 => some .q | 5 => some .l | 6 => some .v
  | _ => none

/-- The code of a width (R126). -/
def widCode : Width → BitVec 3
  | .b => 0#3 | .h => 1#3 | .w => 2#3 | .d => 3#3 | .q => 4#3 | .l => 5#3 | .v => 6#3

/-- The wave fields (R124, format M). -/
def rdLink (w : W32) : Link :=
  { seq := w.extractLsb' 17 5, pdl := w.extractLsb' 13 4, sdl := w.extractLsb' 9 4 }

/-! ### Checks of a field -/

/-- Bits 21:0 all zero. -/
def z22 (w : W32) (i : Instr) : Except Reject Instr :=
  if w.extractLsb' 0 22 = 0#22 then .ok i else .error .badField
/-- TY zero where the opcode uses none. -/
def ty0 (w : W32) (k : Except Reject Instr) : Except Reject Instr :=
  if fTY w = 0#4 then k else .error .badType
/-- TY with the one value the opcode accepts. -/
def tyIs (w : W32) (c : BitVec 4) (k : Except Reject Instr) : Except Reject Instr :=
  if fTY w = c then k else .error .badType
/-- AUX zero. -/
def aux0 (w : W32) (k : Except Reject Instr) : Except Reject Instr :=
  if fAux w = 0#7 then k else .error .badField
/-- TA of kind none where the opcode delivers nothing. -/
def ta0 (w : W32) (k : Except Reject Instr) : Except Reject Instr :=
  if fTA w = 0#9 then k else .error .badField
/-- TA and TB of kind none. -/
def tab0 (w : W32) (k : Except Reject Instr) : Except Reject Instr :=
  if w.extractLsb' 0 18 = 0#18 then k else .error .badField
/-- A width code with the one value the form accepts (R195). -/
def wid (w : W32) (c : BitVec 3) (k : Except Reject Instr) : Except Reject Instr :=
  if fWd w = c then k else .error .badWidth
/-- Bits 5:0 zero where the form gives them no use. -/
def rsp0 (w : W32) (k : Except Reject Instr) : Except Reject Instr :=
  if fRsp w = 0#6 then k else .error .badField
/-- Bits 5:0 with the one value the form has. -/
def rspIs (w : W32) (c : BitVec 6) (k : Except Reject Instr) : Except Reject Instr :=
  if fRsp w = c then k else .error .badField

/-- Type accepted by the opcode (R175). -/
def rdTy (ok : List ETy) (w : W32) : Except Reject ETy :=
  match tyOf (fTY w) with
  | some t => if ok.contains t then .ok t else .error .badType
  | none => .error .badType
/-- Scalar width (R165). -/
def rdSW (w : W32) : Except Reject SW :=
  match (fTY w).toNat with
  | 0 => .ok .d64 | 1 => .ok .sx32 | 2 => .ok .zx32
  | _ => .error .badType
/-- The encoding of a scalar width. -/
def wrSW : SW → BitVec 4
  | .d64 => 0#4 | .sx32 => 1#4 | .zx32 => 2#4
/-- LEA's scale (R169). -/
def rdLea (w : W32) : Except Reject (BitVec 2) :=
  if w.extractLsb' 20 2 = 0#2 then .ok (w.extractLsb' 18 2) else .error .badType
/-- BFX's sign modifier (R170). -/
def rdBfx (w : W32) : Except Reject Bool :=
  if fTY w = 0#4 then .ok false else if fTY w = 1#4 then .ok true else .error .badType
/-- Source width of EXTS and EXTZ (R171). -/
def rdXW (w : W32) : Except Reject XW :=
  match (fTY w).toNat with
  | 0 => .ok .b | 1 => .ok .h | 2 => .ok .w
  | _ => .error .badType
/-- The encoding of that width. -/
def wrXW : XW → BitVec 4
  | .b => 0#4 | .h => 1#4 | .w => 2#4
/-- TST's condition (R156). -/
def cond3 (c : BitVec 3) : Cond :=
  match c.toNat with
  | 0 => .eq | 1 => .ne | 2 => .lt | 3 => .ge | 4 => .ltu | 5 => .geu | 6 => .any | _ => .none
/-- The code of a condition. -/
def condCode : Cond → BitVec 3
  | .eq => 0#3 | .ne => 1#3 | .lt => 2#3 | .ge => 3#3 | .ltu => 4#3 | .geu => 5#3 | .any => 6#3 | .none => 7#3
/-- TST's TY field. -/
def wrTst (c : Cond) (w32 : Bool) : BitVec 4 := (if w32 then 1#1 else 0#1) ++ condCode c
/-- A vector register or channel number, 0 to 15 (R136). -/
def rdH4 (w : W32) : Except Reject (BitVec 4) :=
  if w.extractLsb' 20 2 = 0#2 then .ok (w.extractLsb' 16 4) else .error .badChannel
/-- A mask register number, 0 to 7 (R136). -/
def rdH3 (w : W32) : Except Reject (BitVec 3) :=
  if w.extractLsb' 19 3 = 0#3 then .ok (w.extractLsb' 16 3) else .error .badChannel
/-- An event counter number, CH[5:2] zero (R250). -/
def rdH2 (w : W32) : Except Reject (BitVec 2) :=
  if w.extractLsb' 18 4 = 0#4 then .ok (w.extractLsb' 16 2) else .error .badChannel
/-- The tag of GET and GETV (R151). -/
def rdAuxTag (aux : BitVec 7) : Except Reject (Option ETy) :=
  if aux = 0#7 then .ok none
  else if aux.extractLsb' 4 3 = 1#3 then
    match tyOf (aux.extractLsb' 0 4) with
    | some t => .ok (some t)
    | none => .error .badField
  else .error .badField
/-- The encoding of that tag. -/
def wrAuxTag : Option ETy → BitVec 7
  | none => 0#7
  | some t => 1#3 ++ tyCode t
/-- AUX with one modifier bit. -/
def rdAuxBit (w : W32) : Except Reject Bool :=
  if fAux w = 0#7 then .ok false else if fAux w = 1#7 then .ok true else .error .badField
/-- The encoding of one modifier bit. -/
def wrBit7 (b : Bool) : BitVec 7 := if b then 1#7 else 0#7
/-- AUX bits 1:0, the others zero (R153, R244). -/
def rdAux2 (w : W32) : Except Reject (BitVec 2) :=
  if w.extractLsb' 11 5 = 0#5 then .ok (w.extractLsb' 9 2) else .error .badField
/-- AUX bits 3:0, the others zero (R155). -/
def rdAux4 (w : W32) : Except Reject (BitVec 4) :=
  if w.extractLsb' 13 3 = 0#3 then .ok (w.extractLsb' 9 4) else .error .badField
/-- CONST's index: not negative and at most 15 (R136; NC is checked at block fetch). -/
def rdConst (w : W32) : Except Reject (BitVec 4) :=
  if w.extractLsb' 13 9 = 0#9 then .ok (w.extractLsb' 9 4) else .error .badField
/-- RDID's selector, 0 to 9 (R164). -/
def rdRdid (w : W32) : Except Reject (BitVec 4) :=
  if w.extractLsb' 13 9 = 0#9 ∧ (w.extractLsb' 9 4).toNat < 10 then .ok (w.extractLsb' 9 4) else .error .badField
/-- TRAP's and BRKT's code, IMM13 not negative (R223). -/
def rdCode (w : W32) : Except Reject (BitVec 12) :=
  if w.extractLsb' 21 1 = 0#1 then .ok (w.extractLsb' 9 12) else .error .badField
/-- BLAZE's IMM13, 0 or 1 (R223). -/
def rdBit (w : W32) : Except Reject Bool :=
  if fImm w = 0#13 then .ok false else if fImm w = 1#13 then .ok true else .error .badField
/-- A width of the form's set (R195). -/
def rdWid (ok : List Width) (w : W32) : Except Reject Width :=
  match widOf (fWd w) with
  | some d => if ok.contains d then .ok d else .error .badWidth
  | none => .error .badWidth
/-- Width W or D of the atomics and updates (R195): true for D. -/
def rdWD (w : W32) : Except Reject Bool :=
  if fWd w = 2#3 then .ok false else if fWd w = 3#3 then .ok true else .error .badWidth
/-- The encoding of that width. -/
def wrWD (d : Bool) : BitVec 3 := if d then 3#3 else 2#3
/-- A response channel 0 to 15 (R126). -/
def rdRch (w : W32) : Except Reject (BitVec 4) :=
  if w.extractLsb' 4 2 = 0#2 then .ok (w.extractLsb' 0 4) else .error .badChannel
/-- Bit 0 of the response field, the others zero. -/
def rdRspBit (w : W32) : Except Reject Bool :=
  if fRsp w = 0#6 then .ok false else if fRsp w = 1#6 then .ok true else .error .badField
/-- FENCE's scope (R209). -/
def rdScope (w : W32) : Except Reject Scope :=
  match (fRsp w).toNat with
  | 0 => .ok .tile | 1 => .ok .glade | 2 => .ok .dev | 3 => .ok .sys
  | _ => .error .badField
/-- The encoding of a scope. -/
def wrScope : Scope → BitVec 6
  | .tile => 0#6 | .glade => 1#6 | .dev => 2#6 | .sys => 3#6
/-- A class code of XFENCE (R211). -/
def clsOf (c : BitVec 3) : Option AClass :=
  match c.toNat with
  | 0 => some .fab | 1 => some .cpy | 2 => some .mtx | 3 => some .lnk | 4 => some .hst
  | _ => none
/-- The code of a class. -/
def clsCode : AClass → BitVec 3
  | .fab => 0#3 | .cpy => 1#3 | .mtx => 2#3 | .lnk => 3#3 | .hst => 4#3
/-- XFENCE's two classes (R211). -/
def rdXf (w : W32) (k : AClass → AClass → Instr) : Except Reject Instr :=
  match clsOf (w.extractLsb' 0 3), clsOf (w.extractLsb' 3 3) with
  | some s, some d => if s = d then .error .badField else .ok (k s d)
  | _, _ => .error .badField
/-- SWR and its `.eos` form (R195). -/
def rdSwr (w : W32) (k : Bool → Width → Instr) : Except Reject Instr := do
  return k (← rdRspBit w) (← rdWid sWid w)
/-- SREL and its `.frc` form (R195). -/
def rdSrel (w : W32) (k : Bool → Instr) : Except Reject Instr :=
  wid w 3 (do return k (← rdRspBit w))
/-- RDPERF's selection (R249). -/
def rdPerf (w : W32) : Except Reject PerfSel :=
  match (w.extractLsb' 14 2).toNat with
  | 0 => if w.extractLsb' 11 3 = 0#3 then do return .chan (← rdH4 w) (w.extractLsb' 9 2) else .error .badField
  | 1 => if w.extractLsb' 9 5 = 0#5 then do return .ctr (← rdH2 w) else .error .badField
  | 2 => if w.extractLsb' 9 5 = 0#5 then do return .ev (← rdH2 w) else .error .badField
  | _ => .error .badField
/-- The HND/CH field of a selection. -/
def perfHnd : PerfSel → BitVec 6
  | .chan c _ => 0#2 ++ c
  | .ctr n => 0#4 ++ n
  | .ev n => 0#4 ++ n
/-- The AUX field of a selection. -/
def perfAux : PerfSel → BitVec 7
  | .chan _ k => 0#5 ++ k
  | .ctr _ => 0b0100000#7
  | .ev _ => 0b1000000#7

/-- Opcodes 0x00 to 0x0F (R134). -/
def decode0 (lo : Nat) (pr : PR) (w : W32) : Except Reject Instr :=
  match lo with
  | 1 => z22 w (.nop pr)
  | 2 => do return .movi pr (fImm w) (← rdTgt (fTA w))
  | 3 => do return .const pr (← rdConst w) (← rdTgt (fTA w))
  | 4 => ty0 w (do return .mov pr (← rdTgt (fTB w)) (← rdTgt (fTA w)))
  | 5 => do return .get pr (fHnd w) (← rdAuxTag (fAux w)) (← rdTgt (fTA w))
  | 6 => aux0 w (ta0 w (.ok (.put pr (fHnd w))))
  | 7 => do return .getv pr (← rdH4 w) (← rdAuxTag (fAux w)) (← rdTgt (fTA w))
  | 8 => ta0 w (do return .putv pr (← rdH4 w) (← rdAuxBit w))
  | 9 => aux0 w (do return .getm pr (← rdH3 w) (← rdTgt (fTA w)))
  | 10 => aux0 w (ta0 w (do return .putm pr (← rdH3 w)))
  | 11 => do return .recv pr (← rdH4 w) (← rdAux2 w) (← rdTgt (fTA w))
  | 12 => aux0 w (ta0 w (do return .send pr (← rdH4 w)))
  | 13 => ta0 w (do return .sendc pr (← rdH4 w) (← rdAux4 w))
  | 14 => ty0 w (do return .null pr (← rdTgt (fTB w)) (← rdTgt (fTA w)))
  | 15 => do return .tst pr (cond3 (w.extractLsb' 18 3)) (w.getLsbD 21) (← rdTgt (fTB w)) (← rdTgt (fTA w))
  | _ => .error .unassigned

/-- Opcodes 0x10 to 0x1F (R134). -/
def decode1 (lo : Nat) (pr : PR) (w : W32) : Except Reject Instr :=
  match lo with
  | 0 => ty0 w (do return .sel pr (← rdTgt (fTB w)) (← rdTgt (fTA w)))
  | 1 => ta0 w (.ok (.br pr (fImm w)))
  | 2 => z22 w (.bri pr)
  | 3 => ta0 w (.ok (.call pr (fImm w)))
  | 4 => z22 w (.ret pr)
  | 5 => z22 w (.tend pr)
  | 6 => ta0 w (do return .timer pr (← rdH4 w) (← rdAuxBit w))
  | 7 => ty0 w (do return .rdcyc pr (← rdTgt (fTB w)) (← rdTgt (fTA w)))
  | 8 => do return .rdid pr (← rdRdid w) (← rdTgt (fTA w))
  | 9 => ta0 w (.ok (.pyield pr (fImm w)))
  | _ => .error .unassigned

/-- Opcodes 0x20 to 0x2F (R134). -/
def decode2 (lo : Nat) (pr : PR) (w : W32) : Except Reject Instr :=
  match lo with
  | 0 => do return .add pr (← rdSW w) (← rdTgt (fTB w)) (← rdTgt (fTA w))
  | 1 => do return .sub pr (← rdSW w) (← rdTgt (fTB w)) (← rdTgt (fTA w))
  | 2 => do return .addi pr (fImm w) (← rdTgt (fTA w))
  | 3 => do return .mul pr (← rdSW w) (← rdTgt (fTB w)) (← rdTgt (fTA w))
  | 4 => do return .mulh pr (← rdSW w) (← rdTgt (fTB w)) (← rdTgt (fTA w))
  | 5 => do return .mulhu pr (← rdSW w) (← rdTgt (fTB w)) (← rdTgt (fTA w))
  | 6 => do return .div pr (← rdSW w) (← rdTgt (fTB w)) (← rdTgt (fTA w))
  | 7 => do return .divu pr (← rdSW w) (← rdTgt (fTB w)) (← rdTgt (fTA w))
  | 8 => do return .rem pr (← rdSW w) (← rdTgt (fTB w)) (← rdTgt (fTA w))
  | 9 => do return .remu pr (← rdSW w) (← rdTgt (fTB w)) (← rdTgt (fTA w))
  | 10 => do return .madd pr (← rdSW w) (← rdTgt (fTB w)) (← rdTgt (fTA w))
  | 11 => do return .lea pr (← rdLea w) (← rdTgt (fTB w)) (← rdTgt (fTA w))
  | 12 => do return .addc pr (← rdSW w) (← rdTgt (fTB w)) (← rdTgt (fTA w))
  | 13 => do return .subb pr (← rdSW w) (← rdTgt (fTB w)) (← rdTgt (fTA w))
  | 14 => do return .neg pr (← rdSW w) (← rdTgt (fTB w)) (← rdTgt (fTA w))
  | 15 => do return .abs pr (← rdSW w) (← rdTgt (fTB w)) (← rdTgt (fTA w))
  | _ => .error .unassigned

/-- Opcodes 0x30 to 0x3F (R134). -/
def decode3 (lo : Nat) (pr : PR) (w : W32) : Except Reject Instr :=
  match lo with
  | 0 => do return .and pr (← rdSW w) (← rdTgt (fTB w)) (← rdTgt (fTA w))
  | 1 => do return .or pr (← rdSW w) (← rdTgt (fTB w)) (← rdTgt (fTA w))
  | 2 => do return .xor pr (← rdSW w) (← rdTgt (fTB w)) (← rdTgt (fTA w))
  | 3 => do return .andn pr (← rdSW w) (← rdTgt (fTB w)) (← rdTgt (fTA w))
  | 4 => do return .not pr (← rdSW w) (← rdTgt (fTB w)) (← rdTgt (fTA w))
  | 5 => do return .shl pr (← rdSW w) (← rdTgt (fTB w)) (← rdTgt (fTA w))
  | 6 => do return .shr pr (← rdSW w) (← rdTgt (fTB w)) (← rdTgt (fTA w))
  | 7 => do return .sra pr (← rdSW w) (← rdTgt (fTB w)) (← rdTgt (fTA w))
  | 8 => do return .rotl pr (← rdSW w) (← rdTgt (fTB w)) (← rdTgt (fTA w))
  | 9 => do return .rotr pr (← rdSW w) (← rdTgt (fTB w)) (← rdTgt (fTA w))
  | 10 => do return .shli pr (fImm w) (← rdTgt (fTA w))
  | 11 => do return .shri pr (fImm w) (← rdTgt (fTA w))
  | 12 => do return .srai pr (fImm w) (← rdTgt (fTA w))
  | 13 => do return .andi pr (fImm w) (← rdTgt (fTA w))
  | 14 => do return .ori pr (fImm w) (← rdTgt (fTA w))
  | 15 => do return .xori pr (fImm w) (← rdTgt (fTA w))
  | _ => .error .unassigned

/-- Opcodes 0x40 to 0x4F (R134). -/
def decode4 (lo : Nat) (pr : PR) (w : W32) : Except Reject Instr :=
  match lo with
  | 0 => do return .clz pr (← rdSW w) (← rdTgt (fTB w)) (← rdTgt (fTA w))
  | 1 => do return .ctz pr (← rdSW w) (← rdTgt (fTB w)) (← rdTgt (fTA w))
  | 2 => do return .popc pr (← rdSW w) (← rdTgt (fTB w)) (← rdTgt (fTA w))
  | 3 => do return .brev pr (← rdSW w) (← rdTgt (fTB w)) (← rdTgt (fTA w))
  | 4 => do return .bswap pr (← rdSW w) (← rdTgt (fTB w)) (← rdTgt (fTA w))
  | 5 => do return .bfx pr (← rdBfx w) (← rdTgt (fTB w)) (← rdTgt (fTA w))
  | 6 => ty0 w (do return .bfi pr (← rdTgt (fTB w)) (← rdTgt (fTA w)))
  | 7 => do return .min pr (← rdSW w) (← rdTgt (fTB w)) (← rdTgt (fTA w))
  | 8 => do return .max pr (← rdSW w) (← rdTgt (fTB w)) (← rdTgt (fTA w))
  | 9 => do return .minu pr (← rdSW w) (← rdTgt (fTB w)) (← rdTgt (fTA w))
  | 10 => do return .maxu pr (← rdSW w) (← rdTgt (fTB w)) (← rdTgt (fTA w))
  | 11 => do return .exts pr (← rdXW w) (← rdTgt (fTB w)) (← rdTgt (fTA w))
  | 12 => do return .extz pr (← rdXW w) (← rdTgt (fTB w)) (← rdTgt (fTA w))
  | _ => .error .unassigned

/-- Opcodes 0x60 to 0x6F (R134). -/
def decode6 (lo : Nat) (pr : PR) (w : W32) : Except Reject Instr :=
  match lo with
  | 0 => do return .vadd pr (← rdTy numTy w) (← rdTgt (fTB w)) (← rdTgt (fTA w))
  | 1 => do return .vsub pr (← rdTy numTy w) (← rdTgt (fTB w)) (← rdTgt (fTA w))
  | 2 => do return .vmul pr (← rdTy numTy w) (← rdTgt (fTB w)) (← rdTgt (fTA w))
  | 3 => do return .vfma pr (← rdTy numTy w) (← rdTgt (fTB w)) (← rdTgt (fTA w))
  | 4 => do return .vfms pr (← rdTy numTy w) (← rdTgt (fTB w)) (← rdTgt (fTA w))
  | 5 => do return .vmin pr (← rdTy numTy w) (← rdTgt (fTB w)) (← rdTgt (fTA w))
  | 6 => do return .vmax pr (← rdTy numTy w) (← rdTgt (fTB w)) (← rdTgt (fTA w))
  | 7 => do return .vabs pr (← rdTy numTy w) (← rdTgt (fTB w)) (← rdTgt (fTA w))
  | 8 => do return .vneg pr (← rdTy numTy w) (← rdTgt (fTB w)) (← rdTgt (fTA w))
  | 9 => do return .vdiv pr (← rdTy numTy w) (← rdTgt (fTB w)) (← rdTgt (fTA w))
  | 10 => do return .vsqrt pr (← rdTy fltTy w) (← rdTgt (fTB w)) (← rdTgt (fTA w))
  | 11 => do return .vrcp pr (← rdTy fltTy w) (← rdTgt (fTB w)) (← rdTgt (fTA w))
  | 12 => do return .vrsq pr (← rdTy fltTy w) (← rdTgt (fTB w)) (← rdTgt (fTA w))
  | 13 => do return .vexp2 pr (← rdTy fltTy w) (← rdTgt (fTB w)) (← rdTgt (fTA w))
  | 14 => do return .vlog2 pr (← rdTy fltTy w) (← rdTgt (fTB w)) (← rdTgt (fTA w))
  | 15 => do return .vsin pr (← rdTy fltTy w) (← rdTgt (fTB w)) (← rdTgt (fTA w))
  | _ => .error .unassigned

/-- Opcodes 0x70 to 0x7F (R134). -/
def decode7 (lo : Nat) (pr : PR) (w : W32) : Except Reject Instr :=
  match lo with
  | 0 => do return .vcos pr (← rdTy fltTy w) (← rdTgt (fTB w)) (← rdTgt (fTA w))
  | 1 => do return .vtanh pr (← rdTy fltTy w) (← rdTgt (fTB w)) (← rdTgt (fTA w))
  | 2 => do return .vsigm pr (← rdTy fltTy w) (← rdTgt (fTB w)) (← rdTgt (fTA w))
  | 3 => do return .vmulh pr (← rdTy intTy w) (← rdTgt (fTB w)) (← rdTgt (fTA w))
  | 4 => do return .vand pr (← rdTy intTy w) (← rdTgt (fTB w)) (← rdTgt (fTA w))
  | 5 => do return .vor pr (← rdTy intTy w) (← rdTgt (fTB w)) (← rdTgt (fTA w))
  | 6 => do return .vxor pr (← rdTy intTy w) (← rdTgt (fTB w)) (← rdTgt (fTA w))
  | 7 => do return .vshl pr (← rdTy intTy w) (← rdTgt (fTB w)) (← rdTgt (fTA w))
  | 8 => do return .vshr pr (← rdTy intTy w) (← rdTgt (fTB w)) (← rdTgt (fTA w))
  | 9 => do return .vsra pr (← rdTy intTy w) (← rdTgt (fTB w)) (← rdTgt (fTA w))
  | 10 => do return .vclz pr (← rdTy intTy w) (← rdTgt (fTB w)) (← rdTgt (fTA w))
  | 11 => do return .vpopc pr (← rdTy intTy w) (← rdTgt (fTB w)) (← rdTgt (fTA w))
  | 12 => do return .vceq pr (← rdTy numTy w) (← rdTgt (fTB w)) (← rdTgt (fTA w))
  | 13 => do return .vcne pr (← rdTy numTy w) (← rdTgt (fTB w)) (← rdTgt (fTA w))
  | 14 => do return .vclt pr (← rdTy numTy w) (← rdTgt (fTB w)) (← rdTgt (fTA w))
  | 15 => do return .vcle pr (← rdTy numTy w) (← rdTgt (fTB w)) (← rdTgt (fTA w))
  | _ => .error .unassigned

/-- Opcodes 0x80 to 0x8F (R134). -/
def decode8 (lo : Nat) (pr : PR) (w : W32) : Except Reject Instr :=
  match lo with
  | 0 => do return .vsel pr (← rdTy allTy w) (← rdTgt (fTB w)) (← rdTgt (fTA w))
  | 1 => do return .vbcast pr (← rdTy allTy w) (← rdTgt (fTB w)) (← rdTgt (fTA w))
  | 2 => do return .vext pr (← rdTy allTy w) (← rdTgt (fTB w)) (← rdTgt (fTA w))
  | 3 => do return .vins pr (← rdTy allTy w) (← rdTgt (fTB w)) (← rdTgt (fTA w))
  | 4 => do return .vshuf pr (← rdTy allTy w) (← rdTgt (fTB w)) (← rdTgt (fTA w))
  | 5 => do return .vrot pr (← rdTy allTy w) (← rdTgt (fTB w)) (← rdTgt (fTA w))
  | 6 => do return .vrsum pr (← rdTy numTy w) (← rdTgt (fTB w)) (← rdTgt (fTA w))
  | 7 => do return .vrmin pr (← rdTy numTy w) (← rdTgt (fTB w)) (← rdTgt (fTA w))
  | 8 => do return .vrmax pr (← rdTy numTy w) (← rdTgt (fTB w)) (← rdTgt (fTA w))
  | 9 => do return .vscan pr (← rdTy numTy w) (← rdTgt (fTB w)) (← rdTgt (fTA w))
  | 10 => do return .vcvt pr (← rdTy allTy w) (← rdTgt (fTB w)) (← rdTgt (fTA w))
  | 11 => ty0 w (do return .mand pr (← rdTgt (fTB w)) (← rdTgt (fTA w)))
  | 12 => ty0 w (do return .mor pr (← rdTgt (fTB w)) (← rdTgt (fTA w)))
  | 13 => ty0 w (do return .mnot pr (← rdTgt (fTB w)) (← rdTgt (fTA w)))
  | 14 => ty0 w (do return .mpopc pr (← rdTgt (fTB w)) (← rdTgt (fTA w)))
  | 15 => do return .vfilt pr (← rdTy allTy w) (← rdTgt (fTB w)) (← rdTgt (fTA w))
  | _ => .error .unassigned

/-- Opcodes 0x90 to 0x9F (R134). -/
def decode9 (lo : Nat) (pr : PR) (w : W32) : Except Reject Instr :=
  match lo with
  | 0 => do return .vexpd pr (← rdTy allTy w) (← rdTgt (fTB w)) (← rdTgt (fTA w))
  | 1 => do return .viota pr (← rdTy intTy w) (← rdTgt (fTB w)) (← rdTgt (fTA w))
  | 2 => do return .vclamp pr (← rdTy numTy w) (← rdTgt (fTB w)) (← rdTgt (fTA w))
  | _ => .error .unassigned

/-- Opcodes 0xA0 to 0xAF (R134). -/
def decodeA (lo : Nat) (pr : PR) (w : W32) : Except Reject Instr :=
  match lo with
  | 0 => do return .vmrg pr (← rdTy intTy w) (← rdTgt (fTB w)) (← rdTgt (fTA w))
  | 1 => do return .visx pr (← rdTy intTy w) (← rdTgt (fTB w)) (← rdTgt (fTA w))
  | 2 => do return .vdedup pr (← rdTy intTy w) (← rdTgt (fTB w)) (← rdTgt (fTA w))
  | 3 => tab0 w (do return .sacc pr (← rdTy saccTy w))
  | 4 => ty0 w (do return .saccf pr (← rdTgt (fTB w)) (← rdTgt (fTA w)))
  | 5 => z22 w (.saccz pr)
  | 6 => tyIs w 7 (do return .rngx pr (← rdTgt (fTB w)) (← rdTgt (fTA w)))
  | _ => .error .unassigned

/-- Opcodes 0xB0 to 0xBF (R134). -/
def decodeB (lo : Nat) (pr : PR) (w : W32) : Except Reject Instr :=
  match lo with
  | 0 => do return .ldl pr (rdLink w) (← rdWid allWid w) (fRsp w)
  | 1 => rsp0 w (do return .stl pr (rdLink w) (← rdWid allWid w))
  | 2 => do return .ldn pr (rdLink w) (← rdWid allWid w) (fRsp w)
  | 3 => rsp0 w (do return .stn pr (rdLink w) (← rdWid allWid w))
  | 4 => do return .ld pr (rdLink w) (← rdWid allWid w) (← rdRch w)
  | 5 => rsp0 w (do return .st pr (rdLink w) (← rdWid allWid w))
  | 6 => do return .ldw pr (rdLink w) (← rdWid allWid w) (← rdRch w)
  | 7 => do return .ldc pr (rdLink w) (← rdWid allWid w) (← rdRch w)
  | 8 => rsp0 w (do return .stf pr (rdLink w) (← rdWid fWid w))
  | 9 => rsp0 w (do return .sts pr (rdLink w) (← rdWid allWid w))
  | 10 => rsp0 w (do return .fempty pr (rdLink w) (← rdWid allWid w))
  | 11 => do return .feq pr (rdLink w) (← rdWid allWid w) (← rdRch w)
  | 12 => do return .aadd pr (rdLink w) (← rdWD w) (← rdRch w)
  | 13 => do return .aand pr (rdLink w) (← rdWD w) (← rdRch w)
  | 14 => do return .aor pr (rdLink w) (← rdWD w) (← rdRch w)
  | 15 => do return .axor pr (rdLink w) (← rdWD w) (← rdRch w)
  | _ => .error .unassigned

/-- Opcodes 0xC0 to 0xCF (R134). -/
def decodeC (lo : Nat) (pr : PR) (w : W32) : Except Reject Instr :=
  match lo with
  | 0 => do return .amin pr (rdLink w) (← rdWD w) (← rdRch w)
  | 1 => do return .amax pr (rdLink w) (← rdWD w) (← rdRch w)
  | 2 => do return .aswap pr (rdLink w) (← rdWD w) (← rdRch w)
  | 3 => do return .cas pr (rdLink w) (← rdWD w) (← rdRch w)
  | 4 => rsp0 w (do return .uadd pr (rdLink w) (← rdWD w))
  | 5 => rsp0 w (do return .uand pr (rdLink w) (← rdWD w))
  | 6 => rsp0 w (do return .uor pr (rdLink w) (← rdWD w))
  | 7 => rsp0 w (do return .uxor pr (rdLink w) (← rdWD w))
  | 8 => rsp0 w (do return .umin pr (rdLink w) (← rdWD w))
  | 9 => rsp0 w (do return .umax pr (rdLink w) (← rdWD w))
  | 10 => wid w 2 (rspIs w 0 (.ok (.ufadd pr (rdLink w))))
  | 11 => do return .srd pr (rdLink w) (← rdWid sWid w) (← rdRch w)
  | 12 => rdSwr w (fun eos wd => if eos then .swrEos pr (rdLink w) wd else .swr pr (rdLink w) wd)
  | 13 => rdSrel w (fun frc => if frc then .srelFrc pr (rdLink w) else .srel pr (rdLink w))
  | 14 => wid w 3 (rspIs w 0 (.ok (.srew pr (rdLink w))))
  | 15 => wid w 3 (do return .spos pr (rdLink w) (← rdRch w))
  | _ => .error .unassigned

/-- Opcodes 0xD0 to 0xDF (R134). -/
def decodeD (lo : Nat) (pr : PR) (w : W32) : Except Reject Instr :=
  match lo with
  | 0 => wid w 0 (do return .fence pr (rdLink w) (← rdScope w))
  | 1 => wid w 0 (rspIs w 0 (.ok (.sbar pr (rdLink w))))
  | 2 => wid w 0 (rdXf w (fun s d => .xfence pr (rdLink w) s d))
  | 3 => wid w 3 (rspIs w 0 (.ok (.barinit pr (rdLink w))))
  | 4 => wid w 3 (rspIs w 0 (.ok (.bararv pr (rdLink w))))
  | 5 => wid w 3 (rspIs w 0 (.ok (.barexp pr (rdLink w))))
  | 6 => wid w 3 (do return .barwt pr (rdLink w) (← rdRch w))
  | 7 => wid w 3 (do return .copy pr (rdLink w) (← rdRch w))
  | 8 => wid w 5 (do return .pref pr (rdLink w) (← rdRspBit w))
  | 9 => wid w 5 (rspIs w 0 (.ok (.wback pr (rdLink w))))
  | 10 => wid w 0 (rspIs w 0 (.ok (.setbud pr (rdLink w))))
  | _ => .error .unassigned

/-- Opcodes 0xE0 to 0xEF (R134). -/
def decodeE (lo : Nat) (pr : PR) (w : W32) : Except Reject Instr :=
  match lo with
  | 0 => wid w 0 (rspIs w 0 (.ok (.mmpost pr (rdLink w))))
  | 1 => do return .vamax pr (← rdTy fltTy w) (← rdTgt (fTB w)) (← rdTgt (fTA w))
  | 2 => do return .vqnt pr (← rdTy fltTy w) (← rdTgt (fTB w)) (← rdTgt (fTA w))
  | 3 => tyIs w 10 (do return .vdqnt pr (← rdTgt (fTB w)) (← rdTgt (fTA w)))
  | 4 => do return .vcbq pr (← rdTy fltTy w) (← rdTgt (fTB w)) (← rdTgt (fTA w))
  | 5 => z22 w (.cbset pr)
  | _ => .error .unassigned

/-- Opcodes 0xF0 to 0xFF (R134). -/
def decodeF (lo : Nat) (pr : PR) (w : W32) : Except Reject Instr :=
  match lo with
  | 0 => ta0 w (do return .trap pr (← rdCode w))
  | 1 => do return .fread pr (← rdH4 w) (← rdAux2 w) (← rdTgt (fTA w))
  | 2 => z22 w (.repair pr)
  | 3 => ta0 w (do return .blaze pr (← rdBit w))
  | 4 => ta0 w (do return .brkt pr (← rdCode w))
  | 5 => ta0 w (do return .svc pr (← rdH4 w) (fAux w))
  | 6 => do return .rdperf pr (← rdPerf w) (← rdTgt (fTA w))
  | 7 => ta0 w (do return .wrperf pr (← rdH2 w) (← rdAuxBit w))
  | 8 => z22 w (.hresume pr)
  | 9 => z22 w (.habort pr)
  | _ => .error .unassigned

/-- The instruction of an opcode, given as its two hexadecimal digits (R134, R135). -/
def decodeOp (hi lo : Nat) (pr : PR) (w : W32) : Except Reject Instr :=
  match hi with
  | 0 => decode0 lo pr w
  | 1 => decode1 lo pr w
  | 2 => decode2 lo pr w
  | 3 => decode3 lo pr w
  | 4 => decode4 lo pr w
  | 6 => decode6 lo pr w
  | 7 => decode7 lo pr w
  | 8 => decode8 lo pr w
  | 9 => decode9 lo pr w
  | 10 => decodeA lo pr w
  | 11 => decodeB lo pr w
  | 12 => decodeC lo pr w
  | 13 => decodeD lo pr w
  | 14 => decodeE lo pr w
  | 15 => decodeF lo pr w
  | _ => .error .unassigned

/-- A tile instruction word (R124, R134, R135). -/
def decodeTile (w : W32) : Except Reject Instr := do
  let pr ← rdPR (w.extractLsb' 22 2)
  decodeOp (w.extractLsb' 28 4).toNat (w.extractLsb' 24 4).toNat pr w

/-- A border-core word: RISC-V custom-0 in the R-type layout with funct7 zero (R251, R252). The five commands of JCMD
share one word; the value in rs2 names the command (R256), so the word decodes to the first of the five rows. -/
def decodeBorder (w : W32) : Except Reject Instr :=
  if w.extractLsb' 0 7 = 0b0001011#7 then
    if w.extractLsb' 25 7 = 0#7 then
      let rd := w.extractLsb' 7 5
      let rs1 := w.extractLsb' 15 5
      let rs2 := w.extractLsb' 20 5
      match (w.extractLsb' 12 3).toNat with
      | 0 => .ok (.jlaunch rd rs1 rs2)
      | 1 => .ok (.jfence rd rs1 rs2)
      | 2 => .ok (.jquery rd rs1 rs2)
      | 3 => .ok (.jinvr rd rs1 rs2)
      | 4 => .ok (.jcmdKill rd rs1 rs2)
      | 5 => .ok (.jwaitw rd rs1 rs2)
      | 6 => .ok (.jctxsave rd rs1 rs2)
      | _ => .ok (.jctxload rd rs1 rs2)
    else .error .badField
  else .error .unassigned

/-- A little-endian word of four bytes (R3). -/
def wordOfBytes (b0 b1 b2 b3 : Byte) : W32 := b3 ++ b2 ++ b1 ++ b0

/-- The decoder of the tiles on bytes: the instruction of the first four bytes and the bytes after it. -/
def decodeTileBytes : List Byte → Except Reject (Instr × List Byte)
  | b0 :: b1 :: b2 :: b3 :: rest => (decodeTile (wordOfBytes b0 b1 b2 b3)).map (·, rest)
  | _ => .error .short

/-- The decoder of the border cores on bytes. -/
def decodeBorderBytes : List Byte → Except Reject (Instr × List Byte)
  | b0 :: b1 :: b2 :: b3 :: rest => (decodeBorder (wordOfBytes b0 b1 b2 b3)).map (·, rest)
  | _ => .error .short

/-- The bytes of a 32-bit word, lowest address first (R3). -/
def bytesOfWord (w : W32) : List Byte :=
  [w.extractLsb' 0 8, w.extractLsb' 8 8, w.extractLsb' 16 8, w.extractLsb' 24 8]

/-- Whether the word `w` of `nbits` bits is a border-core word of R251. No tile word of R134 has these low bits with
bits 31:25 zero, because opcode 0x01 (NOP) holds zero in bits 21:0 and 0x00 is unassigned. -/
def isBorderWord (w : W32) : Bool := w.extractLsb' 0 7 = 0b0001011#7 && w.extractLsb' 25 7 = 0#7

/-- The instruction the decoder reads from a table word: a row has one 32-bit word, laid out in memory order. -/
def decodeTableWord (nbits w : Nat) : Option Instr :=
  if nbits ≤ 32 then
    let bs := bytesOfWord (BitVec.ofNat 32 w)
    if isBorderWord (BitVec.ofNat 32 w) then
      match decodeBorderBytes bs with
      | .ok (i, []) => some i
      | _ => none
    else
      match decodeTileBytes bs with
      | .ok (i, []) => some i
      | _ => none
  else none

/-! ### The encoder -/

/-- Format G2 (R124). -/
def packG2 (op : BitVec 8) (pr : BitVec 2) (ty : BitVec 4) (tb ta : BitVec 9) : W32 := op ++ pr ++ ty ++ tb ++ ta
/-- Format GI (R124). -/
def packGI (op : BitVec 8) (pr : BitVec 2) (imm : BitVec 13) (ta : BitVec 9) : W32 := op ++ pr ++ imm ++ ta
/-- Format M (R124, R126). -/
def packM (op : BitVec 8) (pr : BitVec 2) (seq : BitVec 5) (pdl sdl : BitVec 4) (wd : BitVec 3) (rsp : BitVec 6) :
    W32 := op ++ pr ++ seq ++ pdl ++ sdl ++ wd ++ rsp
/-- Format C (R124). -/
def packC (op : BitVec 8) (pr : BitVec 2) (hnd : BitVec 6) (aux : BitVec 7) (ta : BitVec 9) : W32 :=
  op ++ pr ++ hnd ++ aux ++ ta
/-- The R-type layout of R251. -/
def packJ (rs2 rs1 : BitVec 5) (f3 : BitVec 3) (rd : BitVec 5) : W32 :=
  0#7 ++ rs2 ++ rs1 ++ f3 ++ rd ++ 0b0001011#7

/-- The word of an instruction. A step that has no word encodes as 0, which is no instruction (R135). -/
def encode : Instr → W32
  | .nop pr => packG2 0x01 (wrPR pr) 0#4 0#9 0#9
  | .movi pr imm ta => packGI 0x02 (wrPR pr) imm (wrTgt ta)
  | .const pr k ta => packGI 0x03 (wrPR pr) (0#9 ++ k) (wrTgt ta)
  | .mov pr tb ta => packG2 0x04 (wrPR pr) 0#4 (wrTgt tb) (wrTgt ta)
  | .get pr h tag ta => packC 0x05 (wrPR pr) h (wrAuxTag tag) (wrTgt ta)
  | .put pr h => packC 0x06 (wrPR pr) h 0#7 0#9
  | .getv pr h tag ta => packC 0x07 (wrPR pr) (0#2 ++ h) (wrAuxTag tag) (wrTgt ta)
  | .putv pr h m => packC 0x08 (wrPR pr) (0#2 ++ h) (wrBit7 m) 0#9
  | .getm pr h ta => packC 0x09 (wrPR pr) (0#3 ++ h) 0#7 (wrTgt ta)
  | .putm pr h => packC 0x0A (wrPR pr) (0#3 ++ h) 0#7 0#9
  | .recv pr c n ta => packC 0x0B (wrPR pr) (0#2 ++ c) (0#5 ++ n) (wrTgt ta)
  | .send pr c => packC 0x0C (wrPR pr) (0#2 ++ c) 0#7 0#9
  | .sendc pr c k => packC 0x0D (wrPR pr) (0#2 ++ c) (0#3 ++ k) 0#9
  | .null pr tb ta => packG2 0x0E (wrPR pr) 0#4 (wrTgt tb) (wrTgt ta)
  | .tst pr cond w32 tb ta => packG2 0x0F (wrPR pr) (wrTst cond w32) (wrTgt tb) (wrTgt ta)
  | .sel pr tb ta => packG2 0x10 (wrPR pr) 0#4 (wrTgt tb) (wrTgt ta)
  | .br pr imm => packGI 0x11 (wrPR pr) imm 0#9
  | .bri pr => packG2 0x12 (wrPR pr) 0#4 0#9 0#9
  | .call pr imm => packGI 0x13 (wrPR pr) imm 0#9
  | .ret pr => packG2 0x14 (wrPR pr) 0#4 0#9 0#9
  | .tend pr => packG2 0x15 (wrPR pr) 0#4 0#9 0#9
  | .timer pr c rel => packC 0x16 (wrPR pr) (0#2 ++ c) (wrBit7 rel) 0#9
  | .rdcyc pr tb ta => packG2 0x17 (wrPR pr) 0#4 (wrTgt tb) (wrTgt ta)
  | .rdid pr k ta => packGI 0x18 (wrPR pr) (0#9 ++ k) (wrTgt ta)
  | .pyield pr imm => packGI 0x19 (wrPR pr) imm 0#9
  | .add pr sw tb ta => packG2 0x20 (wrPR pr) (wrSW sw) (wrTgt tb) (wrTgt ta)
  | .sub pr sw tb ta => packG2 0x21 (wrPR pr) (wrSW sw) (wrTgt tb) (wrTgt ta)
  | .addi pr imm ta => packGI 0x22 (wrPR pr) imm (wrTgt ta)
  | .mul pr sw tb ta => packG2 0x23 (wrPR pr) (wrSW sw) (wrTgt tb) (wrTgt ta)
  | .mulh pr sw tb ta => packG2 0x24 (wrPR pr) (wrSW sw) (wrTgt tb) (wrTgt ta)
  | .mulhu pr sw tb ta => packG2 0x25 (wrPR pr) (wrSW sw) (wrTgt tb) (wrTgt ta)
  | .div pr sw tb ta => packG2 0x26 (wrPR pr) (wrSW sw) (wrTgt tb) (wrTgt ta)
  | .divu pr sw tb ta => packG2 0x27 (wrPR pr) (wrSW sw) (wrTgt tb) (wrTgt ta)
  | .rem pr sw tb ta => packG2 0x28 (wrPR pr) (wrSW sw) (wrTgt tb) (wrTgt ta)
  | .remu pr sw tb ta => packG2 0x29 (wrPR pr) (wrSW sw) (wrTgt tb) (wrTgt ta)
  | .madd pr sw tb ta => packG2 0x2A (wrPR pr) (wrSW sw) (wrTgt tb) (wrTgt ta)
  | .lea pr s tb ta => packG2 0x2B (wrPR pr) (0#2 ++ s) (wrTgt tb) (wrTgt ta)
  | .addc pr sw tb ta => packG2 0x2C (wrPR pr) (wrSW sw) (wrTgt tb) (wrTgt ta)
  | .subb pr sw tb ta => packG2 0x2D (wrPR pr) (wrSW sw) (wrTgt tb) (wrTgt ta)
  | .neg pr sw tb ta => packG2 0x2E (wrPR pr) (wrSW sw) (wrTgt tb) (wrTgt ta)
  | .abs pr sw tb ta => packG2 0x2F (wrPR pr) (wrSW sw) (wrTgt tb) (wrTgt ta)
  | .and pr sw tb ta => packG2 0x30 (wrPR pr) (wrSW sw) (wrTgt tb) (wrTgt ta)
  | .or pr sw tb ta => packG2 0x31 (wrPR pr) (wrSW sw) (wrTgt tb) (wrTgt ta)
  | .xor pr sw tb ta => packG2 0x32 (wrPR pr) (wrSW sw) (wrTgt tb) (wrTgt ta)
  | .andn pr sw tb ta => packG2 0x33 (wrPR pr) (wrSW sw) (wrTgt tb) (wrTgt ta)
  | .not pr sw tb ta => packG2 0x34 (wrPR pr) (wrSW sw) (wrTgt tb) (wrTgt ta)
  | .shl pr sw tb ta => packG2 0x35 (wrPR pr) (wrSW sw) (wrTgt tb) (wrTgt ta)
  | .shr pr sw tb ta => packG2 0x36 (wrPR pr) (wrSW sw) (wrTgt tb) (wrTgt ta)
  | .sra pr sw tb ta => packG2 0x37 (wrPR pr) (wrSW sw) (wrTgt tb) (wrTgt ta)
  | .rotl pr sw tb ta => packG2 0x38 (wrPR pr) (wrSW sw) (wrTgt tb) (wrTgt ta)
  | .rotr pr sw tb ta => packG2 0x39 (wrPR pr) (wrSW sw) (wrTgt tb) (wrTgt ta)
  | .shli pr imm ta => packGI 0x3A (wrPR pr) imm (wrTgt ta)
  | .shri pr imm ta => packGI 0x3B (wrPR pr) imm (wrTgt ta)
  | .srai pr imm ta => packGI 0x3C (wrPR pr) imm (wrTgt ta)
  | .andi pr imm ta => packGI 0x3D (wrPR pr) imm (wrTgt ta)
  | .ori pr imm ta => packGI 0x3E (wrPR pr) imm (wrTgt ta)
  | .xori pr imm ta => packGI 0x3F (wrPR pr) imm (wrTgt ta)
  | .clz pr sw tb ta => packG2 0x40 (wrPR pr) (wrSW sw) (wrTgt tb) (wrTgt ta)
  | .ctz pr sw tb ta => packG2 0x41 (wrPR pr) (wrSW sw) (wrTgt tb) (wrTgt ta)
  | .popc pr sw tb ta => packG2 0x42 (wrPR pr) (wrSW sw) (wrTgt tb) (wrTgt ta)
  | .brev pr sw tb ta => packG2 0x43 (wrPR pr) (wrSW sw) (wrTgt tb) (wrTgt ta)
  | .bswap pr sw tb ta => packG2 0x44 (wrPR pr) (wrSW sw) (wrTgt tb) (wrTgt ta)
  | .bfx pr sx tb ta => packG2 0x45 (wrPR pr) (if sx then 1#4 else 0#4) (wrTgt tb) (wrTgt ta)
  | .bfi pr tb ta => packG2 0x46 (wrPR pr) 0#4 (wrTgt tb) (wrTgt ta)
  | .min pr sw tb ta => packG2 0x47 (wrPR pr) (wrSW sw) (wrTgt tb) (wrTgt ta)
  | .max pr sw tb ta => packG2 0x48 (wrPR pr) (wrSW sw) (wrTgt tb) (wrTgt ta)
  | .minu pr sw tb ta => packG2 0x49 (wrPR pr) (wrSW sw) (wrTgt tb) (wrTgt ta)
  | .maxu pr sw tb ta => packG2 0x4A (wrPR pr) (wrSW sw) (wrTgt tb) (wrTgt ta)
  | .exts pr x tb ta => packG2 0x4B (wrPR pr) (wrXW x) (wrTgt tb) (wrTgt ta)
  | .extz pr x tb ta => packG2 0x4C (wrPR pr) (wrXW x) (wrTgt tb) (wrTgt ta)
  | .vadd pr ty tb ta => packG2 0x60 (wrPR pr) (tyCode ty) (wrTgt tb) (wrTgt ta)
  | .vsub pr ty tb ta => packG2 0x61 (wrPR pr) (tyCode ty) (wrTgt tb) (wrTgt ta)
  | .vmul pr ty tb ta => packG2 0x62 (wrPR pr) (tyCode ty) (wrTgt tb) (wrTgt ta)
  | .vfma pr ty tb ta => packG2 0x63 (wrPR pr) (tyCode ty) (wrTgt tb) (wrTgt ta)
  | .vfms pr ty tb ta => packG2 0x64 (wrPR pr) (tyCode ty) (wrTgt tb) (wrTgt ta)
  | .vmin pr ty tb ta => packG2 0x65 (wrPR pr) (tyCode ty) (wrTgt tb) (wrTgt ta)
  | .vmax pr ty tb ta => packG2 0x66 (wrPR pr) (tyCode ty) (wrTgt tb) (wrTgt ta)
  | .vabs pr ty tb ta => packG2 0x67 (wrPR pr) (tyCode ty) (wrTgt tb) (wrTgt ta)
  | .vneg pr ty tb ta => packG2 0x68 (wrPR pr) (tyCode ty) (wrTgt tb) (wrTgt ta)
  | .vdiv pr ty tb ta => packG2 0x69 (wrPR pr) (tyCode ty) (wrTgt tb) (wrTgt ta)
  | .vsqrt pr ty tb ta => packG2 0x6A (wrPR pr) (tyCode ty) (wrTgt tb) (wrTgt ta)
  | .vrcp pr ty tb ta => packG2 0x6B (wrPR pr) (tyCode ty) (wrTgt tb) (wrTgt ta)
  | .vrsq pr ty tb ta => packG2 0x6C (wrPR pr) (tyCode ty) (wrTgt tb) (wrTgt ta)
  | .vexp2 pr ty tb ta => packG2 0x6D (wrPR pr) (tyCode ty) (wrTgt tb) (wrTgt ta)
  | .vlog2 pr ty tb ta => packG2 0x6E (wrPR pr) (tyCode ty) (wrTgt tb) (wrTgt ta)
  | .vsin pr ty tb ta => packG2 0x6F (wrPR pr) (tyCode ty) (wrTgt tb) (wrTgt ta)
  | .vcos pr ty tb ta => packG2 0x70 (wrPR pr) (tyCode ty) (wrTgt tb) (wrTgt ta)
  | .vtanh pr ty tb ta => packG2 0x71 (wrPR pr) (tyCode ty) (wrTgt tb) (wrTgt ta)
  | .vsigm pr ty tb ta => packG2 0x72 (wrPR pr) (tyCode ty) (wrTgt tb) (wrTgt ta)
  | .vmulh pr ty tb ta => packG2 0x73 (wrPR pr) (tyCode ty) (wrTgt tb) (wrTgt ta)
  | .vand pr ty tb ta => packG2 0x74 (wrPR pr) (tyCode ty) (wrTgt tb) (wrTgt ta)
  | .vor pr ty tb ta => packG2 0x75 (wrPR pr) (tyCode ty) (wrTgt tb) (wrTgt ta)
  | .vxor pr ty tb ta => packG2 0x76 (wrPR pr) (tyCode ty) (wrTgt tb) (wrTgt ta)
  | .vshl pr ty tb ta => packG2 0x77 (wrPR pr) (tyCode ty) (wrTgt tb) (wrTgt ta)
  | .vshr pr ty tb ta => packG2 0x78 (wrPR pr) (tyCode ty) (wrTgt tb) (wrTgt ta)
  | .vsra pr ty tb ta => packG2 0x79 (wrPR pr) (tyCode ty) (wrTgt tb) (wrTgt ta)
  | .vclz pr ty tb ta => packG2 0x7A (wrPR pr) (tyCode ty) (wrTgt tb) (wrTgt ta)
  | .vpopc pr ty tb ta => packG2 0x7B (wrPR pr) (tyCode ty) (wrTgt tb) (wrTgt ta)
  | .vceq pr ty tb ta => packG2 0x7C (wrPR pr) (tyCode ty) (wrTgt tb) (wrTgt ta)
  | .vcne pr ty tb ta => packG2 0x7D (wrPR pr) (tyCode ty) (wrTgt tb) (wrTgt ta)
  | .vclt pr ty tb ta => packG2 0x7E (wrPR pr) (tyCode ty) (wrTgt tb) (wrTgt ta)
  | .vcle pr ty tb ta => packG2 0x7F (wrPR pr) (tyCode ty) (wrTgt tb) (wrTgt ta)
  | .vsel pr ty tb ta => packG2 0x80 (wrPR pr) (tyCode ty) (wrTgt tb) (wrTgt ta)
  | .vbcast pr ty tb ta => packG2 0x81 (wrPR pr) (tyCode ty) (wrTgt tb) (wrTgt ta)
  | .vext pr ty tb ta => packG2 0x82 (wrPR pr) (tyCode ty) (wrTgt tb) (wrTgt ta)
  | .vins pr ty tb ta => packG2 0x83 (wrPR pr) (tyCode ty) (wrTgt tb) (wrTgt ta)
  | .vshuf pr ty tb ta => packG2 0x84 (wrPR pr) (tyCode ty) (wrTgt tb) (wrTgt ta)
  | .vrot pr ty tb ta => packG2 0x85 (wrPR pr) (tyCode ty) (wrTgt tb) (wrTgt ta)
  | .vrsum pr ty tb ta => packG2 0x86 (wrPR pr) (tyCode ty) (wrTgt tb) (wrTgt ta)
  | .vrmin pr ty tb ta => packG2 0x87 (wrPR pr) (tyCode ty) (wrTgt tb) (wrTgt ta)
  | .vrmax pr ty tb ta => packG2 0x88 (wrPR pr) (tyCode ty) (wrTgt tb) (wrTgt ta)
  | .vscan pr ty tb ta => packG2 0x89 (wrPR pr) (tyCode ty) (wrTgt tb) (wrTgt ta)
  | .vcvt pr ty tb ta => packG2 0x8A (wrPR pr) (tyCode ty) (wrTgt tb) (wrTgt ta)
  | .mand pr tb ta => packG2 0x8B (wrPR pr) 0#4 (wrTgt tb) (wrTgt ta)
  | .mor pr tb ta => packG2 0x8C (wrPR pr) 0#4 (wrTgt tb) (wrTgt ta)
  | .mnot pr tb ta => packG2 0x8D (wrPR pr) 0#4 (wrTgt tb) (wrTgt ta)
  | .mpopc pr tb ta => packG2 0x8E (wrPR pr) 0#4 (wrTgt tb) (wrTgt ta)
  | .vfilt pr ty tb ta => packG2 0x8F (wrPR pr) (tyCode ty) (wrTgt tb) (wrTgt ta)
  | .vexpd pr ty tb ta => packG2 0x90 (wrPR pr) (tyCode ty) (wrTgt tb) (wrTgt ta)
  | .viota pr ty tb ta => packG2 0x91 (wrPR pr) (tyCode ty) (wrTgt tb) (wrTgt ta)
  | .vclamp pr ty tb ta => packG2 0x92 (wrPR pr) (tyCode ty) (wrTgt tb) (wrTgt ta)
  | .vmrg pr ty tb ta => packG2 0xA0 (wrPR pr) (tyCode ty) (wrTgt tb) (wrTgt ta)
  | .visx pr ty tb ta => packG2 0xA1 (wrPR pr) (tyCode ty) (wrTgt tb) (wrTgt ta)
  | .vdedup pr ty tb ta => packG2 0xA2 (wrPR pr) (tyCode ty) (wrTgt tb) (wrTgt ta)
  | .sacc pr ty => packG2 0xA3 (wrPR pr) (tyCode ty) 0#9 0#9
  | .saccf pr tb ta => packG2 0xA4 (wrPR pr) 0#4 (wrTgt tb) (wrTgt ta)
  | .saccz pr => packG2 0xA5 (wrPR pr) 0#4 0#9 0#9
  | .rngx pr tb ta => packG2 0xA6 (wrPR pr) 7#4 (wrTgt tb) (wrTgt ta)
  | .ldl pr lk wd s => packM 0xB0 (wrPR pr) lk.seq lk.pdl lk.sdl (widCode wd) s
  | .stl pr lk wd => packM 0xB1 (wrPR pr) lk.seq lk.pdl lk.sdl (widCode wd) 0#6
  | .ldn pr lk wd s => packM 0xB2 (wrPR pr) lk.seq lk.pdl lk.sdl (widCode wd) s
  | .stn pr lk wd => packM 0xB3 (wrPR pr) lk.seq lk.pdl lk.sdl (widCode wd) 0#6
  | .ld pr lk wd c => packM 0xB4 (wrPR pr) lk.seq lk.pdl lk.sdl (widCode wd) (0#2 ++ c)
  | .st pr lk wd => packM 0xB5 (wrPR pr) lk.seq lk.pdl lk.sdl (widCode wd) 0#6
  | .ldw pr lk wd c => packM 0xB6 (wrPR pr) lk.seq lk.pdl lk.sdl (widCode wd) (0#2 ++ c)
  | .ldc pr lk wd c => packM 0xB7 (wrPR pr) lk.seq lk.pdl lk.sdl (widCode wd) (0#2 ++ c)
  | .stf pr lk wd => packM 0xB8 (wrPR pr) lk.seq lk.pdl lk.sdl (widCode wd) 0#6
  | .sts pr lk wd => packM 0xB9 (wrPR pr) lk.seq lk.pdl lk.sdl (widCode wd) 0#6
  | .fempty pr lk wd => packM 0xBA (wrPR pr) lk.seq lk.pdl lk.sdl (widCode wd) 0#6
  | .feq pr lk wd c => packM 0xBB (wrPR pr) lk.seq lk.pdl lk.sdl (widCode wd) (0#2 ++ c)
  | .aadd pr lk d c => packM 0xBC (wrPR pr) lk.seq lk.pdl lk.sdl (wrWD d) (0#2 ++ c)
  | .aand pr lk d c => packM 0xBD (wrPR pr) lk.seq lk.pdl lk.sdl (wrWD d) (0#2 ++ c)
  | .aor pr lk d c => packM 0xBE (wrPR pr) lk.seq lk.pdl lk.sdl (wrWD d) (0#2 ++ c)
  | .axor pr lk d c => packM 0xBF (wrPR pr) lk.seq lk.pdl lk.sdl (wrWD d) (0#2 ++ c)
  | .amin pr lk d c => packM 0xC0 (wrPR pr) lk.seq lk.pdl lk.sdl (wrWD d) (0#2 ++ c)
  | .amax pr lk d c => packM 0xC1 (wrPR pr) lk.seq lk.pdl lk.sdl (wrWD d) (0#2 ++ c)
  | .aswap pr lk d c => packM 0xC2 (wrPR pr) lk.seq lk.pdl lk.sdl (wrWD d) (0#2 ++ c)
  | .cas pr lk d c => packM 0xC3 (wrPR pr) lk.seq lk.pdl lk.sdl (wrWD d) (0#2 ++ c)
  | .uadd pr lk d => packM 0xC4 (wrPR pr) lk.seq lk.pdl lk.sdl (wrWD d) 0#6
  | .uand pr lk d => packM 0xC5 (wrPR pr) lk.seq lk.pdl lk.sdl (wrWD d) 0#6
  | .uor pr lk d => packM 0xC6 (wrPR pr) lk.seq lk.pdl lk.sdl (wrWD d) 0#6
  | .uxor pr lk d => packM 0xC7 (wrPR pr) lk.seq lk.pdl lk.sdl (wrWD d) 0#6
  | .umin pr lk d => packM 0xC8 (wrPR pr) lk.seq lk.pdl lk.sdl (wrWD d) 0#6
  | .umax pr lk d => packM 0xC9 (wrPR pr) lk.seq lk.pdl lk.sdl (wrWD d) 0#6
  | .ufadd pr lk => packM 0xCA (wrPR pr) lk.seq lk.pdl lk.sdl 2#3 0#6
  | .srd pr lk wd c => packM 0xCB (wrPR pr) lk.seq lk.pdl lk.sdl (widCode wd) (0#2 ++ c)
  | .swr pr lk wd => packM 0xCC (wrPR pr) lk.seq lk.pdl lk.sdl (widCode wd) 0#6
  | .swrEos pr lk wd => packM 0xCC (wrPR pr) lk.seq lk.pdl lk.sdl (widCode wd) 1#6
  | .srel pr lk => packM 0xCD (wrPR pr) lk.seq lk.pdl lk.sdl 3#3 0#6
  | .srelFrc pr lk => packM 0xCD (wrPR pr) lk.seq lk.pdl lk.sdl 3#3 1#6
  | .srew pr lk => packM 0xCE (wrPR pr) lk.seq lk.pdl lk.sdl 3#3 0#6
  | .spos pr lk c => packM 0xCF (wrPR pr) lk.seq lk.pdl lk.sdl 3#3 (0#2 ++ c)
  | .fence pr lk sc => packM 0xD0 (wrPR pr) lk.seq lk.pdl lk.sdl 0#3 (wrScope sc)
  | .sbar pr lk => packM 0xD1 (wrPR pr) lk.seq lk.pdl lk.sdl 0#3 0#6
  | .xfence pr lk src dst => packM 0xD2 (wrPR pr) lk.seq lk.pdl lk.sdl 0#3 (clsCode dst ++ clsCode src)
  | .barinit pr lk => packM 0xD3 (wrPR pr) lk.seq lk.pdl lk.sdl 3#3 0#6
  | .bararv pr lk => packM 0xD4 (wrPR pr) lk.seq lk.pdl lk.sdl 3#3 0#6
  | .barexp pr lk => packM 0xD5 (wrPR pr) lk.seq lk.pdl lk.sdl 3#3 0#6
  | .barwt pr lk c => packM 0xD6 (wrPR pr) lk.seq lk.pdl lk.sdl 3#3 (0#2 ++ c)
  | .copy pr lk c => packM 0xD7 (wrPR pr) lk.seq lk.pdl lk.sdl 3#3 (0#2 ++ c)
  | .pref pr lk bank => packM 0xD8 (wrPR pr) lk.seq lk.pdl lk.sdl 5#3 (if bank then 1#6 else 0#6)
  | .wback pr lk => packM 0xD9 (wrPR pr) lk.seq lk.pdl lk.sdl 5#3 0#6
  | .setbud pr lk => packM 0xDA (wrPR pr) lk.seq lk.pdl lk.sdl 0#3 0#6
  | .mmpost pr lk => packM 0xE0 (wrPR pr) lk.seq lk.pdl lk.sdl 0#3 0#6
  | .vamax pr ty tb ta => packG2 0xE1 (wrPR pr) (tyCode ty) (wrTgt tb) (wrTgt ta)
  | .vqnt pr ty tb ta => packG2 0xE2 (wrPR pr) (tyCode ty) (wrTgt tb) (wrTgt ta)
  | .vdqnt pr tb ta => packG2 0xE3 (wrPR pr) 10#4 (wrTgt tb) (wrTgt ta)
  | .vcbq pr ty tb ta => packG2 0xE4 (wrPR pr) (tyCode ty) (wrTgt tb) (wrTgt ta)
  | .cbset pr => packG2 0xE5 (wrPR pr) 0#4 0#9 0#9
  | .trap pr code => packGI 0xF0 (wrPR pr) (0#1 ++ code) 0#9
  | .fread pr c k ta => packC 0xF1 (wrPR pr) (0#2 ++ c) (0#5 ++ k) (wrTgt ta)
  | .repair pr => packG2 0xF2 (wrPR pr) 0#4 0#9 0#9
  | .blaze pr stop => packGI 0xF3 (wrPR pr) (if stop then 1#13 else 0#13) 0#9
  | .brkt pr code => packGI 0xF4 (wrPR pr) (0#1 ++ code) 0#9
  | .svc pr c n => packC 0xF5 (wrPR pr) (0#2 ++ c) n 0#9
  | .rdperf pr sel ta => packC 0xF6 (wrPR pr) (perfHnd sel) (perfAux sel) (wrTgt ta)
  | .wrperf pr c cnt => packC 0xF7 (wrPR pr) (0#4 ++ c) (wrBit7 cnt) 0#9
  | .hresume pr => packG2 0xF8 (wrPR pr) 0#4 0#9 0#9
  | .habort pr => packG2 0xF9 (wrPR pr) 0#4 0#9 0#9
  | .jlaunch rd rs1 rs2 => packJ rs2 rs1 0#3 rd
  | .jfence rd rs1 rs2 => packJ rs2 rs1 1#3 rd
  | .jquery rd rs1 rs2 => packJ rs2 rs1 2#3 rd
  | .jinvr rd rs1 rs2 => packJ rs2 rs1 3#3 rd
  | .jcmdKill rd rs1 rs2 => packJ rs2 rs1 4#3 rd
  | .jcmdPre rd rs1 rs2 => packJ rs2 rs1 4#3 rd
  | .jcmdSnap rd rs1 rs2 => packJ rs2 rs1 4#3 rd
  | .jcmdStop rd rs1 rs2 => packJ rs2 rs1 4#3 rd
  | .jcmdResume rd rs1 rs2 => packJ rs2 rs1 4#3 rd
  | .jwaitw rd rs1 rs2 => packJ rs2 rs1 5#3 rd
  | .jctxsave rd rs1 rs2 => packJ rs2 rs1 6#3 rd
  | .jctxload rd rs1 rs2 => packJ rs2 rs1 7#3 rd
  | .taskFiring => 0#32
  | .controlStep => 0#32
  | .blockCommit => 0#32
  | .waveAdmission => 0#32
  | .pyieldRelease => 0#32
  | .tokenDelivery => 0#32
  | .steerNode => 0#32
  | .mergeNode => 0#32
  | .filterNode => 0#32
  | .intersectNode => 0#32
  | .delayNode => 0#32
  | .graphCompletion => 0#32
  | .responseDelivery => 0#32
  | .timerDue => 0#32
  | .streamWrite => 0#32
  | .streamClose => 0#32
  | .streamRead => 0#32
  | .streamRelease => 0#32
  | .streamRewind => 0#32
  | .forcedRelease => 0#32
  | .frameRecycle => 0#32
  | .streamStall => 0#32
  | .hostHwmPublish => 0#32
  | .hostReaderRelease => 0#32
  | .homeAccess => 0#32
  | .parkTimeoutCheck => 0#32
  | .atomicPerform => 0#32
  | .updatePerform => 0#32
  | .updateLineMerge => 0#32
  | .anchorRelease => 0#32
  | .launchCommit => 0#32
  | .fold => 0#32
  | .oldestOnlyStart => 0#32
  | .recoveryRung => 0#32
  | .blazeArrival => 0#32
  | .snapCadence => 0#32
  | .eventCounterOverflow => 0#32
  | .trailWalk => 0#32
  | .matrixRecordAccept => 0#32
  | .sequencerDispatch => 0#32
  | .mmChunk => 0#32
  | .commandCompletion => 0#32
  | .drainTile => 0#32
  | .copyAccept => 0#32
  | .copyLineWrite => 0#32
  | .promiseMissed => 0#32
  | .barrierPerform => 0#32
  | .callAnswer => 0#32
  | .budgetTimer => 0#32
  | .launchHeadCheck => 0#32
  | .launchStart => 0#32
  | .hostRingDrain => 0#32
  | .hostRingReset => 0#32
  | .frameTableStep => 0#32
  | .runAheadFetch => 0#32
  | .portInvalidation => 0#32
  | .portAcknowledge => 0#32
  | .quickServiceScanOut => 0#32
  | .prqAnswerResume => 0#32
  | .prqAnswerFault => 0#32
  | .prqAnswerAbort => 0#32
  | .prqAnswerRefused => 0#32
  | .frameScrub => 0#32
  | .pageOut => 0#32
  | .pageIn => 0#32
  | .faultDelivery => 0#32
  | .plainApertureRead => 0#32
  | .plainApertureWrite => 0#32
  | .fillApertureRead => 0#32
  | .fillApertureWrite => 0#32
  | .probeApertureRead => 0#32
  | .probeApertureWrite => 0#32
  | .registerWrite => 0#32
  | .linkTraining => 0#32
  | .flitReceive => 0#32
  | .peerAccess => 0#32
  | .peerRetry => 0#32
  | .collectiveComplete => 0#32
  | .frameClaim => 0#32
  | .frameReturn => 0#32
  | .asidSet => 0#32
  | .queueBind => 0#32
  | .ringRegister => 0#32
  | .svcWeight => 0#32
  | .hostRange => 0#32
  | .collective => 0#32
  | .noticeWord => 0#32
  | .noticeRead => 0#32
  | .prqInfo => 0#32
  | .powerOnBoot => 0#32
  | .foresterReset => 0#32
  | .powerStep => 0#32
  | .patrolScrub => 0#32
  | .layout => 0#32
  | .layoutRead => 0#32
  | .power => 0#32
  | .frameTable => 0#32
  | .gladeParams => 0#32
  | .tenant => 0#32
  | .gladeAssign => 0#32
  | .svcBudget => 0#32
  | .l2Quota => 0#32
  | .twin => 0#32
  | .peerRoute => 0#32
  | .svnRaise => 0#32
  | .rasRead => 0#32
  | .rasClear => 0#32
  | .gladeCounters => 0#32
  | .getVersion => 0#32
  | .getCapabilities => 0#32
  | .negotiateAlgorithms => 0#32
  | .getDigests => 0#32
  | .getCertificate => 0#32
  | .challenge => 0#32
  | .getMeasurements => 0#32
  | .keyExchange => 0#32
  | .finish => 0#32
  | .jwaitwTimeout => 0#32
  | .fSoft => 0#32
  | .barrierWaitQueueTimeout => 0#32
  | .heldStreamReadTimeout => 0#32
  | .tenantBudgetPeriod => 0#32
  | .interruptTaken => 0#32
  | .hostLinkTraining => 0#32
  | .breakpointComparatorArm => 0#32
  | .operatorCertificateInstall => 0#32
  | .sharedSetDeclaration => 0#32
  | .debugAuthorisation => 0#32

end Sys2Proof
end

