-- ==== Sys2Proof/Machine/State.lean ====
section
/-!
DEFINITION. The state of the 9600 as plain data, and the state after reset. Every structure names the rule of spec/
that gives its fields; values the model chooses are named in the assumption log.
-/
namespace Sys2Proof.Machine

/-- Sparse data by key: pairs with strictly rising keys; an absent key reads as the default of its use. -/
abbrev Store (α : Type) := List (Nat × α)

/-! ### Names -/

/-- A (tile, plane) pair (R5, R11). -/
structure PlaneId where
  col : Nat
  row : Nat
  plane : Nat
  deriving DecidableEq, Repr

/-- The three kinds of cut (R341). -/
inductive CutKind where
  | snap | pre | stop
  deriving DecidableEq, Repr

/-- An element that blaze logic serves (R342): an actor copy, by its plane, or a node. -/
inductive Elem where
  | actor (pl : PlaneId)
  | node (n : Nat)
  deriving DecidableEq, Repr

/-- An input endpoint with its comparator (R96): an actor input, a node input, or the steering input of region `q` of launch
`l`'s image (R264). -/
inductive EpId where
  | actor (pl : PlaneId) (ch : Nat)
  | node (l n ix : Nat)
  | steer (l q : Nat)
  deriving DecidableEq, Repr

/-- Fault classes (R335). -/
inductive FCls where
  | page | prot | streamBehind | streamStall | parkBudget | parkFull | promiseMissed | arith | shape | type
  | blockIllegal | priv | align | conflict | shadowOverflow | replayDiverge | handshakeCycle | kill | soft | memUncorr
  | link | software | brk | twinDiverge | hostqOverrun | svcBusy
  deriving DecidableEq, Repr

/-! ### Values and tokens (R15, R16, R142) -/

/-- The kind of a value or a channel (R15, R142). -/
inductive Shape where
  | scalar | vector | mask
  deriving DecidableEq, Repr

/-- A value that is not null: its bits (lane 0 alone for SCALAR and MASK), type tag and lane mask. -/
structure Datum where
  shape : Shape
  lanes : Lanes
  tag : ETy
  lmask : W64
  deriving DecidableEq, Repr

/-- A value in a block (R142, R44). -/
inductive Val where
  | null
  | dat (d : Datum)
  deriving DecidableEq, Repr

/-- Control kinds that reach a task (R16); NULL and BLAZE are tokens of their own. -/
inductive Ctl where
  | sot | eot | stop0 | stop1 | stop2 | stop3 | eos
  deriving DecidableEq, Repr

/-- A token (R15, R16). A blaze holds its kind and cut number (R341); a fault token holds its four words (R333) and the
number by which the model finds the fault it stands for. -/
inductive Token where
  | data (d : Datum)
  | null
  | ctl (k : Ctl)
  | blaze (k : CutKind) (cut : Nat)
  | fault (fid : Nat) (words : List W64)
  deriving DecidableEq, Repr

/-- An input endpoint (R11, R94 to R97): tokens with the number of their arrival, the four counters, the comparator's
armed ordinals (with the `pre` mark of R293), the blaze entries, and whether a token was delivered in this cycle. -/
structure Endpoint where
  slots : List (Nat × Token) := []
  ord : BitVec 48 := 0#48
  cfull : BitVec 40 := 0#40
  cempty : BitVec 40 := 0#40
  cmove : BitVec 40 := 0#40
  armed : List (BitVec 48 × Bool) := []
  blazes : List (CutKind × Nat) := []
  moved : Bool := false
  deriving DecidableEq, Repr

/-- An output endpoint (R18, R31, R155): the control holding entry with the blazes that wait behind it, the tokens of
a copy that wait in the ordered join, and those that a change of REPL has left waiting there with their ordinals (R297). -/
structure OutEp where
  hold : List Token := []
  joinq : List Token := []
  late : List (Nat × Token) := []
  deriving DecidableEq, Repr

/-! ### Requests (R131, R195) -/

/-- Operations of the returning atomics (R205). -/
inductive AOp where
  | add | and | or | xor | min | max | swap | cas
  deriving DecidableEq, Repr

/-- Operations of the update-only forms (R206). -/
inductive UOp where
  | add | and | or | xor | min | max | fadd
  deriving DecidableEq, Repr

/-- The request forms that enter a request stream (R131). -/
inductive ReqKind where
  | ld | ldw | ldc | st | stf | sts | fempty | feq
  | atom (op : AOp) (d : Bool)
  | upd (op : UOp) (d : Bool)
  | srd | swr (eos : Bool) | srel | srelFrc | srew | spos
  | fence (sc : Scope) | sbar | xfence (src dst : AClass)
  | barinit | bararv | barexp | barwt
  | copy | pref (bank : Bool) | wback | mmpost | setbud
  deriving DecidableEq, Repr

/-- Where a request stands (R71 to R75, R83, R87, R200, R214, R284, R321). -/
inductive ReqSt where
  | waiting
  | parked
  | tableFull
  | windowFull
  | readHeld (since : W64)
  | anchorHeld
  | quotaHeld
  | pageHeld (entry : Nat)
  | barHeld (since : W64)
  | retryAt (cycle : W64) (left : Nat)
  | faulted (fid : Nat)
  deriving DecidableEq, Repr

/-- A request of a plane's request stream. `a`, `b`, `c` are its operands and `lanes` its vector data; `budget` is the
retry budget it was issued with (R71), `rid` the model's number for it, `pos` the position and reader that a stream read
has taken (R55). -/
structure Req where
  rid : Nat
  kind : ReqKind
  wd : Width
  resp : Option Nat
  a : W64
  b : W64
  c : W64
  lanes : Lanes
  block : BitVec 16
  slot : Nat
  budget : BitVec 8
  st : ReqSt
  pos : Option (W32 × Nat) := none
  deriving DecidableEq, Repr

/-- A response place (R24, R57, R73): the request it belongs to, its channel, its token once there is one, and for a stream
form the handle, which says what port serves it (R65). -/
structure Place where
  rid : Nat
  ch : Nat
  tok : Option Token
  strm : Option Nat := none
  deriving DecidableEq, Repr

/-! ### Blocks and firings (R22, R122 to R132) -/

/-- State of a wave (R130). -/
inductive WaveSt where
  | opened | admitted | nullified | skipped
  deriving DecidableEq, Repr

/-- A wave-ordered instruction that has fired and waits for admission (R130): its links and its request. -/
structure Wave where
  slot : Nat
  lk : Link
  kind : Option ReqKind
  lcl : Option (Bool × Bool)
  tgt : Nat
  req : Req
  deriving DecidableEq, Repr

/-- How an exit leaves its block (R157). -/
inductive ExitKind where
  | goto (addr : BitVec 16)
  | call (addr : BitVec 16)
  | yield (addr : BitVec 16)
  | tend
  deriving DecidableEq, Repr

/-- What an output instruction that fired does at commit (R132). -/
inductive Eff where
  | sreg (n : Nat) (v : W64)
  | vreg (n : Nat) (v : Lanes) (m : W64)
  | mreg (n : Nat) (v : W64)
  | send (ch : Nat) (t : Token)
  | timer (ch : Nat) (rel : Bool) (v : W64)
  | svc (ch : Nat) (n : Nat) (v : W64)
  | sacc (ty : ETy) (adds : Store W64)
  | saccTake (n : Nat)
  | saccClear
  | cbset (v : Lanes)
  | wrperf (n : Nat) (cnt : Bool) (v : W64)
  | trap (code : Nat)
  | brkt (code : Nat)
  | blaze (stop : Bool)
  | repair (t : Token)
  | hresume
  | habort
  | lstore (key : Nat) (bs : List Byte)
  | request (r : Req)
  deriving DecidableEq, Repr

/-- A mapped block (R127 to R132): its words and constants, the operands and predicates that have arrived, the slots
that have fired or been nullified, the wave states, the effects to come, and the fired exit. -/
structure BlockRun where
  words : List W32
  consts : List W64
  len : Nat
  opA : Store Val := []
  opB : Store Val := []
  opC : Store Val := []
  pred : Store Val := []
  done : List Nat := []
  waves : List WaveSt := []
  pend : List Wave := []
  seq : List Nat := []
  effs : List (Nat × Eff) := []
  exits : List ExitKind := []
  deriving DecidableEq, Repr

/-- What PYIELD recorded at its commit: the planes that were ready, and the cycle (R160). -/
abbrev Yield := List Nat × W64

/-- Where a firing stands: running its block, between blocks (fetching the next), yielding (R160), or stopped by a trap
or breakpoint (R242) or by a fault raised at firing (R336). -/
inductive FState where
  | running
  | yielding (ready : List Nat) (since : W64)
  | trapped (fid : Nat)
  | atBreak
  | faulted (fid : Nat)
  deriving DecidableEq, Repr

/-- Task kinds (R263). -/
inductive TaskKind where
  | aligned | unaligned | control
  deriving DecidableEq, Repr

/-- A firing in progress (R22). `block` is the program counter (R123); `ending` marks a firing
whose last block held TEND and that a trap holds (R242), `yields` one whose last block held PYIELD. -/
structure Firing where
  task : Nat
  kind : TaskKind
  block : BitVec 16
  run : Option BlockRun := none
  consumed : Store (List Token) := []
  sent : Store Nat := []
  ctlSent : List Nat := []
  svcs : Nat := 0
  fid : Option Nat := none
  acted : Bool := false
  yields : Option Yield := none
  ending : Bool := false
  st : FState := .running
  deriving DecidableEq, Repr

/-- Privilege of an actor (R262). -/
inductive Level where
  | user | handler
  deriving DecidableEq, Repr

/-- A call in a call ring (R247, R312). -/
structure CallEntry where
  n : Nat
  arg : W64
  ch : Nat
  ver : BitVec 16
  deriving DecidableEq, Repr

/-- A configuration plane of a compute tile (R11). `touched` names the lines that its requests have touched in its glade's
banks (R276). -/
structure Plane where
  launch : Option Nat := none
  actor : Nat := 0
  copy : Nat := 0
  repl : Nat := 1
  level : Level := .user
  shBase : Nat := 0
  shSize : Nat := 0
  roEnd : Nat := 0
  npol : W32 := 0x00060000#32
  own : BitVec 4 := 0#4
  nbr : BitVec 4 := 0#4
  sregs : Store W64 := []
  vregs : Store Lanes := []
  mregs : Store W64 := []
  ins : Store Endpoint := []
  outs : Store OutEp := []
  firing : Option Firing := none
  aside : Option Firing := none
  eosTaken : Bool := false
  timers : List (Nat × W64) := []
  rq : List Req := []
  resp : List Place := []
  budget : BitVec 8 := 16#8
  ring : List CallEntry := []
  deficit : Int := 0
  lastIssue : W64 := 0#64
  stopped : Bool := false
  paused : Bool := false
  recorded : List (CutKind × Nat) := []
  brkStop : Bool := false
  touched : List Nat := []
  deriving DecidableEq, Repr

/-- The event of an overflow (R98): the plane, block and slot that it names, and the cycle, version and ticket then. -/
structure Ovf where
  pl : PlaneId
  blk : BitVec 16
  slot : Nat
  cycle : W64
  ver : BitVec 16
  ticket : W32
  deriving DecidableEq, Repr

/-- One event counter (R250); `grp` is the lowest slot whose event it has counted in the current cycle, `ovf` the event of
an overflow whose sample has not been taken (R98). -/
structure PerfCtr where
  ev : BitVec 8 := 0#8
  cnt : BitVec 48 := 0#48
  grp : Option Nat := none
  ovf : Option Ovf := none
  deriving DecidableEq, Repr

/-- Where the one cycle stands in which an overflow stops a tile's issue stage (R98): it comes next, it is this one, or it is
this one and an overflow in it makes the next another. -/
inductive Freeze where
  | no | next | now | both
  deriving DecidableEq, Repr

/-- The issue group of the current cycle (R14): its plane and how many of each class it holds. -/
structure Issue where
  plane : Nat
  vec : Nat
  scl : Nat
  mem : Nat
  deriving DecidableEq, Repr

/-- The parts of a compute tile that its planes share (R11, R189, R250). -/
structure Tile where
  saccOwner : Option Nat := none
  saccTy : Option ETy := none
  sacc : Store W64 := []
  codebook : BitVec 256 := 0#256
  perf : Store PerfCtr := []
  issue : Option Issue := none
  frozen : Freeze := .no
  deriving DecidableEq, Repr

/-! ### Graph images (R259 to R268) -/

/-- A task record (R263). `ctl` marks the outputs on which a block that the task's code reaches holds a SENDC of a kind
other than NULL (R155); the loader finds it in the code. -/
structure TaskRec where
  entry : BitVec 16
  bind : Nat
  kind : TaskKind
  svcr : Nat
  irate : List Nat
  orate : List Nat
  ctl : BitVec 16 := 0#16
  deriving DecidableEq, Repr

/-- An actor record with its tasks (R262). -/
structure ActorRec where
  col : Nat
  row : Nat
  plane : Nat
  repl : Nat
  colwise : Bool
  eosp : Nat
  align : BitVec 16
  timer : BitVec 16
  fault : BitVec 16
  dlin : Option Nat
  own : BitVec 4
  nbr : BitVec 4
  level : Nat
  npol : W32
  shBase : Nat
  shSize : Nat
  roEnd : Nat
  ident : W64
  code : Nat
  clen : Nat
  ninit : Nat
  tasks : List TaskRec
  deriving DecidableEq, Repr

/-- A channel record (R264). -/
structure ChanRec where
  pkind : Nat
  prod : Nat
  pep : Nat
  ckind : Nat
  cons : Nat
  cep : Nat
  shape : Nat
  dtag : Nat
  prio : Nat
  fifo : Nat
  fcol : Nat
  frow : Nat
  deriving DecidableEq, Repr

/-- A node record (R265). -/
structure NodeRec where
  nkind : Nat
  mode : Bool
  eosp : Nat
  npath : Nat
  col : Nat
  row : Nat
  slot : Nat
  depth : Nat
  ident : W64
  deriving DecidableEq, Repr

/-- A stream record (R50, R266) as the image holds it. -/
structure StreamRec where
  ver : Nat
  back : Nat
  fsz : Bool
  esz : Nat
  hostp : Bool
  hostr : BitVec 4
  nrd : Nat
  log2e : Nat
  nfrm : Nat
  start : W32
  base : Nat
  stall : W32
  handle : Nat
  pcol : Nat
  pedge : Bool
  port : Nat
  lead : W32
  writer : Nat
  rdrs : List Nat
  etag : Nat
  deriving DecidableEq, Repr

/-- A window entry of an image (R267). -/
structure WinRec where
  vbase : Nat
  col : Nat
  edge : Bool
  port : Nat
  ent : Nat
  npg : Nat
  wr : Bool
  deriving DecidableEq, Repr

/-- A region record (R268). -/
structure RegionRec where
  col : Nat
  row : Nat
  wc : Nat
  h : Nat
  acct : Nat
  npol : W32
  steer : Option Nat
  routes : List (Option (Nat × Nat))
  deriving DecidableEq, Repr

/-- A graph image that the loader accepted (R259), with its bytes. -/
structure Image where
  width : Nat := 0
  actors : List ActorRec := []
  chans : List ChanRec := []
  nodes : List NodeRec := []
  streams : List StreamRec := []
  wins : List WinRec := []
  regions : List RegionRec := []
  strmoff : Nat := 0
  codeoff : Nat := 0
  bytes : List Byte := []
  deriving DecidableEq, Repr

/-! ### Channels, nodes, streams, regions of a launch -/

/-- A channel at run time: tokens in flight or in its FIFO extension towards each consumer copy, oldest first, and the
dealing and joining counters of R31. -/
structure Chan where
  flight : Store (List Token) := []
  deal : Nat := 0
  joinIx : Nat := 0
  deriving DecidableEq, Repr

/-- A fabric node at run time (R32 to R36, R287): its inputs, the intersect ordinals and last coordinates, the tokens of
a delay buffer, the fault that stops it, and its cut state. -/
structure Node where
  ins : Store Endpoint := []
  posA : Nat := 0
  posB : Nat := 0
  lastA : Option W64 := none
  lastB : Option W64 := none
  eosOut : Bool := false
  eosSteer : Bool := false
  buf : List Token := []
  fault : Option Nat := none
  faultPops : List Nat := []
  stopped : Bool := false
  paused : Bool := false
  recorded : List (CutKind × Nat) := []
  brkStop : Bool := false
  deriving DecidableEq, Repr

/-- A stream descriptor and its server (R50 to R64). `front` is the position from which frames are mapped: TAIL's frame
once recycling has finished; `log` holds released host-produced elements (R64), `save` the elements that the last
complete cut must give back (R91), each as (position, words). `lostUpTo` bounds positions written by an earlier attempt. -/
structure Stream where
  sr : StreamRec
  closed : Bool := false
  forced : BitVec 4 := 0#4
  hwm : W32
  tail : W32
  fslot : Nat := 0
  rd : List W32
  rel : List W32
  endp : W32 := 0#32
  front : W32
  served : Bool := false
  stallCnt : Nat := 0
  log : List (W32 × List W64) := []
  save : List (W32 × List W64) := []
  attempt : List (W32 × List W64) := []
  deriving DecidableEq, Repr

/-- A region at run time (R228 to R236, R291). `accs` is indexed by tile × 4096 + row × 64 + column; `weights` names the
BADDR, BSCL, LDB and chunk count of resident weights; `pinned` holds the lines that the fetch unit has pinned for the
command in progress, by virtual address, with the bytes that it fetched (R235); `brkStop` says that its steering input's
comparator has hit (R96). -/
structure Region where
  lid : Nat
  rr : RegionRec
  acc : Option Nat := none
  m : Option Nat := none
  n : Nat := 0
  chunkIx : Nat := 0
  cmd : Option Nat := none
  nextChunk : Nat := 0
  accs : Store W32 := []
  draining : Bool := false
  drainPos : Nat := 0
  drainRow : Nat := 0
  drainRoute : Option Nat := none
  weights : Option (Nat × Nat × Nat × Nat) := none
  pinned : List (Nat × List Byte) := []
  steer : Endpoint := {}
  brkStop : Bool := false
  deriving DecidableEq, Repr

/-! ### Cuts and launches (R89 to R93, R299, R341 to R345) -/

/-- A park record (R72), keyed by virtual address and ASID (R77). `slot` is its place in the glade's pool; `keys` names its
words where they have no virtual address of their own: those of a FIFO stream, of a launch's copy of its record. In the
record of a launch wait word (FORM 5) `lid` and `rid` are the number of the queue entry. -/
structure ParkRec where
  glade : Nat
  slot : Nat := 0
  keys : List Nat := []
  pl : PlaneId
  rid : Nat
  lid : Nat
  ver : BitVec 16
  va : Nat
  asid : BitVec 16
  form : Nat
  wid : Nat
  nw : Nat
  left : Nat
  data : W64
  rch : Nat
  stamp : W64
  fid : Option Nat := none
  deriving DecidableEq, Repr

/-- What a fault was raised on. A missed promise keeps the one that the engine computed at the miss, with where it goes (R343). -/
inductive FSrc where
  | firing (pl : PlaneId)
  | input (pl : PlaneId)
  | trap (pl : PlaneId)
  | request (pl : PlaneId) (rid : Nat)
  | stall (pl : PlaneId) (rid : Nat)
  | node (l n : Nat)
  | matrix (g mid : Nat)
  | copy (cid : Nat)
  | promise (pl : PlaneId) (ch cid : Nat) (due : W64)
  | svc (pl : PlaneId)
  | launch (l : Nat)
  | other
  deriving DecidableEq, Repr

/-- Where a raised fault stands: held because the exception queue is full, queued, delivered to a fault input, taken by
a firing, or reported to its destination. -/
inductive FSt where
  | heldFull | queued | delivered | taken | reported | resolved
  deriving DecidableEq, Repr

/-- A fault (R333). -/
structure FaultRec where
  fid : Nat
  cls : FCls
  glade : Nat
  lid : Nat
  words : List W64
  src : FSrc
  input : Option (PlaneId × Nat)
  st : FSt
  deriving DecidableEq, Repr

/-- The record of one actor copy in a cut: its plane, the bytes of its share, its owned tile structures, and what remained of
its timers, which is negative for one past due (R163). -/
structure ActorSave where
  pl : PlaneId
  plane : Plane
  share : List Byte
  sacc : Store W64
  saccTy : Option ETy
  codebook : BitVec 256
  weights : List Byte
  timers : List (Nat × Int)
  twinN : Nat := 0
  deriving DecidableEq, Repr

/-- A copy as a cut records it (R292): the command record, the issuing plane and channel, bytes done. -/
structure CopySave where
  cid : Nat
  pl : PlaneId
  ch : Nat
  cw : List W64
  done : Nat
  budget : BitVec 8
  block : BitVec 16
  slot : Nat
  fault : Option Nat
  cut : Nat := 0
  deriving DecidableEq, Repr

/-- A barrier object as a cut records it (R214): physical address and 16 bytes. -/
structure BarSave where
  pa : Nat
  bytes : List Byte
  deriving DecidableEq, Repr

/-- A record that the matrix sequencer holds (R225 to R236). `page` names the page request that a fetch waits for; `bad`
marks a record that has no further effect (R226, R234). -/
inductive MSt where
  | queued | running | completed | faulted (fid : Nat)
  deriving DecidableEq, Repr
structure MRec where
  mid : Nat
  lid : Nat
  pl : PlaneId
  block : BitVec 16
  slot : Nat
  cw : List W64
  st : MSt := .queued
  codebook : BitVec 256 := 0#256
  region : Option Nat := none
  page : Option Nat := none
  bad : Bool := false
  deriving DecidableEq, Repr

/-- A cut in progress or complete (R342): what each element has recorded. `flights` are the tokens that stood ahead of
the blaze on the way to each consumer copy, `stores` the weight-store bytes of each region, in tile order. -/
structure Cut where
  kind : CutKind
  num : Nat
  actors : List ActorSave := []
  nodes : List (Nat × Node) := []
  chans : List (Nat × Chan) := []
  streams : List Stream := []
  regions : List Region := []
  recs : List MRec := []
  copies : List CopySave := []
  bars : List BarSave := []
  elems : List Elem := []
  core : Option Nat := none
  flights : List (Nat × Nat × List Token) := []
  faults : List FaultRec := []
  parks : List ParkRec := []
  stores : List (Nat × List (List Byte)) := []
  matrixDone : Bool := false
  codebook : BitVec 256 := 0#256
  deriving DecidableEq, Repr

/-- States of a launch (R93). -/
inductive LState where
  | waiting | live | held | irrevocable | suspended | done | committed | aborted | oldestOnly | failed
  deriving DecidableEq, Repr

/-- A launch (R93, R299). `unset` names the pages of its streams' windows, by stream and window offset, that were out of the
servers' reach when they were to be set empty, and `owed` the streams whose descriptor was out of reach when it changed (R50);
`fifos` holds the windows of its FIFO streams, bytes and full/empty bits in stream order, while it
holds no plane and so no claim on their SRAM (R261, R345); `lastPlane` the plane number that it held last; `snaps` is the number of its completed SNAP cuts (R254); `counts` and `arms` what its endpoints' cycle counters and breakpoint
registers held when it left its planes, by channel and consumer copy (R95, R96); `wins` which of its window entries were
then filled (R320). -/
structure Launch where
  rcd : List Byte
  st : LState := .waiting
  glade : Nat
  queue : Nat
  asid : BitVec 16
  tenant : Nat
  core : Nat := 0
  ticket : W32 := 0#32
  ver : BitVec 16 := 0#16
  group : Nat := 0
  snaps : Nat := 0
  irrev : Bool := false
  noirr : Bool := false
  debug : Bool := false
  rbud : Nat := 0
  used : Nat := 0
  aborts : Nat := 0
  oldest : Bool := false
  quota : Nat := 0
  cad : Nat := 0
  startCycle : W64 := 0#64
  plane : Option Nat := none
  lastPlane : Option Nat := none
  graph : W64 := 0#64
  waits : List W64 := []
  sigs : List W64 := []
  img : Image := {}
  chans : Store Chan := []
  nodes : Store Node := []
  streams : List Stream := []
  unset : List (Nat × Nat) := []
  owed : List Nat := []
  sig : List Nat := []
  cutNo : Nat := 0
  lastCut : Option Cut := none
  cuts : List Cut := []
  preHeld : Bool := false
  preAgain : Bool := false
  stopHeld : Bool := false
  pageHold : Bool := false
  scanned : Option (W64 × Cut) := none
  preCut : Option Cut := none
  suspend : Bool := false
  resuming : Bool := false
  counts : List (Nat × Nat × Nat × Nat × Nat) := []
  arms : List (Nat × Nat × List (BitVec 48 × Bool)) := []
  wins : List Bool := []
  cadTaken : Nat := 0
  bars : List Nat := []
  codebook : BitVec 256 := 0#256
  fifos : List (List Byte × List Bool) := []
  rung : Option Nat := none
  rungFid : Option Nat := none
  report : Option (Nat × List W64) := none
  dump : List Byte := []
  deriving DecidableEq, Repr

/-! ### Memory structures (R67 to R87) -/

/-- The sideband of a 64-byte line without its check bits (R68). -/
structure SideBits where
  fe : BitVec 8 := 0#8
  shadowed : Bool := false
  parked : Bool := false
  deriving DecidableEq, Repr

/-- The effect of one understory or bank entry: bytes at an address, a full/empty bit, or a delta (R78, R82). -/
inductive MEff where
  | bytes (addr : Nat) (bs : List Byte)
  | fe (word : Nat) (full : Bool)
  | delta (op : UOp) (d : Bool) (addr : Nat) (x : W64)
  deriving DecidableEq, Repr

/-- An understory entry (R82): its launch, version, cut index, whether it is committed, its effect. -/
structure UEnt where
  glade : Nat
  lid : Nat
  ver : BitVec 16
  cut : Nat
  committed : Bool
  va : Nat
  eff : MEff
  deriving DecidableEq, Repr

/-- An update line of a cache bank (R78): its operation, whether its operands are of width D, the bytes that its delta
covers, and the delta. -/
structure UpdLine where
  op : UOp
  d : Bool
  mask : BitVec 64
  delta : List Byte
  deriving DecidableEq, Repr

/-- A cache bank: the memory tile that serves it, its glade, and the physical range that is bound to it (R78, R202). -/
structure BankMap where
  tile : Nat
  glade : Nat
  lo : Nat
  hi : Nat
  deriving DecidableEq, Repr

/-- A line of a cache bank (R78, R272). `lid` is the revocable launch whose TX bytes these are and who alone sees them
(R82), none for a line that every actor of the glade sees; `cut` their cut index; `va` the line's virtual address. `copy`
holds the line's 64 bytes and full/empty bits as they came from home or were left clean; `dirty` says which of `bytes` a
plain store has written; `tx` names the irrevocable launches that have written it on a TX page since it last went home (R84). -/
structure BankLine where
  glade : Nat
  line : Nat
  lid : Option Nat := none
  cut : Nat := 0
  va : Nat := 0
  copy : Option (List Byte × BitVec 8) := none
  dirty : BitVec 64 := 0#64
  bytes : List Byte := List.replicate 64 0#8
  upd : Option UpdLine := none
  tx : List Nat := []
  deriving DecidableEq, Repr

/-- A request held in the barrier wait queue of an edge block (R214, R257). -/
inductive BarOwner where
  | request (pl : PlaneId) (rid : Nat)
  | core (c : Nat)
  deriving DecidableEq, Repr
structure BarEnt where
  edge : Nat
  owner : BarOwner
  pa : Nat
  deriving DecidableEq, Repr

/-- A copy that an engine has accepted (R217 to R219, R343). `owed` says that a new promise has been computed at a miss and
not yet been sent, `missed` that the promise that stands was sent after a miss; `held` that its line waits for the launch
to be the oldest (R83, R87); `found` names the source words of its line that an AWAIT copy has found full, and `line` the
bytes read once all were (R76). -/
structure CopyJob where
  cid : Nat
  engine : Nat
  glade : Nat
  lid : Nat
  pl : PlaneId
  ch : Nat
  rid : Nat
  cw : List W64
  done : Nat := 0
  promise : W64
  missed : Bool := false
  owed : Bool := false
  stopped : Bool := false
  fault : Option Nat := none
  waiting : Bool := false
  held : Bool := false
  found : List Nat := []
  line : Option (List Byte) := none
  page : Option Nat := none
  budget : BitVec 8
  block : BitVec 16
  slot : Nat
  cut : Nat := 0
  deriving DecidableEq, Repr

/-! ### Glades (R365) -/

/-- An entry of a launch queue (R302): the record, when it was accepted, the core that submitted it, the context image
that it came from (R295), and its graph image once it has passed the checks of R301. `waits` names the wait words of the
record whose LDW has not completed, from those checks on (R88). -/
structure QEnt where
  rcd : List Byte
  seq : Nat
  core : Nat
  ctx : Option Nat := none
  img : Option Image := none
  waits : List Nat := []
  deriving DecidableEq, Repr

/-- A sample record (R98). -/
structure Sample where
  blk : BitVec 16
  slot : Nat
  pl : PlaneId
  ctr : Nat
  ver : BitVec 16
  cycle : W64
  ticket : W32
  deriving DecidableEq, Repr

/-- The image that a plane number of a glade holds from its last launch (R307). -/
structure Resident where
  plane : Nat
  graph : W64
  asid : BitVec 16
  img : Image
  deriving DecidableEq, Repr

/-- A glade (R162, R302 to R305, R364, R371, R374). -/
structure Glade where
  nisl : Nat
  tenant : Nat := 0
  cycle : W64 := 0#64
  ticket : W32 := 0#32
  lastVer : BitVec 16 := 0#16
  queues : Store (List QEnt) := []
  binds : Store (Nat × BitVec 16) := []
  park : List ParkRec := []
  poolLog : Nat := 12
  parkTimeout : Nat := 1100000
  spillSize : Nat := 64
  quick : Nat := 110000
  shareCap : Nat := 32
  seqr : List MRec := []
  regions : List Region := []
  seqrStopped : List Nat := []
  resident : List Resident := []
  samples : List Sample := []
  lost : Nat := 0
  doorbell : Bool := false
  doorWord : W64 := 0#64
  weights : Store Nat := []
  commits : Nat := 0
  aborts : Nat := 0
  fails : Nat := 0
  busy : Nat := 0
  softs : Nat := 0
  linkFs : Nat := 0
  rollbacks : Nat := 0
  deriving DecidableEq, Repr

/-! ### Border cores (R251 to R258, R312, R329) -/

/-- Privilege mode of a border core. -/
inductive CMode where
  | u | s | m
  deriving DecidableEq, Repr

/-- What a border core waits for (R254, R255, R257, R362). -/
inductive CWait where
  | word (rd : Nat) (va : W64) (bound : Nat) (take : Bool) (since : W64)
  | inval (rd : Nat) (inv : Nat)
  deriving DecidableEq, Repr

/-- What a border core keeps of the code of a tenant whose slice it does not run (R312). -/
structure CoreCtx where
  x : Store W64 := []
  pc : W64 := 0#64
  mode : CMode := .m
  asid : BitVec 16 := 0#16
  serving : Option (PlaneId × W64) := none
  deriving DecidableEq, Repr

/-- A border core: integer registers, pc, mode and trap registers, address space, service state. `svc` is its service table;
`others` what it keeps of the other tenants' code; `serving` names the plane whose call its routine answers, with the pc that the routine returns to (R329); `turn` and `served`
say which call ring's turn it is and how many calls of it have been answered in the turn (R312); `reports` holds the tokens
whose destination is the core that issued a JLAUNCH (R335). -/
structure Core where
  x : Store W64 := []
  pc : W64 := 0#64
  mode : CMode := .m
  mepc : W64 := 0#64
  mcause : W64 := 0#64
  mtval : W64 := 0#64
  mstatus : W64 := 0#64
  mtvec : W64 := 0#64
  asid : BitVec 16 := 0#16
  slice : Nat := 0
  budgets : Store Nat := []
  spent : Store Nat := []
  svc : Store W64 := []
  wait : Option CWait := none
  period : Nat := 0
  serving : Option (PlaneId × W64) := none
  turn : Nat := 0
  served : Nat := 0
  others : Store CoreCtx := []
  reports : List (List W64) := []
  deriving DecidableEq, Repr

/-! ### Translation (R313 to R324) -/

/-- An ASID table entry (R313). -/
structure AsidEnt where
  root : Nat
  tenant : Nat
  deriving DecidableEq, Repr

/-- States of a frame (R316). -/
inductive FrSt where
  | free | owned | scrubbing | retired
  deriving DecidableEq, Repr

/-- A frame owner entry with its retirement mark (R316, R375). -/
structure Frame where
  tenant : Nat := 0
  st : FrSt := .free
  mark : Bool := false
  ce : List W64 := []
  deriving DecidableEq, Repr

/-- A window entry of a port (R267). -/
structure WinEnt where
  vbase : Nat
  npg : Nat
  pfrm : Nat
  wr : Bool
  imm : Bool
  v : Bool
  lid : Nat
  asid : BitVec 16
  deriving DecidableEq, Repr

/-- A cached leaf (R317): the page's virtual base, size and physical base, its class and write permission. -/
structure Leaf where
  asid : BitVec 16
  va : Nat
  size : Nat
  pa : Nat
  w : Bool
  imm : Bool
  deriving DecidableEq, Repr

/-- A stream port (R317 to R319), or the I/O die's translation (R351). -/
structure Port where
  wins : Store WinEnt := []
  cache : List Leaf := []
  drops : BitVec 48 := 0#48
  deriving DecidableEq, Repr

/-- An invalidation in progress (R319): the range, the ports that hold something of it and must still act, those that act
and must acknowledge, and the acknowledgements that count. -/
structure Inval where
  iid : Nat
  core : Nat
  base : Nat
  len : Nat
  asid : BitVec 16
  todo : List Nat
  active : List Nat
  acks : Nat
  deriving DecidableEq, Repr

/-- An entry of the page-request queue (R321): the accesses held on it are the requests and copies whose state names
it. -/
structure PrqEnt where
  ix : Nat
  va : Nat
  asid : BitVec 16
  glade : Nat
  lid : Nat
  kind : Nat
  level : Nat
  port : Nat
  ticket : W32
  ver : BitVec 16
  stamp : W64
  shared : Bool
  deriving DecidableEq, Repr

/-- The page-request queue (R321, R324). `waits` holds the faults that found no entry they may take, oldest first (R322);
each has a number from 512 on until it is posted. -/
structure Prq where
  ents : List PrqEnt := []
  waits : List PrqEnt := []
  refused : W32 := 0#32
  deriving DecidableEq, Repr

/-- A page that was paged out (R77): its address space and address, its bytes, and its full/empty bits in word order. -/
structure PageSide where
  asid : BitVec 16
  va : Nat
  bits : List Bool
  bytes : List Byte
  deriving DecidableEq, Repr

/-! ### Host, links, Forester -/

/-- A host submission ring that a glade drains (R308, R357). `lcap` is LCAP as the firmware read it at registration or the
last reset, `tail` the TAIL that it loaded last (R309). -/
structure Ring where
  glade : Nat
  va : W64
  asid : BitVec 16
  core : Nat
  lcap : Nat := 0
  tail : Nat := 0
  deriving DecidableEq, Repr

/-- How a host read completes (R349, R351). -/
inductive HostAns where
  | data (bs : List Byte)
  | unsupported
  | aborted
  deriving DecidableEq, Repr

/-- Kinds of host accesses through the apertures (R349). -/
inductive HostKind where
  | plainRead | plainWrite | fillRead | fillWrite | probeRead
  deriving DecidableEq, Repr

/-- A host access that an invalidation holds, or that came behind one: its requester, kind, offset, length, bytes, and
whether it will meet uncorrectable data (R280, R319, R351). -/
structure HostAcc where
  who : Nat
  kind : HostKind
  off : Nat
  n : Nat
  bytes : List Byte := []
  corr : Bool := false
  bad : Bool := false
  deriving DecidableEq, Repr

/-- The host interface (R346 to R348): the aperture window table, HERR, the registered rings, the lanes of the link, the
completion of the last read, and the accesses that wait for an invalidation. -/
structure HostIf where
  wins : Store W64 := []
  herr : W32 := 0#32
  herrOff : W32 := 0#32
  rings : List Ring := []
  lanes : Nat := 0
  answer : Option HostAns := none
  held : List HostAcc := []
  deriving DecidableEq, Repr

/-- One Sahkitus link (R353, R355). `vers` holds the version at which each interface runs, 0 where the masks share none. -/
structure SLink where
  up : Bool := false
  link : Nat := 0
  fails : Nat := 0
  masks : List (BitVec 16) := []
  vers : List Nat := []
  deriving DecidableEq, Repr

/-- A collective reduction in progress (R358). -/
structure Coll where
  tenant : Nat
  core : Nat
  desc : W64
  asid : BitVec 16
  op : Nat
  ty : ETy
  src : W64
  dst : W64
  list : List Nat
  donew : W64
  count : Nat
  deriving DecidableEq, Repr

/-- A tenant (R357, R364, R369, R370). -/
structure Tenant where
  confidential : Bool := false
  limit : Nat := 0
  key : List W64 := []
  quota : Nat := 16384
  shared : List (Nat × Nat) := []
  debugOk : Bool := false
  notices : List W64 := []
  noticeWord : Option (BitVec 16 × W64) := none
  hostRanges : Store (Nat × Nat) := []
  loads : List Byte := []
  deriving DecidableEq, Repr

/-- States of an island (R365). -/
inductive IslSt where
  | active | quiesced | pending | disabled
  deriving DecidableEq, Repr

/-- An island (R365, R368): its state, the first island of its glade and their count, its last average over 1 ms, its power register, the part
of an island cycle that has passed, in sixteenths, and the tick of its last step. -/
structure Island where
  st : IslSt := .quiesced
  first : Nat := 0
  nisl : Nat := 0
  avg : Nat := 0
  capw : Nat := 262
  fmin : Nat := 8
  fcur : Nat := 16
  thr : Bool := false
  phase : Nat := 0
  stepAt : W64 := 0#64
  deriving DecidableEq, Repr

/-- A record of the layout journal (R366). `ok` says that its CHECK matches: a torn record does not. -/
structure JRec where
  commit : Bool
  island : Nat := 0
  seq : Nat
  first : Nat := 0
  nisl : Nat := 0
  disable : Bool := false
  nprep : Nat := 0
  ok : Bool := true
  deriving DecidableEq, Repr

/-- A RAS record (R374). -/
structure Ras where
  ce : W32 := 0#32
  ue : BitVec 16 := 0#16
  ret : BitVec 16 := 0#16
  pce : W32 := 0#32
  deriving DecidableEq, Repr

/-- A twin run (R372): the two glades, the queue, the pairs of launches, and the retained store-like and update requests
of each actor copy of each launch: launch, actor, copy, records. -/
structure Twin where
  prim : Nat
  sec : Nat
  queue : Nat
  pairs : List (Nat × Nat) := []
  logs : List (Nat × Nat × Nat × List (List Byte)) := []
  deriving DecidableEq, Repr

/-- The Forester's own condition (R360, R362). -/
inductive FoSt where
  | off | up | down | recovery
  deriving DecidableEq, Repr

/-- Phases of an SPDM exchange (R373). -/
inductive SpdmSt where
  | start | version | caps | negotiated | exchanging | session
  deriving DecidableEq, Repr

/-- The Forester (R359 to R375): a count of ticks since power-on, which is the model's own, boot state, measurement, layout journal, islands, frame table (R310), tenants, routes,
RAS, retirement, twin run, certificate, SPDM. `images` are the border-core firmware and boot images that it loads, in load
order; `badLinks` the links reported to it whose training found no common version (R355). `retList` is the retirement list as its
journal holds it: the frames, with whether the record is whole; `heldMarks` are the frames to mark once it is up again (R362),
`degraded` the stacks that it has reported as degraded, in order (R375). `peer` is the tenant whose session is open, 0 for the
operator's (R370, R371, R373). `fuseSecret` is the fused unique
secret, `chain` the certificate chain in flash, `bootKey` and `bootCert` the alias key of this boot and its certificate (R361). -/
structure Forester where
  st : FoSt := .off
  ticks : W64 := 0#64
  flashA : List Byte := []
  flashB : List Byte := []
  fuseSvn : Nat := 0
  fuseKey : List Byte := []
  fuseSecret : List Byte := []
  chain : List Byte := []
  bootKey : List Byte := []
  bootCert : List Byte := []
  meas : List Byte := []
  images : List (List Byte) := []
  badLinks : List Nat := []
  svn : Nat := 0
  abi : Nat := 0
  journal : List JRec := []
  lastSeq : Nat := 0
  islands : Store Island := []
  table : List W32 := []
  pendTable : Option (List W32) := none
  tabIx : Nat := 0
  tabCyc : Nat := 0
  tenants : Store Tenant := []
  routes : Store (BitVec 18) := []
  ras : Store Ras := []
  retList : List (Nat × Bool) := []
  heldMarks : List Nat := []
  degraded : List Nat := []
  twin : Option Twin := none
  cert : Option (List Byte) := none
  spdm : SpdmSt := .start
  peer : Nat := 0
  transcript : List Byte := []
  answer : Option (List W64) := none
  spdmAnswer : Option (Nat × List Byte) := none
  deriving DecidableEq, Repr

/-- The links (R353 to R358). -/
structure Links where
  ls : Store SLink := []
  colls : List Coll := []
  deriving DecidableEq, Repr

/-- A management command message (R363): the fields of its header, its argument words, and whether the session that
carried it was authenticated with the operator certificate. `code` is a CODE that names no command, where the message has such a
one; `reserved` holds the bits of the header's reserved fields in their places, and any other reserved bit that is set. -/
structure MgmtReq where
  code : Option (BitVec 8) := none
  mver : BitVec 4 := 1#4
  reserved : W64 := 0#64
  len : Nat := 0
  tag : BitVec 16 := 0#16
  args : List W64 := []
  authenticated : Bool := false
  deriving DecidableEq, Repr

/-- Why a trail walk ended (R99). -/
inductive TrailEnd where
  | limit | memory | source | host | cycle | hops
  deriving DecidableEq, Repr

/-- One line of a trail walk's report (R99): the element, its channel and consumer copy, and the three percentages. -/
structure TrailLine where
  elem : Elem
  chan : Option (Nat × Nat)
  full : Nat
  empty : Nat
  move : Nat
  deriving DecidableEq, Repr

/-- A trail walk (R99): its launch, start, direction, window, the cycle in which the window began, the counters then and at
the window's end (by channel and consumer copy), and the report. -/
structure Trail where
  lid : Nat
  start : Elem
  back : Bool
  window : Nat
  since : W64
  base : List (Nat × Nat × Nat × Nat × Nat)
  last : Option (List (Nat × Nat × Nat × Nat × Nat)) := none
  lines : List TrailLine := []
  reason : Option TrailEnd := none
  deriving DecidableEq, Repr

/-- The operands of the step that runs next: the plane and slot of a tile instruction, the core of a border word, and
the operands and outside data of a step without a word (assumption 1). -/
structure Ctx where
  pl : PlaneId := ⟨0, 1, 0⟩
  slot : Nat := 0
  core : Nat := 0
  l : Nat := 0
  g : Nat := 0
  n : Nat := 0
  k : Nat := 0
  rid : Nat := 0
  val : W64 := 0#64
  asid : BitVec 16 := 0#16
  va : BitVec 48 := 0#48
  flag : Bool := false
  flag2 : Bool := false
  tear : Bool := false
  bytes : List Byte := []
  rows : List (List W64) := []
  masks : List (BitVec 16) := []
  elem : Elem := .node 0
  cut : CutKind := .snap
  ep : EpId := .node 0 0 0
  mreq : MgmtReq := {}
  deriving DecidableEq, Repr

/-- A move: which agent acts next (assumption 1). `fire` runs the instruction of a slot of a mapped block, `core` the
word at a border core's pc, `coreErr` the same where its read of memory meets an error, `event` a step without a word, `tick` one tick of the glade cycle counters. -/
inductive Move where
  | fire (pl : PlaneId) (slot : Nat)
  | core (c : Nat)
  | coreErr (c : Nat) (uncorr : Bool)
  | event (i : Instr) (x : Ctx)
  | tick
  deriving DecidableEq, Repr

/-- The state of the machine. `debugger` holds what has reached the debugger's border core: F_BREAK tokens (R96, R335) and the
sample records that it has drained (R100). -/
structure State where
  cur : Ctx
  agenda : List Move
  freeCtr : Nat
  seqNo : Nat
  mem : List Host.Cell
  side : Store SideBits
  under : List UEnt
  bank : List BankLine
  bankMap : List BankMap
  tiles : Store Tile
  planes : Store Plane
  glades : Store Glade
  launches : Store Launch
  faults : List FaultRec
  copies : List CopyJob
  barq : List BarEnt
  bars : List Nat
  ports : Store Port
  prq : Prq
  invals : List Inval
  asids : Store AsidEnt
  frames : Store Frame
  paged : List PageSide
  ctxs : Store (Nat × Launch × Cut × Bool)
  cores : Store Core
  host : HostIf
  fo : Forester
  links : Links
  trail : Option Trail
  debugger : List (List W64)
  deriving DecidableEq, Repr

/-- Why a step stops. -/
inductive Fault where
  /-- Raised by a step that fires a slot whose word does not decode. Block fetch refuses every such word (R133), so no
  run reaches it: safe. -/
  | undecodedSlot
  deriving DecidableEq, Repr

/-- Why a step has no meaning. -/
inductive Refusal where
  /-- Raised by exec for an instruction that has no meaning yet; no arm uses it when the model is complete: safe. -/
  | notModelled (mnemonic : String)
  /-- Raised by a border core's step on a word outside custom-0: the base RV64GC instructions are the RISC-V
  architecture's, not rows of the opcode table and not described in spec/ (R251): safe. -/
  | baseRiscv
  deriving DecidableEq, Repr

/-- An island after power-on (R365, R368): QUIESCED, with its power register at its reset value. -/
def islandReset (i : Nat) : Nat × Island := (i, { first := i })

/-- The machine right after reset: powered on, the boot ROM not yet run (R360), no glade, nothing in memory, the frame
table with every weight 4 (R310). Values the spec does not give are those of assumption 6. -/
def State.reset : State where
  cur := {}
  agenda := []
  freeCtr := 0
  seqNo := 0
  mem := []
  side := []
  under := []
  bank := []
  bankMap := []
  tiles := []
  planes := []
  glades := []
  launches := []
  faults := []
  copies := []
  barq := []
  bars := []
  ports := []
  prq := {}
  invals := []
  asids := []
  frames := []
  paged := []
  ctxs := []
  cores := []
  host := {}
  fo := { islands := (List.range 24).map islandReset, table := List.replicate 16 0x21084#32 }
  links := {}
  trail := none
  debugger := []

end Sys2Proof.Machine
end

