-- ==== Sys2Proof/Machine/Numbers.lean ====
section
/-!
DEFINITION. Numbers (06): element types, exact dyadic arithmetic and its single rounding, the NaN modes, conversions,
the special functions of 09 R179, block scales and the matrix chunk of R119.
-/
namespace Sys2Proof.Machine

/-- Width in bits of an element type (R101). -/
def tyWidth : ETy → Nat
  | .i8 | .u8 | .e4m3 | .e5m2 => 8
  | .i16 | .u16 | .f16 | .bf16 => 16
  | .i32 | .u32 | .f32 => 32
  | .i64 | .u64 => 64

/-- Whether a type is a signed integer type. -/
def tySigned : ETy → Bool
  | .i8 | .i16 | .i32 | .i64 => true
  | _ => false

/-- Whether a type is an integer type. -/
def tyInt (t : ETy) : Bool := intTy.contains t

/-- The low `w` bits of a lane, as an unsigned number. -/
def lowBits (w : Nat) (x : W64) : Nat := x.toNat % 2 ^ w

/-- The low `w` bits of a lane, read as a two's-complement number. -/
def sLow (w : Nat) (x : W64) : Int :=
  let v := lowBits w x
  if v < 2 ^ (w - 1) then (v : Int) else (v : Int) - (2 ^ w : Nat)

/-- An element of an integer type as a number (R101). -/
def intOf (t : ETy) (x : W64) : Int := if tySigned t then sLow (tyWidth t) x else (lowBits (tyWidth t) x : Int)

/-- The canonical lane of a number taken modulo 2^width (R101, R102). -/
def canon (t : ETy) (v : Int) : W64 :=
  let w := tyWidth t
  let u := (v % (2 ^ w : Nat)).toNat
  if tySigned t && 2 ^ (w - 1) ≤ u then BitVec.ofInt 64 ((u : Int) - (2 ^ w : Nat)) else BitVec.ofNat 64 u

/-! ### Floating-point formats (R103) -/

/-- A format: mantissa bits, exponent bits, bias, and whether it has infinities and NaNs. -/
structure Fmt where
  mb : Nat
  eb : Nat
  bias : Nat
  hasInf : Bool
  hasNan : Bool
  deriving DecidableEq, Repr

def fF32 : Fmt := ⟨23, 8, 127, true, true⟩
def fF16 : Fmt := ⟨10, 5, 15, true, true⟩
def fBF16 : Fmt := ⟨7, 8, 127, true, true⟩
def fE4M3 : Fmt := ⟨3, 4, 7, false, true⟩
def fE5M2 : Fmt := ⟨2, 5, 15, true, true⟩
def fE3M2 : Fmt := ⟨2, 3, 3, false, false⟩
def fE2M3 : Fmt := ⟨3, 2, 1, false, false⟩
def fE2M1 : Fmt := ⟨1, 2, 1, false, false⟩

/-- The format of a floating-point element type. -/
def fmtOf : ETy → Fmt
  | .f16 => fF16
  | .bf16 => fBF16
  | .e4m3 => fE4M3
  | .e5m2 => fE5M2
  | _ => fF32

/-- A decoded number: a NaN (its sign and mantissa bits), an infinity, or the exact value ±m × 2^e. -/
inductive FV where
  | nan (neg : Bool) (man : Nat)
  | inf (neg : Bool)
  | fin (neg : Bool) (m : Nat) (e : Int)
  deriving DecidableEq, Repr

/-- The number that a code of a format stands for (R103). -/
def decodeF (f : Fmt) (code : Nat) : FV :=
  let man := code % 2 ^ f.mb
  let ex := code / 2 ^ f.mb % 2 ^ f.eb
  let neg := code / 2 ^ (f.mb + f.eb) % 2 = 1
  if f.hasInf && ex = 2 ^ f.eb - 1 then
    if man = 0 then .inf neg else .nan neg man
  else if f.hasNan && !f.hasInf && ex = 2 ^ f.eb - 1 && man = 2 ^ f.mb - 1 then .nan neg man
  else if ex = 0 then .fin neg man (1 - (f.bias : Int) - f.mb)
  else .fin neg (2 ^ f.mb + man) ((ex : Int) - f.bias - f.mb)

/-- The largest finite value of a format as a code without its sign. -/
def maxFinite (f : Fmt) : Nat :=
  if f.hasInf then (2 ^ f.eb - 1) * 2 ^ f.mb - 1
  else if f.hasNan then 2 ^ (f.eb + f.mb) - 2
  else 2 ^ (f.eb + f.mb) - 1

/-- Code of an infinity without its sign. -/
def infCode (f : Fmt) : Nat := (2 ^ f.eb - 1) * 2 ^ f.mb
/-- The canonical NaN (R104). -/
def nanCode (f : Fmt) : Nat :=
  if f.hasInf then (2 ^ f.eb - 1) * 2 ^ f.mb + 2 ^ (f.mb - 1) else 2 ^ (f.eb + f.mb) - 1
/-- The sign bit of a format. -/
def signBit (f : Fmt) (neg : Bool) : Nat := if neg then 2 ^ (f.eb + f.mb) else 0

/-- Rounding modes (R106). -/
inductive RM where
  | rne | rtz | rup | rdn
  deriving DecidableEq, Repr

/-- RMODE of a number policy word (R106). -/
def rmOf (npol : W32) : RM :=
  match (npol.extractLsb' 5 2).toNat with
  | 0 => .rne | 1 => .rtz | 2 => .rup | _ => .rdn

/-- NaN modes (R107). -/
inductive NanM where
  | propagate | quiet | strict
  deriving DecidableEq, Repr

/-- NANM of a number policy word (R106). -/
def nanmOf (npol : W32) : NanM :=
  match (npol.extractLsb' 2 2).toNat with
  | 0 => .propagate | 1 => .quiet | _ => .strict

def ftzi (npol : W32) : Bool := npol.getLsbD 0
def ftzo (npol : W32) : Bool := npol.getLsbD 1
def f8ns (npol : W32) : Bool := npol.getLsbD 4

/-- An integer nearest to n + rem/2^sh in the direction of the rounding mode; `rem < 2^sh`. -/
def roundUnit (rm : RM) (neg : Bool) (n rem sh : Nat) : Nat :=
  if rem = 0 then n
  else match rm with
    | .rtz => n
    | .rup => if neg then n else n + 1
    | .rdn => if neg then n + 1 else n
    | .rne =>
      let half := 2 ^ (sh - 1)
      if rem < half then n else if half < rem then n + 1 else if n % 2 = 0 then n else n + 1

/-- The result of a rounding: a code, or an overflow with its sign. -/
inductive RR where
  | code (c : Nat)
  | over (neg : Bool)
  deriving DecidableEq, Repr

/-- ±m × 2^e rounded once to a format (R108). A value known only to lie strictly above m × 2^e is given as
(2m + 1) × 2^(e-1) with enough bits of m. -/
def roundF (f : Fmt) (rm : RM) (neg : Bool) (m : Nat) (e : Int) : RR :=
  if m = 0 then .code (signBit f neg)
  else
    let top : Int := (Nat.log2 m : Int) + e
    let emin : Int := 1 - (f.bias : Int)
    let q : Int := (if top < emin then emin else top) - f.mb
    let n :=
      if q ≤ e then m <<< (e - q).toNat
      else
        let sh := (q - e).toNat
        if Nat.log2 m + 2 < sh then roundUnit rm neg 0 1 2
        else roundUnit rm neg (m >>> sh) (m % 2 ^ sh) sh
    let c :=
      if n < 2 ^ f.mb then n
      else ((q + f.mb + f.bias).toNat - 1) * 2 ^ f.mb + n
    if maxFinite f < c then .over neg else .code (signBit f neg + c)

/-- Overflow by R108: an infinity in the direction of the rounding, else the largest finite value. -/
def overIsInf (rm : RM) (neg : Bool) : Bool :=
  match rm with
  | .rne => true
  | .rtz => false
  | .rup => !neg
  | .rdn => neg

/-- A rounded code of F16, BF16 or F32 (R108). -/
def finishF (f : Fmt) (rm : RM) : RR → Nat
  | .code c => c
  | .over neg => signBit f neg + (if overIsInf rm neg then infCode f else maxFinite f)

/-- A subnormal code. -/
def isSub (f : Fmt) (c : Nat) : Bool :=
  let r := c % 2 ^ (f.eb + f.mb)
  decide (0 < r) && decide (r < 2 ^ f.mb)

/-- FTZO on a result of F16, BF16 or F32 (R106). -/
def flushOut (npol : W32) (f : Fmt) (c : Nat) : Nat :=
  if ftzo npol && isSub f c then c / 2 ^ (f.eb + f.mb) * 2 ^ (f.eb + f.mb) else c

/-- FTZI on a decoded operand (R106). -/
def flushIn (npol : W32) (f : Fmt) (c : Nat) : Nat :=
  if ftzi npol && isSub f c then c / 2 ^ (f.eb + f.mb) * 2 ^ (f.eb + f.mb) else c

/-- Rounded to a format, with FTZO. -/
def roundOut (npol : W32) (f : Fmt) (neg : Bool) (m : Nat) (e : Int) : Nat :=
  flushOut npol f (finishF f (rmOf npol) (roundF f (rmOf npol) neg m e))

/-- The NaN of a result format made from an operand's NaN: its sign and high mantissa bits with the quiet bit set
(R107). -/
def carryNan (src dst : Fmt) (neg : Bool) (man : Nat) : Nat :=
  if dst.hasInf then
    let man' := if src.mb ≤ dst.mb then man * 2 ^ (dst.mb - src.mb) else man / 2 ^ (src.mb - dst.mb)
    let quiet := if man' / 2 ^ (dst.mb - 1) % 2 = 1 then man' else man' + 2 ^ (dst.mb - 1)
    signBit dst neg + infCode dst + quiet
  else signBit dst neg + nanCode dst

/-- The outcome of one lane: a code, or an F_ARITH of STRICT mode. -/
inductive LR where
  | ok (c : Nat)
  | arith
  deriving DecidableEq, Repr

/-- A NaN operand in a result of format `f` (R107). -/
def nanResult (npol : W32) (f : Fmt) (neg : Bool) (man : Nat) : LR :=
  match nanmOf npol with
  | .propagate => .ok (carryNan f f neg man)
  | .quiet => .ok (nanCode f)
  | .strict => .arith

/-- An invalid operation (R107). -/
def invalid (npol : W32) (f : Fmt) : LR :=
  match nanmOf npol with
  | .strict => .arith
  | _ => .ok (nanCode f)

/-- The exact sum of two finite numbers: sign, magnitude and exponent; the sign of an exact zero is decided by the
operands and the rounding mode (R108, R182). -/
def addExact (rm : RM) (s1 : Bool) (m1 : Nat) (e1 : Int) (s2 : Bool) (m2 : Nat) (e2 : Int) : Bool × Nat × Int :=
  let e := if e1 ≤ e2 then e1 else e2
  let a := m1 <<< (e1 - e).toNat
  let b := m2 <<< (e2 - e).toNat
  if s1 = s2 then (s1, a + b, e)
  else if b < a then (s1, a - b, e)
  else if a < b then (s2, b - a, e)
  else (decide (rm = .rdn), 0, e)

/-- x + y in a format (R108). -/
def addF (npol : W32) (f : Fmt) (x y : FV) : LR :=
  match x, y with
  | .nan s m, _ => nanResult npol f s m
  | _, .nan s m => nanResult npol f s m
  | .inf a, .inf b => if a = b then .ok (signBit f a + infCode f) else invalid npol f
  | .inf a, _ => .ok (signBit f a + infCode f)
  | _, .inf b => .ok (signBit f b + infCode f)
  | .fin s1 m1 e1, .fin s2 m2 e2 =>
    let (s, m, e) := addExact (rmOf npol) s1 m1 e1 s2 m2 e2
    .ok (roundOut npol f s m e)

/-- −x. -/
def negFV : FV → FV
  | .nan s m => .nan s m
  | .inf s => .inf (!s)
  | .fin s m e => .fin (!s) m e

/-- x × y in a format (R108). -/
def mulF (npol : W32) (f : Fmt) (x y : FV) : LR :=
  match x, y with
  | .nan s m, _ => nanResult npol f s m
  | _, .nan s m => nanResult npol f s m
  | .inf a, .inf b => .ok (signBit f (a != b) + infCode f)
  | .inf a, .fin b m _ => if m = 0 then invalid npol f else .ok (signBit f (a != b) + infCode f)
  | .fin a m _, .inf b => if m = 0 then invalid npol f else .ok (signBit f (a != b) + infCode f)
  | .fin s1 m1 e1, .fin s2 m2 e2 => .ok (roundOut npol f (s1 != s2) (m1 * m2) (e1 + e2))

/-- x × y + z, rounded once (R176). -/
def fmaF (npol : W32) (f : Fmt) (x y z : FV) : LR :=
  match x, y, z with
  | .nan s m, _, _ => nanResult npol f s m
  | _, .nan s m, _ => nanResult npol f s m
  | _, _, .nan s m => nanResult npol f s m
  | .fin s1 m1 e1, .fin s2 m2 e2, .fin s3 m3 e3 =>
    let (s, m, e) := addExact (rmOf npol) (s1 != s2) (m1 * m2) (e1 + e2) s3 m3 e3
    .ok (roundOut npol f s m e)
  | .fin _ _ _, .fin _ _ _, .inf c => .ok (signBit f c + infCode f)
  | x, y, z =>
    let zeroTimesInf :=
      match x, y with
      | .fin _ 0 _, .inf _ => true
      | .inf _, .fin _ 0 _ => true
      | _, _ => false
    let sx := match x with | .nan s _ | .inf s | .fin s _ _ => s
    let sy := match y with | .nan s _ | .inf s | .fin s _ _ => s
    if zeroTimesInf then invalid npol f
    else match z with
      | .inf c => if (sx != sy) = c then .ok (signBit f c + infCode f) else invalid npol f
      | _ => .ok (signBit f (sx != sy) + infCode f)

/-- An integer square root by bits: `fuel` bits of the result. -/
def isqrtGo : Nat → Nat → Nat → Nat
  | 0, r, _ => r
  | k + 1, r, n => let t := r + 2 ^ k; if t * t ≤ n then isqrtGo k t n else isqrtGo k r n
/-- ⌊√n⌋. -/
def isqrt (n : Nat) : Nat := isqrtGo (Nat.log2 n / 2 + 1) 0 n

/-- The quotient m1 / m2 with a sticky last bit: value (2q + sticky) × 2^(-65). -/
def quoSticky (m1 m2 : Nat) : Nat :=
  let n := m1 <<< 64
  2 * (n / m2) + (if n % m2 = 0 then 0 else 1)

/-- x / y in a format (R107, R108). -/
def divF (npol : W32) (f : Fmt) (x y : FV) : LR :=
  match x, y with
  | .nan s m, _ => nanResult npol f s m
  | _, .nan s m => nanResult npol f s m
  | .inf _, .inf _ => invalid npol f
  | .inf a, .fin b _ _ => .ok (signBit f (a != b) + infCode f)
  | .fin a _ _, .inf b => .ok (signBit f (a != b))
  | .fin s1 m1 e1, .fin s2 m2 e2 =>
    if m2 = 0 then (if m1 = 0 then invalid npol f else .ok (signBit f (s1 != s2) + infCode f))
    else .ok (roundOut npol f (s1 != s2) (quoSticky m1 m2) (e1 - e2 - 65))

/-- √x in a format (R179). -/
def sqrtF (npol : W32) (f : Fmt) : FV → LR
  | .nan s m => nanResult npol f s m
  | .inf s => if s then invalid npol f else .ok (infCode f)
  | .fin s m e =>
    if m = 0 then .ok (signBit f s)
    else if s then invalid npol f
    else
      let m' := if e % 2 = 0 then m <<< 128 else (2 * m) <<< 128
      let e' := if e % 2 = 0 then e else e - 1
      let r := isqrt m'
      .ok (roundOut npol f false (2 * r + (if r * r = m' then 0 else 1)) (e' / 2 - 65))

/-- 1/√x in a format (R179). -/
def rsqF (npol : W32) (f : Fmt) : FV → LR
  | .nan s m => nanResult npol f s m
  | .inf s => if s then invalid npol f else .ok 0
  | .fin s m e =>
    if m = 0 then .ok (signBit f s + infCode f)
    else if s then invalid npol f
    else
      let m' := if e % 2 = 0 then m else 2 * m
      let e' := if e % 2 = 0 then e else e - 1
      let n := 2 ^ 200
      let r := isqrt (n / m')
      .ok (roundOut npol f false (2 * r + (if r * r * m' = n then 0 else 1)) (-(e' / 2) - 101))

/-! ### Special functions (R179): enclosures at growing precision

A real is enclosed as an interval of integers at P fraction bits. Each helper gives a value within its stated error. -/

/-- ⌊a × b / 2^P⌋ for fixed-point numbers. -/
def fxMul (p : Nat) (a b : Int) : Int := (a * b) / (2 ^ p : Nat)

/-- Σ xᵏ/k! for 0 ≤ x < 1 at P bits, `k` terms left; error below the number of terms in last places. -/
def expGo (p : Nat) (x : Int) : Nat → Nat → Int → Int → Int
  | 0, _, _, acc => acc
  | fuel + 1, k, t, acc => expGo p x fuel (k + 1) (fxMul p t x / (k : Nat)) (acc + t)

/-- Σ of the odd powers of 1/n for atanh(1/n) or atan(1/n), at P bits. -/
def atanGo (alt : Bool) (n2 : Nat) : Nat → Nat → Bool → Int → Int → Int
  | 0, _, _, _, acc => acc
  | fuel + 1, k, s, t, acc =>
    let term := t / (k : Nat)
    atanGo alt n2 fuel (k + 2) (!s) (t / (n2 : Nat)) (if alt && s then acc - term else acc + term)

/-- ln 2 = 2 atanh(1/3), at P bits. -/
def ln2 (p : Nat) : Int := 2 * atanGo false 9 (p / 3 + 4) 1 false ((2 ^ p : Nat) / 3) 0
/-- π = 16 atan(1/5) − 4 atan(1/239), at P bits. -/
def piFx (p : Nat) : Int :=
  16 * atanGo true 25 (p / 4 + 4) 1 false ((2 ^ p : Nat) / 5) 0
    - 4 * atanGo true 57121 (p / 15 + 4) 1 false ((2 ^ p : Nat) / 239) 0

/-- m × 2^e at P fraction bits, rounded down. -/
def toFx (p : Nat) (m : Nat) (e : Int) : Int :=
  if 0 ≤ e + p then ((m <<< (e + p).toNat : Nat) : Int) else ((m >>> (-(e + p)).toNat : Nat) : Int)

/-- An enclosure [lo, hi] × 2^(-p) of |f(x)|, with the sign kept apart. -/
structure Encl where
  lo : Int
  hi : Int
  p : Int
  deriving DecidableEq, Repr

/-- e^y for a fixed-point y (any sign, |y| < 2^14) as an enclosure. -/
def expFx (p : Nat) (y : Int) : Encl :=
  let l := ln2 p
  let n := y / l
  let r := y - n * l
  let v := expGo p r (p / 4 + 30) 1 (2 ^ p : Nat) 0
  let err : Int := (p : Int) + 64 + (if n < 0 then -n else n) * 4
  { lo := v - err, hi := v + err, p := (p : Int) - n }

/-- sin or cos of a reduced angle by its Taylor series. -/
def trigGo (p : Nat) (x2 : Int) : Nat → Nat → Int → Int → Int
  | 0, _, _, acc => acc
  | fuel + 1, k, t, acc => trigGo p x2 fuel (k + 2) (-(fxMul p t x2 / ((k + 1) * (k + 2) : Nat))) (acc + t)

/-- sin x (or cos x) for x = m × 2^e > 0: sign and enclosure of the magnitude. -/
def trigEncl (cosine : Bool) (p : Nat) (m : Nat) (e : Int) : Bool × Encl :=
  let big := p + 140
  let pi2 := piFx big / 2
  let x := toFx big m e
  let n := x / pi2
  let r := (x - n * pi2) / (2 ^ 140 : Nat)
  let quad := (n.toNat + (if cosine then 1 else 0)) % 4
  let useCos := quad % 2 = 1
  let x2 := fxMul p r r
  let v := if useCos then trigGo p x2 (p / 4 + 20) 0 (2 ^ p : Nat) 0 else trigGo p x2 (p / 4 + 20) 1 r 0
  (decide (2 ≤ quad), { lo := v - (p : Int) - 64, hi := v + (p : Int) + 64, p := p })

/-- log2 of m × 2^e > 0: sign and enclosure of the magnitude. -/
def logEncl (p : Nat) (m : Nat) (e : Int) : Bool × Encl :=
  let n : Int := (Nat.log2 m : Int) + e
  let one : Int := (2 ^ p : Nat)
  let f := toFx p m (-(Nat.log2 m : Int))
  let t := (f - one) * one / (f + one)
  let t2 := fxMul p t t
  let rec go : Nat → Nat → Int → Int → Int
    | 0, _, _, acc => acc
    | fuel + 1, k, u, acc => go fuel (k + 2) (fxMul p u t2) (acc + u / (k : Nat))
  let l := 2 * go (p / 3 + 8) 1 t 0
  let v := n * one + l * one / ln2 p
  let err : Int := 8 * (p : Int) + 64
  if v < 0 then (true, { lo := -v - err, hi := -v + err, p := p })
  else (false, { lo := v - err, hi := v + err, p := p })

/-- The functions of R179 that need an enclosure. -/
inductive SFn where
  | exp2 | log2 | sin | cos | tanh | sigm
  deriving DecidableEq, Repr

/-- The code of a function for the free value of assumption 15. -/
def sfnCode : SFn → Nat
  | .exp2 => 0 | .log2 => 1 | .sin => 2 | .cos => 3 | .tanh => 4 | .sigm => 5

/-- An enclosure of a ratio of two positive enclosures with the same p. -/
def divEncl (p : Nat) (nlo nhi dlo dhi : Int) : Encl :=
  { lo := nlo * (2 ^ p : Nat) / dhi - 1, hi := nhi * (2 ^ p : Nat) / dlo + 1, p := p }

/-- e^(-y) at exactly P fraction bits as bounds, for y ≥ 0. -/
def expNeg (p : Nat) (y : Int) : Int × Int :=
  let c := expFx p (-y)
  let sh := c.p - p
  if 0 ≤ sh then (c.lo / (2 ^ sh.toNat : Nat) - 1, c.hi / (2 ^ sh.toNat : Nat) + 1) else (c.lo, c.hi)

/-- sign and enclosure of a function at ±m × 2^e, m > 0, at precision P. -/
def sfnEncl (fn : SFn) (p : Nat) (neg : Bool) (m : Nat) (e : Int) : Bool × Encl :=
  let one : Int := (2 ^ p : Nat)
  match fn with
  | .log2 => logEncl p m e
  | .sin => let (s, c) := trigEncl false p m e; (s != neg, c)
  | .cos => trigEncl true p m e
  | .exp2 =>
    let x := toFx p m e
    let x := if neg then -x - 1 else x
    let n := x / one
    let v := expGo p (fxMul p (x - n * one) (ln2 p)) (p / 4 + 30) 1 one 0
    let err : Int := (p : Int) + 80
    (false, { lo := v - err, hi := v + err, p := (p : Int) - n })
  | .tanh =>
    let (lo, hi) := expNeg p (2 * toFx p m e)
    (neg, divEncl p (one - hi) (one - lo) (one + lo) (one + hi))
  | .sigm =>
    let (lo, hi) := expNeg p (toFx p m e)
    if neg then (false, divEncl p lo hi (one + lo) (one + hi))
    else (false, divEncl p one one (one + lo) (one + hi))

/-- Doubling precision until both ends of the enclosure round to one code. -/
def sfnGo (f : Fmt) (rm : RM) (fn : SFn) (neg : Bool) (m : Nat) (e : Int) : Nat → Nat → Option RR
  | 0, _ => none
  | fuel + 1, p =>
    let (s, c) := sfnEncl fn p neg m e
    if 0 < c.lo && roundF f rm s (2 * c.lo.toNat + 1) (-c.p - 1) = roundF f rm s (2 * c.hi.toNat + 1) (-c.p - 1) then
      some (roundF f rm s (2 * c.lo.toNat + 1) (-c.p - 1))
    else sfnGo f rm fn neg m e fuel (2 * p)

/-- The value of a function that is far below or above every format's reach, or the rounded enclosure. -/
def sfnFin (f : Fmt) (rm : RM) (fn : SFn) (neg : Bool) (m : Nat) (e : Int) : Option RR :=
  let top : Int := (Nat.log2 m : Int) + e
  match fn with
  | .exp2 =>
    if 0 ≤ e ∧ top < 10 then
      let n : Int := (m <<< e.toNat : Nat)
      some (roundF f rm false 1 (if neg then -n else n))
    else if e < 0 ∧ m % 2 ^ (-e).toNat = 0 ∧ top < 10 then
      let n : Int := (m >>> (-e).toNat : Nat)
      some (roundF f rm false 1 (if neg then -n else n))
    else if 10 ≤ top then (if neg then some (roundF f rm false 3 (-1000)) else some (.over false))
    else sfnGo f rm fn neg m e 6 64
  | .log2 =>
    if m = 2 ^ Nat.log2 m then
      some (roundF f rm (decide (top < 0)) top.natAbs 0)
    else sfnGo f rm fn neg m e 6 64
  | .tanh =>
    if 8 ≤ top then some (roundF f rm neg (2 ^ 200 - 1) (-200))
    else sfnGo f rm fn neg m e 6 64
  | .sigm =>
    if 9 ≤ top then
      (if neg then some (roundF f rm false 3 (-1000)) else some (roundF f rm false (2 ^ 200 - 1) (-200)))
    else sfnGo f rm fn neg m e 6 64
  | .sin | .cos => sfnGo f rm fn neg m e 6 64

/-- A function of R179 in a format, with its special inputs. -/
def sfnF (npol : W32) (f : Fmt) (tyc : Nat) (fn : SFn) (raw : W64) (x : FV) : LR :=
  let rm := rmOf npol
  let one := infCode f / 2 ^ f.mb / 2 * 2 ^ f.mb
  match x with
  | .nan s m => nanResult npol f s m
  | .inf s =>
    match fn with
    | .exp2 => .ok (if s then 0 else infCode f)
    | .log2 => if s then invalid npol f else .ok (infCode f)
    | .sin | .cos => invalid npol f
    | .tanh => .ok (signBit f s + one)
    | .sigm => .ok (if s then 0 else one)
  | .fin s m e =>
    if m = 0 then
      match fn with
      | .exp2 | .cos => .ok one
      | .log2 => .ok (signBit f true + infCode f)
      | .sin | .tanh => .ok (signBit f s)
      | .sigm => .ok (one - 2 ^ f.mb)
    else if fn = .log2 ∧ s then invalid npol f
    else match sfnFin f rm fn s m e with
      | some r => .ok (flushOut npol f (finishF f rm r))
      | none => .ok (lowBits (1 + f.eb + f.mb) (Config.special (sfnCode fn) tyc raw (npol.extractLsb' 5 2).toNat))

/-! ### Lanes of floating-point type -/

/-- A lane decoded after FTZI (R106). -/
def laneF (npol : W32) (t : ETy) (x : W64) : FV :=
  decodeF (fmtOf t) (flushIn npol (fmtOf t) (lowBits (tyWidth t) x))

/-- The sign, and the ordering of finite numbers and infinities with −0 below +0 (R177): a key that rises. -/
def orderKey (f : Fmt) (c : Nat) : Int :=
  let r := c % 2 ^ (f.eb + f.mb)
  if c / 2 ^ (f.eb + f.mb) % 2 = 1 then -(r : Int) - 1 else r

/-- Floating-point min and max (R177). -/
def minmaxF (npol : W32) (f : Fmt) (mx : Bool) (a b : Nat) : LR :=
  match decodeF f a, decodeF f b with
  | .nan s m, _ => nanResult npol f s m
  | _, .nan s m => nanResult npol f s m
  | _, _ => .ok (flushOut npol f (if (orderKey f a ≤ orderKey f b) = !mx then a else b))

/-- Exact comparison of two codes that are not NaN: −0 equals +0 (R178). -/
def cmpKey (f : Fmt) (c : Nat) : Int :=
  let r := c % 2 ^ (f.eb + f.mb)
  if c / 2 ^ (f.eb + f.mb) % 2 = 1 then -(r : Int) else r

/-- The exact sum of a list of decoded numbers, rounded once (R182). -/
structure FSum where
  nan : Option (Bool × Nat) := none
  pinf : Bool := false
  ninf : Bool := false
  allNegZero : Bool := true
  neg : Bool := false
  m : Nat := 0
  e : Int := 0
  deriving DecidableEq, Repr

/-- One more term. -/
def FSum.add (a : FSum) : FV → FSum
  | .nan s m => { a with nan := a.nan.or (some (s, m)), allNegZero := false }
  | .inf s => if s then { a with ninf := true, allNegZero := false } else { a with pinf := true, allNegZero := false }
  | .fin s m e =>
    let nz := a.allNegZero && s && m = 0
    if a.m = 0 then { a with neg := s, m := m, e := e, allNegZero := nz }
    else
      let (s', m', e') := addExact .rne a.neg a.m a.e s m e
      { a with neg := s', m := m', e := e', allNegZero := nz }

/-- The rounded sum; `any` tells whether there was a term. -/
def FSum.finish (npol : W32) (f : Fmt) (any : Bool) (a : FSum) : LR :=
  match a.nan with
  | some (s, m) => nanResult npol f s m
  | none =>
    if a.pinf && a.ninf then invalid npol f
    else if a.pinf then .ok (infCode f)
    else if a.ninf then .ok (signBit f true + infCode f)
    else if a.m = 0 then .ok (signBit f (any && (a.allNegZero || decide (rmOf npol = .rdn))))
    else .ok (roundOut npol f a.neg a.m a.e)

/-! ### Conversions (R109) -/

/-- A rounded code into an 8-bit format: overflow by F8NS. -/
def finish8 (npol : W32) (f : Fmt) : RR → Nat
  | .code c => c
  | .over neg =>
    if overIsInf (rmOf npol) neg then
      (if f8ns npol then signBit f neg + (if f.hasInf then infCode f else nanCode f) else signBit f neg + maxFinite f)
    else signBit f neg + maxFinite f

/-- A finite number to a floating-point element type. -/
def toFloat (npol : W32) (t : ETy) (neg : Bool) (m : Nat) (e : Int) : Nat :=
  let f := fmtOf t
  match t with
  | .e4m3 | .e5m2 => finish8 npol f (roundF f (rmOf npol) neg m e)
  | _ => roundOut npol f neg m e

/-- Rounded to an integer by RMODE. -/
def toIntRound (rm : RM) (neg : Bool) (m : Nat) (e : Int) : Int :=
  let n :=
    if 0 ≤ e then m <<< e.toNat
    else
      let sh := (-e).toNat
      if Nat.log2 m + 2 < sh then (if m = 0 then 0 else roundUnit rm neg 0 1 2)
      else roundUnit rm neg (m >>> sh) (m % 2 ^ sh) sh
  if neg then -(n : Int) else n

/-- The range of an integer type. -/
def tyMin (t : ETy) : Int := if tySigned t then -(2 ^ (tyWidth t - 1) : Nat) else 0
def tyMax (t : ETy) : Int := if tySigned t then (2 ^ (tyWidth t - 1) : Nat) - 1 else (2 ^ tyWidth t : Nat) - 1

/-- One lane of VCVT from `src` to `dst` (R109, R183). -/
def cvtLane (npol : W32) (src dst : ETy) (x : W64) : Except Unit W64 :=
  if tyInt src then
    if tyInt dst then .ok (canon dst (intOf src x))
    else
      let v := intOf src x
      .ok (BitVec.ofNat 64 (toFloat npol dst (decide (v < 0)) v.natAbs 0))
  else
    let fs := fmtOf src
    match laneF npol src x with
    | .nan s m =>
      if nanmOf npol = .strict then .error ()
      else if tyInt dst then .ok 0#64
      else
        let fd := fmtOf dst
        if nanmOf npol = .quiet then .ok (BitVec.ofNat 64 (nanCode fd))
        else if src = dst && dst = .e4m3 then .ok (BitVec.ofNat 64 (lowBits 8 x))
        else if dst = .e4m3 || (dst = .e5m2 && src ≠ .e5m2) then .ok (BitVec.ofNat 64 (nanCode fd))
        else .ok (BitVec.ofNat 64 (carryNan fs fd s m))
    | .inf s =>
      if tyInt dst then .ok (canon dst (if s then tyMin dst else tyMax dst))
      else
        let fd := fmtOf dst
        match dst with
        | .e4m3 => .ok (BitVec.ofNat 64 (signBit fd s + (if f8ns npol then nanCode fd else maxFinite fd)))
        | .e5m2 =>
          if src = .e5m2 then .ok (BitVec.ofNat 64 (signBit fd s + infCode fd))
          else .ok (BitVec.ofNat 64 (signBit fd s + (if f8ns npol then infCode fd else maxFinite fd)))
        | _ => .ok (BitVec.ofNat 64 (signBit fd s + infCode fd))
    | .fin s m e =>
      if tyInt dst then
        let v := toIntRound (rmOf npol) s m e
        .ok (canon dst (if v < tyMin dst then tyMin dst else if tyMax dst < v then tyMax dst else v))
      else .ok (BitVec.ofNat 64 (toFloat npol dst s m e))

/-! ### Block scales (R110 to R116) -/

/-- Matrix and quantiser formats (R113): their codes 0 to 9. -/
inductive MFmt where
  | bf16 | fp16 | e4m3 | e5m2 | e3m2 | e2m3 | e2m1 | cb4 | int8 | int4
  deriving DecidableEq, Repr

def mfmtOf (c : Nat) : Option MFmt :=
  match c with
  | 0 => some .bf16 | 1 => some .fp16 | 2 => some .e4m3 | 3 => some .e5m2 | 4 => some .e3m2
  | 5 => some .e2m3 | 6 => some .e2m1 | 7 => some .cb4 | 8 => some .int8 | 9 => some .int4
  | _ => none

def mfmtWidth : MFmt → Nat
  | .bf16 | .fp16 => 16
  | .e4m3 | .e5m2 | .int8 => 8
  | .e3m2 | .e2m3 => 6
  | .e2m1 | .cb4 | .int4 => 4

def mfmtScaled : MFmt → Bool
  | .e4m3 | .e5m2 | .e3m2 | .e2m3 | .e2m1 | .cb4 => true
  | _ => false

def mfmtF : MFmt → Fmt
  | .bf16 => fBF16 | .fp16 => fF16 | .e4m3 => fE4M3 | .e5m2 => fE5M2
  | .e3m2 => fE3M2 | .e2m3 => fE2M3 | _ => fE2M1

/-- emax of a format (R103). -/
def mfmtEmax : MFmt → Int
  | .e4m3 => 8 | .e5m2 => 15 | .e3m2 => 4 | .e2m3 => 2 | .e2m1 => 2 | _ => 0

/-- QFMT of a policy word (R106). -/
def qfmtOf (npol : W32) : Option MFmt := mfmtOf (npol.extractLsb' 16 4).toNat

/-- Entry i of a codebook register (R115). -/
def cbEntry (cb : BitVec 256) (i : Nat) : Nat := (cb.extractLsb' (16 * i) 16).toNat

/-- emax(CB4): the exponent of the largest finite nonzero entry (R115). -/
def cbEmax (cb : BitVec 256) : Option Int :=
  (List.range 16).foldl (fun acc i =>
    match decodeF fBF16 (cbEntry cb i) with
    | .fin _ m e =>
      if m = 0 then acc
      else
        let k : Int := (Nat.log2 m : Int) + e
        match acc with
        | none => some k
        | some a => some (if a < k then k else a)
    | _ => acc) none

/-- |a − b| for exact numbers as a magnitude at a common exponent. -/
def distF (s1 : Bool) (m1 : Nat) (e1 : Int) (s2 : Bool) (m2 : Nat) (e2 : Int) : Nat × Int :=
  let (_, m, e) := addExact .rne s1 m1 e1 (!s2) m2 e2
  (m, e)

/-- m1 × 2^e1 < m2 × 2^e2. -/
def ltMag (m1 : Nat) (e1 : Int) (m2 : Nat) (e2 : Int) : Bool :=
  let e := if e1 ≤ e2 then e1 else e2
  decide (m1 <<< (e1 - e).toNat < m2 <<< (e2 - e).toNat)

/-- The finite entry nearest to y; a tie goes to the lower index (R115, R239). -/
def cbNearest (cb : BitVec 256) (s : Bool) (m : Nat) (e : Int) : Nat :=
  ((List.range 16).foldl (fun (acc : Option (Nat × Nat × Int)) i =>
    match decodeF fBF16 (cbEntry cb i) with
    | .fin s2 m2 e2 =>
      let d := distF s m e s2 m2 e2
      match acc with
      | none => some (i, d.1, d.2)
      | some (j, dm, de) => if ltMag d.1 d.2 dm de then some (i, d.1, d.2) else some (j, dm, de)
    | _ => acc) none).elim 0 (·.1)

/-- quantise(y) to a floating-point block format: rounded by RMODE, saturated (R112). -/
def quantF (npol : W32) (q : MFmt) (s : Bool) (m : Nat) (e : Int) : Nat :=
  let f := mfmtF q
  match roundF f (rmOf npol) s m e with
  | .code c => c
  | .over neg => signBit f neg + maxFinite f

/-- floor(log2 |x|) of a finite nonzero number. -/
def flog2 (m : Nat) (e : Int) : Int := (Nat.log2 m : Int) + e

/-- The largest magnitude among decoded finite numbers. -/
def maxMag (xs : List FV) : Nat × Int :=
  xs.foldl (fun (acc : Nat × Int) x =>
    match x with
    | .fin _ m e => if ltMag acc.1 acc.2 m e then (m, e) else acc
    | _ => acc) (0, 0)

/-- Bits of a packed block (R110): element j at bits (j+1)w−1 down to jw. -/
def packBits (w : Nat) (codes : List Nat) : Nat :=
  (codes.zipIdx).foldl (fun acc (c, j) => acc + (c % 2 ^ w) * 2 ^ (w * j)) 0

/-- Lanes of a packed block with its scale code in lane 63 (R110). -/
def packBlock (w : Nat) (codes : List Nat) (scale : Nat) : Lanes :=
  let n := packBits w codes
  (List.range 64).map fun i => if i = 63 then BitVec.ofNat 64 scale else BitVec.ofNat 64 (n / 2 ^ (64 * i) % 2 ^ 64)

/-- The scale code and element codes of a block (R111, R238, R239). `xs` are the elements after FTZI, `none` for a lane
that is not active; `amax` is the magnitude that sets the scale, `none` when a NaN or infinity makes the block
unscalable. Where `amax` is 0 and some active element is not (VQNT with m = 0), each is quantised with scale code 0, so that larger
ones saturate: DESIGN CHOICE (assumption 42). -/
def blockCodes (npol : W32) (q : MFmt) (cb : BitVec 256) (emax : Int) (xs : List (Option FV))
    (amax : Option (Nat × Int)) : Nat × List Nat :=
  match amax with
  | none => (255, xs.map fun _ => 0)
  | some (am, ae) =>
    let top := 2 ^ (mfmtWidth q - 1)
    if am = 0 then
      (0, xs.map fun x => match x with
        | some (.fin s m e) =>
          if m = 0 then (if s then top else 0)
          else if q = .cb4 then cbNearest cb s m (e + 127) else quantF npol q s m (e + 127)
        | _ => 0)
    else
      let ex := flog2 am ae - emax
      let ex := if ex < -127 then -127 else ex
      ((ex + 127).toNat, xs.map fun x => match x with
        | some (.fin s m e) => if q = .cb4 then cbNearest cb s m (e - ex) else quantF npol q s m (e - ex)
        | _ => 0)

/-- The decoded value of an element code under a scale code (R116). -/
def decodeElem (npol : W32) (q : MFmt) (cb : BitVec 256) (code scale : Nat) : FV :=
  let v :=
    match q with
    | .cb4 => decodeF fBF16 (flushIn npol fBF16 (cbEntry cb (code % 16)))
    | .int8 => let x := sLow 8 (BitVec.ofNat 64 code); .fin (decide (x < 0)) x.natAbs 0
    | .int4 => let x := sLow 4 (BitVec.ofNat 64 code); .fin (decide (x < 0)) x.natAbs 0
    | _ => decodeF (mfmtF q) (flushIn npol (mfmtF q) (code % 2 ^ mfmtWidth q))
  if mfmtScaled q then
    if scale = 255 then .nan false 0
    else match v with
      | .fin s m e => .fin s m (e + (scale : Int) - 127)
      | x => x
  else v

/-! ### The matrix chunk (R118 to R120) -/

/-- One exact product (R118). -/
def mulExact : FV → FV → FV
  | .nan s m, _ => .nan s m
  | _, .nan s m => .nan s m
  | .inf a, .inf b => .inf (a != b)
  | .inf a, .fin b m _ => if m = 0 then .nan false 0 else .inf (a != b)
  | .fin a m _, .inf b => if m = 0 then .nan false 0 else .inf (a != b)
  | .fin s1 m1 e1, .fin s2 m2 e2 => .fin (s1 != s2) (m1 * m2) (e1 + e2)

/-- RNE with FTZO to F32, the only rounding of the matrix path (R119). -/
def rneF32 (npol : W32) (neg : Bool) (m : Nat) (e : Int) : Nat :=
  flushOut npol fF32 (finishF fF32 .rne (roundF fF32 .rne neg m e))

/-- s of one chunk from its real products (R119, R120): a code, or `none` where s would be NaN. -/
def chunkSum (npol : W32) (ps : List FV) : Option Nat :=
  let isNan := ps.any fun p => match p with | .nan _ _ => true | _ => false
  let pinf := ps.any fun p => decide (p = .inf false)
  let ninf := ps.any fun p => decide (p = .inf true)
  if isNan || (pinf && ninf) then none
  else if pinf then some (infCode fF32)
  else if ninf then some (signBit fF32 true + infCode fF32)
  else
    let nz := ps.filterMap fun p => match p with
      | .fin s m e => if m = 0 then none else some (s, m, e)
      | _ => none
    match nz with
    | [] =>
      some (signBit fF32 (!ps.isEmpty && ps.all fun p => match p with | .fin s _ _ => s | _ => false))
    | (_, m0, e0) :: rest =>
      let e := rest.foldl (fun a (_, m, x) => let k := flog2 m x; if a < k then k else a) (flog2 m0 e0)
      let u := e - 50
      let q := nz.foldl (fun (acc : Int) (s, m, x) =>
        let n : Int := if u ≤ x then (m <<< (x - u).toNat : Nat) else (m >>> (u - x).toNat : Nat)
        if s then acc - n else acc + n) 0
      some (rneF32 npol (decide (q < 0)) q.natAbs u)

/-- acc := RNE_FP32_add(acc, s) (R119, R120): `none` where the addition is invalid or meets a NaN. -/
def accAdd (npol : W32) (acc s : Nat) : Option Nat :=
  match decodeF fF32 acc, decodeF fF32 s with
  | .nan _ _, _ => none
  | _, .nan _ _ => none
  | .inf a, .inf b => if a = b then some acc else none
  | .inf _, _ => some acc
  | _, .inf _ => some s
  | .fin s1 m1 e1, .fin s2 m2 e2 =>
    let (n, m, e) := addExact .rne s1 m1 e1 s2 m2 e2
    some (rneF32 npol n m e)

/-- An F32 addition rounded RNE with subnormals kept and canonical NaN (R206, R358). -/
def addF32Plain (a b : W64) : W64 :=
  match addF 0#32 fF32 (decodeF fF32 (lowBits 32 a)) (decodeF fF32 (lowBits 32 b)) with
  | .ok c =>
    match decodeF fF32 c with
    | .nan _ _ => BitVec.ofNat 64 (nanCode fF32)
    | _ => BitVec.ofNat 64 c
  | .arith => BitVec.ofNat 64 (nanCode fF32)

end Sys2Proof.Machine
end

