-- ==== Sys2Proof/Machine/Ops.lean ====
section
/-!
DEFINITION. Named operations over stores, memory, planes, tiles, glades and launches; raising a fault (R333 to R338)
and resolving one; the exception entry and return of a border core.
-/
namespace Sys2Proof.Machine

/-! ### Stores -/

/-- The value of a key. -/
def Store.get? {α : Type} : Store α → Nat → Option α
  | [], _ => none
  | (a, x) :: t, k => if a = k then some x else Store.get? t k

/-- The value of a key, or a default. -/
def Store.getD {α : Type} (m : Store α) (k : Nat) (d : α) : α := (Store.get? m k).getD d

/-- Sets a key, keeping the keys rising. -/
def Store.set {α : Type} : Store α → Nat → α → Store α
  | [], k, v => [(k, v)]
  | (a, x) :: t, k, v =>
    if k < a then (k, v) :: (a, x) :: t
    else if k = a then (k, v) :: t
    else (a, x) :: Store.set t k v

/-- Removes a key. -/
def Store.del {α : Type} : Store α → Nat → Store α
  | [], _ => []
  | (a, x) :: t, k => if a = k then t else (a, x) :: Store.del t k

/-- Applies a function to every value. -/
def Store.mapV {α : Type} (f : Nat → α → α) (m : Store α) : Store α := m.map fun (k, x) => (k, f k x)

/-! ### Memory -/

/-- Memory: listed bytes with rising addresses, none equal to what an unlisted address reads as. -/
abbrev Memory := List Host.Cell

/-- The canonical form. -/
def Memory.wf : Memory → Bool
  | [] => true
  | [(_, b)] => b != Config.unlisted
  | (a, b) :: (a', b') :: t => b != Config.unlisted && decide (a < a') && Memory.wf ((a', b') :: t)

/-- The byte at an address. -/
def Memory.read : Memory → Nat → Byte
  | [], _ => Config.unlisted
  | (a, b) :: t, k => if a = k then b else Memory.read t k

/-- Writes one byte, keeping the canonical form. -/
def Memory.write : Memory → Nat → Byte → Memory
  | [], k, v => if v = Config.unlisted then [] else [(k, v)]
  | (a, b) :: t, k, v =>
    if k < a then (if v = Config.unlisted then (a, b) :: t else (k, v) :: (a, b) :: t)
    else if k = a then (if v = Config.unlisted then t else (k, v) :: t)
    else (a, b) :: Memory.write t k v

/-- `n` bytes from an address upward. -/
def Memory.readBytes (m : Memory) (a n : Nat) : List Byte := (List.range n).map fun i => m.read (a + i)

/-- Writes bytes from an address upward. -/
def Memory.writeBytes : Memory → Nat → List Byte → Memory
  | m, _, [] => m
  | m, a, b :: t => Memory.writeBytes (m.write a b) (a + 1) t

/-- The little-endian number of some bytes (R3). -/
def leNat : List Byte → Nat
  | [] => 0
  | b :: t => b.toNat + 256 * leNat t

/-- The little-endian word of some bytes. -/
def le64 (bs : List Byte) : W64 := BitVec.ofNat 64 (leNat bs)

/-- `n` little-endian bytes of a number. -/
def toLE : Nat → Nat → List Byte
  | 0, _ => []
  | n + 1, x => BitVec.ofNat 8 x :: toLE n (x / 256)

/-- The 64-bit words of some bytes. -/
def wordsOf : Nat → List Byte → List W64
  | 0, _ => []
  | n + 1, bs => le64 (bs.take 8) :: wordsOf n (bs.drop 8)

/-- The bytes of some words. -/
def bytesOfWords (ws : List W64) : List Byte := (ws.map fun w => toLE 8 w.toNat).flatten

/-- Bits hi:lo of a little-endian record. -/
def recBits (bs : List Byte) (hi lo : Nat) : Nat := leNat bs / 2 ^ lo % 2 ^ (hi + 1 - lo)

/-- Bits hi:lo of a number. -/
def bitsOf (x hi lo : Nat) : Nat := x / 2 ^ lo % 2 ^ (hi + 1 - lo)

/-! ### Keys -/

def tileIx (col row : Nat) : Nat := row * 96 + col
def planeKey (p : PlaneId) : Nat := tileIx p.col p.row * 4 + p.plane
/-- Whether a tile is a compute tile (R29). -/
def isCompute (col row : Nat) : Bool := (col + row) % 2 = 1
/-- Local store of a compute tile (R11). -/
def localKey (tile off : Nat) : Nat := 2 ^ 57 + tile * 2 ^ 16 + off
/-- SRAM of a memory tile (R67). -/
def sramKey (tile off : Nat) : Nat := 2 ^ 56 + tile * 2 ^ 19 + off
/-- Weight store of a compute tile (R11). -/
def weightKey (tile off : Nat) : Nat := 2 ^ 58 + tile * 2 ^ 13 + off
/-- Host memory (R352). -/
def hostKey (hpa : Nat) : Nat := 2 ^ 59 + hpa
/-- Memory of a link peer (R354): peer number and peer physical address. -/
def peerKey (pa : Nat) : Nat := 2 ^ 60 + pa
/-- Code of a border core. -/
def coreKey (core pc : Nat) : Nat := 2 ^ 68 + core * 2 ^ 64 + pc
/-- The edge block of a column: top 0, bottom 1 (R327). -/
def edgeIx (col row : Nat) : Nat := col * 2 + (if row < 32 then 0 else 1)
/-- A stream port (R267), and the port of the I/O die (R351). -/
def portIx (col edge port : Nat) : Nat := (col * 2 + edge) * 4 + port
def ioPort : Nat := 768

/-! ### Accessors -/

def State.plane (s : State) (p : PlaneId) : Plane := Store.getD s.planes (planeKey p) {}
def State.setPlane (s : State) (p : PlaneId) (x : Plane) : State := { s with planes := Store.set s.planes (planeKey p) x }
def State.tile (s : State) (ix : Nat) : Tile := Store.getD s.tiles ix {}
def State.setTile (s : State) (ix : Nat) (x : Tile) : State := { s with tiles := Store.set s.tiles ix x }
def State.glade? (s : State) (g : Nat) : Option Glade := Store.get? s.glades g
def State.setGlade (s : State) (g : Nat) (x : Glade) : State := { s with glades := Store.set s.glades g x }
def State.launch? (s : State) (l : Nat) : Option Launch := Store.get? s.launches l
def State.setLaunch (s : State) (l : Nat) (x : Launch) : State := { s with launches := Store.set s.launches l x }
def State.core (s : State) (c : Nat) : Core := Store.getD s.cores c {}
def State.setCore (s : State) (c : Nat) (x : Core) : State := { s with cores := Store.set s.cores c x }
def State.port (s : State) (p : Nat) : Port := Store.getD s.ports p {}
def State.setPort (s : State) (p : Nat) (x : Port) : State := { s with ports := Store.set s.ports p x }
def State.island (s : State) (i : Nat) : Island := Store.getD s.fo.islands i {}
def State.tenant (s : State) (t : Nat) : Tenant := Store.getD s.fo.tenants t {}
def State.setTenant (s : State) (t : Nat) (x : Tenant) : State :=
  { s with fo := { s.fo with tenants := Store.set s.fo.tenants t x } }
def State.frame (s : State) (f : Nat) : Frame := Store.getD s.frames f {}
def State.setFrame (s : State) (f : Nat) (x : Frame) : State := { s with frames := Store.set s.frames f x }
def State.modPlane (s : State) (p : PlaneId) (f : Plane → Plane) : State := s.setPlane p (f (s.plane p))
def State.modGlade (s : State) (g : Nat) (f : Glade → Glade) : State :=
  match s.glade? g with
  | some x => s.setGlade g (f x)
  | none => s
def State.modLaunch (s : State) (l : Nat) (f : Launch → Launch) : State :=
  match s.launch? l with
  | some x => s.setLaunch l (f x)
  | none => s
/-- A fresh number of the model's own. -/
def State.fresh (s : State) : Nat × State := (s.seqNo, { s with seqNo := s.seqNo + 1 })
/-- A fresh index of a free value. -/
def State.freeIx (s : State) : Nat × State := (s.freeCtr, { s with freeCtr := s.freeCtr + 1 })

/-- The glade that holds a column (R365): the first island of its island's glade, if ACTIVE or PENDING there. -/
def State.gladeOf (s : State) (col : Nat) : Nat := (s.island (col / 4)).first
/-- The glade cycle counter of a glade; 0 where none (R162). -/
def State.cycle (s : State) (g : Nat) : W64 := match s.glade? g with | some x => x.cycle | none => 0#64

/-! ### Values -/

def scalarVal (v : W64) (t : ETy) : Val := .dat ⟨.scalar, [v], t, 1#64⟩
def maskVal (v : W64) : Val := .dat ⟨.mask, [v], .u64, 1#64⟩
/-- The 64 lanes given by a function of the lane number. -/
def mkLanes (f : Nat → W64) : Lanes := (List.range 64).map f
def laneAt (l : Lanes) (j : Nat) : W64 := l.getD j 0#64
def Datum.bits (d : Datum) : W64 := laneAt d.lanes 0
def bitAt (m : W64) (j : Nat) : Bool := m.getLsbD j
/-- A mask from a predicate on lane numbers. -/
def mkMask (f : Nat → Bool) : W64 :=
  BitVec.ofNat 64 ((List.range 64).foldl (fun acc j => if f j then acc + 2 ^ j else acc) 0)
/-- 2^n − 1 as a lane mask. -/
def prefMask (n : Nat) : W64 := BitVec.ofNat 64 (2 ^ n - 1)
def allOnes : W64 := BitVec.allOnes 64
def vecVal (l : Lanes) (t : ETy) (m : W64) : Val := .dat ⟨.vector, l, t, m⟩

/-! ### Registers of a plane -/

def Plane.sreg (p : Plane) (n : Nat) : W64 := Store.getD p.sregs n 0#64
def Plane.vreg (p : Plane) (n : Nat) : Lanes := Store.getD p.vregs n (mkLanes fun _ => 0#64)
def Plane.mreg (p : Plane) (n : Nat) : W64 := Store.getD p.mregs n 0#64
def Plane.inp (p : Plane) (n : Nat) : Endpoint := Store.getD p.ins n {}
def Plane.out (p : Plane) (n : Nat) : OutEp := Store.getD p.outs n {}

/-! ### The image of a plane's launch -/

/-- The actor record of a plane, if a launch holds it. -/
def State.actorOf (s : State) (p : PlaneId) : Option (Nat × Launch × ActorRec) :=
  match (s.plane p).launch with
  | none => none
  | some l =>
    match s.launch? l with
    | none => none
    | some x => (x.img.actors[(s.plane p).actor]?).map fun a => (l, x, a)

/-- Place of copy j of an actor (R29), in absolute coordinates from a first column. -/
def copyTile (first : Nat) (a : ActorRec) (j : Nat) : Nat × Nat :=
  let c0 := first + a.col
  if a.colwise then (if (c0 + a.row + j) % 2 = 1 then c0 else c0 + 1, a.row + j)
  else (c0 + j, if (c0 + j + a.row) % 2 = 1 then a.row else a.row + 1)

/-- First column of a launch's glade. -/
def firstCol (g : Nat) : Nat := 4 * g

/-- The plane of copy j of actor a of a launch. -/
def Launch.planeOf (x : Launch) (a j : Nat) : Option PlaneId :=
  match x.img.actors[a]?, x.plane with
  | some r, some p => let (c, w) := copyTile (firstCol x.glade) r j; some ⟨c, w, p⟩
  | _, _ => none

/-- Every (actor, copy) of a launch. -/
def Launch.copies (x : Launch) : List (Nat × Nat) :=
  (x.img.actors.zipIdx.map fun (a, i) => (List.range a.repl).map fun j => (i, j)).flatten

/-- Every plane that a launch covers. -/
def Launch.planes (x : Launch) : List PlaneId := x.copies.filterMap fun (a, j) => x.planeOf a j

/-! ### Planes that a launch was scanned out of (R323)

The requests of such a launch go on to completion. What acts on its plane finds the plane's saved state in the tile for the
time, changed for what the tile's plane holds. -/

/-- The actor copies of the launches that are scanned out, each with the launch whose slot holds it. -/
def State.slots (s : State) : List (Nat × PlaneId × Plane) :=
  (s.launches.map fun (k, x) => (x.scanned.elim [] fun (_, c) => c.actors).map fun a => (k, a.pl, a.plane)).flatten

/-- Changes what a slot holds with what stands in the tile. -/
def State.swap (s : State) (pl : PlaneId) (k : Nat) : State :=
  match s.slots.find? fun q => decide (q.1 = k ∧ q.2.1 = pl) with
  | none => s
  | some (_, _, p) =>
    let here := s.plane pl
    (s.modLaunch k fun x => { x with scanned := x.scanned.map fun (t, c) =>
      (t, { c with actors := c.actors.map fun (a : ActorSave) => if a.pl = pl then { a with plane := here } else a }) }).setPlane pl p

/-- The slot that holds launch `l`'s state of a plane, where the tile does not. -/
def State.awaySlot (s : State) (pl : PlaneId) (l : Nat) : Option Nat :=
  if (s.plane pl).launch = some l then none
  else (s.slots.find? fun q => decide (q.2.1 = pl ∧ q.2.2.launch = some l)).map (·.1)

/-- Acts on launch `l`'s plane, in the tile or scanned out. -/
def State.onPlane (s : State) (pl : PlaneId) (l : Nat) (f : State → State) : State :=
  match s.awaySlot pl l with
  | none => f s
  | some k => (f (s.swap pl k)).swap pl k

/-- The state in which launch `l`'s plane stands in the tile, for reading. -/
def State.standing (s : State) (pl : PlaneId) (l : Nat) : State :=
  match s.awaySlot pl l with
  | none => s
  | some k => s.swap pl k

/-- Every actor copy's plane, in the tiles and scanned out. -/
def State.everyPlane (s : State) : List (PlaneId × Plane) :=
  (s.planes.map fun (k, p) => (⟨k / 4 % 96, k / 4 / 96, k % 4⟩, p)) ++ s.slots.map fun (_, pl, p) => (pl, p)

/-- Whether a launch is live: LIVE, HELD, IRREVOCABLE, SUSPENDED, DONE, or waiting to replay (R84, R93). -/
def LState.isLive : LState → Bool
  | .live | .held | .irrevocable | .suspended | .done | .oldestOnly | .aborted => true
  | _ => false

/-- `before` of positions and tickets (R48). -/
def before (a b : W32) : Bool :=
  let d := (b - a).toNat
  decide (1 ≤ d) && decide (d ≤ 2 ^ 31 - 1)

/-- Whether a launch is the oldest live launch of its glade (R83). The members of a group do not wait for one another: they
abort and commit as one (R81; assumption 45). -/
def State.isOldest (s : State) (l : Nat) (x : Launch) : Bool :=
  s.launches.all fun (k, y) => k = l || y.glade ≠ x.glade || y.group = x.group || !y.st.isLive || !before y.ticket x.ticket

/-! ### Faults (R333 to R338) -/

/-- The class codes of R335. -/
def fcode : FCls → Nat
  | .page => 0x01 | .prot => 0x02 | .streamBehind => 0x03 | .streamStall => 0x04 | .parkBudget => 0x05
  | .parkFull => 0x06 | .promiseMissed => 0x07 | .arith => 0x08 | .shape => 0x09 | .type => 0x0A
  | .blockIllegal => 0x0B | .priv => 0x0C | .align => 0x0D | .conflict => 0x10 | .shadowOverflow => 0x11
  | .replayDiverge => 0x12 | .handshakeCycle => 0x13 | .kill => 0x14 | .soft => 0x18 | .memUncorr => 0x19
  | .link => 0x1A | .software => 0x20 | .brk => 0x21 | .twinDiverge => 0x22 | .hostqOverrun => 0x23
  | .svcBusy => 0x24

/-- Destinations of R335. -/
inductive FDest where
  | handler | launchUnit | driver | debugger
  deriving DecidableEq, Repr

def fdest : FCls → FDest
  | .conflict | .shadowOverflow | .kill | .soft | .memUncorr | .link => .launchUnit
  | .brk => .debugger
  | .twinDiverge | .hostqOverrun => .driver
  | _ => .handler

/-- The rung of the recovery ladder that a class's default action takes (R335, R338); `none` for no rung. -/
def frung : FCls → Option Nat
  | .streamStall | .parkFull | .promiseMissed | .svcBusy => some 1
  | .soft | .memUncorr | .link => some 2
  | .conflict | .shadowOverflow | .kill => some 3
  | .brk | .hostqOverrun => none
  | _ => some 4

/-- The four words of a fault token (R333). -/
def faultWords (cls : FCls) (code : Nat) (p : PlaneId) (req : Bool) (blk slot ch : Nat) (ord : Nat) (ver : BitVec 16)
    (info : W64) (ticket : W32) (stamp : W64) : List W64 :=
  [BitVec.ofNat 64 (fcode cls + (code % 4096) * 2 ^ 8 + (p.col % 128) * 2 ^ 20 + (p.row % 64) * 2 ^ 27
      + (p.plane % 4) * 2 ^ 33 + (if req then 2 ^ 35 else 0) + (blk % 2 ^ 16) * 2 ^ 36 + (slot % 64) * 2 ^ 52
      + (if req then (ch % 16) * 2 ^ 58 else 0)),
   BitVec.ofNat 64 ((if req then ord % 2 ^ 48 else 0) + ver.toNat * 2 ^ 48),
   info,
   BitVec.ofNat 64 (ticket.toNat + (stamp.toNat % 2 ^ 32) * 2 ^ 32)]

/-- The lowest input whose bit is set. -/
def lowestBit (m : BitVec 16) : Option Nat := (List.range 16).find? fun j => m.getLsbD j

/-- A launch with the plane number that it holds, or held last. -/
def Launch.onLast (x : Launch) : Launch := { x with plane := x.plane.or x.lastPlane }

/-- The single fault input of a graph, at copy 0 of its actor (R283, R334). -/
def singleFaultInput (x : Launch) : Option (PlaneId × Nat) :=
  let hs := x.img.actors.zipIdx.filter fun (a, _) => a.fault ≠ 0#16
  match hs with
  | [(a, i)] =>
    if ((List.range 16).filter fun j => a.fault.getLsbD j).length = 1 then
      match x.onLast.planeOf i 0, lowestBit a.fault with
      | some p, some j => some (p, j)
      | _, _ => none
    else none
  | _ => none

/-- The actor of a launch whose copy stands on a plane, or was scanned out of it. -/
def State.actorFor (s : State) (lid : Nat) (x : Launch) (p : PlaneId) : Option ActorRec :=
  match s.actorOf p with
  | some (l, _, a) => if l = lid then some a else away
  | none => away
where
  away : Option ActorRec := (x.copies.find? fun (i, j) => decide (x.onLast.planeOf i j = some p)).bind fun (i, _) => x.img.actors[i]?

/-- The fault input a fault is delivered to (R334). -/
def faultInput (s : State) (lid : Nat) (charged : Option PlaneId) : Option (PlaneId × Nat) :=
  match s.launch? lid with
  | none => none
  | some x =>
    match charged with
    | some p =>
      match s.actorFor lid x p with
      | some a =>
        match lowestBit a.fault with
        | some j => some (p, j)
        | none => singleFaultInput x
      | none => singleFaultInput x
    | none => singleFaultInput x

/-- Asks the launch unit for a rung; events before it begins join, the highest rung is taken (R338). -/
def State.askRung (s : State) (lid r : Nat) (fid : Nat) : State :=
  s.modLaunch lid fun x =>
    match x.rung with
    | some q => if q < r then { x with rung := some r, rungFid := some fid } else x
    | none => { x with rung := some r, rungFid := some fid }

/-- The default action of a class (R335): rungs 2 to 4 go to the launch unit; rung 1 leaves the work where it stands. -/
def State.defaultAction (s : State) (f : FaultRec) : State :=
  match frung f.cls with
  | some 1 => s
  | some r => s.askRung f.lid r f.fid
  | none => s

/-- Most tokens in the exception queue (R334). -/
def excDepth : Nat := 64

/-- How many faults of a glade stand in the exception queue. -/
def State.excCount (s : State) (g : Nat) : Nat :=
  (s.faults.filter fun f => f.glade = g && decide (f.st = .queued)).length

/-- Whether a launch may be watched and debugged: a confidential tenant must have authorised it (R371). -/
def State.mayDebug (s : State) (x : Launch) : Bool := !(s.tenant x.tenant).confidential || (s.tenant x.tenant).debugOk

/-- A fault token as SERVICE code sees it: of a confidential launch CLASS, CODE, STAMP and TICKET alone (R371). -/
def State.shown (s : State) (x : Option Launch) (words : List W64) : List W64 :=
  if x.all s.mayDebug then words else [words.getD 0 0#64 &&& 0xFFFFF#64, 0#64, 0#64, words.getD 3 0#64]

/-- TAKING A FAULT, the one shared operation: the token is built by R333 and goes to its destination (R334, R335).
`noHandler` is set for a fault raised at firing by a firing of a fault task, whose default applies. Answers the number
of the fault. -/
def State.raise (s : State) (cls : FCls) (lid : Nat) (charged : Option PlaneId) (where_ : PlaneId) (src : FSrc)
    (code : Nat) (req : Bool) (blk slot ch ord : Nat) (info : W64) (noHandler : Bool := false) : Nat × State :=
  let (fid, s) := s.fresh
  let x := s.launch? lid
  let g := match x with | some y => y.glade | none => s.gladeOf where_.col
  let ver := match x with | some y => y.ver | none => 0#16
  let ticket := match x with | some y => y.ticket | none => 0#32
  let words := faultWords cls code where_ req blk slot ch ord ver info ticket (s.cycle g)
  let input := if fdest cls = .handler && !noHandler then faultInput s lid charged else none
  let st : FSt :=
    match input with
    | some _ => if s.excCount g < excDepth then .queued else .heldFull
    | none => .reported
  let f : FaultRec := { fid := fid, cls := cls, glade := g, lid := lid, words := words, src := src, input := input, st := st }
  let s : State := { s with faults := s.faults ++ [f] }
  (fid, match input with | some _ => s | none => s.defaultAction f)

/-- A channel's counter record (R94). -/
def Endpoint.record (e : Endpoint) : BitVec 256 := 0#88 ++ e.cmove ++ e.cempty ++ e.cfull ++ e.ord

/-- A fault by its number. -/
def State.fault? (s : State) (fid : Nat) : Option FaultRec := s.faults.find? fun f => f.fid = fid

/-- The token of a fault reaches its border core: the debugger's for destination B, for destination D the core that issued the
JLAUNCH or drains the ring (R335). -/
def State.tell (s : State) (fid : Nat) (core : Option Nat) : State :=
  match s.fault? fid with
  | none => s
  | some f =>
    let words := s.shown (s.launch? f.lid) f.words
    match fdest f.cls, core with
    | .debugger, _ => { s with debugger := s.debugger ++ [words] }
    | .driver, some c => s.setCore c { s.core c with reports := (s.core c).reports ++ [words] }
    | _, _ => s

/-- Updates a fault. -/
def State.modFault (s : State) (fid : Nat) (f : FaultRec → FaultRec) : State :=
  { s with faults := s.faults.map fun r => if r.fid = fid then f r else r }

/-- The held faults of a glade take the free places of the exception queue, oldest first (R334). -/
def State.refill (s : State) (g : Nat) : State :=
  let held := s.faults.filter fun f => f.glade = g && decide (f.st = .heldFull)
  (held.take (excDepth - s.excCount g)).foldl (fun s f => s.modFault f.fid fun r => { r with st := .queued }) s

/-- Removes a resolved fault. -/
def State.dropFault (s : State) (fid : Nat) : State :=
  match s.fault? fid with
  | some f => ({ s with faults := s.faults.filter fun r => r.fid ≠ fid }).refill f.glade
  | none => s

/-! ### Exceptions of a border core (assumption 8) -/

/-- Taking a RISC-V exception into M-mode: mepc, mcause, mtval and mstatus are written, the mode is M, the pc goes to
the direct vector of mtvec. -/
def Core.trap (c : Core) (cause tval : W64) : Core :=
  let mpp : Nat := match c.mode with | .u => 0 | .s => 1 | .m => 3
  let mie := c.mstatus.toNat / 8 % 2
  let base := c.mstatus.toNat - (bitsOf c.mstatus.toNat 12 11) * 2 ^ 11 - (bitsOf c.mstatus.toNat 7 7) * 2 ^ 7 - mie * 8
  { c with mepc := c.pc, mcause := cause, mtval := tval, mode := .m, pc := c.mtvec &&& ~~~3#64,
           mstatus := BitVec.ofNat 64 (base + mpp * 2 ^ 11 + mie * 2 ^ 7) }

/-- The return from such an exception: pc, mode and interrupt enable come back. -/
def Core.mret (c : Core) : Core :=
  let mpp := bitsOf c.mstatus.toNat 12 11
  let mpie := bitsOf c.mstatus.toNat 7 7
  let base := c.mstatus.toNat - mpp * 2 ^ 11 - mpie * 2 ^ 7 - (bitsOf c.mstatus.toNat 3 3) * 8
  { c with pc := c.mepc, mode := (if mpp = 0 then .u else if mpp = 1 then .s else .m),
           mstatus := BitVec.ofNat 64 (base + 2 ^ 7 + mpie * 8) }

/-- Integer register x0 reads 0; a write to it is discarded (R251). -/
def Core.reg (c : Core) (n : Nat) : W64 := if n = 0 then 0#64 else Store.getD c.x n 0#64
def Core.setReg (c : Core) (n : Nat) (v : W64) : Core := if n = 0 then c else { c with x := Store.set c.x n v }

/-- The outcome of a step. -/
abbrev Res := Host.Outcome State Fault Refusal

end Sys2Proof.Machine
end

