-- ==== Sys2Proof/Machine/Operands.lean ====
section
/-!
DEFINITION. Operands and firing: the tables of R134 and R144, free space and readiness (R18 to R27), issue (R14, R311),
the event counters, and the one frame in which every tile instruction fires (R43, R44, R127, R128, R200).
-/
namespace Sys2Proof.Machine

/-- Records that a sample ring holds; the spec gives no size (assumption 6). -/
def sampleRing : Nat := 4096

/-- How many operand slots an instruction uses, in the order A, B, C (R134). -/
def usesOf : Instr → Nat
  | .sel .. | .madd .. | .addc .. | .subb .. | .bfi .. | .vfma .. | .vfms .. | .vsel .. | .vins .. | .vclamp ..
  | .cas .. | .srelFrc .. => 3
  | .tst .. | .add .. | .sub .. | .mul .. | .mulh .. | .mulhu .. | .div .. | .divu .. | .rem .. | .remu ..
  | .lea .. | .and .. | .or .. | .xor .. | .andn .. | .shl .. | .shr .. | .sra .. | .rotl .. | .rotr .. | .bfx ..
  | .min .. | .max .. | .minu .. | .maxu .. | .vadd .. | .vsub .. | .vmul .. | .vmin .. | .vmax .. | .vdiv ..
  | .vmulh .. | .vand .. | .vor .. | .vxor .. | .vshl .. | .vshr .. | .vsra .. | .vceq .. | .vcne .. | .vclt ..
  | .vcle .. | .vext .. | .vshuf .. | .vrot .. | .mand .. | .mor .. | .vfilt .. | .vexpd .. | .vmrg .. | .visx ..
  | .rngx .. | .sacc .. | .stl .. | .stn .. | .aadd .. | .aand .. | .aor .. | .axor .. | .amin .. | .amax ..
  | .aswap .. | .spos .. | .st .. | .stf .. | .sts .. | .uadd .. | .uand .. | .uor .. | .uxor .. | .umin ..
  | .umax .. | .ufadd .. | .swr .. | .swrEos .. | .srew .. | .barinit .. | .barexp .. | .srel .. | .vqnt ..
  | .repair .. => 2
  | .mov .. | .put .. | .putv .. | .putm .. | .send .. | .bri .. | .timer .. | .addi .. | .neg .. | .abs ..
  | .not .. | .shli .. | .shri .. | .srai .. | .andi .. | .ori .. | .xori .. | .clz .. | .ctz .. | .popc ..
  | .brev .. | .bswap .. | .exts .. | .extz .. | .vabs .. | .vneg .. | .vsqrt .. | .vrcp .. | .vrsq .. | .vexp2 ..
  | .vlog2 .. | .vsin .. | .vcos .. | .vtanh .. | .vsigm .. | .vclz .. | .vpopc .. | .vbcast .. | .vrsum ..
  | .vrmin .. | .vrmax .. | .vscan .. | .vcvt .. | .mnot .. | .mpopc .. | .viota .. | .vdedup .. | .ldl ..
  | .ldn .. | .ld .. | .ldw .. | .ldc .. | .fempty .. | .feq .. | .srd .. | .sbar .. | .bararv .. | .barwt ..
  | .copy .. | .pref .. | .wback .. | .setbud .. | .mmpost .. | .vamax .. | .vdqnt .. | .vcbq .. | .cbset ..
  | .svc .. | .wrperf .. => 1
  | _ => 0

/-- Classes of R134: pure, output, exit, wave-ordered (which is also an output). -/
inductive OCls where
  | pure | out | exit | wave
  deriving DecidableEq, Repr

def classOf : Instr → OCls
  | .ldl .. | .stl .. | .ldn .. | .stn .. | .ld .. | .st .. | .ldw .. | .ldc .. | .stf .. | .sts .. | .fempty ..
  | .feq .. | .aadd .. | .aand .. | .aor .. | .axor .. | .amin .. | .amax .. | .aswap .. | .cas .. | .uadd ..
  | .uand .. | .uor .. | .uxor .. | .umin .. | .umax .. | .ufadd .. | .srd .. | .swr .. | .swrEos .. | .srel ..
  | .srelFrc .. | .srew .. | .spos .. | .fence .. | .sbar .. | .xfence .. | .barinit .. | .bararv .. | .barexp ..
  | .barwt .. | .copy .. | .pref .. | .wback .. | .setbud .. | .mmpost .. => .wave
  | .br .. | .bri .. | .call .. | .ret .. | .tend .. | .pyield .. => .exit
  | .put .. | .putv .. | .putm .. | .send .. | .sendc .. | .timer .. | .sacc .. | .saccf .. | .saccz .. | .cbset ..
  | .trap .. | .blaze .. | .brkt .. | .svc .. | .wrperf .. | .repair .. | .hresume .. | .habort .. => .out
  | _ => .pure

/-- Issue classes of R14 and R144. -/
inductive ICls where
  | vec | scl | mem
  deriving DecidableEq, Repr

def issueOf : Instr → ICls
  | .getv .. | .putv .. | .vadd .. | .vsub .. | .vmul .. | .vfma .. | .vfms .. | .vmin .. | .vmax .. | .vabs ..
  | .vneg .. | .vdiv .. | .vsqrt .. | .vrcp .. | .vrsq .. | .vexp2 .. | .vlog2 .. | .vsin .. | .vcos .. | .vtanh ..
  | .vsigm .. | .vmulh .. | .vand .. | .vor .. | .vxor .. | .vshl .. | .vshr .. | .vsra .. | .vclz .. | .vpopc ..
  | .vceq .. | .vcne .. | .vclt .. | .vcle .. | .vsel .. | .vbcast .. | .vext .. | .vins .. | .vshuf .. | .vrot ..
  | .vrsum .. | .vrmin .. | .vrmax .. | .vscan .. | .vcvt .. | .mand .. | .mor .. | .mnot .. | .mpopc ..
  | .vfilt .. | .vexpd .. | .viota .. | .vclamp .. | .vmrg .. | .visx .. | .vdedup .. | .sacc .. | .saccf ..
  | .saccz .. | .rngx .. | .vamax .. | .vqnt .. | .vdqnt .. | .vcbq .. | .cbset .. => .vec
  | .ldl .. | .stl .. | .ldn .. | .stn .. | .ld .. | .st .. | .ldw .. | .ldc .. | .stf .. | .sts .. | .fempty ..
  | .feq .. | .aadd .. | .aand .. | .aor .. | .axor .. | .amin .. | .amax .. | .aswap .. | .cas .. | .uadd ..
  | .uand .. | .uor .. | .uxor .. | .umin .. | .umax .. | .ufadd .. | .srd .. | .swr .. | .swrEos .. | .srel ..
  | .srelFrc .. | .srew .. | .spos .. | .fence .. | .sbar .. | .xfence .. | .barinit .. | .bararv .. | .barexp ..
  | .barwt .. | .copy .. | .pref .. | .wback .. | .setbud .. | .mmpost .. | .recv .. | .send .. | .sendc ..
  | .timer .. | .repair .. | .svc .. | .wrperf .. => .mem
  | _ => .scl

/-- Instructions that need HANDLER level (R195, R223); BLAZE.stop and SETBUD 255 check theirs themselves. -/
def needsHandler : Instr → Bool
  | .fread .. | .repair .. | .hresume .. | .habort .. | .srelFrc .. => true
  | .blaze _ true => true
  | _ => false

/-- The predicate mode of an instruction (R124). -/
def prOf : Instr → PR
  | .nop pr => pr
  | .movi pr _ _ => pr
  | .const pr _ _ => pr
  | .mov pr _ _ => pr
  | .get pr _ _ _ => pr
  | .put pr _ => pr
  | .getv pr _ _ _ => pr
  | .putv pr _ _ => pr
  | .getm pr _ _ => pr
  | .putm pr _ => pr
  | .recv pr _ _ _ => pr
  | .send pr _ => pr
  | .sendc pr _ _ => pr
  | .null pr _ _ => pr
  | .tst pr _ _ _ _ => pr
  | .sel pr _ _ => pr
  | .br pr _ => pr
  | .bri pr => pr
  | .call pr _ => pr
  | .ret pr => pr
  | .tend pr => pr
  | .timer pr _ _ => pr
  | .rdcyc pr _ _ => pr
  | .rdid pr _ _ => pr
  | .pyield pr _ => pr
  | .add pr _ _ _ => pr
  | .sub pr _ _ _ => pr
  | .addi pr _ _ => pr
  | .mul pr _ _ _ => pr
  | .mulh pr _ _ _ => pr
  | .mulhu pr _ _ _ => pr
  | .div pr _ _ _ => pr
  | .divu pr _ _ _ => pr
  | .rem pr _ _ _ => pr
  | .remu pr _ _ _ => pr
  | .madd pr _ _ _ => pr
  | .lea pr _ _ _ => pr
  | .addc pr _ _ _ => pr
  | .subb pr _ _ _ => pr
  | .neg pr _ _ _ => pr
  | .abs pr _ _ _ => pr
  | .and pr _ _ _ => pr
  | .or pr _ _ _ => pr
  | .xor pr _ _ _ => pr
  | .andn pr _ _ _ => pr
  | .not pr _ _ _ => pr
  | .shl pr _ _ _ => pr
  | .shr pr _ _ _ => pr
  | .sra pr _ _ _ => pr
  | .rotl pr _ _ _ => pr
  | .rotr pr _ _ _ => pr
  | .shli pr _ _ => pr
  | .shri pr _ _ => pr
  | .srai pr _ _ => pr
  | .andi pr _ _ => pr
  | .ori pr _ _ => pr
  | .xori pr _ _ => pr
  | .clz pr _ _ _ => pr
  | .ctz pr _ _ _ => pr
  | .popc pr _ _ _ => pr
  | .brev pr _ _ _ => pr
  | .bswap pr _ _ _ => pr
  | .bfx pr _ _ _ => pr
  | .bfi pr _ _ => pr
  | .min pr _ _ _ => pr
  | .max pr _ _ _ => pr
  | .minu pr _ _ _ => pr
  | .maxu pr _ _ _ => pr
  | .exts pr _ _ _ => pr
  | .extz pr _ _ _ => pr
  | .vadd pr _ _ _ => pr
  | .vsub pr _ _ _ => pr
  | .vmul pr _ _ _ => pr
  | .vfma pr _ _ _ => pr
  | .vfms pr _ _ _ => pr
  | .vmin pr _ _ _ => pr
  | .vmax pr _ _ _ => pr
  | .vabs pr _ _ _ => pr
  | .vneg pr _ _ _ => pr
  | .vdiv pr _ _ _ => pr
  | .vsqrt pr _ _ _ => pr
  | .vrcp pr _ _ _ => pr
  | .vrsq pr _ _ _ => pr
  | .vexp2 pr _ _ _ => pr
  | .vlog2 pr _ _ _ => pr
  | .vsin pr _ _ _ => pr
  | .vcos pr _ _ _ => pr
  | .vtanh pr _ _ _ => pr
  | .vsigm pr _ _ _ => pr
  | .vmulh pr _ _ _ => pr
  | .vand pr _ _ _ => pr
  | .vor pr _ _ _ => pr
  | .vxor pr _ _ _ => pr
  | .vshl pr _ _ _ => pr
  | .vshr pr _ _ _ => pr
  | .vsra pr _ _ _ => pr
  | .vclz pr _ _ _ => pr
  | .vpopc pr _ _ _ => pr
  | .vceq pr _ _ _ => pr
  | .vcne pr _ _ _ => pr
  | .vclt pr _ _ _ => pr
  | .vcle pr _ _ _ => pr
  | .vsel pr _ _ _ => pr
  | .vbcast pr _ _ _ => pr
  | .vext pr _ _ _ => pr
  | .vins pr _ _ _ => pr
  | .vshuf pr _ _ _ => pr
  | .vrot pr _ _ _ => pr
  | .vrsum pr _ _ _ => pr
  | .vrmin pr _ _ _ => pr
  | .vrmax pr _ _ _ => pr
  | .vscan pr _ _ _ => pr
  | .vcvt pr _ _ _ => pr
  | .mand pr _ _ => pr
  | .mor pr _ _ => pr
  | .mnot pr _ _ => pr
  | .mpopc pr _ _ => pr
  | .vfilt pr _ _ _ => pr
  | .vexpd pr _ _ _ => pr
  | .viota pr _ _ _ => pr
  | .vclamp pr _ _ _ => pr
  | .vmrg pr _ _ _ => pr
  | .visx pr _ _ _ => pr
  | .vdedup pr _ _ _ => pr
  | .sacc pr _ => pr
  | .saccf pr _ _ => pr
  | .saccz pr => pr
  | .rngx pr _ _ => pr
  | .ldl pr _ _ _ => pr
  | .stl pr _ _ => pr
  | .ldn pr _ _ _ => pr
  | .stn pr _ _ => pr
  | .ld pr _ _ _ => pr
  | .st pr _ _ => pr
  | .ldw pr _ _ _ => pr
  | .ldc pr _ _ _ => pr
  | .stf pr _ _ => pr
  | .sts pr _ _ => pr
  | .fempty pr _ _ => pr
  | .feq pr _ _ _ => pr
  | .aadd pr _ _ _ => pr
  | .aand pr _ _ _ => pr
  | .aor pr _ _ _ => pr
  | .axor pr _ _ _ => pr
  | .amin pr _ _ _ => pr
  | .amax pr _ _ _ => pr
  | .aswap pr _ _ _ => pr
  | .cas pr _ _ _ => pr
  | .uadd pr _ _ => pr
  | .uand pr _ _ => pr
  | .uor pr _ _ => pr
  | .uxor pr _ _ => pr
  | .umin pr _ _ => pr
  | .umax pr _ _ => pr
  | .ufadd pr _ => pr
  | .srd pr _ _ _ => pr
  | .swr pr _ _ => pr
  | .swrEos pr _ _ => pr
  | .srel pr _ => pr
  | .srelFrc pr _ => pr
  | .srew pr _ => pr
  | .spos pr _ _ => pr
  | .fence pr _ _ => pr
  | .sbar pr _ => pr
  | .xfence pr _ _ _ => pr
  | .barinit pr _ => pr
  | .bararv pr _ => pr
  | .barexp pr _ => pr
  | .barwt pr _ _ => pr
  | .copy pr _ _ => pr
  | .pref pr _ _ => pr
  | .wback pr _ => pr
  | .setbud pr _ => pr
  | .mmpost pr _ => pr
  | .vamax pr _ _ _ => pr
  | .vqnt pr _ _ _ => pr
  | .vdqnt pr _ _ => pr
  | .vcbq pr _ _ _ => pr
  | .cbset pr => pr
  | .trap pr _ => pr
  | .fread pr _ _ _ => pr
  | .repair pr => pr
  | .blaze pr _ => pr
  | .brkt pr _ => pr
  | .svc pr _ _ => pr
  | .rdperf pr _ _ => pr
  | .wrperf pr _ _ => pr
  | .hresume pr => pr
  | .habort pr => pr
  | _ => .always

/-- The targets an instruction names; LDL and LDN name operand A of a slot (R125, R126). -/
def tgtsOf : Instr → List Tgt
  | .movi _ _ ta => [ta]
  | .const _ _ ta => [ta]
  | .mov _ tb ta => [ta, tb]
  | .get _ _ _ ta => [ta]
  | .getv _ _ _ ta => [ta]
  | .getm _ _ ta => [ta]
  | .recv _ _ _ ta => [ta]
  | .null _ tb ta => [ta, tb]
  | .tst _ _ _ tb ta => [ta, tb]
  | .sel _ tb ta => [ta, tb]
  | .rdcyc _ tb ta => [ta, tb]
  | .rdid _ _ ta => [ta]
  | .add _ _ tb ta => [ta, tb]
  | .sub _ _ tb ta => [ta, tb]
  | .addi _ _ ta => [ta]
  | .mul _ _ tb ta => [ta, tb]
  | .mulh _ _ tb ta => [ta, tb]
  | .mulhu _ _ tb ta => [ta, tb]
  | .div _ _ tb ta => [ta, tb]
  | .divu _ _ tb ta => [ta, tb]
  | .rem _ _ tb ta => [ta, tb]
  | .remu _ _ tb ta => [ta, tb]
  | .madd _ _ tb ta => [ta, tb]
  | .lea _ _ tb ta => [ta, tb]
  | .addc _ _ tb ta => [ta, tb]
  | .subb _ _ tb ta => [ta, tb]
  | .neg _ _ tb ta => [ta, tb]
  | .abs _ _ tb ta => [ta, tb]
  | .and _ _ tb ta => [ta, tb]
  | .or _ _ tb ta => [ta, tb]
  | .xor _ _ tb ta => [ta, tb]
  | .andn _ _ tb ta => [ta, tb]
  | .not _ _ tb ta => [ta, tb]
  | .shl _ _ tb ta => [ta, tb]
  | .shr _ _ tb ta => [ta, tb]
  | .sra _ _ tb ta => [ta, tb]
  | .rotl _ _ tb ta => [ta, tb]
  | .rotr _ _ tb ta => [ta, tb]
  | .shli _ _ ta => [ta]
  | .shri _ _ ta => [ta]
  | .srai _ _ ta => [ta]
  | .andi _ _ ta => [ta]
  | .ori _ _ ta => [ta]
  | .xori _ _ ta => [ta]
  | .clz _ _ tb ta => [ta, tb]
  | .ctz _ _ tb ta => [ta, tb]
  | .popc _ _ tb ta => [ta, tb]
  | .brev _ _ tb ta => [ta, tb]
  | .bswap _ _ tb ta => [ta, tb]
  | .bfx _ _ tb ta => [ta, tb]
  | .bfi _ tb ta => [ta, tb]
  | .min _ _ tb ta => [ta, tb]
  | .max _ _ tb ta => [ta, tb]
  | .minu _ _ tb ta => [ta, tb]
  | .maxu _ _ tb ta => [ta, tb]
  | .exts _ _ tb ta => [ta, tb]
  | .extz _ _ tb ta => [ta, tb]
  | .vadd _ _ tb ta => [ta, tb]
  | .vsub _ _ tb ta => [ta, tb]
  | .vmul _ _ tb ta => [ta, tb]
  | .vfma _ _ tb ta => [ta, tb]
  | .vfms _ _ tb ta => [ta, tb]
  | .vmin _ _ tb ta => [ta, tb]
  | .vmax _ _ tb ta => [ta, tb]
  | .vabs _ _ tb ta => [ta, tb]
  | .vneg _ _ tb ta => [ta, tb]
  | .vdiv _ _ tb ta => [ta, tb]
  | .vsqrt _ _ tb ta => [ta, tb]
  | .vrcp _ _ tb ta => [ta, tb]
  | .vrsq _ _ tb ta => [ta, tb]
  | .vexp2 _ _ tb ta => [ta, tb]
  | .vlog2 _ _ tb ta => [ta, tb]
  | .vsin _ _ tb ta => [ta, tb]
  | .vcos _ _ tb ta => [ta, tb]
  | .vtanh _ _ tb ta => [ta, tb]
  | .vsigm _ _ tb ta => [ta, tb]
  | .vmulh _ _ tb ta => [ta, tb]
  | .vand _ _ tb ta => [ta, tb]
  | .vor _ _ tb ta => [ta, tb]
  | .vxor _ _ tb ta => [ta, tb]
  | .vshl _ _ tb ta => [ta, tb]
  | .vshr _ _ tb ta => [ta, tb]
  | .vsra _ _ tb ta => [ta, tb]
  | .vclz _ _ tb ta => [ta, tb]
  | .vpopc _ _ tb ta => [ta, tb]
  | .vceq _ _ tb ta => [ta, tb]
  | .vcne _ _ tb ta => [ta, tb]
  | .vclt _ _ tb ta => [ta, tb]
  | .vcle _ _ tb ta => [ta, tb]
  | .vsel _ _ tb ta => [ta, tb]
  | .vbcast _ _ tb ta => [ta, tb]
  | .vext _ _ tb ta => [ta, tb]
  | .vins _ _ tb ta => [ta, tb]
  | .vshuf _ _ tb ta => [ta, tb]
  | .vrot _ _ tb ta => [ta, tb]
  | .vrsum _ _ tb ta => [ta, tb]
  | .vrmin _ _ tb ta => [ta, tb]
  | .vrmax _ _ tb ta => [ta, tb]
  | .vscan _ _ tb ta => [ta, tb]
  | .vcvt _ _ tb ta => [ta, tb]
  | .mand _ tb ta => [ta, tb]
  | .mor _ tb ta => [ta, tb]
  | .mnot _ tb ta => [ta, tb]
  | .mpopc _ tb ta => [ta, tb]
  | .vfilt _ _ tb ta => [ta, tb]
  | .vexpd _ _ tb ta => [ta, tb]
  | .viota _ _ tb ta => [ta, tb]
  | .vclamp _ _ tb ta => [ta, tb]
  | .vmrg _ _ tb ta => [ta, tb]
  | .visx _ _ tb ta => [ta, tb]
  | .vdedup _ _ tb ta => [ta, tb]
  | .saccf _ tb ta => [ta, tb]
  | .rngx _ tb ta => [ta, tb]
  | .ldl _ _ _ s => [.a s]
  | .ldn _ _ _ s => [.a s]
  | .vamax _ _ tb ta => [ta, tb]
  | .vqnt _ _ tb ta => [ta, tb]
  | .vdqnt _ tb ta => [ta, tb]
  | .vcbq _ _ tb ta => [ta, tb]
  | .fread _ _ _ ta => [ta]
  | .rdperf _ _ ta => [ta]
  | _ => []

/-- The wave fields of a format M instruction (R129). -/
def linkOf : Instr → Option Link
  | .ldl _ lk _ _ => some lk
  | .stl _ lk _ => some lk
  | .ldn _ lk _ _ => some lk
  | .stn _ lk _ => some lk
  | .ld _ lk _ _ => some lk
  | .st _ lk _ => some lk
  | .ldw _ lk _ _ => some lk
  | .ldc _ lk _ _ => some lk
  | .stf _ lk _ => some lk
  | .sts _ lk _ => some lk
  | .fempty _ lk _ => some lk
  | .feq _ lk _ _ => some lk
  | .aadd _ lk _ _ => some lk
  | .aand _ lk _ _ => some lk
  | .aor _ lk _ _ => some lk
  | .axor _ lk _ _ => some lk
  | .amin _ lk _ _ => some lk
  | .amax _ lk _ _ => some lk
  | .aswap _ lk _ _ => some lk
  | .cas _ lk _ _ => some lk
  | .uadd _ lk _ => some lk
  | .uand _ lk _ => some lk
  | .uor _ lk _ => some lk
  | .uxor _ lk _ => some lk
  | .umin _ lk _ => some lk
  | .umax _ lk _ => some lk
  | .ufadd _ lk => some lk
  | .srd _ lk _ _ => some lk
  | .swr _ lk _ => some lk
  | .swrEos _ lk _ => some lk
  | .srel _ lk => some lk
  | .srelFrc _ lk => some lk
  | .srew _ lk => some lk
  | .spos _ lk _ => some lk
  | .fence _ lk _ => some lk
  | .sbar _ lk => some lk
  | .xfence _ lk _ _ => some lk
  | .barinit _ lk => some lk
  | .bararv _ lk => some lk
  | .barexp _ lk => some lk
  | .barwt _ lk _ => some lk
  | .copy _ lk _ => some lk
  | .pref _ lk _ => some lk
  | .wback _ lk => some lk
  | .setbud _ lk => some lk
  | .mmpost _ lk => some lk
  | _ => none

/-! ### Free space and readiness (R18, R20, R21, R25, R27) -/

/-- How many tokens of a list take a slot: a blaze needs none (R97). -/
def slotCount (ts : List Token) : Nat := (ts.filter fun t => match t with | .blaze _ _ => false | _ => true).length

/-- The endpoint that channel `ci` of a launch reaches at consumer copy `j`. -/
def State.consEp (s : State) (x : Launch) (r : ChanRec) (j : Nat) : Endpoint :=
  match r.ckind with
  | 0 => match x.planeOf r.cons j with
    | some p => (s.plane p).inp r.cep
    | none => {}
  | 1 => Store.getD (Store.getD x.nodes r.cons {}).ins r.cep {}
  | _ =>
    match s.glade? x.glade with
    | some g =>
      match ((g.regions.filter fun q => decide (x.img.regions[r.cons]? = some q.rr))[0]?) with
      | some q => q.steer
      | none => {}
    | none => {}

/-- Consumer copies of a channel: the copies of a replicated consumer, else one (R31). -/
def Launch.consCopies (x : Launch) (r : ChanRec) : Nat :=
  if r.ckind = 0 then match x.img.actors[r.cons]? with | some a => a.repl | none => 1 else 1

/-- Free space of a channel: the least over its consumer copies of capacity less tokens held (R18, assumption 16). -/
def State.chanFree (s : State) (x : Launch) (ci : Nat) (r : ChanRec) : Nat :=
  let c := Store.getD x.chans ci {}
  (List.range (x.consCopies r)).foldl (fun acc j =>
    let held := slotCount (Store.getD c.flight j []) + (s.consEp x r j).slots.length
    min acc (4 + r.fifo - held)) (4 + r.fifo)

/-- The channels an actor output or node output feeds. -/
def Launch.outChans (x : Launch) (pkind prod pep : Nat) : List (Nat × ChanRec) :=
  (x.img.chans.zipIdx.filter fun (r, _) => r.pkind = pkind && r.prod = prod && r.pep = pep).map fun (r, i) => (i, r)

/-- The channel that ends at an actor input. -/
def Launch.inChan (x : Launch) (actor inp : Nat) : Option (Nat × ChanRec) :=
  ((x.img.chans.zipIdx.filter fun (r, _) => r.ckind = 0 && r.cons = actor && r.cep = inp).map fun (r, i) => (i, r))[0]?

/-- Free slots of an output endpoint: the least over its channels, less the holding entry and the tokens that wait in
the ordered join (R18, R21, R155). An output that feeds no channel has room. -/
def State.outFree (s : State) (x : Launch) (p : Plane) (o : Nat) : Nat :=
  let cs := x.outChans 0 p.actor o
  let room := cs.foldl (fun acc (i, r) => min acc (s.chanFree x i r)) 64
  room - (p.out o).joinq.length - slotCount (p.out o).hold

/-- Whether a token is a control token other than NULL and BLAZE. -/
def Token.ctl? : Token → Option Ctl
  | .ctl k => some k
  | _ => none

/-- The control token at the head of an endpoint. -/
def Endpoint.headCtl (e : Endpoint) : Option Ctl :=
  match e.slots with
  | (_, t) :: _ => t.ctl?
  | [] => none

/-- Data tokens that stand before the next control token (R21). -/
def dataRun : List (Nat × Token) → Nat
  | [] => 0
  | (_, t) :: rest => match t.ctl? with | some _ => 0 | none => dataRun rest + 1

/-- The inputs an actor marks as aligned (R20). -/
def ActorRec.aligned (a : ActorRec) : List Nat := (List.range 16).filter fun j => a.align.getLsbD j

/-- Whether an input stands at EOS under the PAD policy while another aligned input does not (R27). -/
def padded (a : ActorRec) (p : Plane) (j : Nat) : Bool :=
  decide (a.eosp = 2) && a.align.getLsbD j && decide ((p.inp j).headCtl = some .eos)
    && a.aligned.any fun k => decide ((p.inp k).headCtl ≠ some .eos)

/-- Whether no control token waits at an output: its holding entry is empty, and so is what a copy has left of them in the ordered
join (R31, R155). -/
def OutEp.ctlFree (e : OutEp) : Bool :=
  e.hold.isEmpty && e.joinq.all fun t => match t with | .ctl _ => false | _ => true

/-- R21's readiness of a data task; no control token waits at an output on which the task sends (R155). -/
def State.taskReady (s : State) (x : Launch) (a : ActorRec) (p : Plane) (t : TaskRec) : Bool :=
  decide (t.kind ≠ .control)
    && (List.range 16).all (fun j =>
      let c := t.irate.getD j 0
      decide (c = 0) || padded a p j || decide (c ≤ dataRun (p.inp j).slots))
    && (List.range 16).any (fun j => decide (0 < t.irate.getD j 0) && !padded a p j)
    && (List.range 16).all (fun o => let n := t.orate.getD o 0;
        (decide (n = 0) && !t.ctl.getLsbD o) || ((p.out o).ctlFree && decide (n ≤ s.outFree x p o)))
    && decide (t.svcr ≤ 64 - p.ring.length)

/-- A control step that is possible: its kind, and the inputs that give up their control token (R25, R27). -/
def ctlStep (a : ActorRec) (p : Plane) : Option (Ctl × List Nat) :=
  let al := a.aligned
  match al with
  | [] => none
  | _ =>
    let heads := al.map fun j => (j, (p.inp j).headCtl)
    if heads.all fun (_, h) => h.isSome then
      let live := heads.filter fun (_, h) => decide (h ≠ some .eos)
      match live with
      | [] => some (.eos, al)
      | (_, some k) :: _ =>
        if live.length = heads.length then
          (if live.all fun (_, h) => decide (h = some k) then some (k, al) else none)
        else if a.eosp = 2 then
          (if live.all fun (_, h) => decide (h = some k) then some (k, live.map (·.1)) else none)
        else none
      | _ => none
    else none

/-- The arrival number of the token at the head of an input; a large number where there is none. -/
def Endpoint.headStamp (e : Endpoint) : Nat := match e.slots with | (n, _) :: _ => n | [] => 2 ^ 64

/-- A task is a fault task when it is bound to a fault input (R244, R336). -/
def ActorRec.isFaultTask (a : ActorRec) (t : TaskRec) : Bool := a.fault.getLsbD t.bind && decide (t.kind ≠ .control)

/-- What an actor may start next, with its priority, its arrival number and its channel number (R21, R25). -/
inductive Cand where
  | task (ix : Nat)
  | step (k : Ctl) (ins : List Nat)
  deriving DecidableEq, Repr
structure CandKey where
  prio : Nat
  stamp : Nat
  chan : Nat
  what : Cand
  deriving DecidableEq, Repr

/-- Higher priority first, then the earlier head token, then the lower channel number (R21). -/
def CandKey.better (a b : CandKey) : Bool :=
  decide (b.prio < a.prio) || (decide (a.prio = b.prio) && (decide (a.stamp < b.stamp)
    || (decide (a.stamp = b.stamp) && decide (a.chan < b.chan))))

/-- The candidate that R21 takes. Of two that tie in priority, arrival and channel number (two unaligned tasks bound to one
channel), the one listed first: DESIGN CHOICE (assumption 42). -/
def bestCand : List CandKey → Option CandKey
  | [] => none
  | c :: t => match bestCand t with
    | none => some c
    | some d => if d.better c then some d else some c

/-- Priority of an input's channel. -/
def Launch.inPrio (x : Launch) (actor inp : Nat) : Nat := match x.inChan actor inp with | some (_, r) => r.prio | none => 0

/-- Whether a launch's elements may go on: it is in a state in which it runs, no page request holds its planes (R323),
and it is not held off its planes. -/
def Launch.runs (x : Launch) : Bool :=
  (match x.st with | .live | .held | .irrevocable => true | _ => false) && !x.pageHold && x.scanned.isNone && !x.preHeld

/-- The inputs of an actor that can carry a blaze: those fed by an actor, a node or a launch source (R294). -/
def Launch.blazeIns (x : Launch) (actor : Nat) : List Nat :=
  (List.range 16).filter fun j => match x.inChan actor j with | some (_, r) => decide (r.pkind ≤ 2) | none => false

/-- The blaze that has arrived on every input of an element that can carry one, and that it has not recorded (R97, R294,
R342). An element without such an input has received the blaze of every cut in progress. -/
def blazeAt (cuts : List Cut) (e : Elem) (eps : List Endpoint) : Option (CutKind × Nat) :=
  match eps with
  | [] => ((cuts.filter fun c => !c.elems.contains e).map fun c => (c.kind, c.num)).head?
  | e :: _ =>
    match e.blazes with
    | b :: _ => if eps.all fun q => decide (q.blazes.head? = some b) then some b else none
    | [] => none

/-- That blaze for an actor copy. -/
def Launch.blazeOf (x : Launch) (pl : PlaneId) (p : Plane) : Option (CutKind × Nat) :=
  blazeAt x.cuts (.actor pl) ((x.blazeIns p.actor).map p.inp)

/-- The inputs of a node that can carry a blaze (R294), with their channels. -/
def Launch.nodeIns (x : Launch) (n : Nat) : List (Nat × Nat) :=
  (x.img.chans.zipIdx.filter fun (r, _) => decide (r.ckind = 1) && decide (r.cons = n) && decide (r.pkind ≤ 2)).map
    fun (r, i) => (r.cep, i)

/-- That blaze for a node. -/
def Launch.nodeBlaze (x : Launch) (n : Nat) (nd : Node) : Option (CutKind × Nat) :=
  blazeAt x.cuts (.node n) ((x.nodeIns n).map fun q => Store.getD nd.ins q.1 {})

/-- Whether an unresolved fault or trap stands on the plane, so that only fault tasks may start (R242, R336). -/
def Plane.onlyFaultTasks (s : State) (pl : PlaneId) (p : Plane) : Bool :=
  p.aside.isSome || (s.faults.any fun f => decide (f.src = .input pl)) || (match p.firing with
    | some f => (match f.st with | .faulted _ | .trapped _ => true | _ => false)
    | none => false)

/-- Whether a plane may start a firing at all. -/
def State.mayStart (_s : State) (x : Launch) (pl : PlaneId) (p : Plane) : Bool :=
  x.runs && (x.blazeOf pl p).isNone && !p.stopped && !p.paused && !p.brkStop
    && (match p.firing with
      | none => true
      | some f => (match f.st with | .faulted _ | .trapped _ => p.aside.isNone | _ => false))

/-- Whether the outputs of an actor can take what a control step sends: no control token waits at them, and with a control
task the free slots cover its rates (R25, R155). -/
def State.ctlRoom (s : State) (x : Launch) (a : ActorRec) (p : Plane) : Bool :=
  (List.range 16).all fun o =>
    (x.outChans 0 p.actor o).isEmpty || ((p.out o).ctlFree
      && a.tasks.all fun t => decide (t.kind ≠ .control) || decide (t.orate.getD o 0 ≤ s.outFree x p o))

/-- The task or control step that R21 chooses. -/
def State.choose (s : State) (x : Launch) (a : ActorRec) (pl : PlaneId) (p : Plane) : Option Cand :=
  if !s.mayStart x pl p then none
  else
    let only := Plane.onlyFaultTasks s pl p
    let tasks := a.tasks.zipIdx.filterMap fun (t, i) =>
      if s.taskReady x a p t && (!only || a.isFaultTask t) then
        some ({ prio := x.inPrio p.actor t.bind, stamp := (p.inp t.bind).headStamp, chan := t.bind,
                what := .task i } : CandKey)
      else none
    let steps :=
      if only || p.eosTaken || !s.ctlRoom x a p then [] else
      match ctlStep a p with
      | some (k, ins) =>
        [({ prio := a.aligned.foldl (fun m j => max m (x.inPrio p.actor j)) 0,
            stamp := ins.foldl (fun m j => max m (p.inp j).headStamp) 0,
            chan := a.aligned.headD 0, what := .step k ins } : CandKey)]
      | none => []
    (bestCand (tasks ++ steps)).map (·.what)

/-- The operands of a slot, or what keeps it from firing. -/
inductive Fit where
  | wait
  | skip
  | null
  | go (a b c : Datum)
  deriving DecidableEq, Repr

def zeroDatum : Datum := ⟨.scalar, [0#64], .i64, 1#64⟩

/-- SEL waits for all three of its operands, nulls among them or not (R149). -/
def waitsAll : Instr → Bool
  | .sel _ _ _ => true
  | _ => false

/-- R43, R44, R127, R128, R149: waits for the predicate and the operands; a predicate of the other value skips the
instruction; a null predicate or any null operand makes it null at once. An output is nullified by a null operand whatever
its predicate is to be, so it does not wait for the predicate then. -/
def BlockRun.fit (r : BlockRun) (i : Instr) (slot : Nat) : Fit :=
  let n := usesOf i
  let oa := if 0 < n then Store.get? r.opA slot else some (.dat zeroDatum)
  let ob := if 1 < n then Store.get? r.opB slot else some (.dat zeroDatum)
  let oc := if 2 < n then Store.get? r.opC slot else some (.dat zeroDatum)
  let here : Bool := oa.isSome && ob.isSome && oc.isSome
  let nul : Bool := (decide (oa = some .null) || decide (ob = some .null) || decide (oc = some .null)) && (!waitsAll i || here)
  let data : Fit :=
    if nul then .null
    else match oa, ob, oc with
      | some (.dat a), some (.dat b), some (.dat c) => .go a b c
      | _, _, _ => .wait
  match prOf i with
  | .always => data
  | pr =>
    match Store.get? r.pred slot with
    | none => if nul && (decide (classOf i = .out) || decide (classOf i = .wave)) then .null else .wait
    | some .null => .null
    | some (.dat d) => if d.bits.getLsbD 0 = decide (pr = .onTrue) then data else .skip

/-- What a slot of a block may do now: none where it has fired or been nullified, or holds no word. -/
def BlockRun.fitOf (r : BlockRun) (slot : Nat) : Option (Instr × Fit) :=
  if r.done.contains slot then none
  else match r.words[slot]? with
    | none => none
    | some w =>
      match decodeTile w with
      | .error _ => none
      | .ok i => some (i, r.fit i slot)

/-- Whether the instruction of a slot could take a place in an issue group now (R160): one whose predicate or operand
nullifies it, or keeps it from firing, takes none. -/
def BlockRun.slotReady (r : BlockRun) (slot : Nat) : Bool :=
  match r.fitOf slot with
  | some (_, .go _ _ _) => true
  | some (i, .null) => decide (classOf i = .pure)
  | _ => false

/-- Whether some instruction of a block could issue now. -/
def BlockRun.anyReady (r : BlockRun) : Bool := (List.range r.words.length).any r.slotReady

/-- Whether some instruction of a block can fire or be nullified or passed over now (R45). -/
def BlockRun.anyMoves (r : BlockRun) : Bool :=
  (List.range r.words.length).any fun k => match r.fitOf k with
    | some (_, .wait) => false
    | some _ => true
    | none => false

/-- Whether the launch of a plane lets it issue, fetch and commit: from the posting of a page request until its answer a
plane does none of it (R323). A plane without a launch is not held. -/
def State.planeGoes (s : State) (p : PlaneId) : Bool :=
  match (s.plane p).launch.bind s.launch? with
  | some x => !x.pageHold
  | none => true

/-- Whether a plane could issue a group now (R160). -/
def State.planeReady (s : State) (p : PlaneId) : Bool :=
  let q := s.plane p
  match q.firing with
  | some f =>
    (match f.st, f.run with
     | .running, some r => r.anyReady && s.planeGoes p
     | _, _ => false)
  | none =>
    match s.actorOf p with
    | some (_, x, a) => (s.choose x a p q).isSome
    | none => false

/-! ### Issue (R14, R311) -/

/-- The frame-table weight of a plane in the current entry (R310). -/
def State.weight (s : State) (p : Nat) : Int :=
  match s.fo.table[s.fo.tabIx]? with
  | some e => ((e.extractLsb' (5 * p) 5).toNat : Int)
  | none => 0

/-- R311's counters after this cycle's gain: planes with a ready task gain their weight. -/
def State.gain (s : State) (col row p : Nat) : Int :=
  let q := s.plane ⟨col, row, p⟩
  if s.planeReady ⟨col, row, p⟩ then min (q.deficit + s.weight p) 64 else q.deficit

/-- Whether R311 chooses plane `p` in this cycle: the greatest counter, a tie to the plane that issued least
recently. -/
def State.chosen (s : State) (col row p : Nat) : Bool :=
  (List.range 4).all fun q =>
    q = p || !s.planeReady ⟨col, row, q⟩
      || decide (s.gain col row q < s.gain col row p)
      || (decide (s.gain col row q = s.gain col row p)
          && decide ((s.plane ⟨col, row, p⟩).lastIssue.toNat ≤ (s.plane ⟨col, row, q⟩).lastIssue.toNat))

/-- Takes a place in the tile's issue group of this cycle: it starts the group when there is none, which needs the plane
to be the chosen one, and otherwise joins the plane's own group within the limits of R14. A tile in the cycle after an
overflow issues nothing (R98), nor does a plane whose launch waits for a page (R323). -/
def State.issue (s : State) (pl : PlaneId) (c : ICls) : Option State :=
  let ix := tileIx pl.col pl.row
  let t := s.tile ix
  let one (k : ICls) : Nat := if c = k then 1 else 0
  if t.frozen = .now ∨ t.frozen = .both ∨ s.planeGoes pl = false then none
  else match t.issue with
    | none =>
      if s.chosen pl.col pl.row pl.plane then
        let gains := (List.range 4).map fun p => (p, s.gain pl.col pl.row p)
        let s1 := gains.foldl (fun st (p, d) =>
          let id : PlaneId := ⟨pl.col, pl.row, p⟩
          if p = pl.plane then
            st.modPlane id fun q => { q with deficit := max (d - 16) (-64), lastIssue := s.cycle (s.gladeOf pl.col) }
          else if (st.plane id).deficit = d then st
          else st.modPlane id fun q => { q with deficit := d }) s
        some (s1.setTile ix { t with issue := some ⟨pl.plane, one .vec, one .scl, one .mem⟩ })
      else none
    | some g =>
      if g.plane = pl.plane && decide (g.vec + one .vec ≤ 1) && decide (g.scl + one .scl ≤ 2)
          && decide (g.mem + one .mem ≤ 1) then
        some (s.setTile ix { t with issue := some ⟨g.plane, g.vec + one .vec, g.scl + one .scl, g.mem + one .mem⟩ })
      else none

/-! ### Event counters (R250, R98) -/

/-- An overflow stops the next cycle, whatever this one is (R98). -/
def Freeze.spill : Freeze → Freeze
  | .now | .both => .both
  | _ => .next

/-- Counts one event of a plane on the tile's counters that its owner has set to that code. An overflow stops the tile's
issue stage for the next cycle and leaves a sample to be taken, which names the lowest slot of the group whose event the
counter counted (R98). -/
def State.count (s : State) (pl : PlaneId) (code : Nat) (blk : BitVec 16) (slot : Nat) : State :=
  let ix := tileIx pl.col pl.row
  if (s.tile ix).perf.isEmpty || !(s.plane pl).own.getLsbD 3 then s
  else
    let x := (s.plane pl).launch.bind s.launch?
    (List.range 4).foldl (fun st n =>
      let t := st.tile ix
      let c := Store.getD t.perf n {}
      if c.ev.toNat = code ∧ code ≠ 0 then
        let low := match c.grp with | some k => min k slot | none => slot
        let spill := decide (c.cnt = BitVec.allOnes 48)
        let ovf := match spill, c.ovf with
          | true, _ => some { pl := pl, blk := blk, slot := low, cycle := s.cycle (s.gladeOf pl.col),
                              ver := x.elim 0#16 (·.ver), ticket := x.elim 0#32 (·.ticket) }
          | false, o => o.map fun v => if c.grp.isSome ∧ slot < v.slot ∧ (t.frozen = .next ∨ t.frozen = .both) then { v with slot := slot } else v
        st.setTile ix { t with perf := Store.set t.perf n { c with cnt := c.cnt + 1#48, grp := some low, ovf := ovf },
                               frozen := if spill then t.frozen.spill else t.frozen }
      else st) s

/-- The record of a sample (R98) as four words. -/
def Sample.words (p : Sample) : List W64 :=
  [BitVec.ofNat 64 (p.blk.toNat + p.slot % 64 * 2 ^ 16 + p.pl.plane % 4 * 2 ^ 22 + p.pl.col % 128 * 2 ^ 24
      + p.pl.row % 64 * 2 ^ 31 + p.ctr % 4 * 2 ^ 37 + p.ver.toNat * 2 ^ 48),
   p.cycle, BitVec.ofNat 64 p.ticket.toNat, 0#64]

/-- EVENT_COUNTER_OVERFLOW (R98): the sample of a counter that has overflowed goes to the glade's ring; a full ring drops
it and counts it as lost. -/
def State.takeSample (s : State) (ix n : Nat) : State :=
  let t := s.tile ix
  let c := Store.getD t.perf n {}
  match c.ovf with
  | none => s
  | some v =>
    let smp : Sample := { blk := v.blk, slot := v.slot, pl := v.pl, ctr := n, ver := v.ver, cycle := v.cycle, ticket := v.ticket }
    let s := s.setTile ix { t with perf := Store.set t.perf n { c with ovf := none } }
    s.modGlade (s.gladeOf v.pl.col) fun y =>
      if y.samples.length < sampleRing then { y with samples := y.samples ++ [smp] } else { y with lost := y.lost + 1 }

/-! ### Firing an instruction -/

/-- What an instruction that fires sees: the state, its plane and firing, its block, its slot and its operands. -/
structure FX where
  s : State
  pl : PlaneId
  p : Plane
  f : Firing
  r : BlockRun
  slot : Nat
  a : Datum
  b : Datum
  c : Datum

/-- What an instruction that fires answers. -/
inductive FR where
  /-- values for targets, effects for commit -/
  | go (outs : List (Tgt × Val)) (effs : List Eff)
  /-- an exit that fired -/
  | exit (e : ExitKind) (effs : List Eff)
  /-- a format M instruction that waits for admission -/
  | wave (w : Wave)
  /-- a fault raised at firing (R200) -/
  | fault (cls : FCls) (code : Nat) (info : W64)

/-- A value arrives in an operand or predicate slot; `none` where one has arrived before (R43). -/
def BlockRun.put (r : BlockRun) : Tgt × Val → Option BlockRun
  | (.none, _) => some r
  | (.a s, v) => if (Store.get? r.opA s.toNat).isSome then none else some { r with opA := Store.set r.opA s.toNat v }
  | (.b s, v) => if (Store.get? r.opB s.toNat).isSome then none else some { r with opB := Store.set r.opB s.toNat v }
  | (.c s, v) => if (Store.get? r.opC s.toNat).isSome then none else some { r with opC := Store.set r.opC s.toNat v }
  | (.p s, v) => if (Store.get? r.pred s.toNat).isSome then none else some { r with pred := Store.set r.pred s.toNat v }

/-- Several values in turn. -/
def BlockRun.putAll (r : BlockRun) : List (Tgt × Val) → Option BlockRun
  | [] => some r
  | x :: t => match r.put x with | some r' => BlockRun.putAll r' t | none => none

/-- The block marks a slot as fired or nullified. -/
def BlockRun.mark (r : BlockRun) (slot : Nat) : BlockRun := { r with done := slot :: r.done }

/-- Sets a wave state (R130). -/
def BlockRun.setWave (r : BlockRun) (n : Nat) (w : WaveSt) : BlockRun := { r with waves := r.waves.set n w }

/-- A nullified wave-ordered instruction: an open wave becomes nullified (R130). -/
def BlockRun.nullWave (r : BlockRun) (i : Instr) : BlockRun :=
  match linkOf i with
  | some lk => if r.waves.getD lk.seq.toNat .opened = .opened then r.setWave lk.seq.toNat .nullified else r
  | none => r

/-- Puts a changed block back into the plane's firing. -/
def State.setRun (s : State) (pl : PlaneId) (r : BlockRun) : State :=
  s.modPlane pl fun p => { p with firing := p.firing.map fun f => { f with run := some r } }

/-- A fault raised at firing or while the block runs: the block goes, the firing stops at it, and the fault is taken
(R200, R336). A fault in a firing of a fault task takes its default action (R334). -/
def State.blockFault (s : State) (pl : PlaneId) (cls : FCls) (code : Nat) (slot : Nat) (info : W64) : State :=
  match (s.plane pl).firing with
  | none => s
  | some f =>
    let lid := (s.plane pl).launch.getD 0
    let inHandler : Bool := match s.actorOf pl with
      | some (_, _, a) => (match a.tasks[f.task]? with | some t => a.isFaultTask t | none => false)
      | none => false
    let (fid, s) := s.raise cls lid (some pl) pl (.firing pl) code false f.block.toNat slot 0 0 info inHandler
    s.modPlane pl fun p => { p with firing := some { f with run := none, st := .faulted fid } }

/-- An instruction takes a place in the issue group of its tile and is counted (R14, R250). -/
def State.takePlace (s : State) (pl : PlaneId) (i : Instr) (blk : BitVec 16) (slot : Nat) : Option State :=
  (s.issue pl (issueOf i)).map fun s =>
    let s := match issueOf i with
      | .vec => s.count pl 3 blk slot
      | .scl => s.count pl 4 blk slot
      | .mem => s.count pl 5 blk slot
    match (s.tile (tileIx pl.col pl.row)).issue with
    | some g => if g.vec + g.scl + g.mem = 1 then s.count pl 2 blk slot else s
    | none => s

/-- What an instruction that fires leaves: its values at their targets and its effects for commit, its exit, its wave, or
the fault that it raises. A wave that has been skipped before it fires is F_BLOCK_ILLEGAL (R130). A target that holds a value
already, or a second exit, is F_BLOCK_ILLEGAL (R43, R44, R132); its fault token names the slot that delivers: DESIGN CHOICE
(assumption 42). -/
def State.fireOut (s : State) (pl : PlaneId) (r : BlockRun) (slot : Nat) : FR → State
  | .fault cls code info => s.blockFault pl cls code slot info
  | .go outs effs =>
    match (r.mark slot).putAll outs with
    | some r' => s.setRun pl { r' with effs := r'.effs ++ effs.map fun e => (slot, e) }
    | none => s.blockFault pl .blockIllegal 0 slot 0#64
  | .exit e effs =>
    if r.exits.isEmpty then
      s.setRun pl { r.mark slot with exits := [e], effs := r.effs ++ effs.map fun e => (slot, e) }
    else s.blockFault pl .blockIllegal 0 slot 0#64
  | .wave w =>
    if r.waves.getD w.lk.seq.toNat .opened = .skipped then s.blockFault pl .blockIllegal 0 slot 0#64
    else s.setRun pl { r.mark slot with pend := r.pend ++ [w] }

/-- What a null operand or predicate leaves: null at the targets of a pure instruction, a nullified output, an exit that
does not count as fired (R44). -/
def State.fireNull (s : State) (pl : PlaneId) (r : BlockRun) (slot : Nat) (i : Instr) : State :=
  match classOf i with
  | .pure =>
    match (r.mark slot).putAll ((tgtsOf i).map fun t => (t, Val.null)) with
    | some r' => s.setRun pl r'
    | none => s.blockFault pl .blockIllegal 0 slot 0#64
  | .wave => s.setRun pl ((r.nullWave i).mark slot)
  | _ => s.setRun pl (r.mark slot)

/-- FIRING AN INSTRUCTION, the one shared frame of every tile instruction: the slot `cur.slot` of the block that the
plane `cur.pl` runs. Where the slot cannot fire now, nothing changes. A null operand or predicate gives null to the
targets of a pure instruction, which takes its place in the issue group, and nullifies an output (R44); a predicate of the
other value leaves a pure instruction or an exit unfired and nullifies an output (R43, R128). Otherwise the instruction
takes a place in the issue group, its level is checked (R136), and it acts as `k` says. -/
def fireWord (i : Instr) (s : State) (k : FX → FR) : Res :=
  let pl := s.cur.pl
  let slot := s.cur.slot
  let p := s.plane pl
  match p.firing with
  | none => .next s
  | some f =>
    match f.st, f.run with
    | .running, some r =>
      if r.done.contains slot then .next s
      else match r.fit i slot with
        | .wait => .next s
        | .skip =>
          match classOf i with
          | .wave => .next (s.setRun pl ((r.nullWave i).mark slot))
          | _ => .next (s.setRun pl (r.mark slot))
        | .null =>
          match classOf i with
          | .pure =>
            match s.takePlace pl i f.block slot with
            | none => .next s
            | some s => .next (s.fireNull pl r slot i)
          | _ => .next (s.fireNull pl r slot i)
        | .go a b c =>
          match s.takePlace pl i f.block slot with
          | none => .next s
          | some s =>
            if needsHandler i && decide (p.level = .user) then .next (s.blockFault pl .priv 0 slot 0#64)
            else .next (s.fireOut pl r slot
              (k { s := s, pl := pl, p := s.plane pl, f := f, r := r, slot := slot, a := a, b := b, c := c }))
    | _, _ => .next s

/-! ### Operand forms -/

/-- 64 bits of a SCALAR or MASK operand; a VECTOR has none (R143). -/
def Datum.s64 (d : Datum) : Option W64 := if d.shape = .vector then none else some d.bits

/-- One SCALAR result to both targets (R142, R165). -/
def outBoth (tb ta : Tgt) (v : Val) : FR := .go [(ta, v), (tb, v)] []

/-- A scalar instruction of one operand: F_TYPE on a VECTOR (R143). -/
def need1 (x : FX) (k : W64 → FR) : FR := match x.a.s64 with | some a => k a | none => .fault .type 0 0#64
/-- A scalar instruction of two operands. -/
def need2 (x : FX) (k : W64 → W64 → FR) : FR :=
  match x.a.s64, x.b.s64 with
  | some a, some b => k a b
  | _, _ => .fault .type 0 0#64
/-- A scalar instruction of three operands. -/
def need3 (x : FX) (k : W64 → W64 → W64 → FR) : FR :=
  match x.a.s64, x.b.s64, x.c.s64 with
  | some a, some b, some c => k a b c
  | _, _, _ => .fault .type 0 0#64

/-- A data operand of a typed vector instruction: VECTOR, with the tag TY (R173). -/
def Datum.isData (d : Datum) (t : ETy) : Bool := decide (d.shape = .vector) && decide (d.tag = t)

end Sys2Proof.Machine
end

