-- ==== Sys2Proof/Machine/Flags.lean ====
section
/-!
DEFINITION. Conditions and carries: the 9600 has no status flags; a comparison delivers 1 or 0 (R156, R178), and a
carry or borrow is an ordinary second result (R168).
-/
namespace Sys2Proof.Machine

/-- A number of w bits read as two's complement. -/
def sgn (w x : Nat) : Int := if x < 2 ^ (w - 1) then (x : Int) else (x : Int) - (2 ^ w : Nat)

/-- TST's conditions on operands of w bits (R156). -/
def testCond (c : Cond) (w a b : Nat) : Bool :=
  match c with
  | .eq => decide (a = b)
  | .ne => decide (a ≠ b)
  | .lt => decide (sgn w a < sgn w b)
  | .ge => decide (sgn w b ≤ sgn w a)
  | .ltu => decide (a < b)
  | .geu => decide (b ≤ a)
  | .any => decide (a &&& b ≠ 0)
  | .none => decide (a &&& b = 0)

/-- The carry of x + y + c at w bits (R168). -/
def carryOut (w x y c : Nat) : W64 := if 2 ^ w ≤ x + y + c then 1#64 else 0#64
/-- The borrow of x − y − c (R168). -/
def borrowOut (x y c : Nat) : W64 := if (x : Int) - y - c < 0 then 1#64 else 0#64

/-- The conditions of the vector compares on integers (R178). -/
inductive VCond where
  | eq | ne | lt | le
  deriving DecidableEq, Repr

def vcondInt (c : VCond) (a b : Int) : Bool :=
  match c with
  | .eq => decide (a = b)
  | .ne => decide (a ≠ b)
  | .lt => decide (a < b)
  | .le => decide (a ≤ b)

/-- The conditions of the vector compares on floating-point codes after FTZI; a NaN is unordered (R178). -/
def vcondF (f : Fmt) (c : VCond) (a b : Nat) : Bool :=
  match decodeF f a, decodeF f b with
  | .nan _ _, _ => decide (c = .ne)
  | _, .nan _ _ => decide (c = .ne)
  | _, _ => vcondInt c (cmpKey f a) (cmpKey f b)

end Sys2Proof.Machine
end

