-- ==== Sys2Proof/Machine/Scalar.lean ====
section
/-!
DEFINITION. Scalar integer arithmetic (08 R165 to R171, 06 R102).
-/
namespace Sys2Proof.Machine

/-- The width of a scalar operation (R165). -/
def swWidth : SW → Nat
  | .d64 => 64
  | _ => 32
/-- Its result tag (R142). -/
def swTag : SW → ETy
  | .d64 => .i64
  | .sx32 => .i32
  | .zx32 => .u32

/-- v mod 2^w, extended as TY states (R165). -/
def swExtend (sw : SW) (v : Int) : W64 :=
  let w := swWidth sw
  let u := (v % (2 ^ w : Nat)).toNat
  match sw with
  | .sx32 => BitVec.ofInt 64 (sgn w u)
  | _ => BitVec.ofNat 64 u

/-- The scalar result of an operation of one operand (R165). -/
def scal1 (sw : SW) (tb ta : Tgt) (op : Nat → Nat → Int) (x : FX) : FR :=
  need1 x fun a => outBoth tb ta (scalarVal (swExtend sw (op (swWidth sw) (lowBits (swWidth sw) a))) (swTag sw))
/-- The scalar result of an operation of two operands (R165). -/
def scal2 (sw : SW) (tb ta : Tgt) (op : Nat → Nat → Nat → Int) (x : FX) : FR :=
  need2 x fun a b =>
    let w := swWidth sw
    outBoth tb ta (scalarVal (swExtend sw (op w (lowBits w a) (lowBits w b))) (swTag sw))

/-! ### The operations of R166 at w bits, with the edge results of R102 -/

def opAdd (_w x y : Nat) : Int := (x : Int) + y
def opSub (_w x y : Nat) : Int := (x : Int) - y
def opMul (_w x y : Nat) : Int := (x : Int) * y
def opMulh (w x y : Nat) : Int := sgn w x * sgn w y / (2 ^ w : Nat)
def opMulhu (w x y : Nat) : Int := ((x * y / 2 ^ w : Nat) : Int)
def opDiv (w x y : Nat) : Int := if y = 0 then -1 else (sgn w x).tdiv (sgn w y)
def opDivu (w x y : Nat) : Int := if y = 0 then (2 ^ w : Nat) - 1 else ((x / y : Nat) : Int)
def opRem (w x y : Nat) : Int := if y = 0 then (x : Int) else (sgn w x).tmod (sgn w y)
def opRemu (_w x y : Nat) : Int := if y = 0 then (x : Int) else ((x % y : Nat) : Int)
def opAnd (_w x y : Nat) : Int := ((x &&& y : Nat) : Int)
def opOr (_w x y : Nat) : Int := ((x ||| y : Nat) : Int)
def opXor (_w x y : Nat) : Int := ((x ^^^ y : Nat) : Int)
def opAndn (w x y : Nat) : Int := ((x &&& (2 ^ w - 1 - y) : Nat) : Int)
def opShl (w x y : Nat) : Int := ((x <<< (y % w) : Nat) : Int)
def opShr (w x y : Nat) : Int := ((x >>> (y % w) : Nat) : Int)
def opSra (w x y : Nat) : Int := sgn w x / (2 ^ (y % w) : Nat)
def opRotl (w x y : Nat) : Int := ((x <<< (y % w) ||| x >>> (w - y % w) : Nat) : Int)
def opRotr (w x y : Nat) : Int := ((x >>> (y % w) ||| x <<< (w - y % w) : Nat) : Int)
def opMin (w x y : Nat) : Int := min (sgn w x) (sgn w y)
def opMax (w x y : Nat) : Int := max (sgn w x) (sgn w y)
def opMinu (_w x y : Nat) : Int := ((min x y : Nat) : Int)
def opMaxu (_w x y : Nat) : Int := ((max x y : Nat) : Int)
def opNeg (_w x : Nat) : Int := -(x : Int)
def opAbs (w x : Nat) : Int := ((sgn w x).natAbs : Int)
def opNot (w x : Nat) : Int := ((2 ^ w - 1 - x : Nat) : Int)
/-- Leading zeros of a w-bit number (R102). -/
def clz (w x : Nat) : Nat := if x = 0 then w else w - 1 - Nat.log2 x
def opClz (w x : Nat) : Int := (clz w x : Int)
/-- Trailing zeros of a w-bit number (R102). -/
def ctz (w x : Nat) : Nat := ((List.range w).find? fun j => x.testBit j).getD w
def opCtz (w x : Nat) : Int := (ctz w x : Int)
/-- The number of 1 bits among the low w bits. -/
def popc (w x : Nat) : Nat := ((List.range w).filter fun j => x.testBit j).length
def opPopc (w x : Nat) : Int := (popc w x : Int)
def opBrev (w x : Nat) : Int :=
  (((List.range w).foldl (fun acc j => if x.testBit (w - 1 - j) then acc + 2 ^ j else acc) 0 : Nat) : Int)
def opBswap (w x : Nat) : Int :=
  (((List.range (w / 8)).foldl (fun acc j => acc + x / 2 ^ (8 * (w / 8 - 1 - j)) % 256 * 2 ^ (8 * j)) 0 : Nat) : Int)

/-- ADD (R166). -/
def execAdd (pr : PR) (sw : SW) (tb ta : Tgt) (s : State) : Res :=
  fireWord (.add pr sw tb ta) s (scal2 sw tb ta opAdd)
/-- SUB (R166). -/
def execSub (pr : PR) (sw : SW) (tb ta : Tgt) (s : State) : Res :=
  fireWord (.sub pr sw tb ta) s (scal2 sw tb ta opSub)
/-- MUL (R166). -/
def execMul (pr : PR) (sw : SW) (tb ta : Tgt) (s : State) : Res :=
  fireWord (.mul pr sw tb ta) s (scal2 sw tb ta opMul)
/-- MULH (R166). -/
def execMulh (pr : PR) (sw : SW) (tb ta : Tgt) (s : State) : Res :=
  fireWord (.mulh pr sw tb ta) s (scal2 sw tb ta opMulh)
/-- MULHU (R166). -/
def execMulhu (pr : PR) (sw : SW) (tb ta : Tgt) (s : State) : Res :=
  fireWord (.mulhu pr sw tb ta) s (scal2 sw tb ta opMulhu)
/-- DIV (R166). -/
def execDiv (pr : PR) (sw : SW) (tb ta : Tgt) (s : State) : Res :=
  fireWord (.div pr sw tb ta) s (scal2 sw tb ta opDiv)
/-- DIVU (R166). -/
def execDivu (pr : PR) (sw : SW) (tb ta : Tgt) (s : State) : Res :=
  fireWord (.divu pr sw tb ta) s (scal2 sw tb ta opDivu)
/-- REM (R166). -/
def execRem (pr : PR) (sw : SW) (tb ta : Tgt) (s : State) : Res :=
  fireWord (.rem pr sw tb ta) s (scal2 sw tb ta opRem)
/-- REMU (R166). -/
def execRemu (pr : PR) (sw : SW) (tb ta : Tgt) (s : State) : Res :=
  fireWord (.remu pr sw tb ta) s (scal2 sw tb ta opRemu)
/-- AND (R166). -/
def execAnd (pr : PR) (sw : SW) (tb ta : Tgt) (s : State) : Res :=
  fireWord (.and pr sw tb ta) s (scal2 sw tb ta opAnd)
/-- OR (R166). -/
def execOr (pr : PR) (sw : SW) (tb ta : Tgt) (s : State) : Res :=
  fireWord (.or pr sw tb ta) s (scal2 sw tb ta opOr)
/-- XOR (R166). -/
def execXor (pr : PR) (sw : SW) (tb ta : Tgt) (s : State) : Res :=
  fireWord (.xor pr sw tb ta) s (scal2 sw tb ta opXor)
/-- ANDN (R166). -/
def execAndn (pr : PR) (sw : SW) (tb ta : Tgt) (s : State) : Res :=
  fireWord (.andn pr sw tb ta) s (scal2 sw tb ta opAndn)
/-- SHL (R166). -/
def execShl (pr : PR) (sw : SW) (tb ta : Tgt) (s : State) : Res :=
  fireWord (.shl pr sw tb ta) s (scal2 sw tb ta opShl)
/-- SHR (R166). -/
def execShr (pr : PR) (sw : SW) (tb ta : Tgt) (s : State) : Res :=
  fireWord (.shr pr sw tb ta) s (scal2 sw tb ta opShr)
/-- SRA (R166). -/
def execSra (pr : PR) (sw : SW) (tb ta : Tgt) (s : State) : Res :=
  fireWord (.sra pr sw tb ta) s (scal2 sw tb ta opSra)
/-- ROTL (R166). -/
def execRotl (pr : PR) (sw : SW) (tb ta : Tgt) (s : State) : Res :=
  fireWord (.rotl pr sw tb ta) s (scal2 sw tb ta opRotl)
/-- ROTR (R166). -/
def execRotr (pr : PR) (sw : SW) (tb ta : Tgt) (s : State) : Res :=
  fireWord (.rotr pr sw tb ta) s (scal2 sw tb ta opRotr)
/-- MIN (R166). -/
def execMin (pr : PR) (sw : SW) (tb ta : Tgt) (s : State) : Res :=
  fireWord (.min pr sw tb ta) s (scal2 sw tb ta opMin)
/-- MAX (R166). -/
def execMax (pr : PR) (sw : SW) (tb ta : Tgt) (s : State) : Res :=
  fireWord (.max pr sw tb ta) s (scal2 sw tb ta opMax)
/-- MINU (R166). -/
def execMinu (pr : PR) (sw : SW) (tb ta : Tgt) (s : State) : Res :=
  fireWord (.minu pr sw tb ta) s (scal2 sw tb ta opMinu)
/-- MAXU (R166). -/
def execMaxu (pr : PR) (sw : SW) (tb ta : Tgt) (s : State) : Res :=
  fireWord (.maxu pr sw tb ta) s (scal2 sw tb ta opMaxu)
/-- NEG (R166). -/
def execNeg (pr : PR) (sw : SW) (tb ta : Tgt) (s : State) : Res :=
  fireWord (.neg pr sw tb ta) s (scal1 sw tb ta opNeg)
/-- ABS (R166). -/
def execAbs (pr : PR) (sw : SW) (tb ta : Tgt) (s : State) : Res :=
  fireWord (.abs pr sw tb ta) s (scal1 sw tb ta opAbs)
/-- NOT (R166). -/
def execNot (pr : PR) (sw : SW) (tb ta : Tgt) (s : State) : Res :=
  fireWord (.not pr sw tb ta) s (scal1 sw tb ta opNot)
/-- CLZ (R166). -/
def execClz (pr : PR) (sw : SW) (tb ta : Tgt) (s : State) : Res :=
  fireWord (.clz pr sw tb ta) s (scal1 sw tb ta opClz)
/-- CTZ (R166). -/
def execCtz (pr : PR) (sw : SW) (tb ta : Tgt) (s : State) : Res :=
  fireWord (.ctz pr sw tb ta) s (scal1 sw tb ta opCtz)
/-- POPC (R166). -/
def execPopc (pr : PR) (sw : SW) (tb ta : Tgt) (s : State) : Res :=
  fireWord (.popc pr sw tb ta) s (scal1 sw tb ta opPopc)
/-- BREV (R166). -/
def execBrev (pr : PR) (sw : SW) (tb ta : Tgt) (s : State) : Res :=
  fireWord (.brev pr sw tb ta) s (scal1 sw tb ta opBrev)
/-- BSWAP (R166). -/
def execBswap (pr : PR) (sw : SW) (tb ta : Tgt) (s : State) : Res :=
  fireWord (.bswap pr sw tb ta) s (scal1 sw tb ta opBswap)

/-- MADD: x × y + z (R166). -/
def execMadd (pr : PR) (sw : SW) (tb ta : Tgt) (s : State) : Res :=
  fireWord (.madd pr sw tb ta) s fun x => need3 x fun a b c =>
    let w := swWidth sw
    outBoth tb ta (scalarVal (swExtend sw ((lowBits w a : Int) * lowBits w b + lowBits w c)) (swTag sw))

/-- ADDC: the sum to TA, the carry to TB (R168). -/
def execAddc (pr : PR) (sw : SW) (tb ta : Tgt) (s : State) : Res :=
  fireWord (.addc pr sw tb ta) s fun x => need3 x fun a b c =>
    let w := swWidth sw
    let t := lowBits w a + lowBits w b + lowBits 1 c
    .go [(ta, scalarVal (swExtend sw t) (swTag sw)),
         (tb, scalarVal (carryOut w (lowBits w a) (lowBits w b) (lowBits 1 c)) .u64)] []

/-- SUBB: the difference to TA, the borrow to TB (R168). -/
def execSubb (pr : PR) (sw : SW) (tb ta : Tgt) (s : State) : Res :=
  fireWord (.subb pr sw tb ta) s fun x => need3 x fun a b c =>
    let w := swWidth sw
    let t : Int := (lowBits w a : Int) - lowBits w b - lowBits 1 c
    .go [(ta, scalarVal (swExtend sw t) (swTag sw)),
         (tb, scalarVal (borrowOut (lowBits w a) (lowBits w b) (lowBits 1 c)) .u64)] []

/-- LEA: a + b × S (R169). -/
def execLea (pr : PR) (s2 : BitVec 2) (tb ta : Tgt) (s : State) : Res :=
  fireWord (.lea pr s2 tb ta) s fun x => need2 x fun a b =>
    outBoth tb ta (scalarVal (a + BitVec.ofNat 64 (b.toNat * 2 ^ s2.toNat)) .i64)

/-- Position and length of a control operand (R170). -/
def fieldPos (ctl : W64) : Nat := bitsOf ctl.toNat 5 0
def fieldLen (ctl : W64) : Nat := bitsOf ctl.toNat 13 8 + 1

/-- BFX: a field, zero- or sign-extended (R170). -/
def execBfx (pr : PR) (sx : Bool) (tb ta : Tgt) (s : State) : Res :=
  fireWord (.bfx pr sx tb ta) s fun x => need2 x fun a b =>
    let len := fieldLen b
    let f := (a.toNat >>> fieldPos b) % 2 ^ len
    outBoth tb ta (scalarVal (if sx then BitVec.ofInt 64 (sgn len f) else BitVec.ofNat 64 f) .i64)

/-- BFI: a field of b inserted into a (R170). -/
def execBfi (pr : PR) (tb ta : Tgt) (s : State) : Res :=
  fireWord (.bfi pr tb ta) s fun x => need3 x fun a b c =>
    let m := BitVec.ofNat 64 ((2 ^ fieldLen c - 1) <<< fieldPos c)
    outBoth tb ta (scalarVal ((a &&& ~~~m) ||| (BitVec.ofNat 64 (b.toNat <<< fieldPos c) &&& m)) .i64)

/-- The source width of EXTS and EXTZ (R171). -/
def xwBits : XW → Nat
  | .b => 8 | .h => 16 | .w => 32

/-- EXTS (R171). -/
def execExts (pr : PR) (xw : XW) (tb ta : Tgt) (s : State) : Res :=
  fireWord (.exts pr xw tb ta) s fun x => need1 x fun a =>
    outBoth tb ta (scalarVal (BitVec.ofInt 64 (sgn (xwBits xw) (lowBits (xwBits xw) a))) .i64)

/-- EXTZ (R171). -/
def execExtz (pr : PR) (xw : XW) (tb ta : Tgt) (s : State) : Res :=
  fireWord (.extz pr xw tb ta) s fun x => need1 x fun a =>
    outBoth tb ta (scalarVal (BitVec.ofNat 64 (lowBits (xwBits xw) a)) .u64)

/-- IMM13 sign-extended to 64 bits (R146, R167). -/
def sext13 (imm : BitVec 13) : W64 := imm.signExtend 64

/-- The result of an immediate form, always at 64 bits with tag I64 (R167). -/
def immOp (ta : Tgt) (op : W64 → W64) (x : FX) : FR := need1 x fun a => .go [(ta, scalarVal (op a) .i64)] []

def execAddi (pr : PR) (imm : BitVec 13) (ta : Tgt) (s : State) : Res :=
  fireWord (.addi pr imm ta) s (immOp ta fun a => a + sext13 imm)
def execShli (pr : PR) (imm : BitVec 13) (ta : Tgt) (s : State) : Res :=
  fireWord (.shli pr imm ta) s (immOp ta fun a => a <<< (imm.toNat % 64))
def execShri (pr : PR) (imm : BitVec 13) (ta : Tgt) (s : State) : Res :=
  fireWord (.shri pr imm ta) s (immOp ta fun a => a >>> (imm.toNat % 64))
def execSrai (pr : PR) (imm : BitVec 13) (ta : Tgt) (s : State) : Res :=
  fireWord (.srai pr imm ta) s (immOp ta fun a => a.sshiftRight (imm.toNat % 64))
def execAndi (pr : PR) (imm : BitVec 13) (ta : Tgt) (s : State) : Res :=
  fireWord (.andi pr imm ta) s (immOp ta fun a => a &&& sext13 imm)
def execOri (pr : PR) (imm : BitVec 13) (ta : Tgt) (s : State) : Res :=
  fireWord (.ori pr imm ta) s (immOp ta fun a => a ||| sext13 imm)
def execXori (pr : PR) (imm : BitVec 13) (ta : Tgt) (s : State) : Res :=
  fireWord (.xori pr imm ta) s (immOp ta fun a => a ^^^ sext13 imm)

end Sys2Proof.Machine
end

