-- ==== Sys2Proof/Machine/Control.lean ====
section
/-!
DEFINITION. Control instructions (08 R145 to R164): constants, moves, registers, channels, predicates, exits, time and
identity.
-/
namespace Sys2Proof.Machine

/-- NOP: no effect (R145). -/
def execNop (pr : PR) (s : State) : Res := fireWord (.nop pr) s fun _ => .go [] []

/-- MOVI: IMM13 sign-extended (R146). -/
def execMovi (pr : PR) (imm : BitVec 13) (ta : Tgt) (s : State) : Res :=
  fireWord (.movi pr imm ta) s fun _ => .go [(ta, scalarVal (sext13 imm) .i64)] []

/-- CONST: a constant of the block (R146). Block fetch keeps k below NC (R133). -/
def execConst (pr : PR) (k : BitVec 4) (ta : Tgt) (s : State) : Res :=
  fireWord (.const pr k ta) s fun x => .go [(ta, scalarVal (x.r.consts.getD k.toNat 0#64) .i64)] []

/-- MOV: operand A unchanged (R147). -/
def execMov (pr : PR) (tb ta : Tgt) (s : State) : Res :=
  fireWord (.mov pr tb ta) s fun x => outBoth tb ta (.dat x.a)

/-- NULL: a null value (R148). -/
def execNull (pr : PR) (tb ta : Tgt) (s : State) : Res :=
  fireWord (.null pr tb ta) s fun _ => outBoth tb ta .null

/-- SEL: a or b by bit 0 of c; a VECTOR selector raises F_TYPE (R149). -/
def execSel (pr : PR) (tb ta : Tgt) (s : State) : Res :=
  fireWord (.sel pr tb ta) s fun x =>
    match x.c.s64 with
    | none => .fault .type 0 0#64
    | some c => outBoth tb ta (.dat (if c.getLsbD 0 then x.a else x.b))

/-- GET (R150, R151): the register as the block began; its tag is I64 or the one AUX names. -/
def execGet (pr : PR) (h : BitVec 6) (tag : Option ETy) (ta : Tgt) (s : State) : Res :=
  fireWord (.get pr h tag ta) s fun x => .go [(ta, scalarVal (x.p.sreg h.toNat) (tag.getD .i64))] []

/-- GETV (R150, R151). -/
def execGetv (pr : PR) (h : BitVec 4) (tag : Option ETy) (ta : Tgt) (s : State) : Res :=
  fireWord (.getv pr h tag ta) s fun x => .go [(ta, vecVal (x.p.vreg h.toNat) (tag.getD .i64) allOnes)] []

/-- GETM (R150, R151). -/
def execGetm (pr : PR) (h : BitVec 3) (ta : Tgt) (s : State) : Res :=
  fireWord (.getm pr h ta) s fun x => .go [(ta, maskVal (x.p.mreg h.toNat))] []

/-- A second fired write of one register in a block (R152). -/
def writesS (effs : List (Nat × Eff)) (n : Nat) : Bool :=
  effs.any fun (_, e) => match e with | .sreg k _ => k = n | _ => false
def writesV (effs : List (Nat × Eff)) (n : Nat) : Bool :=
  effs.any fun (_, e) => match e with | .vreg k _ _ => k = n | _ => false
def writesM (effs : List (Nat × Eff)) (n : Nat) : Bool :=
  effs.any fun (_, e) => match e with | .mreg k _ => k = n | _ => false

/-- PUT (R152). -/
def execPut (pr : PR) (h : BitVec 6) (s : State) : Res :=
  fireWord (.put pr h) s fun x => need1 x fun a =>
    if writesS x.r.effs h.toNat then .fault .blockIllegal 0 0#64 else .go [] [.sreg h.toNat a]

/-- PUTV: all lanes, or with `.m` those whose LMASK bit is 1 (R152). -/
def execPutv (pr : PR) (h : BitVec 4) (m : Bool) (s : State) : Res :=
  fireWord (.putv pr h m) s fun x =>
    if x.a.shape ≠ .vector then .fault .type 0 0#64
    else if writesV x.r.effs h.toNat then .fault .blockIllegal 0 0#64
    else .go [] [.vreg h.toNat x.a.lanes (if m then x.a.lmask else allOnes)]

/-- PUTM (R152). -/
def execPutm (pr : PR) (h : BitVec 3) (s : State) : Res :=
  fireWord (.putm pr h) s fun x => need1 x fun a =>
    if writesM x.r.effs h.toNat then .fault .blockIllegal 0 0#64 else .go [] [.mreg h.toNat a]

/-- The task that a firing runs, if its plane holds a launch. -/
def FX.task (x : FX) : Option (ActorRec × TaskRec) :=
  match x.s.actorOf x.pl with
  | some (_, _, a) => (a.tasks[x.f.task]?).map fun t => (a, t)
  | none => none

/-- The value of a consumed token (R142, R153). -/
def tokenVal : Token → Val
  | .data d => .dat d
  | _ => .null

/-- RECV (R153, R244): the n-th data token of the firing; in a control task the kind of the head control token. A fault
input, or an n that the task's rate does not cover, raises F_SHAPE. -/
def execRecv (pr : PR) (c : BitVec 4) (n : BitVec 2) (ta : Tgt) (s : State) : Res :=
  fireWord (.recv pr c n ta) s fun x =>
    let toks := Store.getD x.f.consumed c.toNat []
    match x.f.kind with
    | .control =>
      match toks[n.toNat]? with
      | some (.ctl k) =>
        let code : Nat := match k with
          | .sot => 0 | .eot => 1 | .stop0 => 2 | .stop1 => 3 | .stop2 => 4 | .stop3 => 5 | .eos => 6
        .go [(ta, scalarVal (BitVec.ofNat 64 code) .u64)] []
      | _ => .fault .shape 0 0#64
    | _ =>
      let isFault := match x.task with | some (a, _) => a.fault.getLsbD c.toNat | none => false
      match toks[n.toNat]? with
      | some t => if isFault then .fault .shape 0 0#64 else .go [(ta, tokenVal t)] []
      | none => .fault .shape 0 0#64

/-- The kind of an output's channels (R15): the recorded shape of the first channel it feeds. -/
def FX.outShape (x : FX) (o : Nat) : Option Nat :=
  match x.s.actorOf x.pl with
  | some (_, l, _) => ((l.outChans 0 x.p.actor o)[0]?).map fun (_, r) => r.shape
  | none => none

/-- The code of a shape in a channel record (R264). -/
def shapeCode : Shape → Nat
  | .scalar => 0 | .vector => 1 | .mask => 2

/-- Tokens toward a rate that a block's sends and the firing's earlier blocks have made on an output (R23). -/
def FX.sentOn (x : FX) (o : Nat) : Nat :=
  Store.getD x.f.sent o 0 + (x.r.effs.filter fun (_, e) =>
    match e with
    | .send k (.data _) => k = o
    | .send k .null => k = o
    | _ => false).length

/-- The rate of the running task on an output. -/
def FX.orate (x : FX) (o : Nat) : Nat := match x.task with | some (_, t) => t.orate.getD o 0 | none => 0

/-- SEND (R154, R23): F_TYPE when the shape differs from the channel's kind, F_SHAPE beyond the task's rate. -/
def execSend (pr : PR) (c : BitVec 4) (s : State) : Res :=
  fireWord (.send pr c) s fun x =>
    match x.outShape c.toNat with
    | some k =>
      if k ≠ shapeCode x.a.shape then .fault .type 0 0#64
      else if x.orate c.toNat ≤ x.sentOn c.toNat then .fault .shape 0 0#64
      else .go [] [.send c.toNat (.data x.a)]
    | none =>
      if x.orate c.toNat ≤ x.sentOn c.toNat then .fault .shape 0 0#64
      else .go [] [.send c.toNat (.data x.a)]

/-- The control kind of a code (R16). -/
def ctlOf (k : Nat) : Option Ctl :=
  match k with
  | 0 => some .sot | 1 => some .eot | 2 => some .stop0 | 3 => some .stop1 | 4 => some .stop2 | 5 => some .stop3
  | 6 => some .eos
  | _ => none

/-- Whether the firing has sent a control token other than NULL on an output (R155). -/
def FX.ctlSentOn (x : FX) (o : Nat) : Bool :=
  x.f.ctlSent.contains o || x.r.effs.any fun (_, e) => match e with | .send k (.ctl _) => k = o | _ => false

/-- SENDC (R155, R16): NULL counts toward the rate; a kind of 8 or above raises F_TYPE; a second control token on one
channel in a firing raises F_SHAPE. -/
def execSendc (pr : PR) (c : BitVec 4) (k : BitVec 4) (s : State) : Res :=
  fireWord (.sendc pr c k) s fun x =>
    match ctlOf k.toNat with
    | some kd => if x.ctlSentOn c.toNat then .fault .shape 0 0#64 else .go [] [.send c.toNat (.ctl kd)]
    | none =>
      if k.toNat = 7 then
        (if x.orate c.toNat ≤ x.sentOn c.toNat then .fault .shape 0 0#64 else .go [] [.send c.toNat .null])
      else .fault .type 0 0#64

/-- TST (R156). -/
def execTst (pr : PR) (cond : Cond) (w32 : Bool) (tb ta : Tgt) (s : State) : Res :=
  fireWord (.tst pr cond w32 tb ta) s fun x => need2 x fun a b =>
    let w := if w32 then 32 else 64
    outBoth tb ta (scalarVal (if testCond cond w (lowBits w a) (lowBits w b) then 1#64 else 0#64) .u64)

/-! ### Exits (R157 to R161) -/

/-- A + 8 × IMM13 modulo 2^16 (R157). -/
def exitAddr (x : FX) (imm : BitVec 13) : BitVec 16 := x.f.block + (imm.signExtend 16 <<< 3)

def execBr (pr : PR) (imm : BitVec 13) (s : State) : Res :=
  fireWord (.br pr imm) s fun x => .exit (.goto (exitAddr x imm)) []

/-- An address taken from a value: F_ALIGN when bits 2:0 are not zero (R158). -/
def exitTo (v : W64) : FR :=
  if v.toNat % 8 = 0 then .exit (.goto (v.setWidth 16)) [] else .fault .align 0 (BitVec.ofNat 64 (v.toNat % 2 ^ 48))

def execBri (pr : PR) (s : State) : Res := fireWord (.bri pr) s fun x => need1 x exitTo

/-- CALL: s63 takes the address after the block at commit; a PUT to s63 in the same block is a second write (R152,
R159). -/
def execCall (pr : PR) (imm : BitVec 13) (s : State) : Res :=
  fireWord (.call pr imm) s fun x =>
    if writesS x.r.effs 63 then .fault .blockIllegal 0 0#64
    else .exit (.call (exitAddr x imm)) [.sreg 63 (BitVec.ofNat 64 ((x.f.block.toNat + x.r.len) % 2 ^ 16))]

def execRet (pr : PR) (s : State) : Res := fireWord (.ret pr) s fun x => exitTo (x.p.sreg 63)
def execTend (pr : PR) (s : State) : Res := fireWord (.tend pr) s fun _ => .exit .tend []
def execPyield (pr : PR) (imm : BitVec 13) (s : State) : Res :=
  fireWord (.pyield pr imm) s fun x => .exit (.yield (exitAddr x imm)) []

/-! ### Time and identity (R162 to R164) -/

def execRdcyc (pr : PR) (tb ta : Tgt) (s : State) : Res :=
  fireWord (.rdcyc pr tb ta) s fun x => outBoth tb ta (scalarVal (x.s.cycle (x.s.gladeOf x.pl.col)) .u64)

/-- TIMER (R163): F_SHAPE on an input that is no timer input, or when 8 timers would be pending. -/
def execTimer (pr : PR) (c : BitVec 4) (rel : Bool) (s : State) : Res :=
  fireWord (.timer pr c rel) s fun x => need1 x fun v =>
    let isT := match x.task with | some (a, _) => a.timer.getLsbD c.toNat | none => false
    let n := x.p.timers.length + (x.r.effs.filter fun (_, e) => match e with | .timer _ _ _ => true | _ => false).length
    if !isT then .fault .shape 0 0#64
    else if 8 ≤ n then .fault .shape 0 0#64
    else .go [] [.timer c.toNat rel v]

/-- RDID's selectors (R164). -/
def rdidValue (x : FX) (k : Nat) : Nat :=
  let g := x.s.gladeOf x.pl.col
  let l := x.p.launch.bind x.s.launch?
  match k with
  | 0 => x.p.copy
  | 1 => x.p.repl
  | 2 => x.pl.col
  | 3 => x.pl.row
  | 4 => x.pl.plane
  | 5 => g
  | 6 => firstCol g
  | 7 => 4 * ((x.s.glade? g).elim 0 (·.nisl))
  | 8 => l.elim 0 (·.ver.toNat)
  | _ => l.elim 0 (·.ticket.toNat)

def execRdid (pr : PR) (k : BitVec 4) (ta : Tgt) (s : State) : Res :=
  fireWord (.rdid pr k ta) s fun x => .go [(ta, scalarVal (BitVec.ofNat 64 (rdidValue x k.toNat)) .u64)] []

end Sys2Proof.Machine
end

