-- ==== Sys2Proof/Machine/Vector.lean ====
section
/-!
DEFINITION. Vector lanes, masks, permutes, reductions, conversion, sorted keys and random draws (09 R172 to R188, R193,
R194). The number policy word is that of the actor that runs the instruction (R106).
-/
namespace Sys2Proof.Machine

/-- The lanes that are active in every data operand (R174). -/
def act2 (x : FX) : W64 := x.a.lmask &&& x.b.lmask
def act3 (x : FX) : W64 := x.a.lmask &&& x.b.lmask &&& x.c.lmask

/-- The 64 lanes of a result: `f` on the active lanes, 0 on the others (R174); `none` when a lane raises F_ARITH. -/
def lanesGo (act : W64) (f : Nat → LR) : Nat → Nat → Option Lanes
  | 0, _ => some []
  | n + 1, j =>
    if bitAt act j then
      match f j with
      | .arith => none
      | .ok c => (lanesGo act f n (j + 1)).map fun t => BitVec.ofNat 64 c :: t
    else (lanesGo act f n (j + 1)).map fun t => 0#64 :: t

/-- A vector result, or F_ARITH (R107, R176). -/
def vecOut (tb ta : Tgt) (ty : ETy) (act : W64) (f : Nat → LR) : FR :=
  match lanesGo act f 64 0 with
  | some l => outBoth tb ta (vecVal l ty act)
  | none => .fault .arith 0 0#64

/-- A mask result of a compare, or F_ARITH (R178). -/
def maskOut (tb ta : Tgt) (act : W64) (f : Nat → LR) : FR :=
  match lanesGo act f 64 0 with
  | some l => outBoth tb ta (maskVal (mkMask fun j => bitAt act j && (laneAt l j).getLsbD 0))
  | none => .fault .arith 0 0#64

/-- One, two or three data operands of type TY (R173). -/
def data1 (ty : ETy) (x : FX) (k : FR) : FR := if x.a.isData ty then k else .fault .type 0 0#64
def data2 (ty : ETy) (x : FX) (k : FR) : FR := if x.a.isData ty && x.b.isData ty then k else .fault .type 0 0#64
def data3 (ty : ETy) (x : FX) (k : FR) : FR :=
  if x.a.isData ty && x.b.isData ty && x.c.isData ty then k else .fault .type 0 0#64

/-- A lane of an integer type from an operation on w-bit numbers (R102, R176). -/
def laneInt (ty : ETy) (v : Int) : LR := .ok (canon ty v).toNat

/-- An element-wise instruction of two data operands: its integer and floating-point operations (R176). -/
def vec2 (ty : ETy) (tb ta : Tgt) (fi : Nat → Nat → Nat → Int) (ff : W32 → Fmt → FV → FV → LR) (x : FX) : FR :=
  data2 ty x (vecOut tb ta ty (act2 x) fun j =>
    let a := laneAt x.a.lanes j
    let b := laneAt x.b.lanes j
    if tyInt ty then laneInt ty (fi (tyWidth ty) (lowBits (tyWidth ty) a) (lowBits (tyWidth ty) b))
    else ff x.p.npol (fmtOf ty) (laneF x.p.npol ty a) (laneF x.p.npol ty b))

/-- An element-wise instruction of one data operand. -/
def vec1 (ty : ETy) (tb ta : Tgt) (f : W32 → W64 → LR) (x : FX) : FR :=
  data1 ty x (vecOut tb ta ty x.a.lmask fun j => f x.p.npol (laneAt x.a.lanes j))

/-- An element-wise instruction of three data operands. -/
def vec3 (ty : ETy) (tb ta : Tgt) (f : W32 → W64 → W64 → W64 → LR) (x : FX) : FR :=
  data3 ty x (vecOut tb ta ty (act3 x) fun j => f x.p.npol (laneAt x.a.lanes j) (laneAt x.b.lanes j) (laneAt x.c.lanes j))

/-- Signed or unsigned as the type is. -/
def opSel (ty : ETy) (s u : Nat → Nat → Nat → Int) : Nat → Nat → Nat → Int := if tySigned ty then s else u

/-- A code of a floating-point lane after FTZI. -/
def codeF (npol : W32) (ty : ETy) (x : W64) : Nat := flushIn npol (fmtOf ty) (lowBits (tyWidth ty) x)

/-- min or max of two lanes (R177). -/
def minmaxLane (mx : Bool) (ty : ETy) (npol : W32) (a b : W64) : LR :=
  if tyInt ty then laneInt ty (if mx then max (intOf ty a) (intOf ty b) else min (intOf ty a) (intOf ty b))
  else minmaxF npol (fmtOf ty) mx (codeF npol ty a) (codeF npol ty b)

/-- |x| or −x of a lane (R177). -/
def signLane (neg : Bool) (ty : ETy) (npol : W32) (a : W64) : LR :=
  if tyInt ty then
    (if neg then laneInt ty (-(intOf ty a)) else laneInt ty (if tySigned ty then ((intOf ty a).natAbs : Int) else intOf ty a))
  else
    let f := fmtOf ty
    let c := codeF npol ty a
    match decodeF f c with
    | .nan s m => nanResult npol f s m
    | _ =>
      let r := c % 2 ^ (f.eb + f.mb)
      let c' := if neg then (if c / 2 ^ (f.eb + f.mb) % 2 = 1 then r else r + signBit f true) else r
      .ok (flushOut npol f c')

/-- VADD (R176). -/
def execVadd (pr : PR) (ty : ETy) (tb ta : Tgt) (s : State) : Res :=
  fireWord (.vadd pr ty tb ta) s (vec2 ty tb ta opAdd addF)

/-- VSUB (R176). -/
def execVsub (pr : PR) (ty : ETy) (tb ta : Tgt) (s : State) : Res :=
  fireWord (.vsub pr ty tb ta) s (vec2 ty tb ta opSub (fun np f a b => addF np f a (match b with | .nan s m => .nan s m | y => negFV y)))

/-- VMUL (R176). -/
def execVmul (pr : PR) (ty : ETy) (tb ta : Tgt) (s : State) : Res :=
  fireWord (.vmul pr ty tb ta) s (vec2 ty tb ta opMul mulF)

/-- VDIV (R176). -/
def execVdiv (pr : PR) (ty : ETy) (tb ta : Tgt) (s : State) : Res :=
  fireWord (.vdiv pr ty tb ta) s (vec2 ty tb ta (opSel ty opDiv opDivu) divF)

/-- VMULH (R176; integer types only). -/
def execVmulh (pr : PR) (ty : ETy) (tb ta : Tgt) (s : State) : Res :=
  fireWord (.vmulh pr ty tb ta) s (vec2 ty tb ta (opSel ty opMulh opMulhu) (fun _ _ _ _ => .arith))

/-- VAND (R176; integer types only). -/
def execVand (pr : PR) (ty : ETy) (tb ta : Tgt) (s : State) : Res :=
  fireWord (.vand pr ty tb ta) s (vec2 ty tb ta opAnd (fun _ _ _ _ => .arith))

/-- VOR (R176; integer types only). -/
def execVor (pr : PR) (ty : ETy) (tb ta : Tgt) (s : State) : Res :=
  fireWord (.vor pr ty tb ta) s (vec2 ty tb ta opOr (fun _ _ _ _ => .arith))

/-- VXOR (R176; integer types only). -/
def execVxor (pr : PR) (ty : ETy) (tb ta : Tgt) (s : State) : Res :=
  fireWord (.vxor pr ty tb ta) s (vec2 ty tb ta opXor (fun _ _ _ _ => .arith))

/-- x × y + z rounded once (R176). -/
def fmaLane (sub : Bool) (ty : ETy) (npol : W32) (a b c : W64) : LR :=
  if tyInt ty then
    let w := tyWidth ty
    let z : Int := lowBits w c
    laneInt ty ((lowBits w a : Int) * lowBits w b + (if sub then -z else z))
  else
    let z := laneF npol ty c
    fmaF npol (fmtOf ty) (laneF npol ty a) (laneF npol ty b) (if sub then negFV z else z)

/-- VFMA (R176). -/
def execVfma (pr : PR) (ty : ETy) (tb ta : Tgt) (s : State) : Res :=
  fireWord (.vfma pr ty tb ta) s (vec3 ty tb ta (fmaLane false ty))

/-- VFMS (R176). -/
def execVfms (pr : PR) (ty : ETy) (tb ta : Tgt) (s : State) : Res :=
  fireWord (.vfms pr ty tb ta) s (vec3 ty tb ta (fmaLane true ty))

/-- VMIN (R177). -/
def execVmin (pr : PR) (ty : ETy) (tb ta : Tgt) (s : State) : Res :=
  fireWord (.vmin pr ty tb ta) s fun x =>
    data2 ty x (vecOut tb ta ty (act2 x) fun j =>
      minmaxLane false ty x.p.npol (laneAt x.a.lanes j) (laneAt x.b.lanes j))

/-- VMAX (R177). -/
def execVmax (pr : PR) (ty : ETy) (tb ta : Tgt) (s : State) : Res :=
  fireWord (.vmax pr ty tb ta) s fun x =>
    data2 ty x (vecOut tb ta ty (act2 x) fun j =>
      minmaxLane true ty x.p.npol (laneAt x.a.lanes j) (laneAt x.b.lanes j))

/-- VCLAMP: min(max(x, lower), upper) (R177). -/
def execVclamp (pr : PR) (ty : ETy) (tb ta : Tgt) (s : State) : Res :=
  fireWord (.vclamp pr ty tb ta) s (vec3 ty tb ta fun np a b c =>
    match minmaxLane true ty np a b with
    | .arith => .arith
    | .ok m => minmaxLane false ty np (BitVec.ofNat 64 m) c)

/-- VABS (R177). -/
def execVabs (pr : PR) (ty : ETy) (tb ta : Tgt) (s : State) : Res :=
  fireWord (.vabs pr ty tb ta) s (vec1 ty tb ta (signLane false ty))

/-- VNEG (R177). -/
def execVneg (pr : PR) (ty : ETy) (tb ta : Tgt) (s : State) : Res :=
  fireWord (.vneg pr ty tb ta) s (vec1 ty tb ta (signLane true ty))

/-- VCLZ (R176). -/
def execVclz (pr : PR) (ty : ETy) (tb ta : Tgt) (s : State) : Res :=
  fireWord (.vclz pr ty tb ta) s (vec1 ty tb ta (fun _ a => laneInt ty (clz (tyWidth ty) (lowBits (tyWidth ty) a))))

/-- VPOPC (R176). -/
def execVpopc (pr : PR) (ty : ETy) (tb ta : Tgt) (s : State) : Res :=
  fireWord (.vpopc pr ty tb ta) s (vec1 ty tb ta (fun _ a => laneInt ty (popc (tyWidth ty) (lowBits (tyWidth ty) a))))

/-- A shift by the lanes of a count operand, whose tag is not checked; bits 5:0 are read before the modulo (R176). -/
def shiftVec (op : Nat → Nat → Nat → Int) (ty : ETy) (tb ta : Tgt) (x : FX) : FR :=
  if x.a.isData ty && decide (x.b.shape = .vector) then
    vecOut tb ta ty x.a.lmask fun j =>
      laneInt ty (op (tyWidth ty) (lowBits (tyWidth ty) (laneAt x.a.lanes j)) (lowBits 6 (laneAt x.b.lanes j)))
  else .fault .type 0 0#64

/-- VSHL (R176). -/
def execVshl (pr : PR) (ty : ETy) (tb ta : Tgt) (s : State) : Res :=
  fireWord (.vshl pr ty tb ta) s (shiftVec opShl ty tb ta)

/-- VSHR (R176). -/
def execVshr (pr : PR) (ty : ETy) (tb ta : Tgt) (s : State) : Res :=
  fireWord (.vshr pr ty tb ta) s (shiftVec opShr ty tb ta)

/-- VSRA (R176). -/
def execVsra (pr : PR) (ty : ETy) (tb ta : Tgt) (s : State) : Res :=
  fireWord (.vsra pr ty tb ta) s (shiftVec opSra ty tb ta)

/-- A compare of two data operands into a mask (R178); under STRICT a NaN in an active lane raises F_ARITH. -/
def cmpVec (c : VCond) (ty : ETy) (tb ta : Tgt) (x : FX) : FR :=
  data2 ty x (maskOut tb ta (act2 x) fun j =>
    let a := laneAt x.a.lanes j
    let b := laneAt x.b.lanes j
    if tyInt ty then .ok (if vcondInt c (intOf ty a) (intOf ty b) then 1 else 0)
    else
      let f := fmtOf ty
      let isNan (v : FV) : Bool := match v with | .nan _ _ => true | _ => false
      if (isNan (laneF x.p.npol ty a) || isNan (laneF x.p.npol ty b)) && decide (nanmOf x.p.npol = .strict) then .arith
      else .ok (if vcondF f c (codeF x.p.npol ty a) (codeF x.p.npol ty b) then 1 else 0))

/-- VCEQ (R178). -/
def execVceq (pr : PR) (ty : ETy) (tb ta : Tgt) (s : State) : Res :=
  fireWord (.vceq pr ty tb ta) s (cmpVec .eq ty tb ta)

/-- VCNE (R178). -/
def execVcne (pr : PR) (ty : ETy) (tb ta : Tgt) (s : State) : Res :=
  fireWord (.vcne pr ty tb ta) s (cmpVec .ne ty tb ta)

/-- VCLT (R178). -/
def execVclt (pr : PR) (ty : ETy) (tb ta : Tgt) (s : State) : Res :=
  fireWord (.vclt pr ty tb ta) s (cmpVec .lt ty tb ta)

/-- VCLE (R178). -/
def execVcle (pr : PR) (ty : ETy) (tb ta : Tgt) (s : State) : Res :=
  fireWord (.vcle pr ty tb ta) s (cmpVec .le ty tb ta)

/-- VSQRT (R179). -/
def execVsqrt (pr : PR) (ty : ETy) (tb ta : Tgt) (s : State) : Res :=
  fireWord (.vsqrt pr ty tb ta) s (vec1 ty tb ta (fun np a => sqrtF np (fmtOf ty) (laneF np ty a)))

/-- VRCP (R179). -/
def execVrcp (pr : PR) (ty : ETy) (tb ta : Tgt) (s : State) : Res :=
  fireWord (.vrcp pr ty tb ta) s (vec1 ty tb ta (fun np a => divF np (fmtOf ty) (.fin false 1 0) (laneF np ty a)))

/-- VRSQ (R179). -/
def execVrsq (pr : PR) (ty : ETy) (tb ta : Tgt) (s : State) : Res :=
  fireWord (.vrsq pr ty tb ta) s (vec1 ty tb ta (fun np a => rsqF np (fmtOf ty) (laneF np ty a)))

/-- VEXP2 (R179). -/
def execVexp2 (pr : PR) (ty : ETy) (tb ta : Tgt) (s : State) : Res :=
  fireWord (.vexp2 pr ty tb ta) s (vec1 ty tb ta (fun np a => sfnF np (fmtOf ty) (tyCode ty).toNat .exp2 a (laneF np ty a)))

/-- VLOG2 (R179). -/
def execVlog2 (pr : PR) (ty : ETy) (tb ta : Tgt) (s : State) : Res :=
  fireWord (.vlog2 pr ty tb ta) s (vec1 ty tb ta (fun np a => sfnF np (fmtOf ty) (tyCode ty).toNat .log2 a (laneF np ty a)))

/-- VSIN (R179). -/
def execVsin (pr : PR) (ty : ETy) (tb ta : Tgt) (s : State) : Res :=
  fireWord (.vsin pr ty tb ta) s (vec1 ty tb ta (fun np a => sfnF np (fmtOf ty) (tyCode ty).toNat .sin a (laneF np ty a)))

/-- VCOS (R179). -/
def execVcos (pr : PR) (ty : ETy) (tb ta : Tgt) (s : State) : Res :=
  fireWord (.vcos pr ty tb ta) s (vec1 ty tb ta (fun np a => sfnF np (fmtOf ty) (tyCode ty).toNat .cos a (laneF np ty a)))

/-- VTANH (R179). -/
def execVtanh (pr : PR) (ty : ETy) (tb ta : Tgt) (s : State) : Res :=
  fireWord (.vtanh pr ty tb ta) s (vec1 ty tb ta (fun np a => sfnF np (fmtOf ty) (tyCode ty).toNat .tanh a (laneF np ty a)))

/-- VSIGM (R179). -/
def execVsigm (pr : PR) (ty : ETy) (tb ta : Tgt) (s : State) : Res :=
  fireWord (.vsigm pr ty tb ta) s (vec1 ty tb ta (fun np a => sfnF np (fmtOf ty) (tyCode ty).toNat .sigm a (laneF np ty a)))

/-- MAND (R180). -/
def execMand (pr : PR) (tb ta : Tgt) (s : State) : Res :=
  fireWord (.mand pr tb ta) s fun x => need2 x fun a b => outBoth tb ta (maskVal (a &&& b))

/-- MOR (R180). -/
def execMor (pr : PR) (tb ta : Tgt) (s : State) : Res :=
  fireWord (.mor pr tb ta) s fun x => need2 x fun a b => outBoth tb ta (maskVal (a ||| b))

/-- MNOT (R180). -/
def execMnot (pr : PR) (tb ta : Tgt) (s : State) : Res :=
  fireWord (.mnot pr tb ta) s fun x => need1 x fun a => outBoth tb ta (maskVal (~~~a))

/-- MPOPC (R180). -/
def execMpopc (pr : PR) (tb ta : Tgt) (s : State) : Res :=
  fireWord (.mpopc pr tb ta) s fun x => need1 x fun a =>
    outBoth tb ta (scalarVal (BitVec.ofNat 64 (popc 64 a.toNat)) .u64)

/-! ### Moves and permutes (R181) -/

/-- The low bits of a value in the canonical form of a type (R101). -/
def canonBits (ty : ETy) (v : W64) : W64 := if tyInt ty then canon ty (intOf ty v) else BitVec.ofNat 64 (lowBits (tyWidth ty) v)

/-- Lane `j` of an operand as a move carries it: only the low width bits are read, and the result is canonical (R101, R174). -/
def Datum.elem (ty : ETy) (d : Datum) (j : Nat) : W64 := canonBits ty (laneAt d.lanes j)

/-- VSEL (R181). -/
def execVsel (pr : PR) (ty : ETy) (tb ta : Tgt) (s : State) : Res :=
  fireWord (.vsel pr ty tb ta) s fun x =>
    match x.c.s64 with
    | none => .fault .type 0 0#64
    | some c => data2 ty x (outBoth tb ta (vecVal
        (mkLanes fun j => if bitAt c j then x.a.elem ty j else x.b.elem ty j) ty
        (mkMask fun j => if bitAt c j then bitAt x.a.lmask j else bitAt x.b.lmask j)))

/-- VBCAST (R181). -/
def execVbcast (pr : PR) (ty : ETy) (tb ta : Tgt) (s : State) : Res :=
  fireWord (.vbcast pr ty tb ta) s fun x => need1 x fun a =>
    outBoth tb ta (vecVal (mkLanes fun _ => canonBits ty a) ty allOnes)

/-- VEXT (R181). -/
def execVext (pr : PR) (ty : ETy) (tb ta : Tgt) (s : State) : Res :=
  fireWord (.vext pr ty tb ta) s fun x =>
    match x.b.s64 with
    | none => .fault .type 0 0#64
    | some b => data1 ty x (outBoth tb ta (scalarVal (x.a.elem ty (lowBits 6 b)) ty))

/-- VINS (R181). -/
def execVins (pr : PR) (ty : ETy) (tb ta : Tgt) (s : State) : Res :=
  fireWord (.vins pr ty tb ta) s fun x =>
    match x.b.s64, x.c.s64 with
    | some b, some c => data1 ty x (outBoth tb ta (vecVal
        (mkLanes fun j => if j = lowBits 6 c then canonBits ty b else x.a.elem ty j) ty
        (mkMask fun j => j = lowBits 6 c || bitAt x.a.lmask j)))
    | _, _ => .fault .type 0 0#64

/-- VSHUF (R181). -/
def execVshuf (pr : PR) (ty : ETy) (tb ta : Tgt) (s : State) : Res :=
  fireWord (.vshuf pr ty tb ta) s fun x =>
    if x.a.isData ty && decide (x.b.shape = .vector) then
      outBoth tb ta (vecVal (mkLanes fun j => x.a.elem ty (lowBits 6 (laneAt x.b.lanes j))) ty
        (mkMask fun j => bitAt x.a.lmask (lowBits 6 (laneAt x.b.lanes j)) && bitAt x.b.lmask j))
    else .fault .type 0 0#64

/-- VROT (R181). -/
def execVrot (pr : PR) (ty : ETy) (tb ta : Tgt) (s : State) : Res :=
  fireWord (.vrot pr ty tb ta) s fun x =>
    match x.b.s64 with
    | none => .fault .type 0 0#64
    | some b => data1 ty x (outBoth tb ta (vecVal
        (mkLanes fun j => x.a.elem ty ((j + lowBits 6 b) % 64)) ty
        (mkMask fun j => bitAt x.a.lmask ((j + lowBits 6 b) % 64))))

/-- VIOTA (R181). -/
def execViota (pr : PR) (ty : ETy) (tb ta : Tgt) (s : State) : Res :=
  fireWord (.viota pr ty tb ta) s fun x => need1 x fun a =>
    outBoth tb ta (vecVal (mkLanes fun j => canon ty ((a.toNat : Int) + j)) ty allOnes)

/-! ### Reductions and scans (R182) -/

/-- The active lanes of an operand, in lane order. -/
def activeLanes (d : Datum) : List W64 := ((List.range 64).filter fun j => bitAt d.lmask j).map fun j => laneAt d.lanes j

/-- The sum of some lanes: wrapping for integers, exact and rounded once for floats. -/
def sumLanes (npol : W32) (ty : ETy) (ls : List W64) : LR :=
  if tyInt ty then laneInt ty (ls.foldl (fun acc a => acc + intOf ty a) 0)
  else (ls.foldl (fun acc a => FSum.add acc (laneF npol ty a)) ({} : FSum)).finish npol (fmtOf ty) (!ls.isEmpty)

/-- A SCALAR result of a reduction, or F_ARITH. -/
def redOut (tb ta : Tgt) (ty : ETy) : LR → FR
  | .ok c => outBoth tb ta (scalarVal (BitVec.ofNat 64 c) ty)
  | .arith => .fault .arith 0 0#64

/-- VRSUM (R182). -/
def execVrsum (pr : PR) (ty : ETy) (tb ta : Tgt) (s : State) : Res :=
  fireWord (.vrsum pr ty tb ta) s fun x => data1 ty x (redOut tb ta ty (sumLanes x.p.npol ty (activeLanes x.a)))

/-- The least or greatest of some lanes in lane order. -/
def foldMinmax (mx : Bool) (ty : ETy) (npol : W32) : W64 → List W64 → LR
  | acc, [] => .ok acc.toNat
  | acc, a :: t =>
    match minmaxLane mx ty npol acc a with
    | .arith => .arith
    | .ok c => foldMinmax mx ty npol (BitVec.ofNat 64 c) t

/-- The result with no active lane: TY's largest value for min, its smallest for max (R182). -/
def extremeOf (mx : Bool) (ty : ETy) : W64 :=
  if tyInt ty then canon ty (if mx then tyMin ty else tyMax ty)
  else BitVec.ofNat 64 (signBit (fmtOf ty) mx + infCode (fmtOf ty))

/-- VRMIN (R182). -/
def execVrmin (pr : PR) (ty : ETy) (tb ta : Tgt) (s : State) : Res :=
  fireWord (.vrmin pr ty tb ta) s fun x =>
    data1 ty x (redOut tb ta ty (foldMinmax false ty x.p.npol (extremeOf false ty) (activeLanes x.a)))

/-- VRMAX (R182). -/
def execVrmax (pr : PR) (ty : ETy) (tb ta : Tgt) (s : State) : Res :=
  fireWord (.vrmax pr ty tb ta) s fun x =>
    data1 ty x (redOut tb ta ty (foldMinmax true ty x.p.npol (extremeOf true ty) (activeLanes x.a)))

/-- VSCAN (R182). -/
def execVscan (pr : PR) (ty : ETy) (tb ta : Tgt) (s : State) : Res :=
  fireWord (.vscan pr ty tb ta) s fun x =>
    data1 ty x (vecOut tb ta ty x.a.lmask fun j =>
      sumLanes x.p.npol ty (((List.range (j + 1)).filter fun i => bitAt x.a.lmask i).map fun i => laneAt x.a.lanes i))

/-- VCVT (R183): the operand's tag is the source type. -/
def execVcvt (pr : PR) (ty : ETy) (tb ta : Tgt) (s : State) : Res :=
  fireWord (.vcvt pr ty tb ta) s fun x =>
    if x.a.shape ≠ .vector then .fault .type 0 0#64
    else vecOut tb ta ty x.a.lmask fun j =>
      match cvtLane x.p.npol x.a.tag ty (laneAt x.a.lanes j) with
      | .ok v => .ok v.toNat
      | .error _ => .arith

/-! ### Filter and expand (R184) -/

/-- VFILT: the kept lanes packed to TA, their lane numbers to TB. -/
def execVfilt (pr : PR) (ty : ETy) (tb ta : Tgt) (s : State) : Res :=
  fireWord (.vfilt pr ty tb ta) s fun x =>
    match x.b.s64 with
    | none => .fault .type 0 0#64
    | some b =>
      let ks := (List.range 64).filter fun j => bitAt x.a.lmask j && bitAt b j
      data1 ty x (.go
        [(ta, vecVal (mkLanes fun n => (ks[n]?).elim 0#64 fun j => x.a.elem ty j) ty (prefMask ks.length)),
         (tb, vecVal (mkLanes fun n => (ks[n]?).elim 0#64 fun j => BitVec.ofNat 64 j) .u64 (prefMask ks.length))] [])

/-- VEXPD: packed lanes scattered to the places of the mask. -/
def execVexpd (pr : PR) (ty : ETy) (tb ta : Tgt) (s : State) : Res :=
  fireWord (.vexpd pr ty tb ta) s fun x =>
    match x.b.s64 with
    | none => .fault .type 0 0#64
    | some b =>
      let rank (j : Nat) : Nat := ((List.range j).filter fun i => bitAt b i).length
      data1 ty x (outBoth tb ta (vecVal
        (mkLanes fun j => if bitAt b j then x.a.elem ty (rank j) else 0#64) ty
        (mkMask fun j => bitAt b j && bitAt x.a.lmask (rank j))))

/-! ### Sorted keys (R185 to R188) -/

/-- n when an LMASK has the form 2^n − 1 (R185). -/
def prefLen (m : W64) : Option Nat :=
  let n := popc 64 m.toNat
  if m = prefMask n then some n else none

/-- Keys in order: nondecreasing, or strictly increasing (R185). -/
def ordered (strict : Bool) (ty : ETy) : List W64 → Bool
  | a :: b :: t => (if strict then decide (intOf ty a < intOf ty b) else decide (intOf ty a ≤ intOf ty b)) && ordered strict ty (b :: t)
  | _ => true

/-- The merge of two runs of (key, map entry); equal keys take those of the first run first (R186). -/
def mergeRuns (ty : ETy) : Nat → List (W64 × Nat) → List (W64 × Nat) → List (W64 × Nat)
  | 0, _, _ => []
  | _ + 1, [], bs => bs
  | _ + 1, as, [] => as
  | n + 1, a :: as, b :: bs =>
    if intOf ty b.1 < intOf ty a.1 then b :: mergeRuns ty n (a :: as) bs else a :: mergeRuns ty n as (b :: bs)

/-- The first n lanes. -/
def keyRun (d : Datum) (n : Nat) : List W64 := (List.range n).map fun j => laneAt d.lanes j

/-- VMRG (R185, R186). -/
def execVmrg (pr : PR) (ty : ETy) (tb ta : Tgt) (s : State) : Res :=
  fireWord (.vmrg pr ty tb ta) s fun x =>
    data2 ty x (match prefLen x.a.lmask, prefLen x.b.lmask with
      | some na, some nb =>
        let ka := keyRun x.a na
        let kb := keyRun x.b nb
        if ordered false ty ka && ordered false ty kb then
          let ms := (mergeRuns ty (na + nb) (ka.zipIdx) (kb.zipIdx.map fun (k, i) => (k, 64 + i))).take 64
          .go [(ta, vecVal (mkLanes fun j => (ms[j]?).elim 0#64 fun q => canon ty (intOf ty q.1)) ty (prefMask ms.length)),
               (tb, vecVal (mkLanes fun j => (ms[j]?).elim 0#64 fun q => BitVec.ofNat 64 q.2) .u64 (prefMask ms.length))] []
        else .fault .shape 0 0#64
      | _, _ => .fault .shape 0 0#64)

/-- VISX (R185, R187). -/
def execVisx (pr : PR) (ty : ETy) (tb ta : Tgt) (s : State) : Res :=
  fireWord (.visx pr ty tb ta) s fun x =>
    data2 ty x (match prefLen x.a.lmask, prefLen x.b.lmask with
      | some na, some nb =>
        let ka := keyRun x.a na
        let kb := keyRun x.b nb
        if ordered true ty ka && ordered true ty kb then
          let ms := ka.zipIdx.filterMap fun (k, i) =>
            ((kb.zipIdx.find? fun (q, _) => intOf ty q = intOf ty k).map fun (_, j) => (k, i + 256 * j))
          .go [(ta, vecVal (mkLanes fun j => (ms[j]?).elim 0#64 fun q => canon ty (intOf ty q.1)) ty (prefMask ms.length)),
               (tb, vecVal (mkLanes fun j => (ms[j]?).elim 0#64 fun q => BitVec.ofNat 64 q.2) .u16 (prefMask ms.length))] []
        else .fault .shape 0 0#64
      | _, _ => .fault .shape 0 0#64)

/-- The lanes VDEDUP keeps (R188). -/
def dedupGo (ty : ETy) (d : Datum) : List Nat → Option Nat → List Nat
  | [], _ => []
  | j :: t, prev =>
    let v := lowBits (tyWidth ty) (laneAt d.lanes j)
    if prev = some v then dedupGo ty d t prev else j :: dedupGo ty d t (some v)

/-- VDEDUP (R188). -/
def execVdedup (pr : PR) (ty : ETy) (tb ta : Tgt) (s : State) : Res :=
  fireWord (.vdedup pr ty tb ta) s fun x =>
    let ks := dedupGo ty x.a ((List.range 64).filter fun j => bitAt x.a.lmask j) none
    data1 ty x (.go
      [(ta, vecVal (mkLanes fun n => (ks[n]?).elim 0#64 fun j => canon ty (intOf ty (laneAt x.a.lanes j))) ty (prefMask ks.length)),
       (tb, maskVal (mkMask fun j => ks.contains j))] [])

/-! ### Random draws (R193, R194) -/

def rotl64 (x : W64) (n : Nat) : W64 := x.rotateLeft n

/-- One round of Cardamom. -/
def cardRound : W64 × W64 → W64 × W64
  | (a, b) =>
    let a := a + rotl64 b 23
    let b := b ^^^ (a * 0xD6E8FEB86659FD93#64)
    (rotl64 a 17 ^^^ b, b)

/-- Cardamom: key (k0, k1), counter (c0, c1) (R193). -/
def cardamom (k0 k1 c0 c1 : W64) : W64 :=
  let (a, b) := cardRound (cardRound (cardRound (cardRound (c0 ^^^ k0, c1 ^^^ k1))))
  a ^^^ b

/-- RNGX (R194). -/
def execRngx (pr : PR) (tb ta : Tgt) (s : State) : Res :=
  fireWord (.rngx pr tb ta) s fun x =>
    data2 .u64 x (
      let c := (laneAt x.b.lanes 1).toNat * 2 ^ 64 + (laneAt x.b.lanes 0).toNat
      let n := (c + 64) % 2 ^ 128
      .go [(ta, vecVal (mkLanes fun i =>
              let ci := (c + i) % 2 ^ 128
              cardamom (laneAt x.a.lanes 0) (laneAt x.a.lanes 1) (BitVec.ofNat 64 ci) (BitVec.ofNat 64 (ci / 2 ^ 64)))
              .u64 allOnes),
           (tb, vecVal (mkLanes fun i =>
              if i = 0 then BitVec.ofNat 64 n else if i = 1 then BitVec.ofNat 64 (n / 2 ^ 64) else 0#64) .u64 3#64)] [])

end Sys2Proof.Machine
end

