-- ==== Sys2Proof/Machine/Sparse.lean ====
section
/-!
DEFINITION. The sparse accumulator (09 R189 to R192), quantisation and codebooks (11 R237 to R241).
-/
namespace Sys2Proof.Machine

/-- The tile of a plane. -/
def FX.tile (x : FX) : Tile := x.s.tile (tileIx x.pl.col x.pl.row)

/-- Whether the plane owns the tile's sparse accumulator (R189). -/
def FX.ownsSacc (x : FX) : Bool := decide (x.tile.saccOwner = some x.pl.plane)

/-- Another SACC, SACCF or SACCZ has fired in the block (R192). -/
def FX.saccTwice (x : FX) : Bool :=
  x.r.effs.any fun (_, e) => match e with | .sacc _ _ => true | .saccTake _ => true | .saccClear => true | _ => false

/-- One addition into the accumulator (R190). -/
def saccAdd (npol : W32) (ty : ETy) (old v : W64) : LR :=
  if tyInt ty then laneInt ty (intOf ty old + intOf ty v)
  else addF npol (fmtOf ty) (laneF npol ty old) (laneF npol ty v)

/-- The accumulator after the lanes of a SACC, in lane order; `none` where a sum raises F_ARITH (R190). -/
def saccGo (npol : W32) (ty : ETy) (crd val : Datum) : List Nat → Store W64 → Option (Store W64)
  | [], acc => some acc
  | j :: t, acc =>
    let q := lowBits 32 (laneAt crd.lanes j)
    let v := canonBits ty (laneAt val.lanes j)
    match Store.get? acc q with
    | none => saccGo npol ty crd val t (Store.set acc q v)
    | some o =>
      match saccAdd npol ty o v with
      | .arith => none
      | .ok c => saccGo npol ty crd val t (Store.set acc q (BitVec.ofNat 64 c))

/-- SACC (R190). -/
def execSacc (pr : PR) (ty : ETy) (s : State) : Res :=
  fireWord (.sacc pr ty) s fun x =>
    if !x.ownsSacc then .fault .prot 0 0#64
    else if x.saccTwice then .fault .blockIllegal 0 0#64
    else if x.a.shape ≠ .vector ∨ ¬ x.b.isData ty then .fault .type 0 0#64
    else if !x.tile.sacc.isEmpty && decide (x.tile.saccTy ≠ some ty) then .fault .type 0 0#64
    else
      let js := (List.range 64).filter fun j => bitAt x.a.lmask j && bitAt x.b.lmask j
      if js.any fun j => decide (4096 ≤ lowBits 32 (laneAt x.a.lanes j)) then .fault .shape 0 0#64
      else match saccGo x.p.npol ty x.a x.b js x.tile.sacc with
        | some acc => .go [] [.sacc ty acc]
        | none => .fault .arith 0 0#64

/-- SACCF (R191): the entries with the lowest coordinates, as the accumulator stood when the block began. -/
def execSaccf (pr : PR) (tb ta : Tgt) (s : State) : Res :=
  fireWord (.saccf pr tb ta) s fun x =>
    if !x.ownsSacc then .fault .prot 0 0#64
    else if x.saccTwice then .fault .blockIllegal 0 0#64
    else
      let es := x.tile.sacc.take 64
      .go [(ta, vecVal (mkLanes fun j => (es[j]?).elim 0#64 fun e => BitVec.ofNat 64 e.1) .u32 (prefMask es.length)),
           (tb, vecVal (mkLanes fun j => (es[j]?).elim 0#64 fun e => e.2) (x.tile.saccTy.getD .u64) (prefMask es.length))]
        [.saccTake es.length]

/-- SACCZ (R192). -/
def execSaccz (pr : PR) (s : State) : Res :=
  fireWord (.saccz pr) s fun x =>
    if !x.ownsSacc then .fault .prot 0 0#64
    else if x.saccTwice then .fault .blockIllegal 0 0#64
    else .go [] [.saccClear]

/-! ### Quantisation (R237 to R240) -/

/-- The decoded elements of an operand, `none` for a lane that is not active. -/
def elems (npol : W32) (ty : ETy) (d : Datum) : List (Option FV) :=
  (List.range 64).map fun j => if bitAt d.lmask j then some (laneF npol ty (laneAt d.lanes j)) else none

/-- A NaN or infinity among some elements. -/
def unscalable (xs : List (Option FV)) : Bool :=
  xs.any fun x => match x with | some (.nan _ _) => true | some (.inf _) => true | _ => false

/-- VAMAX (R237). -/
def execVamax (pr : PR) (ty : ETy) (tb ta : Tgt) (s : State) : Res :=
  fireWord (.vamax pr ty tb ta) s fun x =>
    data1 ty x (
      let f := fmtOf ty
      let codes := ((List.range 64).filter fun j => bitAt x.a.lmask j).map fun j => codeF x.p.npol ty (laneAt x.a.lanes j)
      let nan := codes.find? fun c => match decodeF f c with | .nan _ _ => true | _ => false
      let r : Nat := match nan with
        | some c => match decodeF f c with
          | .nan n m => carryNan f f n m
          | _ => c
        | none => codes.foldl (fun acc c => max acc (c % 2 ^ (f.eb + f.mb))) 0
      outBoth tb ta (scalarVal (BitVec.ofNat 64 r) ty))

/-- VQNT (R238): the block's amax is |m|. -/
def execVqnt (pr : PR) (ty : ETy) (tb ta : Tgt) (s : State) : Res :=
  fireWord (.vqnt pr ty tb ta) s fun x =>
    match x.b.s64 with
    | none => .fault .type 0 0#64
    | some m => data1 ty x (
        let np := x.p.npol
        let xs := elems np ty x.a
        let q := (qfmtOf np).getD .e2m1
        let mag := match laneF np ty m with | .fin _ mm me => some (mm, me) | _ => none
        let bad := unscalable xs || mag.isNone
        if bad && decide (nanmOf np = .strict) then .fault .arith 0 0#64
        else
          let (sc, cs) := blockCodes np q 0 (mfmtEmax q) xs (if bad then none else mag)
          outBoth tb ta (vecVal (packBlock (mfmtWidth q) cs sc) .u64 allOnes))

/-- VCBQ (R239): amax found as VAMAX does, elements nearest among the codebook's finite entries. -/
def execVcbq (pr : PR) (ty : ETy) (tb ta : Tgt) (s : State) : Res :=
  fireWord (.vcbq pr ty tb ta) s fun x =>
    if !x.p.own.getLsbD 1 then .fault .prot 0 0#64
    else data1 ty x (
      let np := x.p.npol
      let cb := x.tile.codebook
      let xs := elems np ty x.a
      match cbEmax cb with
      | none => .fault .arith 0 0#64
      | some em =>
        let bad := unscalable xs
        if bad && decide (nanmOf np = .strict) then .fault .arith 0 0#64
        else
          let (sc, cs) := blockCodes np .cb4 cb em xs (if bad then none else some (maxMag (xs.filterMap id)))
          let cs := if !bad && (maxMag (xs.filterMap id)).1 = 0 then
              xs.map (fun e => match e with | some (.fin sg _ _) => (if sg then 8 else 0) | _ => 0)
            else cs
          outBoth tb ta (vecVal (packBlock 4 cs sc) .u64 allOnes))

/-- The packed block of an operand's lanes as a bit stream (R110). -/
def blockBits (d : Datum) : Nat := (List.range 63).foldl (fun acc i => acc + (laneAt d.lanes i).toNat * 2 ^ (64 * i)) 0

/-- VDQNT (R240). -/
def execVdqnt (pr : PR) (tb ta : Tgt) (s : State) : Res :=
  fireWord (.vdqnt pr tb ta) s fun x =>
    let np := x.p.npol
    let q := (qfmtOf np).getD .e2m1
    if x.a.shape ≠ .vector then .fault .type 0 0#64
    else if q = .cb4 ∧ ¬ x.p.own.getLsbD 1 then .fault .prot 0 0#64
    else
      let w := mfmtWidth q
      let bits := blockBits x.a
      let sc := lowBits 8 (laneAt x.a.lanes 63)
      vecOut tb ta .f32 allOnes fun j =>
        match decodeElem np q x.tile.codebook (bits / 2 ^ (w * j) % 2 ^ w) sc with
        | .nan _ _ => if nanmOf np = .strict then .arith else .ok (nanCode fF32)
        | .inf n => .ok (signBit fF32 n + infCode fF32)
        | .fin n m e => .ok (roundOut np fF32 n m e)

/-- CBSET (R241). -/
def execCbset (pr : PR) (s : State) : Res :=
  fireWord (.cbset pr) s fun x =>
    if x.a.shape ≠ .vector then .fault .type 0 0#64
    else if !x.p.own.getLsbD 1 then .fault .prot 0 0#64
    else .go [] [.cbset x.a.lanes]

end Sys2Proof.Machine
end

