-- ==== Sys2Proof/Machine/Memory.lean ====
section
/-!
DEFINITION. Firing of the format M instructions (10 R195 to R222, 11 R224): the checks made at firing, and the request
or local access that waits for admission (R130, R131). What a request does when it is performed stands in Home.lean,
Streams.lean, Barrier.lean and Copy.lean.
-/
namespace Sys2Proof.Machine

/-- Bytes of a width (R197). -/
def widBytes : Width → Nat
  | .b => 1 | .h => 2 | .w => 4 | .d => 8 | .q => 16 | .l => 64 | .v => 512
/-- Natural alignment of a width (R197). -/
def widAlign : Width → Nat
  | .b => 1 | .h => 2 | .w => 4 | .d => 8 | .q => 16 | .l => 64 | .v => 64
/-- Words that a width covers (R197). -/
def widWords : Width → Nat
  | .b | .h | .w | .d => 1
  | .q => 2 | .l => 8 | .v => 64
/-- Whether a width's data is VECTOR (R198). -/
def widVec : Width → Bool
  | .q | .l | .v => true
  | _ => false

/-- Bits 47:0 of an address operand (R197). -/
def va48 (a : W64) : Nat := a.toNat % 2 ^ 48

/-- A request as it fires; its number and budget are given when it enters the request stream. -/
def mkReq (x : FX) (kind : ReqKind) (wd : Width) (resp : Option Nat) (a b c : W64) (lanes : Lanes) : Req :=
  { rid := 0, kind := kind, wd := wd, resp := resp, a := a, b := b, c := c, lanes := lanes, block := x.f.block,
    slot := x.slot, budget := 0#8, st := .waiting }

/-- A held request, waiting for admission (R131). -/
def waveOf (x : FX) (lk : Link) (r : Req) : FR :=
  .wave { slot := x.slot, lk := lk, kind := some r.kind, lcl := none, tgt := 0, req := r }

/-- F_TYPE at firing (R198, R200). -/
def typeFault : FR := .fault .type 0 0#64
/-- F_ALIGN at firing, with the address in INFO (R197, R333). -/
def alignFault (a : W64) : FR := .fault .align 0 (BitVec.ofNat 64 (va48 a))

/-- An address operand of natural alignment (R197). -/
def aligned (n : Nat) (a : W64) (k : FR) : FR := if va48 a % n ≠ 0 then alignFault a else k

/-- A data operand of a width: SCALAR or MASK up to D, VECTOR for Q, L and V (R198). -/
def Datum.fits (d : Datum) (wd : Width) : Bool := decide ((d.shape = .vector) = (widVec wd = true))

/-- A form with an address alone. -/
def addr1 (x : FX) (n : Nat) (k : W64 → FR) : FR :=
  match x.a.s64 with
  | some a => aligned n a (k a)
  | none => typeFault
/-- A form with an address and a data operand of its width. -/
def addrData (x : FX) (wd : Width) (k : W64 → FR) : FR :=
  match x.a.s64 with
  | some a => if x.b.fits wd then aligned (widAlign wd) a (k a) else typeFault
  | none => typeFault
/-- A form with an address and one or two SCALAR operands. -/
def addr2 (x : FX) (n : Nat) (k : W64 → W64 → FR) : FR :=
  match x.a.s64, x.b.s64 with
  | some a, some b => aligned n a (k a b)
  | _, _ => typeFault
def addr3 (x : FX) (n : Nat) (k : W64 → W64 → W64 → FR) : FR :=
  match x.a.s64, x.b.s64, x.c.s64 with
  | some a, some b, some c => aligned n a (k a b c)
  | _, _, _ => typeFault

/-- A load-like form that responds on a channel. -/
def loadForm (x : FX) (lk : Link) (kind : ReqKind) (wd : Width) (c : BitVec 4) : FR :=
  addr1 x (widAlign wd) fun a => waveOf x lk (mkReq x kind wd (some c.toNat) a 0#64 0#64 [])
/-- A store-like form: lane j supplies the j-th word, or the low bits of a SCALAR (R198). -/
def storeForm (x : FX) (lk : Link) (kind : ReqKind) (wd : Width) : FR :=
  addrData x wd fun a => waveOf x lk (mkReq x kind wd none a x.b.bits 0#64 x.b.lanes)
/-- W or D (R205). -/
def wdOf (d : Bool) : Width := if d then .d else .w
/-- A returning atomic of one operand. -/
def atomForm (x : FX) (lk : Link) (op : AOp) (d : Bool) (c : BitVec 4) : FR :=
  addr2 x (widAlign (wdOf d)) fun a b => waveOf x lk (mkReq x (.atom op d) (wdOf d) (some c.toNat) a b 0#64 [])
/-- An update-only form. -/
def updForm (x : FX) (lk : Link) (op : UOp) (d : Bool) : FR :=
  addr2 x (widAlign (wdOf d)) fun a b => waveOf x lk (mkReq x (.upd op d) (wdOf d) none a b 0#64 [])

/-! ### Local store and neighbour memory tiles (R201): performed at admission -/

/-- A local access, waiting for admission: `nb` for a neighbour memory tile, `st` for a store. -/
def localWave (x : FX) (lk : Link) (nb st : Bool) (wd : Width) (tgt : Nat) (a : W64) : FR :=
  .wave { slot := x.slot, lk := lk, kind := none, lcl := some (nb, st), tgt := tgt,
          req := mkReq x (if st then .st else .ld) wd none a x.b.bits 0#64 x.b.lanes }

/-- LDL (R201). -/
def execLdl (pr : PR) (lk : Link) (wd : Width) (t : BitVec 6) (s : State) : Res :=
  fireWord (.ldl pr lk wd t) s fun x => addr1 x (widAlign wd) (localWave x lk false false wd t.toNat)
/-- STL (R201). -/
def execStl (pr : PR) (lk : Link) (wd : Width) (s : State) : Res :=
  fireWord (.stl pr lk wd) s fun x => addrData x wd (localWave x lk false true wd 0)
/-- LDN (R201). -/
def execLdn (pr : PR) (lk : Link) (wd : Width) (t : BitVec 6) (s : State) : Res :=
  fireWord (.ldn pr lk wd t) s fun x => addr1 x (widAlign wd) (localWave x lk true false wd t.toNat)
/-- STN (R201). -/
def execStn (pr : PR) (lk : Link) (wd : Width) (s : State) : Res :=
  fireWord (.stn pr lk wd) s fun x => addrData x wd (localWave x lk true true wd 0)

/-! ### Global loads, stores and full/empty forms (R203) -/

/-- LD (R203). -/
def execLd (pr : PR) (lk : Link) (wd : Width) (c : BitVec 4) (s : State) : Res :=
  fireWord (.ld pr lk wd c) s fun x => loadForm x lk .ld wd c
/-- LDW (R203). -/
def execLdw (pr : PR) (lk : Link) (wd : Width) (c : BitVec 4) (s : State) : Res :=
  fireWord (.ldw pr lk wd c) s fun x => loadForm x lk .ldw wd c
/-- LDC (R203). -/
def execLdc (pr : PR) (lk : Link) (wd : Width) (c : BitVec 4) (s : State) : Res :=
  fireWord (.ldc pr lk wd c) s fun x => loadForm x lk .ldc wd c
/-- FEQ (R203). -/
def execFeq (pr : PR) (lk : Link) (wd : Width) (c : BitVec 4) (s : State) : Res :=
  fireWord (.feq pr lk wd c) s fun x => loadForm x lk .feq wd c
/-- ST (R203). -/
def execSt (pr : PR) (lk : Link) (wd : Width) (s : State) : Res :=
  fireWord (.st pr lk wd) s fun x => storeForm x lk .st wd
/-- STF (R203). -/
def execStf (pr : PR) (lk : Link) (wd : Width) (s : State) : Res :=
  fireWord (.stf pr lk wd) s fun x => storeForm x lk .stf wd
/-- STS (R203). -/
def execSts (pr : PR) (lk : Link) (wd : Width) (s : State) : Res :=
  fireWord (.sts pr lk wd) s fun x => storeForm x lk .sts wd
/-- FEMPTY (R203). -/
def execFempty (pr : PR) (lk : Link) (wd : Width) (s : State) : Res :=
  fireWord (.fempty pr lk wd) s fun x =>
    addr1 x (widAlign wd) fun a => waveOf x lk (mkReq x .fempty wd none a 0#64 0#64 [])

/-! ### Atomics and updates (R205, R206) -/

/-- AADD (R205). -/
def execAadd (pr : PR) (lk : Link) (d : Bool) (c : BitVec 4) (s : State) : Res :=
  fireWord (.aadd pr lk d c) s fun x => atomForm x lk .add d c
/-- AAND (R205). -/
def execAand (pr : PR) (lk : Link) (d : Bool) (c : BitVec 4) (s : State) : Res :=
  fireWord (.aand pr lk d c) s fun x => atomForm x lk .and d c
/-- AOR (R205). -/
def execAor (pr : PR) (lk : Link) (d : Bool) (c : BitVec 4) (s : State) : Res :=
  fireWord (.aor pr lk d c) s fun x => atomForm x lk .or d c
/-- AXOR (R205). -/
def execAxor (pr : PR) (lk : Link) (d : Bool) (c : BitVec 4) (s : State) : Res :=
  fireWord (.axor pr lk d c) s fun x => atomForm x lk .xor d c
/-- AMIN (R205). -/
def execAmin (pr : PR) (lk : Link) (d : Bool) (c : BitVec 4) (s : State) : Res :=
  fireWord (.amin pr lk d c) s fun x => atomForm x lk .min d c
/-- AMAX (R205). -/
def execAmax (pr : PR) (lk : Link) (d : Bool) (c : BitVec 4) (s : State) : Res :=
  fireWord (.amax pr lk d c) s fun x => atomForm x lk .max d c
/-- ASWAP (R205). -/
def execAswap (pr : PR) (lk : Link) (d : Bool) (c : BitVec 4) (s : State) : Res :=
  fireWord (.aswap pr lk d c) s fun x => atomForm x lk .swap d c
/-- CAS (R205): x is operand B, y operand C. -/
def execCas (pr : PR) (lk : Link) (d : Bool) (c : BitVec 4) (s : State) : Res :=
  fireWord (.cas pr lk d c) s fun x =>
    addr3 x (widAlign (wdOf d)) fun a b y => waveOf x lk (mkReq x (.atom .cas d) (wdOf d) (some c.toNat) a b y [])
/-- UADD (R206). -/
def execUadd (pr : PR) (lk : Link) (d : Bool) (s : State) : Res :=
  fireWord (.uadd pr lk d) s fun x => updForm x lk .add d
/-- UAND (R206). -/
def execUand (pr : PR) (lk : Link) (d : Bool) (s : State) : Res :=
  fireWord (.uand pr lk d) s fun x => updForm x lk .and d
/-- UOR (R206). -/
def execUor (pr : PR) (lk : Link) (d : Bool) (s : State) : Res :=
  fireWord (.uor pr lk d) s fun x => updForm x lk .or d
/-- UXOR (R206). -/
def execUxor (pr : PR) (lk : Link) (d : Bool) (s : State) : Res :=
  fireWord (.uxor pr lk d) s fun x => updForm x lk .xor d
/-- UMIN (R206). -/
def execUmin (pr : PR) (lk : Link) (d : Bool) (s : State) : Res :=
  fireWord (.umin pr lk d) s fun x => updForm x lk .min d
/-- UMAX (R206). -/
def execUmax (pr : PR) (lk : Link) (d : Bool) (s : State) : Res :=
  fireWord (.umax pr lk d) s fun x => updForm x lk .max d
/-- UFADD, at width W (R206). -/
def execUfadd (pr : PR) (lk : Link) (s : State) : Res :=
  fireWord (.ufadd pr lk) s fun x => updForm x lk .fadd false

/-! ### Stream forms (R207, R208) -/

/-- The stream that a handle names in the plane's graph image, with its place in the launch's list. -/
def Launch.streamOf (x : Launch) (h : Nat) : Option (Nat × Stream) :=
  (x.streams.zipIdx.find? fun (st, _) => st.sr.handle = h).map fun (st, i) => (i, st)
/-- The reader index that the binding gives an actor (R207). -/
def StreamRec.readerOf (r : StreamRec) (actor : Nat) : Option Nat :=
  (List.range (r.nrd + 1)).find? fun k => r.rdrs.getD k 0xFFF = actor && !r.hostr.getLsbD k
/-- The width that an element size takes (R207). -/
def eszWidth : Nat → Width
  | 0 => .b | 1 => .h | 2 => .w | 3 => .d | 4 => .q | _ => .v

/-- A stream form: F_PROT for an unbound handle or a plane without the role, F_TYPE for a width that does not match
(R207). `asWriter` for SWR; `wd` where the form moves an element. -/
def streamForm (x : FX) (asWriter : Bool) (wd : Option Width) (k : StreamRec → FR) : FR :=
  match x.a.s64 with
  | none => typeFault
  | some a =>
    match x.s.actorOf x.pl with
    | none => .fault .prot 0 0#64
    | some (_, l, _) =>
      match l.streamOf (a.toNat % 64) with
      | none => .fault .prot 0 0#64
      | some (_, st) =>
        let role := if asWriter then decide (st.sr.writer = x.p.actor) && !st.sr.hostp else (st.sr.readerOf x.p.actor).isSome
        if !role then .fault .prot 0 0#64
        else match wd with
          | some w => if eszWidth st.sr.esz = w then k st.sr else typeFault
          | none => k st.sr

/-- SRD (R208). -/
def execSrd (pr : PR) (lk : Link) (wd : Width) (c : BitVec 4) (s : State) : Res :=
  fireWord (.srd pr lk wd c) s fun x => streamForm x false (some wd) fun _ =>
    waveOf x lk (mkReq x .srd wd (some c.toNat) x.a.bits 0#64 0#64 [])
/-- SWR (R208). -/
def execSwr (pr : PR) (lk : Link) (wd : Width) (s : State) : Res :=
  fireWord (.swr pr lk wd) s fun x =>
    if !x.b.fits wd then typeFault
    else streamForm x true (some wd) fun _ =>
      waveOf x lk (mkReq x (.swr false) wd none x.a.bits x.b.bits 0#64 x.b.lanes)
/-- SWR.eos (R208): operand B must arrive and is ignored. -/
def execSwrEos (pr : PR) (lk : Link) (wd : Width) (s : State) : Res :=
  fireWord (.swrEos pr lk wd) s fun x => streamForm x true (some wd) fun _ =>
    waveOf x lk (mkReq x (.swr true) wd none x.a.bits 0#64 0#64 [])
/-- SREL (R208). -/
def execSrel (pr : PR) (lk : Link) (s : State) : Res :=
  fireWord (.srel pr lk) s fun x =>
    match x.b.s64 with
    | none => typeFault
    | some b => streamForm x false none fun _ => waveOf x lk (mkReq x .srel .d none x.a.bits b 0#64 [])
/-- SREL.frc (R208): F_SHAPE for a j that no reader has. -/
def execSrelFrc (pr : PR) (lk : Link) (s : State) : Res :=
  fireWord (.srelFrc pr lk) s fun x =>
    match x.b.s64, x.c.s64 with
    | some b, some c => streamForm x false none fun sr =>
        if 4 ≤ b.toNat ∨ sr.nrd < b.toNat then .fault .shape 0 0#64
        else waveOf x lk (mkReq x .srelFrc .d none x.a.bits b c [])
    | _, _ => typeFault
/-- SREW (R208). -/
def execSrew (pr : PR) (lk : Link) (s : State) : Res :=
  fireWord (.srew pr lk) s fun x =>
    match x.b.s64 with
    | none => typeFault
    | some b => streamForm x false none fun _ => waveOf x lk (mkReq x .srew .d none x.a.bits b 0#64 [])
/-- SPOS (R208): F_SHAPE for a word number above 7. -/
def execSpos (pr : PR) (lk : Link) (c : BitVec 4) (s : State) : Res :=
  fireWord (.spos pr lk c) s fun x =>
    match x.b.s64 with
    | none => typeFault
    | some b => streamForm x false none fun _ =>
        if 8 ≤ b.toNat then .fault .shape 0 0#64
        else waveOf x lk (mkReq x .spos .d (some c.toNat) x.a.bits b 0#64 [])

/-! ### Fences, barriers, copies, budget (R209 to R222) -/

/-- FENCE (R209). -/
def execFence (pr : PR) (lk : Link) (sc : Scope) (s : State) : Res :=
  fireWord (.fence pr lk sc) s fun x => waveOf x lk (mkReq x (.fence sc) .b none 0#64 0#64 0#64 [])
/-- SBAR (R210). -/
def execSbar (pr : PR) (lk : Link) (s : State) : Res :=
  fireWord (.sbar pr lk) s fun x => need1 x fun m => waveOf x lk (mkReq x .sbar .b none m 0#64 0#64 [])
/-- XFENCE (R211). -/
def execXfence (pr : PR) (lk : Link) (src dst : AClass) (s : State) : Res :=
  fireWord (.xfence pr lk src dst) s fun x => waveOf x lk (mkReq x (.xfence src dst) .b none 0#64 0#64 0#64 [])
/-- BARINIT (R213). -/
def execBarinit (pr : PR) (lk : Link) (s : State) : Res :=
  fireWord (.barinit pr lk) s fun x => addr2 x 16 fun a b => waveOf x lk (mkReq x .barinit .d none a b 0#64 [])
/-- BARARV (R213). -/
def execBararv (pr : PR) (lk : Link) (s : State) : Res :=
  fireWord (.bararv pr lk) s fun x => addr1 x 16 fun a => waveOf x lk (mkReq x .bararv .d none a 0#64 0#64 [])
/-- BAREXP (R213). -/
def execBarexp (pr : PR) (lk : Link) (s : State) : Res :=
  fireWord (.barexp pr lk) s fun x => addr2 x 16 fun a b => waveOf x lk (mkReq x .barexp .d none a b 0#64 [])
/-- BARWT (R213): bits 3:0 of the address are t. -/
def execBarwt (pr : PR) (lk : Link) (c : BitVec 4) (s : State) : Res :=
  fireWord (.barwt pr lk c) s fun x => need1 x fun a => waveOf x lk (mkReq x .barwt .d (some c.toNat) a 0#64 0#64 [])
/-- COPY (R215): the record's address is a multiple of 64. -/
def execCopy (pr : PR) (lk : Link) (c : BitVec 4) (s : State) : Res :=
  fireWord (.copy pr lk c) s fun x => addr1 x 64 fun a => waveOf x lk (mkReq x .copy .d (some c.toNat) a 0#64 0#64 [])
/-- PREF: no alignment (R220). -/
def execPref (pr : PR) (lk : Link) (bank : Bool) (s : State) : Res :=
  fireWord (.pref pr lk bank) s fun x => need1 x fun a => waveOf x lk (mkReq x (.pref bank) .l none a 0#64 0#64 [])
/-- WBACK: no alignment (R221). -/
def execWback (pr : PR) (lk : Link) (s : State) : Res :=
  fireWord (.wback pr lk) s fun x => need1 x fun a => waveOf x lk (mkReq x .wback .l none a 0#64 0#64 [])
/-- SETBUD (R222): 255 below HANDLER raises F_PRIV at firing. -/
def execSetbud (pr : PR) (lk : Link) (s : State) : Res :=
  fireWord (.setbud pr lk) s fun x => need1 x fun a =>
    if a.toNat % 256 = 255 ∧ x.p.level = .user then .fault .priv 0 0#64
    else waveOf x lk (mkReq x .setbud .b none a 0#64 0#64 [])
/-- MMPOST (R224): the record's address is a multiple of 64. -/
def execMmpost (pr : PR) (lk : Link) (s : State) : Res :=
  fireWord (.mmpost pr lk) s fun x => addr1 x 64 fun a => waveOf x lk (mkReq x .mmpost .b none a 0#64 0#64 [])

end Sys2Proof.Machine
end

