-- ==== Sys2Proof/Machine/System.lean ====
section
/-!
DEFINITION. Traps, breakpoints, blazes, the handler instructions, service calls and performance counters
(11 R242 to R250).
-/
namespace Sys2Proof.Machine

/-- TRAP: its effect comes at commit (R242). -/
def execTrap (pr : PR) (code : BitVec 12) (s : State) : Res :=
  fireWord (.trap pr code) s fun _ => .go [] [.trap code.toNat]
/-- BRKT: its effect comes at commit (R242). -/
def execBrkt (pr : PR) (code : BitVec 12) (s : State) : Res :=
  fireWord (.brkt pr code) s fun _ => .go [] [.brkt code.toNat]
/-- BLAZE (R243). -/
def execBlaze (pr : PR) (stop : Bool) (s : State) : Res :=
  fireWord (.blaze pr stop) s fun _ => .go [] [.blaze stop]

/-- FREAD (R244). -/
def execFread (pr : PR) (c : BitVec 4) (k : BitVec 2) (ta : Tgt) (s : State) : Res :=
  fireWord (.fread pr c k ta) s fun x =>
    let isFault := match x.task with
      | some (a, t) => a.fault.getLsbD c.toNat && decide (t.irate.getD c.toNat 0 ≠ 0)
      | none => false
    match isFault, Store.getD x.f.consumed c.toNat [] with
    | true, .fault _ ws :: _ => .go [(ta, scalarVal (ws.getD k.toNat 0#64) .u64)] []
    | _, _ => .fault .shape 0 0#64

/-- An action on the fault has fired in this block (R246). -/
def FX.actsTwice (x : FX) : Bool :=
  x.r.effs.any fun (_, e) => match e with | .repair _ => true | .hresume => true | .habort => true | _ => false

/-- What every action on a fault needs (R246): a consumed fault, no other action in the block, none in an earlier one. -/
def actOn (x : FX) (k : FaultRec → FR) : FR :=
  match x.f.fid.bind x.s.fault? with
  | none => .fault .shape 0 0#64
  | some f =>
    if x.actsTwice then .fault .blockIllegal 0 0#64
    else if x.f.acted then .fault .shape 0 0#64
    else k f

/-- The response channel of a fault that belongs to a request with a response place (R333): REQ, then CH. -/
def FaultRec.respCh (f : FaultRec) : Option Nat :=
  let w := (f.words.getD 0 0#64).toNat
  if bitsOf w 35 35 = 1 then some (bitsOf w 61 58) else none

/-- The shape of an actor input's channel. -/
def State.inShape (s : State) (p : PlaneId) (ch : Nat) : Option Nat :=
  match s.actorOf p with
  | some (_, l, _) => (l.inChan (s.plane p).actor ch).map fun (_, r) => r.shape
  | none => none

/-- REPAIR (R245). -/
def execRepair (pr : PR) (s : State) : Res :=
  fireWord (.repair pr) s fun x =>
    match x.b.s64 with
    | none => .fault .type 0 0#64
    | some mode => actOn x fun f =>
      match f.src, f.respCh with
      | .request p _, some ch =>
        if 2 ≤ mode.toNat then .fault .shape 0 0#64
        else if mode = 1#64 then .go [] [.repair .null]
        else if (x.s.inShape p ch).any fun k => decide (k ≠ shapeCode x.a.shape) then .fault .type 0 0#64
        else .go [] [.repair (.data x.a)]
      | _, _ => .fault .shape 0 0#64
/-- HRESUME (R246). -/
def execHresume (pr : PR) (s : State) : Res :=
  fireWord (.hresume pr) s fun x => actOn x fun _ => .go [] [.hresume]
/-- HABORT (R246). -/
def execHabort (pr : PR) (s : State) : Res :=
  fireWord (.habort pr) s fun x => actOn x fun _ => .go [] [.habort]

/-- SVC (R247): more calls in a firing than its svc rate raise F_SHAPE. -/
def execSvc (pr : PR) (c : BitVec 4) (n : BitVec 7) (s : State) : Res :=
  fireWord (.svc pr c n) s fun x => need1 x fun v =>
    let rate := match x.task with | some (_, t) => t.svcr | none => 0
    let sent := x.f.svcs + (x.r.effs.filter fun (_, e) => match e with | .svc _ _ _ => true | _ => false).length
    if rate ≤ sent then .fault .shape 0 0#64 else .go [] [.svc c.toNat n.toNat v]

/-- The value that RDPERF reads (R249). -/
def perfValue (x : FX) : PerfSel → W64
  | .chan c k =>
    let e := x.p.inp c.toNat
    match k.toNat with
    | 0 => e.ord.setWidth 64
    | 1 => e.cfull.setWidth 64
    | 2 => e.cempty.setWidth 64
    | _ => e.cmove.setWidth 64
  | .ctr n => (Store.getD x.tile.perf n.toNat {}).cnt.setWidth 64
  | .ev n => (Store.getD x.tile.perf n.toNat {}).ev.setWidth 64

/-- RDPERF (R249). -/
def execRdperf (pr : PR) (sel : PerfSel) (ta : Tgt) (s : State) : Res :=
  fireWord (.rdperf pr sel ta) s fun x => .go [(ta, scalarVal (perfValue x sel) .u64)] []
/-- WRPERF (R250): F_PROT from a plane that does not own the counters; F_SHAPE for an event code of 0x0C or above. -/
def execWrperf (pr : PR) (c : BitVec 2) (cnt : Bool) (s : State) : Res :=
  fireWord (.wrperf pr c cnt) s fun x => need1 x fun v =>
    if !x.p.own.getLsbD 3 then .fault .prot 0 0#64
    else if !cnt && decide (0x0C ≤ v.toNat % 256) then .fault .shape 0 0#64
    else .go [] [.wrperf c.toNat cnt v]

end Sys2Proof.Machine
end

