-- ==== Sys2Proof/Machine/Translate.lean ====
section
/-!
DEFINITION. Address translation (19 R313 to R318, 22 R352, R354): the walk, the leaf cache, the window entries, the
accesses that an invalidation holds, and the page-request queue (19 R321 to R323).
-/
namespace Sys2Proof.Machine

/-- Frames of 64 KiB of the 384 GiB of DRAM (R6). -/
def dramFrames : Nat := 6291456

/-- An 8-byte word of home memory. -/
def State.word (s : State) (key : Nat) : Nat := leNat (Memory.readBytes s.mem key 8)

/-- The end of a walk (R315, R316): a leaf, an entry with V = 0 at a level, or a malformed walk. -/
inductive Walk where
  | leaf (l : Leaf)
  | notPresent (level : Nat)
  | malformed
  deriving DecidableEq, Repr

/-- Bytes that a leaf of a level maps (R314). -/
def levelBits (level : Nat) : Nat := match level with | 0 => 16 | 1 => 21 | 2 => 30 | _ => 39

/-- The table index of a level (R314). -/
def levelIndex (level va : Nat) : Nat :=
  match level with
  | 0 => va / 2 ^ 16 % 32
  | n => va / 2 ^ levelBits n % 512

/-- Reserved bits of an entry: 11:4 and 63:52 (R315). -/
def entryReserved (e : Nat) : Bool := decide (bitsOf e 11 4 ≠ 0) || decide (bitsOf e 63 52 ≠ 0)

/-- The walk from a table, level by level (R314, R315); `n` is the level plus one. -/
def State.walkFrom (s : State) (asid : BitVec 16) (va : Nat) : Nat → Nat → Walk
  | 0, _ => .malformed
  | n + 1, table =>
    let e := s.word (table + 8 * levelIndex n va)
    if e % 2 = 0 then .notPresent n
    else if entryReserved e then .malformed
    else if bitsOf e 1 1 = 1 then
      let pa := bitsOf e 51 16 * 2 ^ 16
      if n = 3 ∨ bitsOf e 15 12 ≠ 0 ∨ pa % 2 ^ levelBits n ≠ 0 then .malformed
      else .leaf { asid := asid, va := va / 2 ^ levelBits n * 2 ^ levelBits n, size := 2 ^ levelBits n, pa := pa,
                   w := decide (bitsOf e 2 2 = 1), imm := decide (bitsOf e 3 3 = 1) }
    else if n = 0 then .malformed
    else State.walkFrom s asid va n (bitsOf e 51 12 * 2 ^ 12)

/-- The check that follows a leaf (R316, R352, R354): the frame of the access is OWNED by the tenant of the ASID, host
memory lies in the tenant's ranges, a peer page needs no check here, and address bits 51:50 = 11 are malformed. -/
def State.leafOk (s : State) (tenant pa : Nat) : Bool :=
  match pa / 2 ^ 50 with
  | 0 => decide (pa / 2 ^ 16 < dramFrames) && decide ((s.frame (pa / 2 ^ 16)).st = .owned)
      && decide ((s.frame (pa / 2 ^ 16)).tenant = tenant)
  | 1 => true
  | 2 => (s.tenant tenant).hostRanges.any fun (_, b, n) => decide (b ≤ pa % 2 ^ 50) && decide (pa % 2 ^ 50 < b + n)
  | _ => false

/-- The whole walk of an address (R313 to R316). -/
def State.walk (s : State) (asid : BitVec 16) (va : Nat) : Walk :=
  match Store.get? s.asids asid.toNat with
  | none => .malformed
  | some e =>
    match s.walkFrom asid va 4 e.root with
    | .leaf l => if s.leafOk e.tenant (l.pa + (va - l.va)) then .leaf l else .malformed
    | w => w

/-- What a physical address names (R352, R354): the key of its byte in the model's memory. -/
def paKey (pa : Nat) : Nat :=
  match pa / 2 ^ 50 with
  | 2 => hostKey (pa % 2 ^ 50)
  | 1 => peerKey (pa % 2 ^ 50)
  | _ => pa

/-- A key names memory of a link peer. -/
def isPeer (key : Nat) : Bool := decide (2 ^ 60 ≤ key) && decide (key < 2 ^ 61)
/-- The peer number and address of such a key (R354). -/
def peerOf (key : Nat) : Nat := bitsOf (key - 2 ^ 60) 49 44

/-- The outcome of translating one access. -/
inductive Xl where
  | ok (key : Nat) (imm : Bool)
  | notPresent (level : Nat)
  | prot
  deriving DecidableEq, Repr

/-- Entries that a leaf cache holds (R317, R351). -/
def cacheSize (port : Nat) : Nat := if port = ioPort then 256 else 64

/-- Enters a leaf; where the cache is full, the entry that a free value names gives way (R317, assumption 10). -/
def State.cacheLeaf (s : State) (port : Nat) (l : Leaf) : State :=
  let p := s.port port
  if p.cache.length < cacheSize port then s.setPort port { p with cache := p.cache ++ [l] }
  else
    let (i, s) := s.freeIx
    s.setPort port { p with cache := p.cache.eraseIdx (Config.leafVictim i % cacheSize port) ++ [l] }

/-- Translates an access at a port (R317): a window entry, the leaf cache, or a walk. `write` for a writing form. -/
def State.xlate (s : State) (port : Nat) (asid : BitVec 16) (va : Nat) (write : Bool) : Xl × State :=
  let p := s.port port
  let win := p.wins.find? fun (_, w) =>
    w.v && decide (w.asid = asid) && decide (w.vbase ≤ va) && decide (va < w.vbase + w.npg * 2 ^ 16) && (!write || w.wr)
  match win with
  | some (_, w) => (.ok (paKey (w.pfrm * 2 ^ 16 + (va - w.vbase))) w.imm, s)
  | none =>
    match p.cache.find? fun l => decide (l.asid = asid) && decide (l.va ≤ va) && decide (va < l.va + l.size) with
    | some l => (if write && !l.w then .prot else .ok (paKey (l.pa + (va - l.va))) l.imm, s)
    | none =>
      match s.walk asid va with
      | .malformed => (.prot, s)
      | .notPresent n => (.notPresent n, s)
      | .leaf l => (if write && !l.w then .prot else .ok (paKey (l.pa + (va - l.va))) l.imm, s.cacheLeaf port l)

/-- Translates every line that an access covers: the addresses of its lines and their keys and classes. -/
inductive XlR where
  | ok (ps : List (Nat × Nat × Bool))
  | notPresent (va level : Nat)
  | prot
  deriving DecidableEq, Repr

/-- The chunks of an access of n bytes by 64-byte lines. -/
def lineChunks (va n : Nat) : List Nat :=
  (List.range (n / 64 + 1)).map fun i => if i = 0 then va else (va / 64 + i) * 64

def State.xlateAll (s : State) (port : Nat) (asid : BitVec 16) (write : Bool) : List Nat → XlR × State
  | [] => (.ok [], s)
  | va :: t =>
    match s.xlate port asid va write with
    | (.ok k imm, s) =>
      match State.xlateAll s port asid write t with
      | (.ok ps, s) => (.ok ((va, k, imm) :: ps), s)
      | r => r
    | (.notPresent l, s) => (.notPresent va l, s)
    | (.prot, s) => (.prot, s)

/-- Translation of the n bytes at an address (R197: an access of up to 64 bytes lies in one line). -/
def State.xlateRange (s : State) (port : Nat) (asid : BitVec 16) (va n : Nat) (write : Bool) : XlR × State :=
  s.xlateAll port asid write (if n ≤ 64 then [va] else (List.range (n / 64)).map fun i => va + 64 * i)

/-- Whether a port that has begun to act on an invalidation, and has not acknowledged, holds an access (R319, step 1). -/
def State.invalHolds (s : State) (port : Nat) (asid : BitVec 16) (va : Nat) : Bool :=
  s.invals.any fun v => v.active.contains port && decide (v.asid = asid) && decide (v.base ≤ va) && decide (va < v.base + v.len)

/-- Whether a port holds an access of n bytes: any line of it is in a range that it holds (R197, R319). -/
def State.holdsRange (s : State) (port : Nat) (asid : BitVec 16) (va n : Nat) : Bool :=
  (if n ≤ 64 then [va] else (List.range (n / 64)).map fun i => va + 64 * i).any (s.invalHolds port asid)

/-- Where the model keeps the page-request doorbell word of a glade (R321): a place of its own beside memory. -/
def doorKey (g : Nat) : Nat := 2 ^ 63 + 64 * g
/-- The glade whose doorbell word a key names. -/
def doorOf (key : Nat) : Option Nat := if 2 ^ 63 ≤ key ∧ key < 2 ^ 63 + 64 * 24 then some ((key - 2 ^ 63) / 64) else none

/-- Stream port 0 of the edge block that serves a tile (R327). -/
def tilePort (pl : PlaneId) : Nat := portIx pl.col (if pl.row < 32 then 0 else 1) 0

/-! ### The page-request queue (R321, R322) -/

/-- Entries reserved for each glade and entries shared (R322). -/
def prqReserved : Nat := 4
def prqShared : Nat := 160

/-- Whether a glade may take another entry (R322). -/
def State.prqRoom (s : State) (g : Nat) : Bool :=
  let mine := (s.prq.ents.filter fun e => e.glade = g).length
  let shared := (s.prq.ents.filter fun e => e.shared).length
  let cap := match s.glade? g with | some x => x.shareCap | none => 32
  let mineSh := (s.prq.ents.filter fun e => e.glade = g && e.shared).length
  decide (mine - mineSh < prqReserved) || (decide (mineSh < cap) && decide (shared < prqShared))

/-- The lowest entry number that is free. -/
def freePrq (ents : List PrqEnt) : Nat :=
  ((List.range 256).find? fun i => ents.all fun e => decide (e.ix ≠ i)).getD 0

/-- The five kinds of an access in a page request (R321). -/
inductive PKind where
  | read | write | fe | swrite
  deriving DecidableEq, Repr
def PKind.code : PKind → Nat
  | .read => 0 | .write => 1 | .fe => 2 | .swrite => 3

/-- The number of a fault that waits for an entry (R322): the lowest from 512 on that no other has. -/
def freeWait (ws : List PrqEnt) : Nat :=
  ((List.range (ws.length + 1)).map (512 + ·) |>.find? fun i => ws.all fun e => decide (e.ix ≠ i)).getD 512

/-- Whether two faults are of one glade, page and address space (R321). -/
def PrqEnt.samePage (e f : PrqEnt) : Bool := e.glade = f.glade && decide (e.asid = f.asid) && e.va / 2 ^ 16 = f.va / 2 ^ 16

/-- Holds a launch's planes (R323). -/
def State.pageHold (s : State) (lid : Nat) : State := s.modLaunch lid fun y => { y with pageHold := true }

/-- Posts a fault that may take an entry, and fills the glade's doorbell word (R321); answers the entry's number. -/
def State.takeEntry (s : State) (e : PrqEnt) : Nat × State :=
  let ix := freePrq s.prq.ents
  let mine := (s.prq.ents.filter fun f => f.glade = e.glade && !f.shared).length
  let e' : PrqEnt := { e with ix := ix, stamp := s.cycle e.glade, shared := decide (prqReserved ≤ mine) }
  (ix, ({ s with prq := { s.prq with ents := s.prq.ents ++ [e'] } } : State).modGlade e.glade fun g => { g with doorbell := true })

/-- A page fault: it joins the glade's entry for the same page, is posted, or waits for an entry (R321, R322). Answers the
number that its access is held on. A posting holds the launch's planes (R323). -/
def State.postPage (s : State) (lid port va level : Nat) (kind : PKind) : Nat × State :=
  match s.launch? lid with
  | none => (0, s)
  | some x =>
    let e : PrqEnt := { ix := 0, va := va, asid := x.asid, glade := x.glade, lid := lid, kind := kind.code, level := level,
                        port := port, ticket := x.ticket, ver := x.ver, stamp := 0#64, shared := false }
    match s.prq.ents.find? e.samePage, s.prq.waits.find? e.samePage with
    | some f, _ => (f.ix, s.pageHold lid)
    | none, some f => (f.ix, s)
    | none, none =>
      if s.prqRoom x.glade then
        let (ix, s) := s.takeEntry e
        (ix, s.pageHold lid)
      else
        let ix := freeWait s.prq.waits
        (ix, { s with prq := { s.prq with waits := s.prq.waits ++ [{ e with ix := ix }] } })

end Sys2Proof.Machine
end

