-- ==== Sys2Proof/Machine/View.lean ====
section
/-!
DEFINITION. The home unit and the launch transaction: what an observer reads (R82, R86, R272), writes by the understory,
the cache banks and the home line (R78, R79, R82, R87), conflicts (R84), anchoring (R83), park records (R72 to R75).
-/
namespace Sys2Proof.Machine

/-! ### Effects on bytes and on full/empty bits -/

/-- The new value of an update-only operation on numbers of w bits (R206). -/
def updNew (op : UOp) (w old x : Nat) : Nat :=
  match op with
  | .add => (old + x) % 2 ^ w
  | .and => old &&& x
  | .or => old ||| x
  | .xor => old ^^^ x
  | .min => if sgn w old ≤ sgn w x then old else x
  | .max => if sgn w x ≤ sgn w old then old else x
  | .fadd => (addF32Plain (BitVec.ofNat 64 old) (BitVec.ofNat 64 x)).toNat % 2 ^ w

/-- Bytes of an operand of W or D. -/
def dBytes (d : Bool) : Nat := if d then 8 else 4

/-- Lays bytes over a run of bytes that starts at `base`. -/
def overlay (base : Nat) (cur : List Byte) (addr : Nat) (bs : List Byte) : List Byte :=
  cur.zipIdx.map fun (b, i) => if addr ≤ base + i ∧ base + i < addr + bs.length then bs.getD (base + i - addr) b else b

/-- An effect on a run of bytes that starts at `base`. -/
def MEff.onBytes (base : Nat) (cur : List Byte) : MEff → List Byte
  | .bytes a bs => overlay base cur a bs
  | .fe _ _ => cur
  | .delta op d a x =>
    if base ≤ a ∧ a + dBytes d ≤ base + cur.length then
      let old := leNat ((cur.drop (a - base)).take (dBytes d))
      overlay base cur a (toLE (dBytes d) (updNew op (8 * dBytes d) old (x.toNat % 2 ^ (8 * dBytes d))))
    else cur

/-- An effect on the bit of a word (R67). -/
def MEff.onBit (word : Nat) (b : Bool) : MEff → Bool
  | .fe w f => if w = word then f else b
  | _ => b

/-- The key of the line that an effect acts on, divided by 64. -/
def MEff.line : MEff → Nat
  | .bytes a _ => a / 64
  | .fe w _ => w / 8
  | .delta _ _ a _ => a / 64

/-- A delta: no store entry (R84). -/
def MEff.isDelta : MEff → Bool
  | .delta _ _ _ _ => true
  | _ => false

/-- The full/empty bit of a word at home (R68). -/
def State.homeBit (s : State) (word : Nat) : Bool := (Store.getD s.side (word / 8) {}).fe.getLsbD (word % 8)

/-- Sets the sideband of a line; a line with nothing set is not listed. -/
def State.setSide (s : State) (line : Nat) (b : SideBits) : State :=
  { s with side := if b = {} then Store.del s.side line else Store.set s.side line b }

/-- Sets the bit of a word at home. -/
def State.setHomeBit (s : State) (word : Nat) (f : Bool) : State :=
  let b := Store.getD s.side (word / 8) {}
  let m := 1#8 <<< (word % 8)
  s.setSide (word / 8) { b with fe := if f then b.fe ||| m else b.fe &&& ~~~m }

/-- An effect performed on the home line. -/
def State.homeEff (s : State) : MEff → State
  | .bytes a bs => { s with mem := Memory.writeBytes s.mem a bs }
  | .fe w f => s.setHomeBit w f
  | .delta op d a x =>
    let old := leNat (Memory.readBytes s.mem a (dBytes d))
    { s with mem := Memory.writeBytes s.mem a
              (toLE (dBytes d) (updNew op (8 * dBytes d) old (x.toNat % 2 ^ (8 * dBytes d)))) }

/-! ### What an observer reads (R82, R86, R272) -/

/-- An observer: its launch, or none for one that reads committed state only, and the glade whose banks it reads through,
or none. -/
structure Obs where
  lid : Option Nat
  glade : Option Nat
  deriving DecidableEq, Repr

/-- The committed entries not yet folded, in the order of their commits. -/
def State.committedEffs (s : State) : List MEff := (s.under.filter fun e => e.committed).map (·.eff)

/-- The entries of the observer's own launch, oldest first. -/
def State.ownEffs (s : State) (o : Obs) : List MEff :=
  (s.under.filter fun e => !e.committed && decide (o.lid = some e.lid)).map (·.eff)

/-- The n bytes that a bank line covers of a run of bytes from a key upward: where the bank holds a copy of the line, its
bytes; then those that a plain store has written there. -/
def BankLine.onBytes (base : Nat) (cur : List Byte) (b : BankLine) : List Byte :=
  cur.zipIdx.map fun (v, i) =>
    let a := base + i
    if a / 64 ≠ b.line then v
    else if b.dirty.getLsbD (a % 64) then b.bytes.getD (a % 64) 0#8
    else match b.copy with
      | some (bs, _) => bs.getD (a % 64) 0#8
      | none => v

/-- The bit of a word that a bank's copy of its line carries (R67). -/
def BankLine.onBit (word : Nat) (f : Bool) (b : BankLine) : Bool :=
  if word / 8 ≠ b.line then f
  else match b.copy with
    | some (_, fe) => fe.getLsbD (word % 8)
    | none => f

/-- The lines of the observer's glade's banks that every actor of the glade sees, and those of the observer's launch. -/
def State.openLines (s : State) (o : Obs) : List BankLine :=
  s.bank.filter fun b => decide (o.glade = some b.glade) && b.lid.isNone
def State.ownLines (s : State) (o : Obs) : List BankLine :=
  s.bank.filter fun b => decide (o.glade = some b.glade) && b.lid.isSome && decide (o.lid = b.lid)

/-- The n bytes from a key upward, as an observer sees them (R82, R272): the home line, committed entries, what the bank
shows every actor of the glade, then what the observer's own launch has written. -/
def State.view (s : State) (o : Obs) (key n : Nat) : List Byte :=
  let home := s.committedEffs.foldl (fun cur e => e.onBytes key cur) (Memory.readBytes s.mem key n)
  let bank := (s.openLines o).foldl (fun cur b => b.onBytes key cur) home
  let own := (s.ownEffs o).foldl (fun cur e => e.onBytes key cur) bank
  (s.ownLines o).foldl (fun cur b => b.onBytes key cur) own

/-- The full/empty bit of a word as an observer sees it. -/
def State.viewBit (s : State) (o : Obs) (word : Nat) : Bool :=
  let home := s.committedEffs.foldl (fun f e => e.onBit word f) (s.homeBit word)
  let bank := (s.openLines o).foldl (fun f b => b.onBit word f) home
  (s.ownEffs o).foldl (fun f e => e.onBit word f) bank

/-- The sideband word of a line (R68): its bits, whether entries and records exist for it, and the check bits over its data
and bits 9:0, whose code the spec does not give: a free function of them (assumption 4). -/
def State.sideband (s : State) (line : Nat) : W32 :=
  let b := Store.getD s.side line {}
  let low : BitVec 10 := (if b.parked then 1#1 else 0#1) ++ (if b.shadowed then 1#1 else 0#1) ++ b.fe
  Config.ecc (Memory.readBytes s.mem (line * 64) 64) low ++ low

/-! ### Conflicts (R84) -/

/-- Whether two launches are members of one group. -/
def sameGroup (x y : Launch) : Bool := decide (x.glade = y.glade) && decide (x.group = y.group)

/-- The two signature bits of a line (R84). -/
def sigBits (va : Nat) (asid : BitVec 16) : Nat × Nat :=
  (bitsOf va 17 6 ^^^ bitsOf va 29 18, bitsOf va 41 30 ^^^ bitsOf va 47 42 ^^^ bitsOf asid.toNat 11 0)

/-- A launch's read signature takes a line (R84). -/
def State.sign (s : State) (lid va : Nat) : State :=
  s.modLaunch lid fun x =>
    let (a, b) := sigBits va x.asid
    let add (l : List Nat) (k : Nat) : List Nat := if l.contains k then l else k :: l
    { x with sig := add (add x.sig a) b }

/-- Raises F_CONFLICT to a launch (R84). -/
def State.conflict (s : State) (lid : Nat) : State :=
  (s.raise .conflict lid none ⟨0, 0, 0⟩ (.launch lid) 0 false 0 0 0 0 0#64).2

/-- The commit test for one line of launch K (R84): every live launch of its glade outside its group whose signature has
both bits of the line aborts. -/
def State.commitTest (s : State) (lid va : Nat) : State :=
  match s.launch? lid with
  | none => s
  | some k =>
    let (a, b) := sigBits va k.asid
    let hit := s.launches.filter fun (l, y) =>
      decide (l ≠ lid) && decide (y.glade = k.glade) && !sameGroup k y
        && (match y.st with | .live | .held | .done => true | _ => false)
        && !y.irrev && y.sig.contains a && y.sig.contains b
    hit.foldl (fun s (l, _) => s.conflict l) s

/-- The write-write test (R84) for an entry of any kind: another live launch outside the group holds a store entry on the line; the later ticket
aborts. -/
def State.writeTest (s : State) (lid line : Nat) : State :=
  match s.launch? lid with
  | none => s
  | some k =>
    let hit := s.launches.filter fun (l, y) =>
      decide (l ≠ lid) && decide (y.glade = k.glade) && !sameGroup k y && y.st.isLive
        && s.under.any fun e => decide (e.lid = l) && !e.committed && !e.eff.isDelta && decide (e.eff.line = line)
    hit.foldl (fun s (l, y) => if before k.ticket y.ticket then s.conflict l else s.conflict lid) s

/-! ### Writing (R78, R82, R87) -/

/-- The cut index of what an element does (R82): the latest SNAP cut for which it has recorded its state. -/
def cutIndex (recorded : List (CutKind × Nat)) : Nat :=
  recorded.foldl (fun m (k, n) => if k = .snap then max m n else m) 0

/-! ### The size of saved state (R345) -/

/-- ⌈a / 64⌉. -/
def up64 (a : Nat) : Nat := (a + 63) / 64
/-- A size rounded up to the next 64-byte boundary. -/
def to64 (n : Nat) : Nat := up64 n * 64
/-- Accumulator tiles of M × N. -/
def accTiles (m n : Nat) : Nat := up64 m * up64 n
def sumOf (l : List Nat) : Nat := l.foldl (· + ·) 0

/-- Parked, held and faulted requests of a plane. -/
def Plane.keptReqs (p : Plane) : List Req := p.rq.filter fun r => decide (r.st ≠ .waiting)

/-- A tile record. -/
def ActorSave.size (a : ActorSave) : Nat :=
  51392 + a.share.length + a.weights.length + (if a.plane.own.getLsbD 1 then 32 else 0) + 16 * a.sacc.length
    + 32 * a.plane.keptReqs.length
/-- A node record: 64 bytes, and 528 for each token that it holds (assumption 13). -/
def nodeSize (n : Node) : Nat := 64 + 528 * (n.buf.length + n.ins.foldl (fun k (_, e) => k + e.slots.length) 0)
def Region.size (q : Region) : Nat :=
  192 + 16384 * (match q.m with | some m => accTiles m q.n | none => 0) + 8 * q.pinned.length
/-- The saves and log of a stream: 8 bytes for each position and each word (assumption 13). -/
def Stream.saveSize (st : Stream) : Nat :=
  let n (l : List (W32 × List W64)) : Nat := l.foldl (fun k (_, ws) => k + 8 + 8 * ws.length) 0
  n st.save + n st.log

/-- The nodes' section: their records, and 528 bytes for each token that stands on a channel (assumption 13). -/
def Cut.nodesSize (c : Cut) : Nat :=
  sumOf (c.nodes.map fun (_, n) => nodeSize n) + 528 * sumOf (c.flights.map fun (_, _, ts) => ts.length)

/-- The sections of a cut save: tiles, nodes, regions, sequencer, stream descriptors, barriers and copies. -/
def Cut.saveSize (c : Cut) : Nat :=
  sumOf (c.actors.map fun a => to64 a.size) + to64 c.nodesSize
    + sumOf (c.regions.map fun q => to64 q.size) + 64 * c.recs.length + 64 * c.streams.length
    + to64 (16 * c.bars.length + 72 * c.copies.length)
/-- The sections of a cut with its stream saves and logs. -/
def Cut.size (c : Cut) : Nat := c.saveSize + to64 (sumOf (c.streams.map Stream.saveSize))

/-- Lines of the shadow quota that a launch's cut save, stream saves and log take (R89, R91). -/
def Launch.saveLines (x : Launch) : Nat :=
  up64 (sumOf (x.streams.map Stream.saveSize) + x.lastCut.elim 0 Cut.saveSize)

/-- Distinct lines of a launch's entries, with those that stand in cache banks on their way to become entries. -/
def State.entryLines (s : State) (lid : Nat) : List Nat :=
  let banked := s.bank.filterMap fun b => if b.lid = some lid then some b.line else none
  s.under.foldl (fun l e => if e.lid = lid && !e.committed && !l.contains e.eff.line then e.eff.line :: l else l) banked.eraseDups

/-- Whether new entries on some lines would pass the launch's quota (R87). -/
def State.overQuota (s : State) (lid : Nat) (lines : List Nat) : Bool :=
  match s.launch? lid with
  | none => false
  | some x =>
    let have_ := s.entryLines lid
    let new := lines.filter fun l => !have_.contains l
    !new.isEmpty && decide (x.quota < have_.length + x.saveLines + new.length)

/-- Whether a line lies in a frame that is being scrubbed (R325). -/
def State.scrubbing (s : State) (line : Nat) : Bool := decide ((s.frame (line * 64 / 2 ^ 16)).st = .scrubbing)

/-- FOLD (R85): the committed entries of a line go home in the order of their commits; SHADOWED goes when the line has none
left. An entry whose frame is being scrubbed is discarded (R325). -/
def State.foldLine (s : State) (line : Nat) : State :=
  let pick (e : UEnt) : Bool := e.committed && decide (e.eff.line = line)
  let es := s.under.filter pick
  if es.isEmpty then s
  else
    let gone := s.scrubbing line
    let s := { s with under := s.under.filter fun e => !pick e }
    let s := if gone then s else es.foldl (fun s e => s.homeEff e.eff) s
    if s.under.any fun e => decide (e.eff.line = line) then s
    else s.setSide line { Store.getD s.side line {} with shadowed := false }

/-- Folds what has been committed on the lines of n bytes from a key upward, so that a write or a read there by a server or a
barrier object meets home memory as every observer sees it (R273, R279). -/
def State.foldIn (s : State) (lo n : Nat) : State :=
  ((s.under.filter fun e => e.committed && decide (lo < e.eff.line * 64 + 64) && decide (e.eff.line * 64 < lo + n)).map
    fun e => e.eff.line).eraseDups.foldl State.foldLine s

/-- A direct write to a home line: what has been committed there before goes home first, so that the latest write is what
readers see (R273). -/
def State.direct (s : State) (e : MEff) : State := (s.foldLine e.line).homeEff e

/-- A write by a launch that is neither held nor over its quota: to the home line on an IMM page or by an irrevocable
launch, which runs the commit test for the line on a TX page (R87); else an understory entry (R82). -/
def State.putEff (s : State) (lid : Nat) (cut : Nat) (imm : Bool) (va : Nat) (e : MEff) : State :=
  match s.launch? lid with
  | none => s.direct e
  | some x =>
    if imm then s.direct e
    else if x.irrev then (s.direct e).commitTest lid va
    else
      let s := s.writeTest lid e.line
      let b := Store.getD s.side e.line {}
      let s := s.setSide e.line { b with shadowed := true }
      { s with under := s.under ++ [{ glade := x.glade, lid := lid, ver := x.ver, cut := cut, committed := false,
                                      va := va, eff := e }] }

/-! ### Cache banks (R78, R79, R272) -/

/-- Whether a glade has a cache bank bound to a key (assumption 5). -/
def State.banked (s : State) (g key : Nat) : Bool :=
  s.bankMap.any fun b => decide (b.glade = g) && decide (b.lo ≤ key) && decide (key < b.hi)

/-- The identity of an update's operation on numbers of w bits (R78). -/
def updIdent (op : UOp) (w : Nat) : Nat :=
  match op with
  | .add | .or | .xor | .fadd => 0
  | .and => 2 ^ w - 1
  | .min => 2 ^ (w - 1) - 1
  | .max => 2 ^ (w - 1)

/-- The units of a line's bytes that an update line's operands cover. -/
def UpdLine.units (u : UpdLine) : List Nat :=
  (List.range (64 / dBytes u.d)).filterMap fun i => if u.mask.getLsbD (i * dBytes u.d) then some (i * dBytes u.d) else none

/-- An update line of an operation that covers nothing yet: its delta is the identity (R78). -/
def emptyUpd (op : UOp) (d : Bool) : UpdLine :=
  { op := op, d := d, mask := 0#64,
    delta := ((List.range (64 / dBytes d)).map fun _ => toLE (dBytes d) (updIdent op (8 * dBytes d))).flatten }

/-- An update line combined with one more operand at byte `off` of the line (R78, R206). -/
def UpdLine.combine (u : UpdLine) (off : Nat) (x : W64) : UpdLine :=
  let n := dBytes u.d
  let old := leNat ((u.delta.drop off).take n)
  let new := updNew u.op (8 * n) old (x.toNat % 2 ^ (8 * n))
  { u with mask := u.mask ||| (BitVec.ofNat 64 (2 ^ n - 1) <<< off), delta := overlay 0 u.delta off (toLE n new) }

/-- The merge of an update line into the home line: one delta for each unit that it covers (R79). -/
def UpdLine.effs (u : UpdLine) (line : Nat) : List MEff :=
  u.units.map fun o => .delta u.op u.d (line * 64 + o) (BitVec.ofNat 64 (leNat ((u.delta.drop o).take (dBytes u.d))))

/-- The runs of bytes that a mask names. -/
def maskRuns (m : BitVec 64) : List (Nat × Nat) :=
  (List.range 64).filterMap fun i =>
    if m.getLsbD i && (decide (i = 0) || !m.getLsbD (i - 1)) then
      some (i, (((List.range 65).find? fun n => decide (1 ≤ n) && (decide (64 ≤ i + n) || !m.getLsbD (i + n))).getD 1))
    else none

/-- What a bank line owes its home: the bytes that plain stores have written, then its delta. -/
def BankLine.effs (b : BankLine) : List MEff :=
  ((maskRuns b.dirty).map fun (i, n) => MEff.bytes (b.line * 64 + i) ((b.bytes.drop i).take n))
    ++ (b.upd.elim [] fun u => u.effs b.line)

/-- Writes home what a bank line owes: as entries of its launch, or on the home line where every actor sees it, which runs the
commit test of each irrevocable launch that has written there on a TX page (R84, R87). -/
def State.lineHome (s : State) (b : BankLine) : State :=
  match b.lid with
  | some l => b.effs.foldl (fun s e => s.putEff l b.cut false b.va e) s
  | none => b.tx.foldl (fun s l => s.commitTest l b.va) (b.effs.foldl (fun s e => s.direct e) s)

/-- Whether a bank line owes its home anything. -/
def BankLine.owes (b : BankLine) : Bool := decide (b.dirty ≠ 0#64) || b.upd.isSome

/-- A bank line that owes nothing: it keeps a clean copy where it held the whole line and no delta (R221). -/
def BankLine.clean (b : BankLine) : Option BankLine :=
  match b.lid, b.upd, b.copy with
  | none, none, some (bs, fe) =>
    some { b with copy := some ((List.range 64).map fun i => if b.dirty.getLsbD i then b.bytes.getD i 0#8 else bs.getD i 0#8, fe),
                  dirty := 0#64, bytes := List.replicate 64 0#8, tx := [] }
  | _, _, _ => none

/-- Writes home the bank lines that a test picks, in their order; with `keep` the bank keeps clean copies (R221, R276), else
the lines leave it (R79, R272). -/
def State.flushBank (s : State) (keep : Bool) (pick : BankLine → Bool) : State :=
  let out := s.bank.filter pick
  let s := { s with bank := s.bank.filterMap fun b => if pick b then (if keep then b.clean else none) else some b }
  out.foldl State.lineHome s

/-- A full/empty form or returning atomic writes the line home first and goes past the bank (R67, R272). -/
def State.flushLine (s : State) (g line : Nat) : State :=
  s.flushBank false fun b => decide (b.glade = g) && decide (b.line = line)
/-- A load that reaches the bank merges the update lines of the line first (R79). -/
def State.mergeLine (s : State) (g line : Nat) : State :=
  s.flushBank false fun b => decide (b.glade = g) && decide (b.line = line) && b.upd.isSome
/-- Writes home the dirty bank lines and update lines that a plane's requests touched (R276). -/
def State.flushPlane (s : State) (pl : PlaneId) : State :=
  s.flushBank true fun b => b.owes && decide (b.glade = s.gladeOf pl.col) && (s.plane pl).touched.contains b.line

/-- Who sees what a launch writes in a bank: every actor on an IMM page and of an irrevocable launch, else the launch. -/
def State.bankOwner (s : State) (lid : Nat) (imm : Bool) : Option Nat :=
  if imm || (s.launch? lid).elim true (·.irrev) then none else some lid

/-- The line of a glade's bank with an owner, or an empty one. -/
def State.bankLine (s : State) (g line : Nat) (owner : Option Nat) (cut va : Nat) : BankLine :=
  (s.bank.find? fun b => decide (b.glade = g ∧ b.line = line ∧ b.lid = owner)).getD
    { glade := g, line := line, lid := owner, cut := cut, va := va }

/-- Puts a line into a bank in the place of the one that it was. -/
def State.putBank (s : State) (b : BankLine) : State :=
  { s with bank := (s.bank.filter fun q => !decide (q.glade = b.glade ∧ q.line = b.line ∧ q.lid = b.lid)) ++ [b] }

/-- A plane's request has touched a line of a bank of its glade (R276). -/
def State.touch (s : State) (pl : PlaneId) (line : Nat) : State :=
  s.modPlane pl fun p => { p with touched := if p.touched.contains line then p.touched else p.touched ++ [line] }

/-- The line that a write of an owner with a cut index goes to: one that an earlier cut index has left there goes home
first, since its entries are made under that index (R82). -/
def State.bankFor (s : State) (g line : Nat) (owner : Option Nat) (cut : Nat) (clash : BankLine → Bool) : State :=
  s.flushBank true fun b => decide (b.glade = g ∧ b.line = line ∧ b.lid = owner) && b.owes
    && ((owner.isSome && decide (b.cut ≠ cut)) || clash b)

/-- A plain store or update by an actor: into the glade's bank where one is bound, else by `putEff`. A store to bytes that
an update line covers, and an update of another operation, width or over stored bytes, find the line written home first
(assumption 43). A write that every actor sees in the bank runs the commit test on a TX page (R87, R279). -/
def State.actorEff (s : State) (pl : PlaneId) (lid : Nat) (imm : Bool) (va : Nat) (e : MEff) : State :=
  let g := s.gladeOf pl.col
  let cut := cutIndex (s.plane pl).recorded
  let line := e.line
  if s.banked g (line * 64) then
    let owner := s.bankOwner lid imm
    let put (s : State) (f : BankLine → BankLine) : State :=
      let b := s.bankLine g line owner cut (va / 64 * 64)
      let tx := if owner.isNone && !imm && !b.tx.contains lid then b.tx ++ [lid] else b.tx
      let s := (s.putBank (f { b with cut := cut, va := va / 64 * 64, tx := tx })).touch pl line
      if owner.isNone && !imm then s.commitTest lid va else s
    match e with
    | .bytes a bs =>
      let m : BitVec 64 := BitVec.ofNat 64 (2 ^ bs.length - 1) <<< (a % 64)
      let s := s.bankFor g line owner cut fun b => b.upd.any fun u => decide (u.mask &&& m ≠ 0#64)
      put s fun b => { b with dirty := b.dirty ||| m, bytes := overlay 0 b.bytes (a % 64) bs }
    | .delta op d a x =>
      let m : BitVec 64 := BitVec.ofNat 64 (2 ^ dBytes d - 1) <<< (a % 64)
      let s := s.bankFor g line owner cut fun b => decide (b.dirty &&& m ≠ 0#64) || b.upd.any fun u => decide (u.op ≠ op ∨ u.d ≠ d)
      put s fun b => { b with upd := some ((b.upd.getD (emptyUpd op d)).combine (a % 64) x) }
    | .fe _ _ => s.putEff lid cut imm va e
  else s.putEff lid cut imm va e

/-- The home line as committed state shows it, with its bits: what a bank takes when it brings a line in. -/
def State.homeCopy (s : State) (line : Nat) : List Byte × BitVec 8 :=
  let o : Obs := { lid := none, glade := none }
  (s.view o (line * 64) 64,
   BitVec.ofNat 8 ((List.range 8).foldl (fun n i => if s.viewBit o (line * 8 + i) then n + 2 ^ i else n) 0))

/-- Brings a line into the glade's bank that is bound to it, unless the bank holds a copy (R220, R272). Of a line of a TX page
the bank keeps no bytes: a read of it returns the committed state as it is then (R82, R279). -/
def State.bringLine (s : State) (g line : Nat) (imm : Bool) : State :=
  let b := s.bankLine g line none 0 0
  if imm && s.banked g (line * 64) && b.copy.isNone then s.putBank { b with copy := some (s.homeCopy line) } else s

/-- A load by an actor reaches the bank (R79, R272): update lines of the line are merged, and the line is in the bank from
then on, touched by the plane. -/
def State.loadLine (s : State) (pl : PlaneId) (imm : Bool) (line : Nat) : State :=
  let g := s.gladeOf pl.col
  if !s.banked g (line * 64) then s
  else
    ((s.mergeLine g line).bringLine g line imm).touch pl line

/-! ### Response places (R24, R57, R73, R199) -/

/-- Puts a token into the response place of a request. -/
def State.fillPlace (s : State) (pl : PlaneId) (rid : Nat) (t : Token) : State :=
  s.modPlane pl fun p => { p with resp := p.resp.map fun q => if q.rid = rid then { q with tok := some t } else q }

/-- Removes a performed request from its plane's request stream. -/
def State.retire (s : State) (pl : PlaneId) (rid : Nat) : State :=
  s.modPlane pl fun p => { p with rq := p.rq.filter fun r => decide (r.rid ≠ rid) }

/-- Changes where a request stands. -/
def State.setReq (s : State) (pl : PlaneId) (rid : Nat) (st : ReqSt) : State :=
  s.modPlane pl fun p => { p with rq := p.rq.map fun r => if r.rid = rid then { r with st := st } else r }

/-- Updates a request. -/
def State.modReq (s : State) (pl : PlaneId) (rid : Nat) (f : Req → Req) : State :=
  s.modPlane pl fun p => { p with rq := p.rq.map fun r => if r.rid = rid then f r else r }

def State.req? (s : State) (pl : PlaneId) (rid : Nat) : Option Req := (s.plane pl).rq.find? fun r => decide (r.rid = rid)

/-- The slot in which a request of a plane stands that the tile's plane does not hold. -/
def State.awayReq (s : State) (pl : PlaneId) (rid : Nat) : Option Nat :=
  if (s.req? pl rid).isSome then none
  else (s.slots.find? fun q => decide (q.2.1 = pl) && q.2.2.rq.any fun r => decide (r.rid = rid)).map (·.1)

/-- Acts where a request of a plane stands, in the tile or scanned out (R323). -/
def State.onReq (s : State) (pl : PlaneId) (rid : Nat) (f : State → State) : State :=
  match s.awayReq pl rid with
  | none => f s
  | some k => (f (s.swap pl k)).swap pl k

/-- A request with its launch, wherever it stands. -/
def State.findReq (s : State) (pl : PlaneId) (rid : Nat) : Option (Nat × Req) :=
  (s.everyPlane.find? fun (q, p) => decide (q = pl) && p.rq.any fun r => decide (r.rid = rid)).bind fun (_, p) =>
    p.launch.bind fun l => (p.rq.find? fun r => decide (r.rid = rid)).map fun r => (l, r)

/-- Performs a request: its response place takes the token, if it has one, and the request leaves the stream. -/
def State.finish (s : State) (pl : PlaneId) (r : Req) (t : Token) : State :=
  (if r.resp.isSome then s.fillPlace pl r.rid t else s).retire pl r.rid

/-- The tag declared for an input's channel (R199, R264). -/
def State.inTag (s : State) (p : PlaneId) (ch : Nat) : Option ETy :=
  match s.actorOf p with
  | some (_, l, _) => (l.inChan (s.plane p).actor ch).bind fun (_, r) => tyOf (BitVec.ofNat 4 r.dtag)
  | none => none

/-- Width in bits of an access of up to D. -/
def widBits (w : Width) : Nat := 8 * widBytes w

/-- The response of a scalar load (R199): the declared tag where its width equals the access width, else U8 to U64; the
bytes extended into the tag's canonical form. -/
def scalarToken (wd : Width) (tag : Option ETy) (v : Nat) : Token :=
  let dflt : ETy := match wd with | .b => .u8 | .h => .u16 | .w => .u32 | _ => .u64
  let t := match tag with
    | some t => if tyWidth t = widBits wd then t else dflt
    | none => dflt
  .data ⟨.scalar, [canonBits t (BitVec.ofNat 64 v)], t, 1#64⟩

/-- The response of a Q, L or V access (R70, R199). -/
def vectorToken (tag : Option ETy) (ws : List W64) (lm : W64) : Token :=
  let t := tag.getD .u64
  .data ⟨.vector, mkLanes fun j => ws.getD j 0#64, t, lm⟩

/-! ### Faults at performing (R200) -/

/-- The ordinal that the held response place of a request will take on its channel (R333). -/
def State.placeOrd (s : State) (pl : PlaneId) (rid ch : Nat) : Nat :=
  let p := s.plane pl
  let ahead := (p.resp.takeWhile fun q => decide (q.rid ≠ rid)).filter fun q => decide (q.ch = ch)
  (p.inp ch).ord.toNat + ahead.length

/-- Raises a fault of a request when it is performed: the request keeps its place and stands faulted (R200). -/
def State.reqFault (s : State) (pl : PlaneId) (r : Req) (cls : FCls) (code : Nat) (info : W64) : State :=
  let lid := (s.plane pl).launch.getD 0
  let ch := r.resp.getD 0
  let (fid, s) := s.raise cls lid (some pl) pl (.request pl r.rid) code r.resp.isSome r.block.toNat r.slot ch
    (if r.resp.isSome then s.placeOrd pl r.rid ch else 0) info
  let held : Bool := match frung cls with | some 1 => decide ((s.fault? fid).map (·.st) = some FSt.reported) | _ => false
  if held then (s.setReq pl r.rid .tableFull).dropFault fid else s.setReq pl r.rid (.faulted fid)

/-- INFO of a fault that names an address (R333). -/
def vaInfo (a : W64) : W64 := BitVec.ofNat 64 (va48 a)

/-! ### Park records (R72 to R75) -/

/-- The bucket of a word (R72). -/
def parkBucket (va : Nat) (asid : BitVec 16) : Nat :=
  bitsOf va 14 3 ^^^ bitsOf va 26 15 ^^^ bitsOf va 38 27 ^^^ bitsOf va 47 39 ^^^ bitsOf asid.toNat 11 0
    ^^^ bitsOf asid.toNat 15 12

/-- Whether a record stands for an access of a launch; that of a wait word stands for none (R88). -/
def ParkRec.ofLaunch (r : ParkRec) (l : Nat) : Bool := decide (r.lid = l) && decide (r.form ≠ 5)

/-- Whether a glade's record pool has room (R72). -/
def Glade.parkRoom (g : Glade) : Bool := decide (g.park.length < 2 ^ g.poolLog)

/-- The home word at a virtual address, where the tables map it. -/
def State.keyAt (s : State) (asid : BitVec 16) (va : Nat) : Option Nat :=
  match s.walk asid va with
  | .leaf l => some (paKey (l.pa + (va - l.va)))
  | _ => none

/-- What a port still holds of a translation: a window entry or a cached leaf (R317). -/
def Port.key (p : Port) (asid : BitVec 16) (va : Nat) : Option Nat :=
  match p.wins.find? fun (_, w) => w.v && decide (w.asid = asid) && decide (w.vbase ≤ va) && decide (va < w.vbase + w.npg * 2 ^ 16) with
  | some (_, w) => some (paKey (w.pfrm * 2 ^ 16 + (va - w.vbase)))
  | none => (p.cache.find? fun l => decide (l.asid = asid) && decide (l.va ≤ va) && decide (va < l.va + l.size)).map fun l =>
      paKey (l.pa + (va - l.va))

/-- The home byte at a virtual address: by the tables, or, from when an entry is cleared until every port has dropped it, by
what a port still holds (R317, R320). -/
def State.keyNow (s : State) (asid : BitVec 16) (va : Nat) : Option Nat :=
  match s.keyAt asid va with
  | some k => some k
  | none => s.ports.findSome? fun (_, p) => p.key asid va

/-- The home words of n words at a virtual address; fewer while a page of theirs is absent. -/
def State.vaKeys (s : State) (asid : BitVec 16) (va n : Nat) : List Nat :=
  (List.range n).filterMap fun i => s.keyNow asid (va + 8 * i)

/-- The home words that a record waits for now: those that its virtual address names (R77). -/
def State.recKeys (s : State) (r : ParkRec) : List Nat := if r.keys.isEmpty then s.vaKeys r.asid r.va r.nw else r.keys

/-- The lowest place of the pool that is free: R72 does not say which place a record takes. DESIGN CHOICE (assumption 42). -/
def Glade.freeRec (g : Glade) : Nat :=
  ((List.range (g.park.length + 1)).find? fun i => g.park.all fun r => decide (r.slot ≠ i)).getD 0

/-- The end of a bucket chain (R72). -/
def chainEnd : Nat := 0x1FFFFF

/-- The records of a bucket, in chain order: they are appended (R73). -/
def Glade.bucket (g : Glade) (b : Nat) : List ParkRec := g.park.filter fun r => decide (parkBucket r.va r.asid = b)

/-- A bucket head of the park table (R72): the place of its first record, and for an empty bucket the value that ends a chain,
which R72 states for NEXT alone: DESIGN CHOICE (assumption 42). -/
def Glade.parkHead (g : Glade) (b : Nat) : W32 := BitVec.ofNat 32 ((g.bucket b).head?.elim chainEnd (·.slot))

/-- NEXT of a record (R72): the place of the one that follows it in its bucket. -/
def Glade.nextRec (g : Glade) (r : ParkRec) : Nat :=
  (((g.bucket (parkBucket r.va r.asid)).dropWhile fun q => decide (q.slot ≠ r.slot)).drop 1).head?.elim chainEnd (·.slot)

/-- The 32 bytes of a record as handler code and the Forester read them in dumps (R72). -/
def Glade.recWords (g : Glade) (r : ParkRec) : List W64 :=
  [BitVec.ofNat 64 (r.va % 2 ^ 48 + r.asid.toNat * 2 ^ 48),
   r.data,
   BitVec.ofNat 64 ((r.nw - 1) % 64 + r.form % 8 * 2 ^ 6 + r.wid % 8 * 2 ^ 9 + r.left % 256 * 2 ^ 12 + r.pl.plane % 4 * 2 ^ 20
     + r.pl.col % 128 * 2 ^ 22 + r.pl.row % 64 * 2 ^ 29 + r.rch % 64 * 2 ^ 35 + r.ver.toNat * 2 ^ 41),
   BitVec.ofNat 64 (r.stamp.toNat % 2 ^ 32 + g.nextRec r * 2 ^ 32 + 2 ^ 63)]

/-- Sets or clears PARKED on the line of a word (R68, R73, R74). -/
def State.markParked (s : State) (key : Nat) (b : Bool) : State :=
  let d := Store.getD s.side (key / 64) {}
  s.setSide (key / 64) { d with parked := b }

/-- Whether a word has no virtual address that the tables map: in a memory tile, or in a launch's copy of its record. -/
def ownKey (k : Nat) : Bool :=
  (decide (2 ^ 56 ≤ k) && decide (k < 2 ^ 57)) || (decide (2 ^ 62 ≤ k) && decide (k < 2 ^ 63))

/-- Appends a record at the end of its chain, in the lowest free place of the pool (R73; assumption 42). `keys` are its words
now: the record keeps those that have no virtual address of their own, and names the others by its address (R77). -/
def State.park (s : State) (r : ParkRec) (keys : List Nat) : State :=
  let r := { r with keys := if keys.all ownKey then keys else [] }
  keys.foldl (fun s k => s.markParked k true)
    (s.modGlade r.glade fun g => { g with park := g.park ++ [{ r with slot := g.freeRec }] })

/-- Every park record. -/
def State.parked (s : State) : List ParkRec := (s.glades.map fun (_, g) => g.park).flatten

/-- Whether a record of any glade waits for a word of a line. -/
def State.lineParked (s : State) (line : Nat) : Bool :=
  s.parked.any fun r => (s.recKeys r).any fun k => decide (k / 64 = line)

/-- Removes the records that a test picks and clears PARKED on the lines that have none left (R74). -/
def State.unparkWhere (s : State) (pick : ParkRec → Bool) : State :=
  let gone := ((s.parked.filter pick).map s.recKeys).flatten
  let s := { s with glades := Store.mapV (fun _ g => { g with park := g.park.filter fun r => !pick r }) s.glades }
  gone.foldl (fun s k => if s.lineParked (k / 64) then s else s.markParked k false) s

/-- Removes the record of a request. -/
def State.unpark (s : State) (pl : PlaneId) (rid : Nat) : State :=
  s.unparkWhere fun r => decide (r.pl = pl) && decide (r.rid = rid)

/-- Whether a launch with an earlier ticket has a record on one of some words (R83). -/
def State.cycleOn (s : State) (lid : Nat) (keys : List Nat) : Bool :=
  match s.launch? lid with
  | none => false
  | some x =>
    match s.glade? x.glade with
    | none => false
    | some g => g.park.any fun r =>
        decide (r.form ≠ 5) && decide (r.lid ≠ lid) && ((s.recKeys r).any fun k => keys.contains k)
          && (match s.launch? r.lid with | some y => before y.ticket x.ticket | none => false)

end Sys2Proof.Machine
end

