-- ==== Sys2Proof/Machine/Requests.lean ====
section
/-!
DEFINITION. The request stream of a plane: which request may be performed next (10 R200, R204, R209 to R211, 13 R274,
03 R61), and the ways in which one is held (R83, R87, R321, R322).
-/
namespace Sys2Proof.Machine

/-! ### Kinds of requests -/

def ReqKind.isStream : ReqKind → Bool
  | .srd | .swr _ | .srel | .srelFrc | .srew | .spos => true
  | _ => false
def ReqKind.isBarrier : ReqKind → Bool
  | .barinit | .bararv | .barexp | .barwt => true
  | _ => false
/-- Load-like requests (R274). -/
def ReqKind.loadLike : ReqKind → Bool
  | .ld | .ldw | .feq | .ldc | .atom _ _ => true
  | _ => false
/-- Store-like requests (R274). -/
def ReqKind.storeLike : ReqKind → Bool
  | .st | .stf | .sts | .fempty | .ldc | .atom _ _ => true
  | _ => false
/-- Updates (R274). -/
def ReqKind.isUpd : ReqKind → Bool
  | .upd _ _ => true
  | _ => false
/-- STF and STS, which wait for earlier updates (R274). -/
def ReqKind.fills : ReqKind → Bool
  | .stf | .sts => true
  | _ => false
/-- Writing forms, which need W = 1 (R316). -/
def ReqKind.writes : ReqKind → Bool
  | .st | .stf | .sts | .fempty | .ldc | .atom _ _ | .upd _ _ | .barinit | .bararv | .barexp => true
  | _ => false
/-- Forms that anchor the launch on an IMM page (R69, R83). -/
def ReqKind.anchors : ReqKind → Bool
  | .st | .stf | .sts | .fempty | .ldc | .atom _ _ | .upd _ _ => true
  | _ => false
/-- Forms that wait (R69). -/
def ReqKind.waits : ReqKind → Bool
  | .ldw | .ldc | .stf => true
  | _ => false
/-- Full/empty forms and returning atomics, performed at the home unit (R67, R272). -/
def ReqKind.atHome : ReqKind → Bool
  | .ldw | .ldc | .stf | .sts | .fempty | .feq | .atom _ _ => true
  | _ => false
/-- Forms that access the line at their address operand (R203 to R206). -/
def ReqKind.atAddress (k : ReqKind) : Bool := k.loadLike || k.storeLike || k.isUpd
/-- The kind of a page request (R321). -/
def ReqKind.pkind : ReqKind → PKind
  | .ld => .read
  | .st => .write
  | .swr _ => .swrite
  | _ => .fe

/-- Forms that wait for the plane's own requests or for the engines, and use no stream port (R209 to R211). -/
def ReqKind.isFence : ReqKind → Bool
  | .fence _ | .sbar | .xfence _ _ => true
  | _ => false

/-- Bytes a request covers. -/
def Req.bytes (r : Req) : Nat := widBytes r.wd
/-- Whether two requests touch a common unit of n bytes. -/
def Req.meets (n : Nat) (e r : Req) : Bool :=
  decide (va48 e.a / n ≤ (va48 r.a + r.bytes - 1) / n) && decide (va48 r.a / n ≤ (va48 e.a + e.bytes - 1) / n)

/-- R274's table for two requests that are no link operations: the later request r waits until the earlier e has been
performed. -/
def reqOrdered (e r : Req) : Bool :=
  let word := e.meets 8 r
  let line := e.meets 64 r
  (e.kind.loadLike && ((r.kind.loadLike && word) || r.kind.storeLike || r.kind.isUpd))
    || (e.kind.storeLike && ((r.kind.loadLike && line) || r.kind.storeLike || r.kind.isUpd))
    || (e.kind.isUpd && ((r.kind.loadLike && word) || (r.kind.storeLike && (r.kind.fills || word)) || (r.kind.isUpd && word)))

/-- The handle of a stream form. -/
def Req.handle (r : Req) : Nat := r.a.toNat % 64

/-- Whether a request has reached its server or home unit, so that what its order asks of it is done (R61, R73, R274). -/
def Req.arrived (r : Req) : Bool :=
  match r.st with
  | .parked | .readHeld _ | .barHeld _ => true
  | _ => false

/-- Whether an earlier request e, with the requests before it, keeps a later request r from being performed. An MMPOST that
cannot be placed holds every request after it (R227); link operations, which `lnk` picks, stand outside R274's table. -/
def blocks (lnk : Req → Bool) (before_ : List Req) (e r : Req) : Bool :=
  match e.st with
  | .faulted _ => true
  | _ =>
    match e.kind with
    | .fence _ => true
    | .xfence _ _ => true
    | .sbar =>
      let named (q : Req) : Bool := q.kind.isStream && e.a.getLsbD q.handle
      (named r && !before_.isEmpty) || before_.any named
    | .mmpost => decide (r.kind = .mmpost) || decide (e.st = .tableFull)
    | .copy => decide (r.kind = .copy)
    | k =>
      if k.isStream then r.kind.isStream && decide (e.handle = r.handle) && !e.arrived
      else if k.isBarrier then r.kind.isBarrier && decide (va48 e.a / 16 = va48 r.a / 16) && !e.arrived
      else !lnk e && !lnk r && reqOrdered e r

/-- Whether a request finds no request before it that keeps it back. -/
def freeToGo (lnk : Req → Bool) (pre : List Req) : List Req → Nat → Bool
  | [], _ => false
  | r :: t, rid =>
    if r.rid = rid then (List.range pre.length).all fun i =>
      match pre[i]? with
      | some e => !blocks lnk (pre.take i) e r
      | none => true
    else freeToGo lnk (pre ++ [r]) t rid

def StreamRec.isFifo (r : StreamRec) : Bool := decide (r.back = 1)
/-- The port that serves a global stream (R65). -/
def streamPort (x : Launch) (r : StreamRec) : Nat :=
  portIx (firstCol x.glade + r.pcol) (if r.pedge then 1 else 0) r.port

/-- The words that a held request targets, for the test of R83 when a record is parked later. -/
def State.peekKeys (s : State) (pl : PlaneId) (r : Req) : List Nat :=
  match (s.plane pl).launch.bind s.launch? with
  | none => []
  | some x =>
    match (s.xlateRange (tilePort pl) x.asid (va48 r.a) r.bytes r.kind.writes).1 with
    | .ok ps => (ps.map fun (_, k, _) => (List.range (min 8 (widWords r.wd))).map fun i => k / 8 * 8 + 8 * i).flatten
    | _ => []

/-- Whether a request is a link operation (R354): an access, or a write of a stream, to memory of a link peer. -/
def State.linkOp (s : State) (pl : PlaneId) (r : Req) : Bool :=
  match s.actorOf pl with
  | none => false
  | some (_, x, _) =>
    match r.kind with
    | .swr _ =>
      match x.streamOf r.handle with
      | some (_, st) => !st.sr.isFifo && (s.keyNow x.asid st.sr.base).any isPeer
      | none => false
    | k => k.atAddress && (s.peekKeys pl r).any isPeer

/-- Whether a request of a plane finds no request before it that keeps it back. -/
def State.unblocked (s : State) (pl : PlaneId) (rid : Nat) : Bool := freeToGo (s.linkOp pl) [] (s.plane pl).rq rid

/-- Whether the plane's requests go on: no cut holds its launch, or has stopped or paused the plane. -/
def State.planeActs (s : State) (pl : PlaneId) : Option (Nat × Launch) :=
  let p := s.plane pl
  match p.launch with
  | none => none
  | some l =>
    match s.launch? l with
    | none => none
    | some x =>
      let on := match x.st with | .live | .held | .irrevocable => true | _ => false
      if on && !x.preHeld && !p.stopped && !p.paused then some (l, x) else none

/-- Whether a state of a request lets it be tried: it waits, or a record, a queue entry or a page-request entry may have
become free. -/
def State.mayTry (s : State) (g : Nat) (r : Req) : Bool :=
  match r.st with
  | .waiting => true
  | .tableFull => if r.kind.isBarrier || decide (r.kind = .mmpost) then true else match s.glade? g with | some x => x.parkRoom | none => false
  | _ => false

/-- The plane that a key of the planes' store names. -/
def planeOfKey (k : Nat) : PlaneId := ⟨k / 4 % 96, k / 4 / 96, k % 4⟩

/-- Request entries of a stream port (R24). -/
def portEntries : Nat := 320

/-- The handle of a stream form. -/
def Req.strm (r : Req) : Option Nat := if r.kind.isStream then some r.handle else none

/-- The stream port whose entries a request of a plane takes: for a stream form of handle `h` the port that the graph image names,
and none where a memory tile serves the stream (R65); else port 0 of the tile's edge block (R327). -/
def State.portOf (s : State) (pl : PlaneId) (h : Option Nat) : Option Nat :=
  match h, s.actorOf pl with
  | some h, some (_, x, _) =>
    match x.streamOf h with
    | some (_, st) => if st.sr.isFifo then none else some (streamPort x st.sr)
    | none => some (tilePort pl)
  | _, _ => some (tilePort pl)

/-- Whether a request holds an entry of its stream port: it is held there or at a server; a parked one has freed its entry
(R24, R73). -/
def Req.holdsEntry (r : Req) : Bool :=
  match r.st with
  | .waiting | .parked => false
  | _ => !r.kind.isFence

/-- The entries of a stream port that are in use: held requests, and responses until they are delivered (R24). -/
def State.portUse (s : State) (port : Nat) : Nat :=
  s.everyPlane.foldl (fun n (pl, p) =>
    let here (h : Option Nat) : Bool := decide ((p.launch.elim s (s.standing pl)).portOf pl h = some port)
    n + (p.rq.filter fun r => r.holdsEntry && here r.strm).length + (p.resp.filter fun q => q.tok.isSome && here q.strm).length) 0

/-- Whether a request has an entry of its stream port or finds one free (R24). -/
def State.portRoom (s : State) (pl : PlaneId) (r : Req) : Bool :=
  r.kind.isFence || r.holdsEntry || (s.portOf pl r.strm).all fun port => decide (s.portUse port < portEntries)

/-- The request that a step performs, if it may be performed now. -/
def State.ready? (s : State) (pl : PlaneId) (rid : Nat) : Option (Nat × Launch × Req) :=
  match s.planeActs pl with
  | none => none
  | some (l, x) =>
    match s.req? pl rid with
    | none => none
    | some r => if s.mayTry x.glade r && s.portRoom pl r && s.unblocked pl rid then some (l, x, r) else none

/-! ### Holding a request -/

/-- Holds a request at its port for a page request (R321, R322). -/
def State.holdPage (s : State) (lid : Nat) (pl : PlaneId) (r : Req) (port va level : Nat) (kind : PKind) : State :=
  let (ix, s) := s.postPage lid port va level kind
  s.setReq pl r.rid (.pageHeld ix)

/-- A launch that must wait to be the oldest: LIVE becomes HELD (R93). -/
def State.holdLaunch (s : State) (lid : Nat) : State :=
  s.modLaunch lid fun x => if x.st = .live then { x with st := .held } else x

/-- Holds an anchoring operation (R83), or raises F_HANDSHAKE_CYCLE. -/
def State.holdAnchor (s : State) (lid : Nat) (pl : PlaneId) (r : Req) (keys : List Nat) : State :=
  let s := (s.setReq pl r.rid .anchorHeld).holdLaunch lid
  if s.cycleOn lid keys then s.reqFault pl r .handshakeCycle 0 (vaInfo r.a) else s

/-- A write beyond the shadow quota (R87): held, or with NO_IRREVOCABLE set F_SHADOW_OVERFLOW. -/
def State.overflow (s : State) (lid : Nat) (x : Launch) (pl : PlaneId) (r : Req) : State :=
  if x.noirr then s.reqFault pl r .shadowOverflow 0 0#64
  else (s.setReq pl r.rid .quotaHeld).holdLaunch lid

/-- Changes a copy. -/
def State.modCopy (s : State) (cid : Nat) (f : CopyJob → CopyJob) : State :=
  { s with copies := s.copies.map fun c => if c.cid = cid then f c else c }

/-- A fault of an accepted copy stops only that copy, at that line (R200). The default of F_PARK_FULL leaves it where it
stands, so that it tries the line again (R335). -/
def State.copyFault (s : State) (c : CopyJob) (cls : FCls) (code : Nat) (info : W64) : State :=
  let (fid, s) := s.raise cls c.lid (some c.pl) c.pl (.copy c.cid) code false c.block.toNat c.slot 0 0 info
  if frung cls = some 1 ∧ (s.fault? fid).map (·.st) = some FSt.reported then s.dropFault fid
  else s.modCopy c.cid fun c => { c with fault := some fid }

/-- Bits of a copy's command record that name its destination, and its length (R215). -/
def cwDaddr (cw : List W64) : Nat := bitsOf (cw.getD 1 0#64).toNat 47 0
def cwLen (cw : List W64) : Nat := bitsOf (cw.getD 2 0#64).toNat 47 0
/-- Bytes of the destination line that a copy writes next (R218). -/
def CopyJob.lineLen (c : CopyJob) : Nat := min (64 - (cwDaddr c.cw + c.done) % 64) (cwLen c.cw - c.done)

/-- The words that a held copy's line targets. -/
def State.copyKeys (s : State) (c : CopyJob) : List Nat :=
  match s.launch? c.lid with
  | none => []
  | some x =>
    let va := cwDaddr c.cw + c.done
    s.vaKeys x.asid (va / 8 * 8) ((va % 8 + c.lineLen + 7) / 8)

/-- Raises F_HANDSHAKE_CYCLE to every later launch of a glade that holds an operation, a request or a copy's line, on a word
on which a record now stands (R83). -/
def State.cycleScan (s : State) (keys : List Nat) : State :=
  let s := s.everyPlane.foldl (fun s (pl, p) =>
    p.rq.foldl (fun s r => s.onReq pl r.rid fun s =>
      if r.st = .anchorHeld ∧ ((s.peekKeys pl r).any fun x => keys.contains x) ∧ s.cycleOn (p.launch.getD 0) keys
      then s.reqFault pl r .handshakeCycle 0 (vaInfo r.a) else s) s) s
  s.copies.foldl (fun s c =>
    if c.held ∧ c.fault.isNone ∧ ((s.copyKeys c).any fun x => keys.contains x) ∧ s.cycleOn c.lid keys then
      s.copyFault c .handshakeCycle 0 (BitVec.ofNat 64 (cwDaddr c.cw + c.done))
    else s) s

end Sys2Proof.Machine
end

