-- ==== Sys2Proof/Machine/Home.lean ====
section
/-!
DEFINITION. Performing requests at the home unit: full/empty forms (04 R69 to R75, 10 R203), atomics and updates
(10 R205, R206), the scan of parked records (R74), the release of held operations (R83, R87), fences and the small forms
(10 R209 to R211, R220, R221).
-/
namespace Sys2Proof.Machine

/-! ### The launch's copy of its record (R300) -/

/-- The copy of a launch record in reserved memory. -/
def argKey (lid : Nat) : Nat := 2 ^ 62 + lid * 128
/-- Whether a key lies in such a copy. -/
def isArg (key : Nat) : Bool := decide (2 ^ 62 ≤ key) && decide (key < 2 ^ 63)
/-- Virtual address of the copy: ARG0 is byte 88 of it. -/
def argBase (lid : Nat) : Nat := (Config.argAddr lid).toNat - 88

/-- Translates one access of a launch within a line: its record copy, into which it may not store, or the tables. -/
def State.xlate1 (s : State) (lid : Nat) (x : Launch) (port va n : Nat) (write : Bool) : Xl × State :=
  let base := argBase lid
  if base < va + n ∧ va < base + 128 ∧ write then (.prot, s)
  else if base ≤ va ∧ va + n ≤ base + 128 then (.ok (argKey lid + (va - base)) true, s)
  else s.xlate port x.asid va write

/-- Translates the lines of an access of a launch in turn. -/
def State.xlateEach (s : State) (lid : Nat) (x : Launch) (port n : Nat) (write : Bool) : List Nat → XlR × State
  | [] => (.ok [], s)
  | va :: t =>
    match s.xlate1 lid x port va n write with
    | (.ok k imm, s) =>
      match State.xlateEach s lid x port n write t with
      | (.ok ps, s) => (.ok ((va, k, imm) :: ps), s)
      | r => r
    | (.notPresent l, s) => (.notPresent va l, s)
    | (.prot, s) => (.prot, s)

/-- Translates an access of a launch (R197: one of up to 64 bytes lies in one line). -/
def State.xlateFor (s : State) (lid : Nat) (x : Launch) (port va n : Nat) (write : Bool) : XlR × State :=
  s.xlateEach lid x port (min n 64) write (if n ≤ 64 then [va] else (List.range (n / 64)).map fun i => va + 64 * i)

/-! ### Words and bits of an access -/

/-- A part of an access that lies in one line: its virtual address, key, class and length. -/
structure Part where
  va : Nat
  key : Nat
  imm : Bool
  len : Nat
  deriving DecidableEq, Repr

def partsOf (n : Nat) (ps : List (Nat × Nat × Bool)) : List Part :=
  ps.map fun (va, key, imm) => { va := va, key := key, imm := imm, len := min n 64 }

/-- The words that a part covers; a narrow access covers the one word that contains it (R203). -/
def Part.words (p : Part) : List Nat := (List.range ((p.len + 7) / 8)).map fun i => p.key / 8 + i

def partWords (ps : List Part) : List Nat := (ps.map Part.words).flatten

/-- The bytes and the bits of the parts, as an observer sees them. -/
def State.readParts (s : State) (o : Obs) (ps : List Part) : List Byte :=
  (ps.map fun p =>
    let lo := p.key / 8 * 8
    ((s.view o lo ((p.key % 8 + p.len + 7) / 8 * 8)).drop (p.key % 8)).take p.len).flatten
def State.readBits (s : State) (o : Obs) (ps : List Part) : List Bool := (partWords ps).map fun w => s.viewBit o w

/-- A mask from bits, bit 0 first. -/
def bitsMask (l : List Bool) : W64 := mkMask fun j => l.getD j false

/-- A read enters the signature on every TX line (R84). -/
def State.signParts (s : State) (lid : Nat) (ps : List Part) : State :=
  ps.foldl (fun s p => if p.imm then s else s.sign lid p.va) s

/-- The data bytes of a store-like request (R198). -/
def Req.data (r : Req) : List Byte :=
  if widVec r.wd then bytesOfWords ((List.range (widWords r.wd)).map fun j => laneAt r.lanes j)
  else toLE (widBytes r.wd) r.b.toNat

/-- Writes the data over the parts; a plain store may go to a cache bank (R272). -/
def State.writeParts (s : State) (pl : PlaneId) (lid : Nat) (plain : Bool) : List Part → List Byte → State
  | [], _ => s
  | p :: t, bs =>
    let e := MEff.bytes p.key (bs.take p.len)
    let s := if plain then s.actorEff pl lid p.imm p.va e
      else s.putEff lid (cutIndex (s.plane pl).recorded) p.imm p.va e
    State.writeParts s pl lid plain t (bs.drop p.len)

/-- Sets the bit of every covered word (R69). -/
def State.fillParts (s : State) (pl : PlaneId) (lid : Nat) (f : Bool) (ps : List Part) : State :=
  ps.foldl (fun s p => p.words.foldl (fun s w =>
    s.putEff lid (cutIndex (s.plane pl).recorded) p.imm p.va (.fe w f)) s) s

/-! ### Performing an access (R69, R203) -/

/-- The response to a load-like access (R70, R199). -/
def respToken (s : State) (pl : PlaneId) (r : Req) (bs : List Byte) (bits : List Bool) : Token :=
  match r.kind with
  | .feq => .data ⟨.scalar, [bitsMask bits], .u64, 1#64⟩
  | k =>
    let tag := r.resp.bind fun c => s.inTag pl c
    if widVec r.wd then
      vectorToken tag (wordsOf (widWords r.wd) bs) (if k = .ld then bitsMask bits else prefMask (widWords r.wd))
    else scalarToken r.wd tag (leNat bs)

/-- Whether the words are in the state that a waiting form needs (R69). -/
def State.condHolds (s : State) (o : Obs) (k : ReqKind) (ps : List Part) : Bool :=
  match k with
  | .ldw | .ldc => (s.readBits o ps).all id
  | .stf => (s.readBits o ps).all not
  | _ => true

/-- An observer of committed state at the home units (R82, R86). -/
def committedObs : Obs := { lid := none, glade := none }
/-- The observer of an actor's own accesses. -/
def actorObs (s : State) (pl : PlaneId) (lid : Nat) : Obs := { lid := some lid, glade := some (s.gladeOf pl.col) }

/-- Full/empty forms and atomics write the line home first; a load reaches the bank (R79, R272). -/
def State.flushFor (s : State) (pl : PlaneId) (k : ReqKind) (ps : List Part) : State :=
  let g := s.gladeOf pl.col
  ps.foldl (fun s p =>
    if k.atHome then s.flushLine g (p.key / 64)
    else if k = .ld then s.loadLine pl p.imm (p.key / 64) else s) s

/-- The words of some parts whose bits, as they were, differ from a bit: those that setting it changes (R74). -/
def flips (ps : List Part) (bits : List Bool) (f : Bool) : List Nat :=
  ((partWords ps).zip bits).filterMap fun (w, b) => if b = f then none else some w

/-- The forms whose read enters the read signature when they are performed: the load-like ones and the waiting forms
(R84). -/
def ReqKind.signs (k : ReqKind) : Bool := k.loadLike || k.waits

/-- Performs a full/empty form whose condition holds; answers the words whose state it changed. -/
def State.doAccess (s : State) (pl : PlaneId) (lid : Nat) (r : Req) (ps : List Part) : State × List Nat :=
  let o := actorObs s pl lid
  let bs := s.readParts o ps
  let bits := s.readBits o ps
  let tok := respToken s pl r bs bits
  let s := if r.kind.signs then s.signParts lid ps else s
  match r.kind with
  | .st => ((s.writeParts pl lid true ps r.data).finish pl r .null, [])
  | .stf => (((s.writeParts pl lid false ps r.data).fillParts pl lid true ps).finish pl r .null, flips ps bits true)
  | .sts => (((s.writeParts pl lid false ps r.data).fillParts pl lid true ps).finish pl r .null, flips ps bits true)
  | .fempty => ((s.fillParts pl lid false ps).finish pl r .null, flips ps bits false)
  | .ldc => ((s.fillParts pl lid false ps).finish pl r tok, flips ps bits false)
  | _ => (s.finish pl r tok, [])

/-- Whether an access makes entries on TX lines (R82). -/
def ReqKind.entries : ReqKind → Bool
  | .st | .stf | .sts | .fempty | .ldc => true
  | _ => false

/-- Parks a request (R71, R73): with b = 0 a NULL response or F_PARK_BUDGET at once; else a record, or F_PARK_FULL. -/
def State.parkReq (s : State) (pl : PlaneId) (lid : Nat) (x : Launch) (r : Req) (form : Nat) (keys : List Nat) (va : Nat) :
    State :=
  if r.budget = 0#8 then
    if r.resp.isSome then s.finish pl r .null else s.reqFault pl r .parkBudget 0 (vaInfo r.a)
  else match s.glade? x.glade with
    | none => s
    | some g =>
      if !g.parkRoom then s.reqFault pl r .parkFull 0 (vaInfo r.a)
      else
        let data : W64 := if form = 2 then
            BitVec.ofNat 64 ((r.b.toNat % 2 ^ (8 * min 8 r.bytes)) * 2 ^ (8 * (va % 8))) else 0#64
        let rcd : ParkRec :=
          { glade := x.glade, pl := pl, rid := r.rid, lid := lid, ver := x.ver, va := va / 8 * 8,
            asid := x.asid, form := form, wid := (widCode r.wd).toNat, nw := keys.length, left := r.budget.toNat,
            data := data, rch := r.resp.getD 0, stamp := g.cycle }
        let s := ((s.park rcd keys).setReq pl r.rid .parked).count pl 9 r.block r.slot
        s.cycleScan keys

/-- FORM of a waiting request (R72). -/
def formOf : ReqKind → Nat
  | .ldw => 0 | .ldc => 1 | .stf => 2 | _ => 3

/-- Whether every word of the parts may be acted on: no barrier object with INIT = 1 (R212), no copy of a launch record
for a writing form (R300). -/
def State.wordsOk (s : State) (k : ReqKind) (ps : List Part) : Bool :=
  ps.all fun p => !(k.writes && isArg p.key) && p.words.all fun w =>
    !((s.bars.contains (w * 8 / 16 * 16)) && decide (bitsOf (leNat (s.view committedObs (w * 8 / 16 * 16 + 8) 8)) 48 48 = 1))

/-- Forms that may go to a peer (R354), and forms on host memory, which carries no full/empty bits (R67, R281,
assumption 17). -/
def ReqKind.peerOk : ReqKind → Bool
  | .ld | .st | .sts | .fempty | .upd _ _ | .ldw | .stf => true
  | _ => false
def ReqKind.hostOk : ReqKind → Bool
  | .ld | .st | .upd _ _ | .atom _ _ => true
  | _ => false
def isHost (key : Nat) : Bool := decide (2 ^ 59 ≤ key) && decide (key < 2 ^ 60)

/-- The virtual address of the descriptor of stream `i` of a launch: the first 64 bytes of its stream record in the graph image
(R50, R266). -/
def Launch.descVa (x : Launch) (i : Nat) : Nat := x.graph.toNat % 2 ^ 48 + x.img.strmoff + 128 * i

/-- Whether a part lies in a stream descriptor of a launch, wherever its page is now. -/
def State.hitsDesc (s : State) (x : Launch) (ps : List Part) : Bool :=
  (List.range x.streams.length).any fun i => (s.keyNow x.asid (x.descVa i)).any fun d =>
    ps.any fun p => decide (p.key < d + 64) && decide (d < p.key + p.len)

/-- Whether a write lies in a stream descriptor of any launch that is live, and whether that is one of a USER plane: F_PROT
(R50). -/
def State.liveDesc (s : State) (ps : List Part) : Bool := s.launches.any fun (_, x) => x.st.isLive && s.hitsDesc x ps
def State.userDesc (s : State) (pl : PlaneId) (ps : List Part) : Bool := decide ((s.plane pl).level = .user) && s.liveDesc ps

/-- The launch that a launch of a twin run is paired with: the pair, primary first (R372). -/
def State.pairOf (s : State) (l : Nat) : Option (Nat × Nat) :=
  s.fo.twin.bind fun t => t.pairs.find? fun (a, b) => decide (a = l) || decide (b = l)

/-- Whether a write to some parts is barred: a twin launch stores to an IMM page at its signal words only (R372). -/
def State.twinPart (s : State) (l : Nat) (x : Launch) (ps : List Part) : Bool :=
  (s.pairOf l).isSome
    && ps.any fun p => p.imm && !(x.sigs.any fun a => decide (a.toNat / 8 = p.va / 8) && decide (p.va % 8 + p.len ≤ 8))
/-- Whether a store or update of a twin launch is barred. -/
def State.twinBars (s : State) (l : Nat) (x : Launch) (r : Req) (ps : List Part) : Bool :=
  (r.kind.storeLike || r.kind.isUpd) && s.twinPart l x ps

/-- The checks between translation and performing, then the access itself or its wait. Answers changed words. -/
def State.accessParts (s : State) (pl : PlaneId) (lid : Nat) (x : Launch) (r : Req) (ps : List Part) : State × List Nat :=
  if ps.any fun p => isPeer p.key then
    (if r.kind.peerOk then s else s.reqFault pl r .prot 0 (vaInfo r.a), [])
  else if (ps.any fun p => isHost p.key) && !r.kind.hostOk then (s.reqFault pl r .prot 0 (vaInfo r.a), [])
  else if !s.wordsOk r.kind ps then (s.reqFault pl r .prot 0 (vaInfo r.a), [])
  else if r.kind.writes && s.userDesc pl ps then (s.reqFault pl r .prot 0 (vaInfo r.a), [])
  else if r.kind.anchors && (ps.any fun p => p.imm) && !x.irrev then
    (s.holdAnchor lid pl r ((partWords ps).map fun w => w * 8), [])
  else
    let s := s.flushFor pl r.kind ps
    if !s.condHolds (actorObs s pl lid) r.kind ps then
      ((s.signParts lid (if r.budget = 0#8 then ps else [])).parkReq pl lid x r (formOf r.kind) ((partWords ps).map fun w => w * 8)
        (va48 r.a), [])
    else if r.kind.entries && !x.irrev
        && s.overQuota lid ((ps.filter fun p => !p.imm).map fun p => p.key / 64) then (s.overflow lid x pl r, [])
    else s.doAccess pl lid r ps

/-- A global access of a request: held for an invalidation, translated, then performed. -/
def State.access (s : State) (pl : PlaneId) (lid : Nat) (x : Launch) (r : Req)
    (k : State → List Part → State × List Nat) : State × List Nat :=
  let port := tilePort pl
  let va := va48 r.a
  if s.holdsRange port x.asid va r.bytes then (s, [])
  else match s.xlateFor lid x port va r.bytes r.kind.writes with
    | (.notPresent pva lvl, s) => (s.holdPage lid pl r port pva lvl r.kind.pkind, [])
    | (.prot, s) => (s.reqFault pl r .prot 0 (vaInfo r.a), [])
    | (.ok ps, s) => k s (partsOf r.bytes ps)

/-! ### The scan of parked records (R74, R75) -/

/-- The records that wait for a word, in chain order. -/
def State.chain (s : State) (key : Nat) : List ParkRec := s.parked.filter fun r => (s.recKeys r).contains key

/-- The parts of a parked request: its address is translated when it is performed; none while a page of it is absent. -/
def ParkRec.parts (s : State) (r : ParkRec) (q : Req) : Option (List Part) :=
  match s.launch? r.lid with
  | none => none
  | some x =>
    match (s.xlateFor r.lid x (tilePort r.pl) (va48 q.a) q.bytes q.kind.writes).1 with
    | .ok ps => some (partsOf q.bytes ps)
    | _ => none

/-- The token that a stream read answers with once its words are full (R55, R57, R199). -/
def streamToken (tag : ETy) (wd : Width) (bs : List Byte) : Token :=
  if widVec wd then vectorToken (some tag) (wordsOf (widWords wd) bs) (prefMask (widWords wd))
  else scalarToken wd (some tag) (leNat bs)

/-- The words of a record are there and full in some view. -/
def State.recFull (s : State) (o : Obs) (r : ParkRec) : Bool :=
  let ks := s.recKeys r
  decide (ks.length = r.nw) && ks.all fun k => s.viewBit o (k / 8)

/-- A copy's AWAIT record is performed: its word has been found full, and once no other word of the line waits the whole
source line is read in this step, in the launch's view, and enters the read signature (R76, R84). -/
def State.awaitFound (s : State) (r : ParkRec) : State :=
  let s := s.unparkWhere fun q => decide (q = r)
  let s := s.modCopy r.rid fun c => { c with found := c.found ++ [r.va] }
  if s.parked.any fun q => decide (q.form = 4) && decide (q.rid = r.rid) then s
  else
    let s := s.modCopy r.rid fun c => { c with waiting := false }
    match s.copies.find? fun c => decide (c.cid = r.rid), s.launch? r.lid with
    | some c, some x =>
      let va := bitsOf (c.cw.getD 0 0#64).toNat 47 0 + c.done
      let n := c.lineLen
      let runs := if n ≤ 64 - va % 64 then [(va, n)] else [(va, 64 - va % 64), (va + (64 - va % 64), n - (64 - va % 64))]
      let got := runs.map fun (a, m) => match (s.xlateFor r.lid x (tilePort c.pl) a m false).1 with
        | .ok ps => some (partsOf m ps)
        | _ => none
      if got.all (·.isSome) then
        let ps := (got.map fun q => q.getD []).flatten
        (s.signParts r.lid ps).modCopy r.rid fun c =>
          { c with line := some (s.readParts { lid := some r.lid, glade := none } ps) }
      else s
    | _, _ => s

/-- A queue entry's wait word has been found full: its LDW completes (R88). -/
def QEnt.found (e : QEnt) (r : ParkRec) : QEnt := if e.seq = r.rid then { e with waits := e.waits.filter fun i => decide (i ≠ r.rch) } else e
def State.waitFound (s : State) (r : ParkRec) : State :=
  (s.unparkWhere fun q => decide (q = r)).modGlade r.glade fun g =>
    { g with queues := Store.mapV (fun _ q => q.map fun e => e.found r) g.queues }

/-- Tries a record whose plane stands in its tile: performed where its condition holds in the view of its launch (R74, R86), at
the home unit (R67, R272). Answers the words changed, or none where it was not performed. -/
def State.tryHere (s : State) (r : ParkRec) : Option (State × List Nat) :=
  if r.fid.isSome then none
  else match r.form with
    | 4 => if s.recFull { lid := some r.lid, glade := none } r then some (s.awaitFound r, []) else none
    | 5 => if s.recFull { lid := none, glade := none } r then some (s.waitFound r, []) else none
    | 3 =>
      let o : Obs := { lid := some r.lid, glade := none }
      match s.req? r.pl r.rid, s.launch? r.lid with
      | some q, some x =>
        let st := (x.streamOf q.handle).map (·.2)
        let ended := match st, q.pos with
          | some st, some (p, _) => st.closed && !before p st.endp
          | _, _ => false
        if ended then some ((s.unpark r.pl r.rid).finish r.pl q .null, [])
        else if s.recFull o r then
          let bs := (((s.recKeys r).map fun k => s.view o k 8).flatten).drop (q.c.toNat % 8)
          let tag := (st.bind fun st => tyOf (BitVec.ofNat 4 st.sr.etag)).getD .u64
          some ((s.unpark r.pl r.rid).finish r.pl q (streamToken tag q.wd bs), [])
        else none
      | _, _ => none
    | _ =>
      match s.req? r.pl r.rid, s.launch? r.lid with
      | some q, some x =>
        match r.parts s q with
        | none => none
        | some ps =>
          let s := s.flushFor r.pl q.kind ps
          if s.condHolds (actorObs s r.pl r.lid) q.kind ps then
            let s := s.unpark r.pl r.rid
            if q.kind.entries && !x.irrev && s.overQuota r.lid ((ps.filter fun p => !p.imm).map fun p => p.key / 64) then
              some (s.overflow r.lid x r.pl q, [])
            else some (s.doAccess r.pl r.lid q ps)
          else none
      | _, _ => none

/-- Tries a record, of a launch on its planes or scanned out (R323). -/
def State.tryRec (s : State) (r : ParkRec) : Option (State × List Nat) :=
  match s.awaySlot r.pl r.lid with
  | none => s.tryHere r
  | some k => ((s.swap r.pl k).tryHere r).map fun (t, ws) => (t.swap r.pl k, ws)

/-- One pass over the records of a word. -/
def passRecs : List ParkRec → State → List Nat → State × List Nat
  | [], s, ch => (s, ch)
  | r :: t, s, ch =>
    match s.tryRec r with
    | some (s, w) => passRecs t s (ch ++ w)
    | none => passRecs t s ch

/-- Raises F_PARK_BUDGET for a record, which it keeps (R74, R75). -/
def State.budgetFault (s : State) (r : ParkRec) (code : Nat) : State :=
  let mark (s : State) (fid : Nat) : State :=
    s.modGlade r.glade fun g => { g with park := g.park.map fun q => if q = r then { q with fid := some fid } else q }
  if r.form = 4 then
    match s.copies.find? fun c => c.cid = r.rid with
    | some c =>
      let (fid, s) := s.raise .parkBudget r.lid (some r.pl) r.pl (.copy c.cid) code false c.block.toNat c.slot 0 0
        (BitVec.ofNat 64 r.va)
      mark { s with copies := s.copies.map fun d => if d.cid = c.cid then { d with fault := some fid } else d } fid
    | none => s
  else s.onReq r.pl r.rid fun s =>
    match s.req? r.pl r.rid with
    | some q =>
      let info := match r.form, q.pos with
        | 3, some _ => BitVec.ofNat 64 r.va
        | _, _ => vaInfo q.a
      let s := s.reqFault r.pl q .parkBudget code info
      match (s.req? r.pl r.rid).map Req.st with
      | some (ReqSt.faulted fid) => mark s fid
      | _ => s
    | none => s

/-- A record left when a scan ends loses one round; 255 means unlimited (R74). -/
def State.loseRound (s : State) (r : ParkRec) : State :=
  if r.fid.isSome ∨ r.left = 255 ∨ r.left = 0 then s
  else
    let r' := { r with left := r.left - 1 }
    let s := s.modGlade r.glade fun g => { g with park := g.park.map fun q => if q = r then r' else q }
    if r.left = 1 then s.budgetFault r' 0 else s

/-- Passes over the records of a word until one changes no state of it (R74); answers the other words changed. -/
def scanWord : Nat → State → Nat → List Nat → State × List Nat
  | 0, s, _, ch => (s, ch)
  | n + 1, s, key, ch =>
    let (s, w) := passRecs (s.chain key) s []
    let others := w.filter fun k => k ≠ key / 8
    if w.contains (key / 8) then scanWord n s key (ch ++ others)
    else ((s.chain key).foldl (fun s r => s.loseRound r) s, ch ++ others)

/-- Scans every word of a list, and the words that the scans change (R74). Words are given by their numbers. -/
def State.scan : Nat → State → List Nat → State
  | 0, s, _ => s
  | _, s, [] => s
  | n + 1, s, w :: t =>
    if (s.chain (w * 8)).isEmpty then State.scan n s t
    else
      let (s, more) := scanWord ((s.chain (w * 8)).length + 1) s (w * 8) []
      State.scan n s (t ++ more)

/-- The records of every glade, which bound a scan. -/
def State.records (s : State) : Nat := s.glades.foldl (fun n (_, g) => n + g.park.length) 0

/-! ### Committed entries and the waits of border cores (R85, R257) -/

/-- Whether the word that a border core waits for is full: a doorbell word, or a word of memory in committed state. -/
def State.coreWordFull (s : State) (key : Nat) : Bool :=
  match doorOf key with
  | some g => match s.glade? g with | some x => x.doorbell | none => false
  | none => s.viewBit committedObs (key / 8)

/-- Empties a word that a border core takes. -/
def State.coreTake (s : State) (key : Nat) : State × List Nat :=
  match doorOf key with
  | some g => (s.modGlade g fun x => { x with doorbell := false }, [])
  | none => ((s.foldLine (key / 64)).setHomeBit (key / 8) false, [key / 8])

/-- The first border core whose word is full answers its JWAITW with 1; one that takes empties the word (R257). Answers
the word emptied. -/
def State.serveCore (s : State) : Option (State × List Nat) :=
  let hit := s.barq.findSome? fun e =>
    match e.owner with
    | .core c =>
      match (s.core c).wait with
      | some (.word rd _ _ take _) => if s.coreWordFull e.pa then some (e, c, rd, take) else none
      | _ => none
    | _ => none
  match hit with
  | none => none
  | some (e, c, rd, take) =>
    let s := { s with barq := s.barq.erase e }
    let k := s.core c
    let s := s.setCore c ({ k.setReg rd 1#64 with wait := none, pc := k.pc + 4#64 })
    if take then some (s.coreTake e.pa) else some (s, [])

/-- Scans records and serves waiting cores until nothing more wakes. -/
def wakeGo : Nat → State → List Nat → State
  | 0, s, _ => s
  | n + 1, s, ws =>
    let s := s.scan (ws.length + 64 * s.records + 1) ws
    match s.serveCore with
    | some (s, ws) => wakeGo n s ws
    | none => s

/-- What a change of the state of some words wakes: the scan of their park records (R74) and the waits of border cores
(R257). Each record is performed at most once, and a record changes at most 64 words. -/
def State.wake (s : State) (ws : List Nat) : State := wakeGo (s.barq.length + 1) s ws

/-- The words of some records on which one of them would be performed now (R74): those whose state has changed since they were
scanned, for a scan leaves no record whose condition holds. -/
def State.ripe (s : State) (pick : ParkRec → Bool) : List Nat :=
  ((s.parked.filter fun r => pick r && (s.tryRec r).isSome).map fun r => (s.recKeys r).map (· / 8)).flatten.eraseDups

/-! ### Atomics and updates (R205, R206) -/

/-- The new value of a returning atomic (R205) on numbers of w bits. -/
def atomNew (op : AOp) (w old x y : Nat) : Nat :=
  match op with
  | .add => (old + x) % 2 ^ w
  | .and => old &&& x
  | .or => old ||| x
  | .xor => old ^^^ x
  | .min => if sgn w old ≤ sgn w x then old else x
  | .max => if sgn w x ≤ sgn w old then old else x
  | .swap => x
  | .cas => if old = x then y else old

/-- Performs a returning atomic at the home slice: the old value answers, the new one is written (R205). -/
def State.atomParts (op : AOp) (d : Bool) (pl : PlaneId) (lid : Nat) (x : Launch) (r : Req) (s : State) (ps : List Part) :
    State × List Nat :=
  match ps with
  | [p] =>
    if isPeer p.key then (s.reqFault pl r .prot 0 (vaInfo r.a), [])
    else if !s.wordsOk r.kind ps || s.userDesc pl ps then (s.reqFault pl r .prot 0 (vaInfo r.a), [])
    else if p.imm && !x.irrev then (s.holdAnchor lid pl r [p.key / 8 * 8], [])
    else
      let w := 8 * dBytes d
      let s := s.flushFor pl r.kind ps
      let old := leNat (s.readParts (actorObs s pl lid) ps)
      let new := atomNew op w old (r.b.toNat % 2 ^ w) (r.c.toNat % 2 ^ w)
      let wr := !(decide (op = .cas) && decide (old ≠ r.b.toNat % 2 ^ w))
      if wr && !p.imm && !x.irrev && s.overQuota lid [p.key / 64] then (s.overflow lid x pl r, [])
      else
        let s := s.signParts lid ps
        let tok := scalarToken r.wd (r.resp.bind fun c => s.inTag pl c) old
        let s := if wr then s.putEff lid (cutIndex (s.plane pl).recorded) p.imm p.va (.bytes p.key (toLE (dBytes d) new)) else s
        (s.finish pl r tok, [])
  | _ => (s, [])

/-- Performs an update: into the glade's update line, or at the home slice (R78, R206). -/
def State.updParts (op : UOp) (d : Bool) (pl : PlaneId) (lid : Nat) (x : Launch) (r : Req) (s : State) (ps : List Part) :
    State × List Nat :=
  match ps with
  | [p] =>
    if isPeer p.key then (s, [])
    else if isArg p.key || s.userDesc pl ps then (s.reqFault pl r .prot 0 (vaInfo r.a), [])
    else if p.imm && !x.irrev then (s.holdAnchor lid pl r [p.key / 8 * 8], [])
    else if !p.imm && !x.irrev && s.overQuota lid [p.key / 64] then (s.overflow lid x pl r, [])
    else ((s.actorEff pl lid p.imm p.va (.delta op d p.key r.b)).finish pl r .null, [])
  | _ => (s, [])

/-! ### Release of held operations (R83, R87, R93) -/

/-- The distinct lines of some entries, oldest first. -/
def linesOf (es : List UEnt) : List Nat := (es.map fun e => e.eff.line).eraseDups

/-- Folds a launch's entries home, after what has been committed on their lines before and with what its planes left in
cache banks, each line running the commit test (R87, R273). -/
def State.foldOwn (s : State) (lid : Nat) : State :=
  let s := s.flushBank false fun b => decide (b.lid = some lid)
  let es := s.under.filter fun e => decide (e.lid = lid) && !e.committed
  let s := { s with under := s.under.filter fun e => !(decide (e.lid = lid) && !e.committed) }
  let s := es.foldl (fun s e => (s.direct e.eff).commitTest lid e.va) s
  (linesOf es).foldl (fun s l =>
    if s.under.any fun e => decide (e.eff.line = l) then s
    else s.setSide l { Store.getD s.side l {} with shadowed := false }) s

/-- The words whose committed bit a list of entries changes: those whose last entry differs from the bit as it is committed
(R74, R85). -/
def State.feWords (s : State) (es : List UEnt) : List Nat :=
  let ws := (es.filterMap fun e => match e.eff with | .fe w _ => some w | _ => none).eraseDups
  ws.filter fun w => (es.foldl (fun f e => e.eff.onBit w f) (s.viewBit committedObs w))
    != s.viewBit committedObs w

/-- A HELD launch that is the oldest becomes IRREVOCABLE: its entries go home and its held operations may be performed
(R83, R87, R93). -/
def State.anchorRelease (s : State) (l : Nat) : State :=
  match s.launch? l with
  | none => s
  | some x =>
    if x.st = .held ∧ s.isOldest l x then
      let ws := s.feWords (s.under.filter fun e => decide (e.lid = l) && !e.committed)
      let s := s.foldOwn l
      let s := s.modLaunch l fun y => { y with st := .irrevocable, irrev := true }
      let free (r : Req) : Req := match r.st with
        | .anchorHeld | .quotaHeld => { r with st := .waiting }
        | _ => r
      let goPlane (p : Plane) : Plane := if p.launch = some l then { p with rq := p.rq.map free } else p
      let goScan (y : Launch) : Launch :=
        { y with scanned := y.scanned.map fun (t, c) =>
            (t, { c with actors := c.actors.map fun (a : ActorSave) => { a with plane := goPlane a.plane } }) }
      let goCopy (c : CopyJob) : CopyJob := if c.lid = l ∧ c.held then { c with waiting := false, held := false } else c
      let s := ({ s with planes := Store.mapV (fun _ p => goPlane p) s.planes, copies := s.copies.map goCopy } : State).modLaunch l goScan
      s.wake ws
    else s

/-! ### Fences and the small forms (R209 to R211, R220, R221) -/

/-- Whether everything that a fence waits for has been performed: `pre` are the requests before it. -/
def State.fenceDone (s : State) (pl : PlaneId) (pre : List Req) : ReqKind → Bool
  | .fence _ => pre.isEmpty
  | .xfence src _ =>
    match src with
    | .fab => pre.isEmpty
    | .lnk => pre.all fun r => !s.linkOp pl r
    | .cpy => (pre.all fun r => decide (r.kind ≠ .copy)) && s.copies.all fun c => decide (c.pl ≠ pl)
    | .mtx => (pre.all fun r => decide (r.kind ≠ .mmpost)) && s.glades.all fun (_, g) =>
        g.seqr.all fun m => decide (m.pl ≠ pl) || (match m.st with | .completed => true | _ => false)
    | .hst => s.host.held.isEmpty
  | .sbar => pre.isEmpty
  | _ => false

/-- The requests before a request. -/
def reqsBefore (rq : List Req) (rid : Nat) : List Req := rq.takeWhile fun r => decide (r.rid ≠ rid)

/-- Whether a request of a plane could still be performed, so that a cut waits for it (R342). A fence that waits for parked
requests is saved with them (R276). -/
def State.canDrain (s : State) (pl : PlaneId) : Bool :=
  let rq := (s.plane pl).rq
  rq.all fun r => decide (r.st ≠ .waiting) || !s.unblocked pl r.rid
    || (r.kind.isFence && !s.fenceDone pl (reqsBefore rq r.rid) r.kind)

/-- A fence, barrier of streams or cross-class fence that has what it waits for leaves the stream; one of DEVICE or
SYSTEM scope, or from FAB, first writes home what the plane's requests left in banks (R276). One to FAB makes the glade's banks
give up their copies of lines, so that its actors observe what the source class wrote at home (R211, R272). An SBAR with an
empty mask has no effect. -/
def State.fenceStep (s : State) (pl : PlaneId) (r : Req) : State :=
  let pre := reqsBefore (s.plane pl).rq r.rid
  if !s.fenceDone pl pre r.kind && !(decide (r.kind = .sbar) && decide (r.a = 0#64)) then s
  else
    let flush : Bool := match r.kind with
      | .fence .dev | .fence .sys => true
      | .xfence .fab _ => true
      | _ => false
    let s := if flush then s.flushPlane pl else s
    let s := match r.kind with
      | .xfence _ .fab => s.flushBank false fun b => decide (b.glade = s.gladeOf pl.col) && b.copy.isSome
      | _ => s
    s.retire pl r.rid

/-- PREF (R220): with `.bank` the line comes into the issuing glade's bank that is bound to it; the home L2 slice is nearer
to no reader of the model. One that cannot be served is dropped and counted at its port; one that an invalidation holds cannot
be served at once. -/
def State.prefStep (s : State) (pl : PlaneId) (x : Launch) (r : Req) : State :=
  let port := tilePort pl
  let drop (s : State) : State :=
    s.setPort port { s.port port with drops := (if (s.port port).drops = BitVec.allOnes 48 then BitVec.allOnes 48
                                                else (s.port port).drops + 1#48) }
  let s := if s.invalHolds port x.asid (va48 r.a) then drop s
    else match s.xlate port x.asid (va48 r.a) false with
      | (.ok key imm, s) =>
        let g := s.gladeOf pl.col
        if r.kind = .pref true && s.banked g (key / 64 * 64) then (s.bringLine g (key / 64) imm).touch pl (key / 64) else s
      | (_, s) => drop s
  s.retire pl r.rid

/-- WBACK (R221): what the glade's bank owes the home of the line goes there, and the bank keeps a clean copy. One that an
invalidation holds waits (R319). -/
def State.wbackStep (s : State) (pl : PlaneId) (x : Launch) (r : Req) : State :=
  let port := tilePort pl
  let g := s.gladeOf pl.col
  if s.invalHolds port x.asid (va48 r.a) then s
  else match s.xlate port x.asid (va48 r.a) false with
    | (.ok key imm, s) =>
      let here (b : BankLine) : Bool := decide (b.glade = g) && decide (b.line = key / 64)
      let held := s.bank.any here
      let s := s.flushBank true fun b => here b && b.owes
      (if held then (s.bringLine g (key / 64) imm).touch pl (key / 64) else s).retire pl r.rid
    | (_, s) => s.retire pl r.rid

/-- UPDATE_LINE_MERGE (R79, R272): a line of a glade's bank is evicted: it goes home and leaves the bank. -/
def State.evictLine (s : State) (g line : Nat) : State := s.flushLine g line

end Sys2Proof.Machine
end

