-- ==== Sys2Proof/Machine/Errors.lean ====
section
/-!
DEFINITION. Writes of firmware and the launch unit to home lines; notices to a tenant (22 R357); memory errors (23 R374,
R375): the records of the DRAM channels, marking and retirement of frames, what a demand read meets.
-/
namespace Sys2Proof.Machine

/-! ### Home lines as firmware and the launch unit reach them: committed state in an address space -/

/-- The key and class of an address. -/
def State.fwKey (s : State) (asid : BitVec 16) (va : Nat) (write : Bool) : Option (Nat × Bool) :=
  match s.walk asid va with
  | .leaf l => if write && !l.w then none else some (paKey (l.pa + (va - l.va)), l.imm)
  | _ => none

/-- Writes bytes home at a key: committed entries of the line are folded first (R85). -/
def State.homeWrite (s : State) (key : Nat) (bs : List Byte) : State :=
  (s.foldLine (key / 64)).homeEff (.bytes key bs)

/-- Sets the bit of a word in the home line. -/
def State.homeFill (s : State) (key : Nat) (f : Bool) : State := (s.foldLine (key / 64)).homeEff (.fe (key / 8) f)

/-! ### Notices (R357) -/

/-- Fills the notice word of a tenant, data unchanged. -/
def State.noticeFill (s : State) (t : Nat) : State :=
  match (s.tenant t).noticeWord with
  | none => s
  | some (asid, va) =>
    match s.fwKey asid (va.toNat % 2 ^ 48) false with
    | some (k, _) => (s.homeFill k true).wake [k / 8]
    | none => s

/-- Queues a notice; one that finds the queue full turns the newest into kind 0xFF. -/
def State.notice (s : State) (t : Nat) (w : W64) : State :=
  let x := s.tenant t
  let q := if x.notices.length < 256 then x.notices ++ [w] else x.notices.dropLast ++ [0xFF#64]
  (s.setTenant t { x with notices := q }).noticeFill t

/-! ### Channel records (R374) -/

/-- A field that saturates. -/
def satAdd {w : Nat} (x : BitVec w) : BitVec w := if x = BitVec.allOnes w then x else x + 1

def State.modRas (s : State) (ch : Nat) (f : Ras → Ras) : State :=
  { s with fo := { s.fo with ras := Store.set s.fo.ras ch (f (Store.getD s.fo.ras ch {})) } }

/-- The channel of a frame (assumption 11). -/
def chanOfFrame (f : Nat) : Nat := Config.channelOf f % 1536

/-! ### Retirement (R375) -/

/-- Frames that the retirement list holds. -/
def retireDepth : Nat := 4096

/-- The frames on the retirement list: those of its whole records. -/
def Forester.retired (o : Forester) : List Nat := (o.retList.filter (·.2)).map (·.1)

/-- The DRAM stack of a frame: one of 12, of 128 channels each (assumption 11). -/
def stackOfFrame (f : Nat) : Nat := chanOfFrame f / 128

/-- A frame joins the retirement list; where the list is full its stack is reported as degraded and the frame is not retired. With
the step's `tear` a reset of the Forester strikes while it writes the record: a torn record is absent, and the Forester is
down (R362, R367; assumption 38). -/
def State.retireFrame (s : State) (f : Nat) : Bool × State :=
  let note (o : Forester) : List Nat := if o.degraded.contains (stackOfFrame f) then o.degraded else o.degraded ++ [stackOfFrame f]
  if retireDepth ≤ s.fo.retired.length then (false, { s with fo := { s.fo with degraded := note s.fo } })
  else if s.cur.tear then (false, { s with fo := { s.fo with retList := s.fo.retList ++ [(f, false)], st := .down } })
  else
    let s := s.setFrame f { s.frame f with st := .retired, tenant := 0 }
    let s : State := { s with fo := { s.fo with retList := s.fo.retList ++ [(f, true)] } }
    (true, s.modRas (chanOfFrame f) fun r => { r with ret := satAdd r.ret })

/-- The notice of a frame (R357): its kind and address. -/
def frameNotice (kind f : Nat) : W64 := BitVec.ofNat 64 (kind + f % 2 ^ 36 * 2 ^ 16)

/-- Marks a frame for retirement: a FREE one is retired at once, the tenant of an OWNED one is told. While the Forester is not up
the mark is held, as every write of the owner table (R362). -/
def State.markFrame (s : State) (f : Nat) : State :=
  let x := s.frame f
  if x.mark then s
  else if s.fo.st ≠ .up then
    { s with fo := { s.fo with heldMarks := if s.fo.heldMarks.contains f then s.fo.heldMarks else s.fo.heldMarks ++ [f] } }
  else
    let s := s.setFrame f { x with mark := true }
    match x.st with
    | .free => (s.retireFrame f).2
    | .owned => s.notice x.tenant (frameNotice 1 f)
    | _ => s

/-- The Forester, up again, makes the marks that were held, and retires the marked frames that are FREE. -/
def State.releaseMarks (s : State) : State :=
  let held := s.fo.heldMarks
  let free := (s.frames.filter fun (_, x) => x.mark && decide (x.st = .free)).map (·.1)
  let s : State := { s with fo := { s.fo with heldMarks := [], retList := s.fo.retList.filter (·.2) } }
  held.foldl State.markFrame (free.foldl (fun s f => (s.retireFrame f).2) s)

/-- A corrected error in a frame: the 16th within 2^30 cycles marks it. -/
def State.corrected (s : State) (f : Nat) : State :=
  let x := s.frame f
  let now := s.fo.ticks
  let recent := (x.ce.filter fun t => decide ((now - t).toNat < 2 ^ 30)) ++ [now]
  let s := s.setFrame f { x with ce := recent.drop (recent.length - 16) }
  if 16 ≤ recent.length then s.markFrame f else s

/-- An error that a demand read of a DRAM line meets: corrected, or uncorrectable. -/
def State.readError (s : State) (key : Nat) (uncorr : Bool) : State :=
  let f := key / 2 ^ 16
  if dramFrames ≤ f then s
  else if uncorr then (s.modRas (chanOfFrame f) fun r => { r with ue := satAdd r.ue }).markFrame f
  else (s.modRas (chanOfFrame f) fun r => { r with ce := satAdd r.ce }).corrected f

/-- What a demand read of a line meets (R374): the errors that the step's `flag` (corrected) and `flag2` (uncorrectable) give.
Answers whether the data cannot be delivered (R335). -/
def State.demandRead (s : State) (key : Nat) : Bool × State :=
  if dramFrames ≤ key / 2 ^ 16 then (false, s)
  else if s.cur.flag2 then (true, s.readError key true)
  else (false, if s.cur.flag then s.readError key false else s)

/-- The first line of DRAM among those that a read reaches meets them. -/
def State.demandReads (s : State) (keys : List Nat) : Bool × State :=
  match keys.find? fun k => decide (k / 2 ^ 16 < dramFrames) with
  | some k => s.demandRead k
  | none => (false, s)

end Sys2Proof.Machine
end

