-- ==== Sys2Proof/Machine/Streams.lean ====
section
/-!
DEFINITION. Streams at their servers (03 R48 to R66, 14 R284, 04 R91, R92): positions, the element's place, writes,
reads, releases, recycling, stalls and host endpoints.
-/
namespace Sys2Proof.Machine

/-! ### Where an element lives (R52) -/

/-- Bytes of an element (R50). -/
def eszBytes : Nat → Nat
  | 0 => 1 | 1 => 2 | 2 => 4 | 3 => 8 | 4 => 16 | _ => 512

/-- Bytes of an element's place: its size, or the FIFO slot of whole words (R52). -/
def StreamRec.stepBytes (r : StreamRec) : Nat :=
  if r.isFifo then max 8 ((eszBytes r.esz + 7) / 8 * 8) else eszBytes r.esz
/-- Bytes of a frame (R52). -/
def StreamRec.frameBytes (r : StreamRec) : Nat :=
  if r.isFifo then 2 ^ r.log2e * r.stepBytes else if r.fsz then 2 ^ 21 else 2 ^ 16
/-- The capacity C (R51). -/
def StreamRec.cap (r : StreamRec) : Nat := 2 ^ r.log2e * r.nfrm

/-- The frame number of a position. -/
def StreamRec.frameOf (r : StreamRec) (p : W32) : Nat := p.toNat / 2 ^ r.log2e
/-- The first position of a position's frame. -/
def StreamRec.frameStart (r : StreamRec) (p : W32) : W32 := BitVec.ofNat 32 (r.frameOf p * 2 ^ r.log2e)

/-- Byte offset of position p in the window: the frame that `front` names sits in slot FSLOT (R52, R59). -/
def Stream.offset (st : Stream) (p : W32) : Nat :=
  let fr := (st.sr.frameOf p + 2 ^ (32 - st.sr.log2e) - st.sr.frameOf st.front) % 2 ^ (32 - st.sr.log2e)
  let slot := (st.fslot + fr) % st.sr.nfrm
  slot * st.sr.frameBytes + p.toNat % 2 ^ st.sr.log2e * st.sr.stepBytes

/-- The position that bounds the window: ((front >> e) << e) + C (R53, R284). -/
def Stream.bound (st : Stream) : W32 := st.sr.frameStart st.front + BitVec.ofNat 32 st.sr.cap

/-- The virtual address of a window offset of a global stream. -/
def streamVa (r : StreamRec) (off : Nat) : Nat := r.base + off

/-- The key of a window offset of a FIFO stream: in the memory tile that BASE names (R50). -/
def fifoAt (x : Launch) (r : StreamRec) (off : Nat) : Nat :=
  sramKey (tileIx (firstCol x.glade + bitsOf r.base 31 25) (bitsOf r.base 24 19)) (bitsOf r.base 18 0 + off)

/-- The key of a window offset of a launch's stream, or what keeps it from being reached: its copy of its record among that
(R300). -/
def State.streamKey (s : State) (l : Nat) (x : Launch) (r : StreamRec) (off : Nat) (write : Bool) : Xl × State :=
  if r.isFifo then (.ok (fifoAt x r off) true, s)
  else s.xlate1 l x (streamPort x r) (streamVa r off) (eszBytes r.esz) write

/-- The side array of a page that is paged out (R77). -/
def State.pagedAt (s : State) (asid : BitVec 16) (va : Nat) : Option PageSide :=
  s.paged.find? fun q => decide (q.asid = asid) && decide (q.va / 2 ^ 16 = va / 2 ^ 16)

/-- Changes the side array of a page. -/
def State.modPaged (s : State) (asid : BitVec 16) (va : Nat) (f : PageSide → PageSide) : State :=
  { s with paged := s.paged.map fun q => if q.asid = asid ∧ q.va / 2 ^ 16 = va / 2 ^ 16 then f q else q }

/-- Where a server finds an address of its launch's space now: in a frame, by the tables or by what a port still holds of them; in
the side array of its page (R77); or nowhere, from the time when its page has gone from every port to the time when it is
paged out or mapped. -/
inductive Reach where
  | home (key : Nat)
  | side
  | away
  deriving DecidableEq, Repr

def State.reach (s : State) (asid : BitVec 16) (va : Nat) : Reach :=
  match s.keyNow asid va with
  | some k => .home k
  | none => if (s.pagedAt asid va).isSome then .side else .away

/-- The server's own access to n bytes of a window: in their frame, or in the side array of a page that is paged out. -/
def State.winBytes (s : State) (x : Launch) (r : StreamRec) (off n : Nat) : Option (List Byte) :=
  if r.isFifo then some (Memory.readBytes s.mem (fifoAt x r off) n)
  else
    let va := streamVa r off
    match s.reach x.asid va with
    | .home k => some (s.view committedObs k n)
    | .side => (s.pagedAt x.asid va).map fun q => (q.bytes.drop (va - q.va)).take n
    | .away => none
def State.winWrite (s : State) (x : Launch) (r : StreamRec) (off : Nat) (bs : List Byte) : State :=
  if r.isFifo then { s with mem := Memory.writeBytes s.mem (fifoAt x r off) bs }
  else
    let va := streamVa r off
    match s.reach x.asid va with
    | .home k =>
      let s := s.foldIn k bs.length
      { s with mem := Memory.writeBytes s.mem k bs }
    | _ => s.modPaged x.asid va fun q => { q with bytes := overlay q.va q.bytes va bs }

/-- The server gives the words of n bytes of a window a state. -/
def State.winFill (s : State) (x : Launch) (r : StreamRec) (off n : Nat) (f : Bool) : State :=
  let home (s : State) (k : Nat) : State := (List.range ((k % 8 + n + 7) / 8)).foldl (fun s i => s.setHomeBit (k / 8 + i) f) s
  if r.isFifo then home s (fifoAt x r off)
  else
    let va := streamVa r off
    match s.reach x.asid va with
    | .home k => home (s.foldIn k n) k
    | _ => s.modPaged x.asid va fun q =>
        { q with bits := q.bits.zipIdx.map fun (b, i) => if va / 8 * 8 ≤ q.va + 8 * i ∧ q.va + 8 * i < va + n then f else b }

/-- The words of an element's place, given its key. -/
def elemWords (r : StreamRec) (key : Nat) : List Nat :=
  (List.range ((r.stepBytes + 7) / 8)).map fun i => key / 8 + i

/-! ### The descriptor (R50) -/

def Stream.rdOf (st : Stream) (j : Nat) : W32 := st.rd.getD j 0#32
def Stream.relOf (st : Stream) (j : Nat) : W32 := st.rel.getD j 0#32

/-- The eight words of the descriptor. -/
def Stream.words (st : Stream) (glade : Nat) (asid : BitVec 16) : List W64 :=
  let r := st.sr
  let b (x : Bool) : Nat := if x then 1 else 0
  [BitVec.ofNat 64 (r.ver % 16 + r.back * 2 ^ 4 + b r.fsz * 2 ^ 6 + r.esz * 2 ^ 7 + b r.hostp * 2 ^ 10
      + r.hostr.toNat * 2 ^ 11 + r.nrd * 2 ^ 15 + b st.closed * 2 ^ 17 + st.forced.toNat * 2 ^ 18 + r.log2e * 2 ^ 22
      + glade * 2 ^ 27 + r.nfrm * 2 ^ 32 + asid.toNat * 2 ^ 48),
   BitVec.ofNat 64 (st.hwm.toNat + st.tail.toNat * 2 ^ 32),
   BitVec.ofNat 64 (r.base % 2 ^ 48 + st.fslot * 2 ^ 48)]
  ++ ((List.range 4).map fun j =>
      if j ≤ r.nrd then BitVec.ofNat 64 ((st.rdOf j).toNat + (st.relOf j).toNat * 2 ^ 32) else 0#64)
  ++ [BitVec.ofNat 64 (r.stall.toNat + st.endp.toNat * 2 ^ 32)]

/-- Whether a host endpoint fills a descriptor word: word 1 of a host producer, the cursor word of a host reader (R64). -/
def Stream.hostWord (st : Stream) (k : Nat) : Bool :=
  (decide (k = 1) && st.sr.hostp) || (decide (3 ≤ k) && decide (k < 7) && st.sr.hostr.getLsbD (k - 3))

/-- Writes the words of stream `i`'s descriptor back that a test picks, in its frame or in the side array of its page. One that a
host endpoint has filled is left to the host until the server consumes it (R64). -/
def State.putDesc (s : State) (x : Launch) (i : Nat) (st : Stream) (pick : Nat → Bool) : State :=
  let va := x.descVa i
  let bytes (k : Nat) : List Byte := toLE 8 ((st.words x.glade x.asid).getD k 0#64).toNat
  match s.reach x.asid va with
  | .home d => (List.range 8).foldl (fun (s : State) k =>
      if pick k && !(st.hostWord k && s.homeBit ((d + 8 * k) / 8)) then
        { s with mem := Memory.writeBytes s.mem (d + 8 * k) (bytes k) }
      else s) (s.foldIn d 64)
  | .side => s.modPaged x.asid va fun q => (List.range 8).foldl (fun (q : PageSide) k =>
      if pick k && !(st.hostWord k && q.bits.getD ((va + 8 * k - q.va) / 8) false) then
        { q with bytes := overlay q.va q.bytes (va + 8 * k) (bytes k) }
      else q) q
  | .away => s

/-- Replaces a stream of a launch and writes the words of its descriptor that change back; the server owes them while the
descriptor's page is away (R50; assumption 22). -/
def State.setStream (s : State) (l i : Nat) (st : Stream) : State :=
  match s.launch? l with
  | none => s
  | some x =>
    let old := x.streams[i]?.elim [] fun q => q.words x.glade x.asid
    let new := st.words x.glade x.asid
    let owes := decide (old ≠ new) && decide (s.reach x.asid (x.descVa i) = .away) && !x.owed.contains i
    (s.setLaunch l { x with streams := x.streams.set i st, owed := if owes then x.owed ++ [i] else x.owed }).putDesc x i st
      fun k => decide (old[k]? ≠ new[k]?)

/-! ### Emptying a window (R50, R59) -/

/-- Empties every word of a range of keys (R59): through the line sideband. -/
def State.emptyRange (s : State) (lo n : Nat) : State :=
  let s := s.foldIn lo n
  let clear (line : Nat) (b : SideBits) : SideBits :=
    { b with fe := (List.range 8).foldl (fun m k =>
        if lo ≤ line * 64 + 8 * k ∧ line * 64 + 8 * k < lo + n then m &&& ~~~(1#8 <<< k) else m) b.fe }
  { s with side := (s.side.map fun (l, b) => (l, clear l b)).filter fun (_, b) => decide (b ≠ {}) }

/-- Empties the page of a global stream's window at an offset, in its frame or in its side array; none while it is away. -/
def State.emptyPage (s : State) (x : Launch) (r : StreamRec) (off : Nat) : Option State :=
  let va := streamVa r off
  match s.reach x.asid va with
  | .home k => some (s.emptyRange k 65536)
  | .side => some (s.modPaged x.asid va fun q => { q with bits := q.bits.map fun _ => false })
  | .away => none

/-- Empties pages of a window in turn; answers the offsets of those that are away. -/
def State.emptyPages (s : State) (x : Launch) (r : StreamRec) (offs : List Nat) : List Nat × State :=
  offs.foldl (fun (away, s) off => match s.emptyPage x r off with | some s => (away, s) | none => (away ++ [off], s)) ([], s)

/-- The offsets of the pages of a frame slot of a global stream. -/
def StreamRec.slotPages (r : StreamRec) (slot : Nat) : List Nat :=
  if r.isFifo then [] else (List.range (r.frameBytes / 65536)).map fun i => slot * r.frameBytes + i * 65536

/-- Sets every word of a frame slot empty in bulk, 64 KiB at a time in a global stream (R50, R59). -/
def State.emptySlot (s : State) (x : Launch) (r : StreamRec) (slot : Nat) : List Nat × State :=
  if r.isFifo then ([], s.emptyRange (fifoAt x r (slot * r.frameBytes)) r.frameBytes) else s.emptyPages x r (r.slotPages slot)

/-- Whether every page of a frame slot is within the server's reach. -/
def State.slotThere (s : State) (x : Launch) (r : StreamRec) (slot : Nat) : Bool :=
  (r.slotPages slot).all fun off => decide (s.reach x.asid (streamVa r off) ≠ .away)

/-- The words of a range on which records wait. -/
def State.parkedIn (s : State) (lo n : Nat) : List Nat :=
  (s.parked.map fun r => ((s.recKeys r).filter fun k => decide (lo ≤ k) && decide (k < lo + n)).map (· / 8)).flatten

/-- The words of a frame slot that are full and on which records wait: those that recycling changes (R74). -/
def State.slotParked (s : State) (x : Launch) (r : StreamRec) (slot : Nat) : List Nat :=
  let ws := if r.isFifo then s.parkedIn (fifoAt x r (slot * r.frameBytes)) r.frameBytes
    else ((r.slotPages slot).map fun off => match s.reach x.asid (streamVa r off) with
      | .home k => s.parkedIn k 65536
      | _ => []).flatten
  ws.filter fun w => s.viewBit committedObs w

/-- What the server of stream `i` owes, done before it serves (R50; assumption 22): pages of the window that were away when the
window was to be set empty, and a descriptor that was away when it changed. -/
def State.catchUp (s : State) (l i : Nat) : State :=
  match s.launch? l with
  | none => s
  | some x =>
    match x.streams[i]? with
    | none => s
    | some st =>
      let mine := x.unset.filter fun q => decide (q.1 = i)
      let s := if mine.isEmpty then s else
        let (away, s) := s.emptyPages x st.sr (mine.map (·.2))
        s.modLaunch l fun y => { y with unset := (y.unset.filter fun q => decide (q.1 ≠ i)) ++ away.map fun o => (i, o) }
      if x.owed.contains i && decide (s.reach x.asid (x.descVa i) ≠ .away) then
        (s.modLaunch l fun y => { y with owed := y.owed.filter fun k => decide (k ≠ i) }).putDesc x i st fun _ => true
      else s

/-- The same for every stream. -/
def State.catchUpAll (s : State) : State :=
  s.launches.foldl (fun s (l, x) => (List.range x.streams.length).foldl (fun s i => s.catchUp l i) s) s

/-- The reader that holds the tail and the tail (R58): the greatest distance behind HWM, the lowest index on a tie. -/
def Stream.tailOf (st : Stream) : Nat × W32 :=
  ((List.range (st.sr.nrd + 1)).map fun j => (j, st.relOf j)).foldl
    (fun (a, t) (j, q) => if (st.hwm - t).toNat < (st.hwm - q).toNat then (j, q) else (a, t)) (0, st.relOf 0)

def Stream.retail (st : Stream) : Stream := { st with tail := st.tailOf.2 }

/-! ### Requests at a server -/

/-- The request and its stream, if the step may act on it: waiting in order, or held at the server. -/
def State.streamReady (s : State) (pl : PlaneId) (rid : Nat) : Option (Nat × Launch × Req × Nat × Stream) :=
  match s.planeActs pl with
  | none => none
  | some (l, x) =>
    match s.req? pl rid with
    | none => none
    | some r =>
      let ok : Bool := match r.st with
        | .readHeld _ | .windowFull => true
        | _ => s.mayTry x.glade r && s.portRoom pl r && s.unblocked pl rid
      if ok && r.kind.isStream then
        match x.streamOf r.handle with
        | some (i, st) => some (l, x, r, i, st)
        | none => none
      else none

/-- The reader index of a plane on a stream (R207). -/
def State.readerIx (s : State) (pl : PlaneId) (st : Stream) : Nat := (st.sr.readerOf (s.plane pl).actor).getD 0

/-- Clears FORCED once the reader has come to its release cursor (R55). -/
def Stream.unforce (st : Stream) (j : Nat) : Stream :=
  if st.forced.getLsbD j ∧ st.rdOf j = st.relOf j then { st with forced := st.forced &&& ~~~(1#4 <<< j) } else st

/-- INFO of a stream fault (R333). -/
def streamInfo (h j : Nat) (p : W32) : W64 := BitVec.ofNat 64 (h % 64 + (j % 4) * 2 ^ 6 + p.toNat * 2 ^ 32)

/-- The value that an earlier attempt left at a position (R92). -/
def Stream.earlier (st : Stream) (p : W32) : Option (List W64) := (st.attempt.find? fun (q, _) => decide (q = p)).map (·.2)

/-- The element's bytes as words, for comparing and saving. -/
def elemSave (bs : List Byte) : List W64 := wordsOf ((bs.length + 7) / 8) bs

/-- STREAM_WRITE (R53, R92); `peer` for a stream in a link peer's memory, whose writes the link engine performs (R354). -/
def State.streamWrite (s : State) (pl : PlaneId) (rid : Nat) (peer : Bool := false) : State :=
  match s.streamReady pl rid with
  | none => s
  | some (l, x, r, i, st) =>
    if r.kind ≠ .swr false then s
    else if st.closed then s.reqFault pl r .shape 0 0#64
    else if !before st.hwm st.bound then s.setReq pl rid .windowFull
    else
      let s := s.catchUp l i
      let off := st.offset st.hwm
      if !st.sr.isFifo && s.holdsRange (streamPort x st.sr) x.asid (streamVa st.sr off) (eszBytes st.sr.esz) then s
      else match s.streamKey l x st.sr off true with
        | (.notPresent lvl, s) => s.holdPage l pl r (streamPort x st.sr) (streamVa st.sr off) lvl .swrite
        | (.prot, s) => s.reqFault pl r .prot 0 (BitVec.ofNat 64 (streamVa st.sr off))
        | (.ok key imm, s) =>
          if isPeer key ≠ peer then s
          else if peer && !imm then s.reqFault pl r .prot 0 (BitVec.ofNat 64 (streamVa st.sr off))
          else
            let bs := (r.data.take (eszBytes st.sr.esz))
            let place := if st.sr.isFifo then bs ++ List.replicate (st.sr.stepBytes - bs.length) 0#8 else bs
            match st.earlier st.hwm with
            | some w =>
              if w = elemSave bs then
                (s.setStream l i { st with hwm := st.hwm + 1#32, stallCnt := 0, served := true }).retire pl rid
              else s.reqFault pl r .replayDiverge 0 0#64
            | none =>
              let s := s.foldIn key place.length
              let s := { s with mem := Memory.writeBytes s.mem key place }
              let full : Bool := st.sr.isFifo || decide ((key + st.sr.stepBytes) % 8 = 0) || decide (8 ≤ st.sr.stepBytes)
              let ws := if full then elemWords st.sr key else []
              let s := ws.foldl (fun s w => s.setHomeBit w true) s
              let s := (s.setStream l i { st with hwm := st.hwm + 1#32, stallCnt := 0, served := true }).retire pl rid
              s.wake ws

/-- The reads of a stream that a test picks: plane, request. -/
def State.streamReads (s : State) (l h : Nat) (pick : Req → Bool) : List (PlaneId × Req) :=
  (s.everyPlane.map fun (pl, p) =>
    if p.launch = some l then (p.rq.filter fun r => decide (r.kind = .srd) && decide (r.handle = h) && pick r).map
      fun r => (pl, r)
    else []).flatten

/-- STREAM_CLOSE (R54); `peer` as for a write. -/
def State.streamClose (s : State) (pl : PlaneId) (rid : Nat) (peer : Bool := false) : State :=
  match s.streamReady pl rid with
  | none => s
  | some (l, x, r, i, st) =>
    if r.kind ≠ .swr true then s
    else if st.closed then s.reqFault pl r .shape 0 0#64
    else
      let s := s.catchUp l i
      let off := st.offset st.hwm
      let part : Nat := if st.sr.isFifo then 0 else (off % 8)
      let there : Bool := !st.sr.isFifo && (s.keyAt x.asid (streamVa st.sr off)).any isPeer
      if there ≠ peer then s
      else if part ≠ 0 && s.holdsRange (streamPort x st.sr) x.asid (streamVa st.sr off) (eszBytes st.sr.esz) then s
      else match (if part = 0 then (Xl.ok 0 true, s) else s.streamKey l x st.sr off true) with
      | (.notPresent lvl, s) => s.holdPage l pl r (streamPort x st.sr) (streamVa st.sr off) lvl .swrite
      | (.prot, s) => s.reqFault pl r .prot 0 (BitVec.ofNat 64 (streamVa st.sr off))
      | (.ok key imm, s) =>
        if peer && !imm then s.reqFault pl r .prot 0 (BitVec.ofNat 64 (streamVa st.sr off)) else
        let ws := if part = 0 then [] else [key / 8]
        let s := if part = 0 then s
          else
            let s := s.foldIn key (8 - part)
            ({ s with mem := Memory.writeBytes s.mem key (List.replicate (8 - part) 0#8) } : State).setHomeBit (key / 8) true
        let s := (s.setStream l i { st with closed := true, endp := st.hwm, stallCnt := 0, served := true }).retire pl rid
        let late := s.streamReads l r.handle fun q =>
          (match q.st with | .parked | .readHeld _ => true | _ => false)
            && (match q.pos with | some (p, _) => !before p st.hwm | none => false)
        let s := late.foldl (fun s (p, q) => s.onReq p q.rid fun s => (s.unpark p q.rid).finish p q .null) s
        s.wake ws

/-- Clears FORCED of a reader that has come to its release cursor (R55). -/
def State.unforceAt (s : State) (l i j : Nat) : State :=
  match s.launch? l with
  | some y => match y.streams[i]? with
    | some q => s.setStream l i (q.unforce j)
    | none => s
  | none => s

/-- STREAM_READ (R55, R56, R57, R284). The position is taken once, and a read tried again keeps it. One that has passed the test
against TAIL (its `b` is 1) is served though a forced release has moved TAIL past it (R63); one that an HRESUME of
F_STREAM_BEHIND performs again from its start is tested again (R246; assumption 22). -/
def State.streamRead (s : State) (pl : PlaneId) (rid : Nat) : State :=
  match s.streamReady pl rid with
  | none => s
  | some (l, x, r, i, st) =>
    if r.kind ≠ .srd then s
    else
      let s := s.catchUp l i
      let j := match r.pos with | some (_, j) => j | none => s.readerIx pl st
      let p := match r.pos with | some (p, _) => p | none => st.rdOf j
      let st1 := match r.pos with
        | some _ => st
        | none => { st with rd := st.rd.set j (p + 1#32), served := true }
      let after : State → State := fun s => s.unforceAt l i j
      let s := (s.setStream l i st1).modReq pl rid fun q => { q with pos := some (p, j) }
      let r := { r with pos := some (p, j) }
      if decide (r.b ≠ 1#64) && before p st.tail then after (s.reqFault pl r .streamBehind 0 (streamInfo r.handle j p))
      else if st.closed && !before p st.endp then after (s.finish pl r .null)
      else
        let s := s.modReq pl rid fun q => { q with b := 1#64 }
        let r := { r with b := 1#64 }
        if !before p st.bound then
          after (match r.st with | .readHeld _ => s | _ => s.setReq pl rid (.readHeld (s.cycle x.glade)))
        else
          let off := st1.offset p
          if !st.sr.isFifo && s.holdsRange (streamPort x st.sr) x.asid (streamVa st.sr off) (eszBytes st.sr.esz) then after s
          else match s.streamKey l x st.sr off false with
            | (.notPresent lvl, s) => after (s.holdPage l pl r (streamPort x st.sr) (streamVa st.sr off) lvl .read)
            | (.prot, s) => after (s.reqFault pl r .prot 0 (BitVec.ofNat 64 (streamVa st.sr off)))
            | (.ok key _, s) =>
              let ws := elemWords st.sr key
              if isPeer key then after (s.reqFault pl r .prot 0 (BitVec.ofNat 64 (streamVa st.sr off)))
              else if ws.all fun w => s.viewBit committedObs w then
                match s.demandRead key with
                | (true, s) => after (s.reqFault pl r .memUncorr 0 0#64)
                | (false, s) =>
                  let bs := s.view committedObs key (eszBytes st.sr.esz)
                  after (s.finish pl r (streamToken ((tyOf (BitVec.ofNat 4 st.sr.etag)).getD .u64) r.wd bs))
              else
                let s := s.modReq pl rid fun q => { q with c := BitVec.ofNat 64 (key % 8) }
                after (s.parkReq pl l x { r with c := BitVec.ofNat 64 (key % 8) } 3 (ws.map fun w => w * 8)
                  (if st.sr.isFifo then off else streamVa st.sr off))

/-- STREAM_RELEASE (R58). -/
def State.streamRelease (s : State) (pl : PlaneId) (rid : Nat) : State :=
  match s.streamReady pl rid with
  | none => s
  | some (l, _, r, i, st) =>
    if r.kind ≠ .srel then s
    else
      let j := s.readerIx pl st
      let q := st.relOf j + r.b.setWidth 32
      if st.forced.getLsbD j then (s.setStream l i { st with served := true }).retire pl rid
      else if before (st.rdOf j) q then s.reqFault pl r .shape 0 0#64
      else (s.setStream l i { st with rel := st.rel.set j q, served := true }.retail).retire pl rid

/-- STREAM_REWIND (R60, R63). -/
def State.streamRewind (s : State) (pl : PlaneId) (rid : Nat) : State :=
  match s.streamReady pl rid with
  | none => s
  | some (l, _, r, i, st) =>
    if r.kind ≠ .srew then s
    else
      let j := s.readerIx pl st
      let q := st.rdOf j - r.b.setWidth 32
      if st.forced.getLsbD j || before q (st.relOf j) then s.reqFault pl r .shape 0 0#64
      else (s.setStream l i { st with rd := st.rd.set j q, served := true }).retire pl rid

/-- FORCED_RELEASE (R63). -/
def State.forcedRelease (s : State) (pl : PlaneId) (rid : Nat) : State :=
  match s.streamReady pl rid with
  | none => s
  | some (l, _, r, i, st) =>
    if r.kind ≠ .srelFrc then s
    else
      let j := r.b.toNat % 4
      let q : W32 := r.c.setWidth 32
      if before q st.tail || before st.hwm q then s.reqFault pl r .shape 0 0#64
      else
        let f := if before (st.rdOf j) q then st.forced ||| (1#4 <<< j) else st.forced &&& ~~~(1#4 <<< j)
        (s.setStream l i { st with rel := st.rel.set j q, forced := f, served := true }.retail).retire pl rid

/-- SPOS, performed at the server in its order (R61, R208). -/
def State.streamSpos (s : State) (pl : PlaneId) (rid : Nat) : State :=
  match s.streamReady pl rid with
  | none => s
  | some (l, x, r, i, st) =>
    if r.kind ≠ .spos then s
    else
      let v := (st.words x.glade x.asid).getD (r.b.toNat % 8) 0#64
      (s.setStream l i { st with served := true }).finish pl r (.data ⟨.scalar, [v], .u64, 1#64⟩)

/-! ### Recycling (R59, R64, R91) -/

/-- The elements of the front frame that lie before HWM, as (position, words). -/
def State.frontElems (s : State) (x : Launch) (st : Stream) : List (W32 × List W64) :=
  let p0 := st.sr.frameStart st.front
  (List.range (2 ^ st.sr.log2e)).filterMap fun i =>
    let p := p0 + BitVec.ofNat 32 i
    if before p st.hwm then (s.winBytes x st.sr (st.offset p) (eszBytes st.sr.esz)).map fun bs => (p, elemSave bs) else none

/-- The TAIL that a launch's last complete cut records for a stream (R91). -/
def Launch.cutTail (x : Launch) (i : Nat) : Option W32 :=
  x.lastCut.bind fun c => (c.streams[i]?).map (·.tail)

/-- FRAME_RECYCLE (R59): the front frame, once it lies wholly before TAIL and every read accepted into it has its data. Its
elements go first to the cut's stream save or the host-input log (R64, R91). While a page of the frame is away, recycling waits
(assumption 22). -/
def State.frameRecycle (s : State) (l i : Nat) : State :=
  match s.launch? l with
  | none => s
  | some x =>
    match x.streams[i]? with
    | none => s
    | some st =>
      let next := st.sr.frameStart st.front + BitVec.ofNat 32 (2 ^ st.sr.log2e)
      let waiting := s.streamReads l st.sr.handle fun q =>
        decide (q.b = 1#64) && (match q.pos with | some (p, _) => before p next | none => false)
      if before st.tail next || !waiting.isEmpty || !x.st.isLive || !s.slotThere x st.sr st.fslot then s
      else
        let s := s.catchUp l i
        let es := s.frontElems x st
        let saves := match x.cutTail i with
          | some t => if st.sr.hostp || before (next - 1#32) t then [] else es
          | none => []
        let logs := if st.sr.hostp then es else []
        let ws := s.slotParked x st.sr st.fslot
        let s := (s.emptySlot x st.sr st.fslot).2
        let s := s.setStream l i { st with front := next, fslot := (st.fslot + 1) % st.sr.nfrm,
                                           save := st.save ++ saves, log := st.log ++ logs,
                                           attempt := st.attempt.filter fun q => !before q.1 next }
        s.wake ws

/-- The stall limit (R50): 0 means 1,100,000 cycles. -/
def StreamRec.stallLimit (r : StreamRec) : Nat := if r.stall = 0#32 then 1100000 else r.stall.toNat

/-- The write that is parked on a full window, if there is one. -/
def State.parkedWrite (s : State) (l h : Nat) : Option (PlaneId × Req) :=
  (s.everyPlane.map fun (pl, p) =>
    if p.launch = some l then (p.rq.filter fun r => decide (r.handle = h) && decide (r.st = .windowFull)).map
      fun r => (pl, r)
    else []).flatten.head?

/-- STREAM_STALL (R62): raised to the producer's handler, and the count restarts; the write stays parked. -/
def State.streamStall (s : State) (l i : Nat) : State :=
  match (s.launch? l).bind fun x => x.streams[i]? with
  | none => s
  | some st =>
    match s.parkedWrite l st.sr.handle with
    | none => s
    | some (pl, r) =>
      if st.stallCnt ≤ st.sr.stallLimit then s
      else
        let (fid, s) := s.raise .streamStall l (some pl) pl (.stall pl r.rid) 0 false r.block.toNat r.slot 0 0
          (streamInfo st.sr.handle st.tailOf.1 st.tail)
        let s := s.setStream l i { st with stallCnt := 0 }
        if (s.fault? fid).map (·.st) = some FSt.reported then s.dropFault fid else s

/-- HELD_STREAM_READ_TIMEOUT (R284): the park timeout bounds a read that its server holds. -/
def State.heldReadTimeout (s : State) (pl : PlaneId) (rid : Nat) : State :=
  match s.req? pl rid, (s.plane pl).launch.bind s.launch? with
  | some r, some x =>
    match r.st, s.glade? x.glade with
    | .readHeld t, some g =>
      if r.budget ≠ 255#8 ∧ g.parkTimeout < (g.cycle - t).toNat then
        s.reqFault pl r .parkBudget 1 (match x.streamOf r.handle, r.pos with
          | some (_, st), some (p, _) => if st.sr.isFifo then 0#64 else BitVec.ofNat 64 (streamVa st.sr (st.offset p))
          | _, _ => 0#64)
      else s
    | _, _ => s
  | _, _ => s

/-! ### Host endpoints (R64) -/

/-- A word of stream `i`'s descriptor in memory with its bit; none while its page is paged out or away. -/
def State.descWord (s : State) (x : Launch) (i k : Nat) : Option (Nat × Nat × Bool) :=
  match s.reach x.asid (x.descVa i) with
  | .home d => some (d + 8 * k, leNat (s.view committedObs (d + 8 * k) 8), s.viewBit committedObs ((d + 8 * k) / 8))
  | _ => none

/-- The server consumes a descriptor word that a host endpoint has filled: the word becomes empty and takes what the server
then holds (R64). -/
def State.consumeWord (s : State) (l i k a : Nat) (st : Stream) : State :=
  match s.launch? l with
  | none => s
  | some x => ((((s.foldIn a 8).setHomeBit (a / 8) false).setStream l i st).putDesc x i st (· == k)).wake [a / 8]

/-- HOST_HWM_PUBLISH (R64): the server consumes a filled word 1: HWM from its low half, the word written back with the
server's TAIL and set empty. -/
def State.hwmPublish (s : State) (l i : Nat) : State :=
  match (s.launch? l).bind fun x => (x.streams[i]?).map fun st => (x, st) with
  | none => s
  | some (x, st) =>
    let s := s.catchUp l i
    match s.descWord x i 1 with
    | some (a, w, true) =>
      if st.sr.hostp then s.consumeWord l i 1 a { st with hwm := BitVec.ofNat 32 w, served := true } else s
    | _ => s

/-- A host reader's cursors from its word (R58, R64): the server takes its read cursor, with which a forced release may end,
and then its release cursor unless the release is still forced. A word whose release cursor its read cursor has not reached
is consumed without effect (assumption 42). -/
def Stream.hostCursors (st : Stream) (j : Nat) (rd rel : W32) : Stream :=
  if before rd rel then st
  else
    let ends := st.forced.getLsbD j && !before rd (st.relOf j)
    let st : Stream := { st with rd := st.rd.set j rd, forced := if ends then st.forced &&& ~~~(1#4 <<< j) else st.forced }
    if st.forced.getLsbD j then st else ({ st with rel := st.rel.set j rel } : Stream).retail

/-- HOST_READER_RELEASE (R64): the server consumes a filled cursor word of host reader j and applies R58. -/
def State.hostRelease (s : State) (l i j : Nat) : State :=
  match (s.launch? l).bind fun x => (x.streams[i]?).map fun st => (x, st) with
  | none => s
  | some (x, st) =>
    let s := s.catchUp l i
    match s.descWord x i (3 + j) with
    | some (a, w, true) =>
      if st.sr.hostr.getLsbD j ∧ j ≤ st.sr.nrd then
        let st' := st.hostCursors j (BitVec.ofNat 32 w) (BitVec.ofNat 32 (w / 2 ^ 32))
        s.consumeWord l i (3 + j) a { st' with served := true }
      else s
    | _ => s

end Sys2Proof.Machine
end

