-- ==== Sys2Proof/Machine/Fabric.lean ====
section
/-!
DEFINITION. Channels at run time: sending, dealing and the ordered join (01 R18, R31, 08 R155), cuts sent into the graph
(21 R341), delivery into endpoints (05 R94, R96, R97), the alignment rules of an actor (01 R25 to R27), the fabric nodes
(01 R32 to R36, 15 R287, 21 R334), and the delivery of responses, timers and faults.
-/
namespace Sys2Proof.Machine

/-! ### Sending -/

/-- A token joins a channel: data and NULL tokens are dealt, any other token goes to every consumer copy (R31). -/
def Chan.push (c : Chan) (copies : Nat) (t : Token) : Chan :=
  let add (c : Chan) (j : Nat) : Chan := { c with flight := Store.set c.flight j (Store.getD c.flight j [] ++ [t]) }
  match t with
  | .data _ | .null => { add c (c.deal % copies) with deal := c.deal + 1 }
  | _ => (List.range copies).foldl add c

/-- A token joins channel `ci` of a launch. -/
def Launch.pushChan (x : Launch) (ci : Nat) (r : ChanRec) (t : Token) : Launch :=
  { x with chans := Store.set x.chans ci ((Store.getD x.chans ci {}).push (x.consCopies r) t) }

/-- A token is copied to every channel of a list (R18). -/
def State.pushAll (s : State) (l : Nat) (cs : List (Nat × ChanRec)) (t : Token) : State :=
  s.modLaunch l fun x => cs.foldl (fun x (i, r) => x.pushChan i r t) x

/-- Whether every channel of a list has a free place; a blaze needs none (R97). -/
def State.roomFor (s : State) (l : Nat) (cs : List (Nat × ChanRec)) (t : Token) : Bool :=
  match t with
  | .blaze _ _ => true
  | _ => match s.launch? l with
    | some x => cs.all fun (i, r) => decide (1 ≤ s.chanFree x i r)
    | none => false

def State.modOut (s : State) (pl : PlaneId) (o : Nat) (f : OutEp → OutEp) : State :=
  s.modPlane pl fun p => { p with outs := Store.set p.outs o (f (p.out o)) }

/-- The number of data tokens that an output has sent on its channels (R31, R297). -/
def Launch.sentOn (x : Launch) (cs : List (Nat × ChanRec)) : Nat := (Store.getD x.chans ((cs.head?.map (·.1)).getD 0) {}).joinIx

/-- A token goes onto an output's channels; a token that the join counts advances its count. -/
def State.sendJoined (s : State) (l : Nat) (cs : List (Nat × ChanRec)) (t : Token) : State :=
  let s := s.pushAll l cs t
  match t with
  | .data _ | .null => s.modLaunch l fun x => cs.foldl (fun x (i, _) =>
      { x with chans := Store.set x.chans i { Store.getD x.chans i {} with joinIx := (Store.getD x.chans i {}).joinIx + 1 } }) x
  | _ => s

/-- The token that waits with the ordinal that is next on an output (R297). -/
def State.lateAt (s : State) (l : Nat) (pl : PlaneId) (o : Nat) (cs : List (Nat × ChanRec)) : Option (Nat × Token) :=
  match s.launch? l with
  | some x => ((s.plane pl).out o).late.find? fun q => decide (q.1 = x.sentOn cs)
  | none => none

/-- Sends the tokens that wait with their ordinals as far as they are next and there is room. -/
def sendLate (l : Nat) (pl : PlaneId) (o : Nat) (cs : List (Nat × ChanRec)) : Nat → State → State
  | 0, s => s
  | n + 1, s =>
    match s.lateAt l pl o cs with
    | some q =>
      if s.roomFor l cs q.2 then
        sendLate l pl o cs n ((s.modOut pl o fun e => { e with late := e.late.erase q }).sendJoined l cs q.2)
      else s
    | none => s

/-- Sends every waiting token with an ordinal that is next. -/
def State.flushLate (s : State) (l : Nat) (pl : PlaneId) (o : Nat) (cs : List (Nat × ChanRec)) : State :=
  sendLate l pl o cs ((s.plane pl).out o).late.length s

/-- Moves what waits in a holding entry onto the channels, while there is room (R155). -/
def flushHold (l : Nat) (pl : PlaneId) (o : Nat) (cs : List (Nat × ChanRec)) : List Token → State → State
  | [], s => (s.modOut pl o fun e => { e with hold := [] }).flushLate l pl o cs
  | t :: ts, s =>
    let s := s.flushLate l pl o cs
    if s.roomFor l cs t && (s.lateAt l pl o cs).isNone then flushHold l pl o cs ts (s.sendJoined l cs t)
    else s.modOut pl o fun e => { e with hold := t :: ts }

/-- The planes of the copies of an actor. -/
def Launch.copiesOf (x : Launch) (actor : Nat) : List PlaneId :=
  match x.img.actors[actor]? with
  | some a => (List.range a.repl).filterMap fun j => x.planeOf actor j
  | none => []

/-- A blaze that every copy has sent passes the ordered join: what stands before it there belongs to the copies' saved
state, and the dealing and joining counters are saved with the producer (R97, R297, R342). -/
def State.passBlaze (s : State) (l o : Nat) (cs : List (Nat × ChanRec)) (pls : List PlaneId) (k : CutKind) (n : Nat) : State :=
  let b : Token := .blaze k n
  let outs := pls.map fun pl => (pl, ((s.plane pl).out o).joinq.takeWhile fun t => decide (t ≠ b))
  let keep (a : ActorSave) : ActorSave :=
    match outs.find? fun q => decide (q.1 = a.pl) with
    | some (_, ts) =>
      let e : OutEp := { a.plane.out o with joinq := ts, late := ((s.plane a.pl).out o).late }
      { a with plane := { a.plane with outs := Store.set a.plane.outs o e } }
    | none => a
  let s := s.modLaunch l fun x =>
    let saved := cs.map fun (i, _) => (i, { Store.getD x.chans i {} with flight := [] })
    { x with cuts := x.cuts.map fun (c : Cut) =>
        if c.kind = k then { c with actors := c.actors.map keep, chans := c.chans ++ saved } else c }
  let s := pls.foldl (fun s q => s.modOut q o fun e => { e with joinq := e.joinq.erase b }) s
  s.pushAll l cs b

/-- The first blaze that stands in every copy's join queue. -/
def commonBlaze (qs : List (List Token)) : Option (CutKind × Nat) :=
  match qs with
  | [] => none
  | q :: _ => q.findSome? fun t => match t with
    | .blaze k n => if qs.all fun l => l.contains t then some (k, n) else none
    | _ => none

/-- The ordered join of an output of a replicated actor (R31): the k-th data token is copy (k mod REPL)'s next one, a
control token is sent once every copy has sent it. -/
def joinOut (l actor o : Nat) (cs : List (Nat × ChanRec)) : Nat → State → State
  | 0, s => s
  | n + 1, s =>
    match s.launch? l with
    | none => s
    | some x =>
      let pls := x.copiesOf actor
      match commonBlaze (pls.map fun q => ((s.plane q).out o).joinq) with
      | some (k, c) => joinOut l actor o cs n (s.passBlaze l o cs pls k c)
      | none =>
      let s := match pls.head? with | some q => s.flushLate l q o cs | none => s
      let stuck := match pls.head? with | some q => (s.lateAt l q o cs).isSome | none => false
      let k := ((s.launch? l).getD x).sentOn cs
      match (if stuck then none else pls[k % pls.length]?) with
      | none => s
      | some pl =>
        match ((s.plane pl).out o).joinq with
        | [] => s
        | t :: ts =>
          if !s.roomFor l cs t then s
          else match t with
            | .data _ | .null => joinOut l actor o cs n ((s.modOut pl o fun e => { e with joinq := ts }).sendJoined l cs t)
            | .blaze _ _ => s
            | _ =>
              if pls.all fun q => decide (((s.plane q).out o).joinq.head? = some t) then
                let s := pls.foldl (fun s q => s.modOut q o fun e => { e with joinq := e.joinq.drop 1 }) s
                joinOut l actor o cs n (s.pushAll l cs t)
              else s

/-- Tokens that wait in the join of an output. -/
def State.joinLen (s : State) (x : Launch) (actor o : Nat) : Nat :=
  (x.copiesOf actor).foldl (fun n pl => n + ((s.plane pl).out o).joinq.length + ((s.plane pl).out o).late.length) 1

/-- Whatever waits at an actor's output moves on as far as there is room. -/
def State.flushOut (s : State) (l actor o : Nat) : State :=
  match s.launch? l with
  | none => s
  | some x =>
    let cs := x.outChans 0 actor o
    match x.img.actors[actor]? with
    | none => s
    | some a =>
      if a.repl = 1 then
        match x.planeOf actor 0 with
        | some pl => flushHold l pl o cs ((s.plane pl).out o).hold s
        | none => s
      else joinOut l actor o cs (s.joinLen x actor o) s

/-- An actor copy sends a token on an output (R18, R22, R31). A token sent to an output that feeds no channel goes
nowhere. -/
def State.sendOut (s : State) (pl : PlaneId) (o : Nat) (t : Token) : State :=
  match (s.plane pl).launch with
  | none => s
  | some l =>
    match s.launch? l with
    | none => s
    | some x =>
      let p := s.plane pl
      if (x.outChans 0 p.actor o).isEmpty then s
      else if p.repl = 1 then
        (s.modOut pl o fun e => { e with hold := e.hold ++ [t] }).flushOut l p.actor o
      else (s.modOut pl o fun e => { e with joinq := e.joinq ++ [t] }).flushOut l p.actor o

/-- The outputs of an actor that feed a channel. -/
def Launch.outsOf (x : Launch) (actor : Nat) : List Nat :=
  (List.range 16).filter fun o => !(x.outChans 0 actor o).isEmpty

/-! ### Cuts sent into the graph (R341) -/

/-- The source channels of an image. -/
def Launch.sources (x : Launch) : List (Nat × ChanRec) :=
  (x.img.chans.zipIdx.filter fun (r, _) => decide (r.pkind = 2)).map fun (r, i) => (i, r)

/-- The barrier objects that a launch initialised, with their bytes (R214). -/
def State.saveBars (s : State) (x : Launch) : List BarSave := x.bars.map fun k => ⟨k, Memory.readBytes s.mem k 16⟩

/-- Injects a cut's blaze on every source channel; a request while a cut of the same kind is in progress joins it
(R243, R341). `core` is the border core that asked for it, if one did. -/
def State.inject (s : State) (l : Nat) (k : CutKind) (core : Option Nat := none) : State :=
  match s.launch? l with
  | none => s
  | some x =>
    if x.cuts.any fun c => decide (c.kind = k) then s
    else
      let num : Nat := match k with
        | .snap => x.cutNo + 1
        | _ => 0
      let s := s.modLaunch l fun x =>
        let saved := x.sources.map fun (i, _) => (i, { Store.getD x.chans i {} with flight := [] })
        { x with cuts := x.cuts ++ [{ kind := k, num := num, core := core, chans := saved, streams := x.streams, bars := s.saveBars x }],
                 cutNo := max x.cutNo num }
      s.pushAll l x.sources (.blaze k num)

/-! ### Delivery into an endpoint (R94, R96, R97, R289) -/

/-- Changes the endpoint that channel record `r` reaches at consumer copy `j`. -/
def State.modEp (s : State) (l : Nat) (x : Launch) (r : ChanRec) (j : Nat) (f : Endpoint → Endpoint) : State :=
  match r.ckind with
  | 0 => match x.planeOf r.cons j with
    | some pl => s.modPlane pl fun p => { p with ins := Store.set p.ins r.cep (f (p.inp r.cep)) }
    | none => s
  | 1 => s.modLaunch l fun x =>
      let n := Store.getD x.nodes r.cons {}
      { x with nodes := Store.set x.nodes r.cons { n with ins := Store.set n.ins r.cep (f (Store.getD n.ins r.cep {})) } }
  | _ => s.modGlade x.glade fun g =>
      { g with regions := g.regions.map fun q =>
          if q.lid = l ∧ x.img.regions[r.cons]? = some q.rr then { q with steer := f q.steer } else q }

/-- A breakpoint hit (R96): the element that owns the endpoint starts nothing more, F_BREAK goes to the debugger's core,
a STOP blaze is injected. A region whose steering input hits starts no further drain: DESIGN CHOICE (assumption 42), since R96
speaks of actors and nodes. Under a `pre` mark a PRE cut takes the place of the STOP blaze and of F_BREAK (R293). -/
def State.brkHit (s : State) (l : Nat) (x : Launch) (r : ChanRec) (j : Nat) (pre : Bool) : State :=
  let (s, at_) : State × PlaneId := match r.ckind with
    | 0 => match x.planeOf r.cons j with
      | some pl => (s.modPlane pl fun p => { p with brkStop := true }, pl)
      | none => (s, ⟨0, 0, 0⟩)
    | 2 =>
      (s.modGlade x.glade fun g => { g with regions := g.regions.map fun q =>
          if q.lid = l ∧ x.img.regions[r.cons]? = some q.rr then { q with brkStop := true } else q },
       ⟨firstCol x.glade + (x.img.regions[r.cons]?).elim 0 (·.col), (x.img.regions[r.cons]?).elim 0 (·.row), x.plane.getD 0⟩)
    | _ =>
      let n := x.img.nodes[r.cons]?
      (s.modLaunch l fun x =>
          { x with nodes := Store.set x.nodes r.cons { Store.getD x.nodes r.cons {} with brkStop := true } },
       ⟨firstCol x.glade + n.elim 0 (·.col), n.elim 0 (·.row), x.plane.getD 0⟩)
  if pre then s.inject l .pre
  else
    let (fid, s) := s.raise .brk l none at_ .other 0 false 0 0 0 0 0#64
    (s.tell fid none).inject l .stop

/-- What an endpoint becomes when a token arrives in glade cycle `c`: SOT and EOT of a drain are counted and removed
(R289). -/
def Endpoint.take (e : Endpoint) (c : Nat) (drop : Bool) (t : Token) : Endpoint :=
  { e with slots := if drop then e.slots else e.slots ++ [(c, t)], ord := e.ord + 1#48, moved := true,
           armed := e.armed.filter fun (o, _) => decide (o ≠ e.ord) }

/-- TOKEN DELIVERY, the one shared operation: a token enters the endpoint of a channel at a consumer copy; it takes ORD
as its ordinal, and ORD advances (R94); an armed register that equals it hits (R96). -/
def State.land (s : State) (l : Nat) (x : Launch) (r : ChanRec) (j : Nat) (t : Token) : State :=
  let e := s.consEp x r j
  let drop : Bool := decide (r.pkind = 7) && (match t with | .ctl .sot | .ctl .eot => true | _ => false)
  let hits := e.armed.filter fun (o, _) => decide (o = e.ord)
  let s := s.modEp l x r j fun e => e.take (s.cycle x.glade).toNat drop t
  hits.foldl (fun s (_, pre) => s.brkHit l x r j pre) s

/-- Whether an endpoint can take one token now. -/
def Endpoint.open_ (e : Endpoint) : Bool := e.blazes.isEmpty && decide (e.slots.length < 4)

/-- A token from outside the channels (a response, a timer, a fault, a service answer, a region's row) arrives on an
actor input: into the endpoint, or into the FIFO extension behind earlier tokens. -/
def State.arrive (s : State) (l : Nat) (x : Launch) (ci : Nat) (r : ChanRec) (j : Nat) (t : Token) : State :=
  let c := Store.getD x.chans ci {}
  if (Store.getD c.flight j []).isEmpty && (s.consEp x r j).open_ then s.land l x r j t
  else s.modLaunch l fun x =>
    let c := Store.getD x.chans ci {}
    { x with chans := Store.set x.chans ci { c with flight := Store.set c.flight j (Store.getD c.flight j [] ++ [t]) } }

/-- Free places of one copy's end of a channel. -/
def State.copyFree (s : State) (x : Launch) (ci : Nat) (r : ChanRec) (j : Nat) : Nat :=
  let c := Store.getD x.chans ci {}
  4 + r.fifo - (slotCount (Store.getD c.flight j []) + (s.consEp x r j).slots.length)

/-- Whether what a launch has issued goes on: no cut holds it (R323, R342). -/
def Launch.goesOn (x : Launch) : Bool := (match x.st with | .live | .held | .irrevocable => true | _ => false) && !x.preHeld

/-- Whether a launch's tokens move: it is on its planes. -/
def Launch.onFabric (x : Launch) : Bool := x.goesOn && x.scanned.isNone

/-! ### The alignment rules of an actor (R25 to R27) -/

/-- Whether the head of an endpoint is a data token. -/
def Endpoint.headData (e : Endpoint) : Bool := !e.slots.isEmpty && e.headCtl.isNone

/-- The rate of an actor's aligned task on an input (R20). -/
def ActorRec.alignedRate (a : ActorRec) (j : Nat) : Nat :=
  match a.tasks.find? (fun t => decide (t.kind = .aligned)) with
  | some t => t.irate.getD j 0
  | none => 0

/-- Whether one of R26's violations, or one that R27's policy faults, stands at the aligned inputs of an actor. -/
def alignBad (a : ActorRec) (p : Plane) : Bool :=
  let al := a.aligned
  let eos := al.filter fun j => decide ((p.inp j).headCtl = some .eos)
  let live := al.filter fun j => decide ((p.inp j).headCtl ≠ some .eos)
  let ctls := live.filterMap fun j => (p.inp j).headCtl
  let data := live.any fun j => (p.inp j).headData
  let short := al.any fun j =>
    let n := dataRun (p.inp j).slots
    decide (n < (p.inp j).slots.length) && decide (1 ≤ n) && decide (n < a.alignedRate j)
  let mixed := match ctls with
    | [] => false
    | k :: t => t.any fun q => decide (q ≠ k)
  if eos.isEmpty then (!ctls.isEmpty && data) || short || mixed
  else match a.eosp with
    | 0 => short || data || !ctls.isEmpty
    | 1 => false
    | _ => short || mixed || (!ctls.isEmpty && data)

/-- Whether a control token has reached an unaligned input (R25). -/
def unalignedBad (a : ActorRec) (p : Plane) : Bool :=
  (List.range 16).any fun j => !a.align.getLsbD j && ((p.inp j).slots.any fun (_, t) => t.ctl?.isSome)

/-- DRAIN: while EOS stands at some aligned input, tokens before the EOS of the others are discarded (R27). -/
def drainIns (a : ActorRec) (p : Plane) : Plane :=
  if a.eosp = 1 ∧ (a.aligned.any fun j => decide ((p.inp j).headCtl = some .eos)) then
    a.aligned.foldl (fun p j =>
      let e := p.inp j
      { p with ins := Store.set p.ins j { e with slots := e.slots.dropWhile fun (_, t) => decide (t.ctl? ≠ some .eos) } }) p
  else p

/-- Applies R25 to R27 to the heads of an actor's inputs after a delivery or at the end of a firing: discards of DRAIN,
and F_SHAPE when a violation first becomes true. -/
def State.settle (s : State) (pl : PlaneId) : State :=
  match s.actorOf pl with
  | none => s
  | some (l, _, a) =>
    let s := if (s.plane pl).firing.isSome then s else s.modPlane pl (drainIns a)
    let p := s.plane pl
    if (alignBad a p || unalignedBad a p) && !(s.faults.any fun f => decide (f.src = .input pl)) then
      (s.raise .shape l (some pl) pl (.input pl) 0 false 0 0 0 0 0#64).2
    else s

/-- A blaze takes the blaze entry of its kind (R97); it keeps its place on the channel until the element has recorded its
state, so that tokens behind it wait. -/
def State.noteBlaze (s : State) (l : Nat) (x : Launch) (r : ChanRec) (j : Nat) (e : Endpoint) (k : CutKind) (n : Nat) : State :=
  if e.blazes.any fun b => decide (b.1 = k) then s
  else s.modEp l x r j fun e => { e with blazes := e.blazes ++ [(k, n)] }

/-- TOKEN_DELIVERY (R94, R97): what waits at the producer's output moves onto the channel where there is room, then the
oldest token of channel `ci` towards consumer copy `j` enters its endpoint. A blaze goes to its entry, even past tokens
for which the endpoint is full; tokens behind it wait until the element has recorded its state. -/
def State.deliver (s : State) (l ci j : Nat) : State :=
  match (s.launch? l).bind fun x => x.img.chans[ci]? with
  | none => s
  | some r =>
    let s := if r.pkind = 0 then s.flushOut l r.prod r.pep else s
    match s.launch? l with
    | none => s
    | some x =>
      if !x.onFabric then s
      else match Store.getD (Store.getD x.chans ci {}).flight j [] with
        | [] => s
        | t :: ts =>
          let pop (s : State) : State := s.modLaunch l fun x =>
            let c := Store.getD x.chans ci {}
            { x with chans := Store.set x.chans ci { c with flight := Store.set c.flight j ts } }
          let e := s.consEp x r j
          match t with
          | .blaze k n => s.noteBlaze l x r j e k n
          | _ =>
            if e.slots.length < 4 then
              let s := (pop s).land l x r j t
              match r.ckind with
              | 0 => match x.planeOf r.cons j with
                | some pl => s.settle pl
                | none => s
              | _ => s
            else match ts.findSome? fun q => match q with | .blaze k n => some (k, n) | _ => none with
              | some (k, n) => s.noteBlaze l x r j e k n
              | none => s

/-! ### Nodes -/

/-- A node that may act: its launch runs, nothing stops it, no blaze waits to be recorded. -/
def State.nodeReady (s : State) (l n : Nat) : Option (Launch × NodeRec × Node) :=
  match s.launch? l with
  | none => none
  | some x =>
    match x.img.nodes[n]? with
    | none => none
    | some r =>
      let nd := Store.getD x.nodes n {}
      if x.onFabric && !x.pageHold && nd.fault.isNone && !nd.stopped && !nd.paused && !nd.brkStop
          && (x.nodeBlaze n nd).isNone then some (x, r, nd) else none

def Node.inp (n : Node) (k : Nat) : Endpoint := Store.getD n.ins k {}
/-- Removes the head of an input. -/
def Node.pop (n : Node) (k : Nat) : Node :=
  { n with ins := Store.set n.ins k { n.inp k with slots := (n.inp k).slots.drop 1 } }
def Node.popAll (n : Node) (ks : List Nat) : Node := ks.foldl Node.pop n
/-- The head token of an input. -/
def Node.head (n : Node) (k : Nat) : Option Token := (n.inp k).slots.head?.map (·.2)
/-- Discards the tokens of an input up to and with its EOS (R32). -/
def Node.dropToEos (n : Node) (k : Nat) : Node :=
  let rest := (n.inp k).slots.dropWhile fun (_, t) => decide (t.ctl? ≠ some .eos)
  { n with ins := Store.set n.ins k { n.inp k with slots := rest.drop 1 } }

def State.setNode (s : State) (l n : Nat) (nd : Node) : State :=
  s.modLaunch l fun x => { x with nodes := Store.set x.nodes n nd }

/-- A node's fault (R334): the token names its memory tile; the node forwards nothing until it is resolved, and HRESUME
removes the heads of the inputs in `pops`. -/
def State.nodeFault (s : State) (l n : Nat) (x : Launch) (r : NodeRec) (cls : FCls) (pops : List Nat) : State :=
  let (fid, s) := s.raise cls l none ⟨firstCol x.glade + r.col, r.row, x.plane.getD 0⟩ (.node l n) 0 false 0 0 0 0 0#64
  s.modLaunch l fun x =>
    { x with nodes := Store.set x.nodes n { Store.getD x.nodes n {} with fault := some fid, faultPops := pops } }

/-- Sends one token on some outputs of a node, where every channel has room; each with what the node becomes. -/
def State.nodeSend (s : State) (l n : Nat) (x : Launch) (nd : Node) (outs : List (Nat × Token)) : State :=
  let cs := outs.map fun (o, t) => (x.outChans 1 n o, t)
  if cs.all fun (c, t) => s.roomFor l c t then
    cs.foldl (fun s (c, t) => s.pushAll l c t) (s.setNode l n nd)
  else s

/-- The number that a steering or predicate token carries. -/
def Token.num : Token → Option Nat
  | .data d => some d.bits.toNat
  | _ => none

/-- STEER_NODE (R32). -/
def State.steerStep (s : State) (l n : Nat) : State :=
  match s.nodeReady l n with
  | none => s
  | some (x, r, nd) =>
    if r.nkind ≠ 0 then s
    else if nd.eosOut then
      (if (nd.inp 1).slots.isEmpty then s else s.setNode l n (nd.dropToEos 1))
    else match nd.head 0 with
      | none => s
      | some t =>
        match t.ctl? with
        | some k =>
          let nd' := nd.pop 0
          let nd' := if k = .eos then { nd'.dropToEos 1 with eosOut := true } else nd'
          s.nodeSend l n x nd' ((List.range (r.npath + 1)).map fun o => (o, t))
        | none =>
          match nd.head 1 with
          | none => s
          | some v =>
            match v.ctl?, v.num with
            | some .eos, _ => s.nodeFault l n x r .shape [0]
            | some _, _ => s.nodeFault l n x r .shape [1]
            | none, some k =>
              if r.npath < k then s.nodeFault l n x r .shape [0, 1]
              else s.nodeSend l n x (nd.popAll [0, 1]) [(k, t)]
            | none, none => s.nodeFault l n x r .shape [0, 1]

/-- The heads of paths 0 to `np` of a merge. -/
def Node.paths (n : Node) (np : Nat) : List (Nat × Endpoint) := (List.range (np + 1)).map fun k => (k, n.inp k)

/-- The path whose data token arrived first; in one cycle the lowest path (R33). -/
def firstPath : List (Nat × Endpoint) → Option (Nat × Nat)
  | [] => none
  | (k, e) :: t =>
    if e.headData then
      match firstPath t with
      | some (c, q) => if e.headStamp ≤ c then some (e.headStamp, k) else some (c, q)
      | none => some (e.headStamp, k)
    else firstPath t

/-- What the heads of a merge's paths ask for (R26, R27, R33): nothing yet, a control token to forward with the paths that
give theirs up, or F_SHAPE on the head of a path. -/
inductive MergeAct where
  | none
  | send (k : Ctl) (paths : List Nat)
  | bad (path : Nat)
  deriving DecidableEq, Repr

/-- EOS at some paths: STRICT faults on the lowest path that shows anything else, PAD goes on with the others (R27). Two
control kinds at the heads fault on the lowest path that differs from the first of them (R26). A control token is
forwarded once it stands on every path, or under PAD on every path that is not at EOS (R27, R33). -/
def mergeCtl (eosp : Nat) (ps : List (Nat × Endpoint)) : MergeAct :=
  let live := ps.filter fun (_, e) => decide (e.headCtl ≠ some .eos)
  let ctls := live.filterMap fun (k, e) => e.headCtl.map fun c => (k, c)
  let shown := live.find? fun (_, e) => !e.slots.isEmpty
  if live.isEmpty then .send .eos (ps.map (·.1))
  else if live.length < ps.length ∧ eosp ≠ 2 then
    match shown with
    | some (k, _) => if eosp = 0 then .bad k else .none
    | none => .none
  else match ctls with
    | [] => .none
    | (_, c) :: t =>
      match t.find? fun q => decide (q.2 ≠ c) with
      | some (k, _) => .bad k
      | none => if ctls.length = live.length then .send c (live.map (·.1)) else .none

/-- The channel that ends at a node's input. -/
def Launch.nodeIn (x : Launch) (n k : Nat) : Option ChanRec :=
  x.img.chans.find? fun r => decide (r.ckind = 1) && decide (r.cons = n) && decide (r.cep = k)

/-- A token of a shape whose every lane holds one value: what stands for a token that an input at EOS would have supplied
(R27). -/
def identToken (shape : Option Nat) (v : W64) (t : ETy) : Token :=
  match shape with
  | some 1 => .data ⟨.vector, mkLanes fun _ => v, t, allOnes⟩
  | some 2 => .data ⟨.mask, [v], t, 1#64⟩
  | _ => .data ⟨.scalar, [v], t, 1#64⟩

/-- The replacement on path `k` of a merge under PAD: its tag is that of the data token at the head of the lowest path that
shows one; where none does, I64: DESIGN CHOICE (assumption 42). -/
def NodeRec.pad (r : NodeRec) (x : Launch) (n k : Nat) (ps : List (Nat × Endpoint)) : Token :=
  let tag : Option ETy := ps.findSome? fun (_, e) => match e.slots with
    | (_, .data d) :: _ => some d.tag
    | _ => none
  identToken ((x.nodeIn n k).map (·.shape)) r.ident (tag.getD .i64)

/-- MERGE_NODE (R33, R27). In STEER mode a merge whose steering input shows EOS while data stands on a path waits for the control
tokens of its paths, and faults nothing; a steering value that names no path of the node raises F_SHAPE, and HRESUME removes that
steering token alone: DESIGN CHOICE both (assumption 42). -/
def State.mergeStep (s : State) (l n : Nat) : State :=
  match s.nodeReady l n with
  | none => s
  | some (x, r, nd) =>
    if r.nkind ≠ 1 then s
    else
      let st := r.npath + 1
      if nd.eosOut then (if (nd.inp st).slots.isEmpty then s else s.setNode l n (nd.dropToEos st))
      else
        let ps := nd.paths r.npath
        let drain := decide (r.eosp = 1) && (ps.any fun (_, e) => decide (e.headCtl = some .eos))
        if drain && (ps.any fun (_, e) => !e.slots.isEmpty && decide (e.headCtl ≠ some .eos)) then
          s.setNode l n (ps.foldl (fun nd (k, _) =>
            { nd with ins := Store.set nd.ins k { nd.inp k with
                slots := (nd.inp k).slots.dropWhile fun (_, t) => decide (t.ctl? ≠ some .eos) } }) nd)
        else match mergeCtl r.eosp ps with
          | .bad k => s.nodeFault l n x r .shape [k]
          | .send k ks =>
            let nd' := nd.popAll ks
            let nd' := if k = .eos then { (if r.mode then nd'.dropToEos st else nd') with eosOut := true } else nd'
            s.nodeSend l n x nd' [(0, .ctl k)]
          | .none =>
            if !r.mode then
              match firstPath ps with
              | none => s
              | some (_, k) =>
                match nd.head k with
                | some t => s.nodeSend l n x (nd.pop k) [(0, t)]
                | none => s
            else match nd.head st with
              | none => s
              | some v =>
                match v.ctl?, v.num with
                | some .eos, _ => s
                | some _, _ => s.nodeFault l n x r .shape [st]
                | none, none => s.nodeFault l n x r .shape [st]
                | none, some k =>
                  if r.npath < k then s.nodeFault l n x r .shape [st]
                  else match nd.head k with
                    | some t =>
                      if t.ctl? = some .eos ∧ r.eosp = 2 then s.nodeSend l n x (nd.pop st) [(0, r.pad x n k ps)]
                      else if t.ctl?.isSome then s
                      else s.nodeSend l n x (nd.popAll [k, st]) [(0, t)]
                    | none => s

/-- FILTER_NODE (R34). A data token that finds EOS at the predicate input raises F_SHAPE as R32 has it for a steer node, and
HRESUME removes it: DESIGN CHOICE (assumption 42). -/
def State.filterStep (s : State) (l n : Nat) : State :=
  match s.nodeReady l n with
  | none => s
  | some (x, r, nd) =>
    if r.nkind ≠ 2 then s
    else if nd.eosOut then
      (if (nd.inp 1).slots.isEmpty then s else s.setNode l n (nd.dropToEos 1))
    else match nd.head 0 with
      | none => s
      | some t =>
        match t.ctl? with
        | some k =>
          let nd' := nd.pop 0
          let nd' := if k = .eos then { nd'.dropToEos 1 with eosOut := true } else nd'
          s.nodeSend l n x nd' [(0, t)]
        | none =>
          match nd.head 1 with
          | none => s
          | some v =>
            match v.ctl?, v.num with
            | some .eos, _ => s.nodeFault l n x r .shape [0]
            | some _, _ => s.nodeFault l n x r .shape [1]
            | none, none => s.nodeFault l n x r .shape [0, 1]
            | none, some k =>
              if k ≠ 0 then s.nodeSend l n x (nd.popAll [0, 1]) [(0, t)]
              else if r.mode then s.nodeSend l n x (nd.popAll [0, 1]) [(0, .null)]
              else s.setNode l n (nd.popAll [0, 1])

/-- DELAY_NODE (R36): the oldest token goes on where there is room; a new one comes in where the depth allows. -/
def State.delayStep (s : State) (l n : Nat) : State :=
  match s.nodeReady l n with
  | none => s
  | some (x, r, nd) =>
    if r.nkind ≠ 4 then s
    else
      let nd := match nd.head 0 with
        | some t => if nd.buf.length < r.depth + 1 then { nd.pop 0 with buf := nd.buf ++ [t] } else nd
        | none => nd
      match nd.buf with
      | t :: ts =>
        if s.roomFor l (x.outChans 1 n 0) t then
          s.nodeSend l n x { nd with buf := ts, eosOut := nd.eosOut || decide (t.ctl? = some .eos) } [(0, t)]
        else s.setNode l n nd
      | [] => s.setNode l n nd

/-! ### The intersect node (R35, R287) -/

/-- A coordinate token: its tag and value. -/
def Token.coord : Token → Option (ETy × W64)
  | .data d => some (d.tag, d.bits)
  | _ => none

/-- Whether a coordinate is above the last one of its fibre. -/
def rises (t : ETy) (last : Option W64) (v : W64) : Bool :=
  match last with
  | none => true
  | some q => decide (intOf t q < intOf t v)

/-- A fault of the heads of an intersect node: NULL, a tag that is no integer type, tags that differ, a coordinate that
does not rise; with the inputs whose heads it discards. -/
def isectBad (nd : Node) : Option (FCls × List Nat) :=
  let bad (k : Nat) (last : Option W64) : Option (FCls × List Nat) :=
    match nd.head k with
    | some .null => some (.shape, [k])
    | some (.data d) => if !tyInt d.tag then some (.type, [k]) else if rises d.tag last d.bits then none else some (.shape, [k])
    | _ => none
  match bad 0 nd.lastA, bad 1 nd.lastB with
  | some f, _ => some f
  | none, some f => some f
  | none, none =>
    match nd.head 0, nd.head 1 with
    | some (.data a), some (.data b) => if a.tag = b.tag then none else some (.type, [0, 1])
    | _, _ => none

def ordTok (n : Nat) : Token := .data ⟨.scalar, [BitVec.ofNat 64 n], .u64, 1#64⟩
def noOrd : Nat := 2 ^ 64 - 1

/-- The node after it has taken the coordinates of the inputs named. -/
def Node.takeCoord (nd : Node) (a b : Bool) : Node :=
  let va := (nd.head 0).bind Token.coord
  let vb := (nd.head 1).bind Token.coord
  let nd := if a then { nd.pop 0 with posA := nd.posA + 1, lastA := va.map (·.2) } else nd
  if b then { nd.pop 1 with posB := nd.posB + 1, lastB := vb.map (·.2) } else nd

/-- Whether a control kind ends a fibre. -/
def Ctl.isStop : Ctl → Bool
  | .stop0 | .stop1 | .stop2 | .stop3 => true
  | _ => false

/-- The node after a control token: a STOP ends the fibre, an EOS the stream. -/
def Node.afterCtl (nd : Node) (k : Ctl) : Node :=
  if k.isStop then { nd with posA := 0, posB := 0, lastA := none, lastB := none }
  else if k = .eos then { nd with eosOut := true } else nd

/-- Sends a coordinate with its ordinals. -/
def State.isectSend (s : State) (l n : Nat) (x : Launch) (nd : Node) (t : Token) (oa ob : Nat) : State :=
  s.nodeSend l n x nd [(0, t), (1, ordTok oa), (2, ordTok ob)]

/-- The input of an intersect node that shows a token other than EOS while the other stands at EOS (R27). -/
def Node.pastEos (nd : Node) : Option Nat :=
  let eos (k : Nat) : Bool := decide ((nd.inp k).headCtl = some .eos)
  if eos 0 && !eos 1 && (nd.head 1).isSome then some 1
  else if eos 1 && !eos 0 && (nd.head 0).isSome then some 0
  else none

/-- INTERSECT_NODE (R35, R287, R27). It judges the heads once both inputs show one, so that no arrival time decides. With EOS at
one input, STRICT faults on whatever the other shows, DRAIN discards it whatever it is, and PAD takes the input at EOS as empty
fibres. -/
def State.intersectStep (s : State) (l n : Nat) : State :=
  match s.nodeReady l n with
  | none => s
  | some (x, r, nd) =>
    if r.nkind ≠ 3 ∨ nd.eosOut ∨ (nd.head 0).isNone ∨ (nd.head 1).isNone then s
    else match nd.pastEos, r.eosp, isectBad nd with
      | some k, 0, _ => s.nodeFault l n x r .shape [k]
      | some k, 1, _ => s.setNode l n (nd.pop k)
      | _, _, some (cls, pops) => s.nodeFault l n x r cls pops
      | _, _, none =>
        let one (b : Bool) (t : Token) : State :=
          if r.mode then s.isectSend l n x (nd.takeCoord (!b) b) t (if b then noOrd else nd.posA) (if b then nd.posB else noOrd)
          else s.setNode l n (nd.takeCoord (!b) b)
        let ctl (k : Ctl) (ks : List Nat) : State :=
          s.nodeSend l n x ((nd.popAll ks).afterCtl k) [(0, .ctl k), (1, .ctl k), (2, .ctl k)]
        match nd.head 0, nd.head 1 with
        | some a, some b =>
          match a.ctl?, b.ctl? with
          | none, none =>
            match a.coord, b.coord with
            | some (t, va), some (_, vb) =>
              if intOf t va < intOf t vb then one false a
              else if intOf t vb < intOf t va then one true b
              else s.isectSend l n x (nd.takeCoord true true) a nd.posA nd.posB
            | _, _ => s
          | some ka, none =>
            if ka.isStop then one true b
            else if ka = .eos then one true b
            else s.nodeFault l n x r .shape [1]
          | none, some kb =>
            if kb.isStop then one false a
            else if kb = .eos then one false a
            else s.nodeFault l n x r .shape [0]
          | some ka, some kb =>
            if ka = kb then ctl ka [0, 1]
            else if ka = .eos then ctl kb [1]
            else if kb = .eos then ctl ka [0]
            else s.nodeFault l n x r .shape [0, 1]
        | _, _ => s

/-! ### Responses, timers, faults -/

/-- Whether the copy's end of an input's channel has a free place. -/
def State.inputFree (s : State) (pl : PlaneId) (ch : Nat) : Bool :=
  match s.actorOf pl with
  | some (_, x, _) =>
    match x.inChan (s.plane pl).actor ch with
    | some (ci, r) => decide (1 ≤ s.copyFree x ci r (s.plane pl).copy)
    | none => false
  | none => false

/-- A token arrives on an actor's input. -/
def State.arriveAt (s : State) (pl : PlaneId) (ch : Nat) (t : Token) : State :=
  match s.actorOf pl with
  | some (l, x, _) =>
    match x.inChan (s.plane pl).actor ch with
    | some (ci, r) => (s.arrive l x ci r (s.plane pl).copy t).settle pl
    | none => s
  | none => s

/-- RESPONSE_DELIVERY (R24, R57): the oldest response place of a channel, once it holds its token and the channel has a
free slot. -/
def State.respDeliver (s : State) (pl : PlaneId) (ch : Nat) : State :=
  match s.planeActs pl with
  | none => s
  | some _ =>
    match (s.plane pl).resp.find? fun q => decide (q.ch = ch) with
    | some q =>
      match q.tok with
      | some t =>
        if s.inputFree pl ch then
          (s.modPlane pl fun p => { p with resp := p.resp.erase q }).arriveAt pl ch t
        else s
      | none => s
    | none => s

/-- The first task of an actor that only lacks call-ring space (R248). -/
def State.lacksRing (s : State) (x : Launch) (a : ActorRec) (p : Plane) : Option Nat :=
  (a.tasks.zipIdx.find? fun (t, _) => !s.taskReady x a p t && s.taskReady x a { p with ring := [] } t).map (·.2)

/-- TIMER_DUE (R163, R248): the k-th pending timer of a plane. -/
def State.timerDue (s : State) (pl : PlaneId) (k : Nat) : State :=
  match s.planeActs pl, s.actorOf pl, (s.plane pl).timers[k]? with
  | some _, some (l, x, a), some (ch, due) =>
    if s.cycle x.glade < due ∨ !s.inputFree pl ch then s
    else
      let s' := s.modPlane pl fun p => { p with timers := p.timers.eraseIdx k }
      match (if a.dlin = some ch then s.lacksRing x a (s.plane pl) else none) with
      | some t =>
        let (fid, s') := s'.raise .svcBusy l (some pl) pl (.svc pl) 0 false 0 0 0 0 (BitVec.ofNat 64 (t % 8))
        if (s'.fault? fid).map (·.st) = some FSt.reported then s'.dropFault fid else s'
      | none => s'.arriveAt pl ch (.data ⟨.scalar, [due], .u64, 1#64⟩)
  | _, _, _ => s

/-- FAULT_DELIVERY (R334): the oldest fault token of the exception queue whose fault input has a free slot. -/
def State.faultDeliver (s : State) (g : Nat) : State :=
  let ok (f : FaultRec) : Bool := f.glade = g && decide (f.st = .queued) && (match f.input with
    | some (pl, ch) => s.inputFree pl ch && (s.planeActs pl).isSome && decide ((s.plane pl).launch = some f.lid)
    | none => false)
  match s.faults.find? ok with
  | some f =>
    match f.input with
    | some (pl, ch) =>
      ((s.modFault f.fid fun r => { r with st := .delivered }).refill g).arriveAt pl ch (.fault f.fid f.words)
    | none => s
  | none => s

/-! ### When elements are finished (R28, R290) -/

/-- Whether the matrix sequencer holds work of a plane (R290). -/
def State.matrixBusy (s : State) (pl : PlaneId) : Bool :=
  s.glades.any fun (_, g) => g.seqr.any fun m => decide (m.pl = pl)

/-- Whether an actor copy is finished (R28). -/
def State.actorDone (s : State) (pl : PlaneId) : Bool :=
  match s.actorOf pl with
  | none => true
  | some (_, _, a) =>
    let p := s.plane pl
    (p.eosTaken || a.aligned.isEmpty) && p.firing.isNone && p.aside.isNone && p.rq.isEmpty && p.resp.isEmpty
      && p.ring.isEmpty && p.timers.isEmpty && !s.matrixBusy pl && (s.copies.all fun c => decide (c.pl ≠ pl))
      && (List.range 16).all fun j => a.align.getLsbD j || (p.inp j).slots.isEmpty

/-- Whether a node is finished: it has forwarded EOS and holds no token. R28 says when an actor is: DESIGN CHOICE
(assumption 42). -/
def nodeDone (n : Node) : Bool := n.eosOut && n.buf.isEmpty && n.ins.all fun (_, e) => e.slots.isEmpty

/-- Whether a launch's graph is complete (R28). -/
def State.graphDone (s : State) (x : Launch) : Bool :=
  (x.planes.all fun pl => s.actorDone pl && (s.plane pl).outs.all fun (_, o) => o.hold.isEmpty && o.joinq.isEmpty)
    && ((List.range x.img.nodes.length).all fun n => nodeDone (Store.getD x.nodes n {}))
    && x.chans.all fun (_, c) => c.flight.all fun (_, ts) => ts.isEmpty

end Sys2Proof.Machine
end

