-- ==== Sys2Proof/Machine/Firing.lean ====
section
/-!
DEFINITION. Firings (01 R20 to R28): block fetch (07 R122 to R136), starting a firing, control steps, wave admission
(07 R129 to R131), commit (07 R132) with the effects of traps, blazes and handler actions (11 R242 to R247), and the end
of a firing.
-/
namespace Sys2Proof.Machine

/-! ### Block fetch (R122, R123, R133) -/

/-- Operand slots that an opcode uses, by the tables of R134; none for a code that is not assigned. The modifier bit of
SREL counts (its third operand). -/
def opUses (w : W32) : Option Nat :=
  let op := (w.extractLsb' 24 8).toNat
  let in_ (l : List Nat) : Bool := l.contains op
  if in_ [0x2A, 0x2C, 0x2D, 0x46, 0x10, 0x63, 0x64, 0x80, 0x83, 0x92, 0xC3] then some 3
  else if op = 0xCD then some (if w.getLsbD 0 then 3 else 2)
  else if in_ [0x0F, 0x20, 0x21, 0x23, 0x24, 0x25, 0x26, 0x27, 0x28, 0x29, 0x2B, 0x30, 0x31, 0x32, 0x33, 0x35, 0x36, 0x37,
    0x38, 0x39, 0x45, 0x47, 0x48, 0x49, 0x4A, 0x60, 0x61, 0x62, 0x65, 0x66, 0x69, 0x73, 0x74, 0x75, 0x76, 0x77, 0x78,
    0x79, 0x7C, 0x7D, 0x7E, 0x7F, 0x82, 0x84, 0x85, 0x8B, 0x8C, 0x8F, 0x90, 0xA0, 0xA1, 0xA6, 0xA3, 0xB1, 0xB3, 0xBC,
    0xBD, 0xBE, 0xBF, 0xC0, 0xC1, 0xC2, 0xCF, 0xB5, 0xB8, 0xB9, 0xC4, 0xC5, 0xC6, 0xC7, 0xC8, 0xC9, 0xCA, 0xCC, 0xCE,
    0xD3, 0xD5, 0xE2, 0xF2] then some 2
  else if in_ [0x04, 0x06, 0x08, 0x0A, 0x0C, 0x16, 0x12, 0x2E, 0x2F, 0x34, 0x40, 0x41, 0x42, 0x43, 0x44, 0x4B, 0x4C, 0x22,
    0x3A, 0x3B, 0x3C, 0x3D, 0x3E, 0x3F, 0x67, 0x68, 0x6A, 0x6B, 0x6C, 0x6D, 0x6E, 0x6F, 0x70, 0x71, 0x72, 0x7A, 0x7B,
    0x81, 0x86, 0x87, 0x88, 0x89, 0x8A, 0x8D, 0x8E, 0x91, 0xA2, 0xB0, 0xB2, 0xB4, 0xB6, 0xB7, 0xBB, 0xCB, 0xD6, 0xD7,
    0xBA, 0xD1, 0xD4, 0xD8, 0xD9, 0xDA, 0xE0, 0xE1, 0xE3, 0xE4, 0xE5, 0xF5, 0xF7] then some 1
  else if in_ [0x01, 0x0E, 0x17, 0x02, 0x03, 0x18, 0x05, 0x07, 0x09, 0x0B, 0x0D, 0x11, 0x13, 0x19, 0x14, 0x15, 0xA4, 0xA5,
    0xD0, 0xD2, 0xF0, 0xF3, 0xF4, 0xF1, 0xF6, 0xF8, 0xF9] then some 0
  else none

/-- Why a block is rejected: the class, the code of its fault (bit 0 set when charged to the header), the slot, INFO. -/
structure Refused where
  cls : FCls
  code : Nat
  slot : Nat
  info : W64
  deriving DecidableEq, Repr

/-- The slot that a target names. -/
def tgtSlot : Tgt → Option Nat
  | .none => none
  | .a s | .b s | .c s | .p s => some s.toNat

/-- Whether a target may be named by an instruction of slot `own` (R125, R126). -/
def tgtOk (words : List W32) (own : Nat) (t : Tgt) : Bool :=
  match tgtSlot t with
  | none => true
  | some s =>
    match words[s]? with
    | none => false
    | some w =>
      decide (s ≠ own) && match t with
        | .none => true
        | .a _ => (opUses w).any fun n => decide (1 ≤ n)
        | .b _ => (opUses w).any fun n => decide (2 ≤ n)
        | .c _ => (opUses w).any fun n => decide (3 ≤ n)
        | .p _ => decide (w.extractLsb' 22 2 ≠ 0#2)

/-- Step 3 of R133 for one slot: the word decodes, its targets are good, a SEQ lies below NSEQ, a CONST index below NC. -/
def slotOk (words : List W32) (nseq nc : Nat) (own : Nat) (w : W32) : Bool :=
  match decodeTile w with
  | .error _ => false
  | .ok i =>
    (tgtsOf i).all (tgtOk words own)
      && (match linkOf i with | some lk => decide (lk.seq.toNat < nseq) | none => true)
      && (match i with | .const _ k _ => decide (k.toNat < nc) | _ => true)

/-- The instructions of a block that step 3 has passed. -/
def blockInstrs (words : List W32) : List Instr :=
  words.map fun w => match decodeTile w with | .ok i => i | .error _ => .nop .always

/-- The first slot whose SEQ an earlier slot carries. -/
def seqRepeat : List (Nat × Instr) → List Nat → Option Nat
  | [], _ => none
  | (k, i) :: t, seen =>
    match linkOf i with
    | some lk => if seen.contains lk.seq.toNat then some k else seqRepeat t (lk.seq.toNat :: seen)
    | none => seqRepeat t seen

/-- The predicate modes of the instructions that name a slot's operand or predicate, one for each naming. -/
def namers (is : List Instr) (t : Tgt) : List PR :=
  (is.map fun i => ((tgtsOf i).filter fun q => decide (q = t)).map fun _ => prOf i).flatten

/-- Named by exactly one target, or by one complementary pair (R43, R127). -/
def fedOnce (ps : List PR) : Bool :=
  match ps with
  | [_] => true
  | [.onTrue, .onFalse] => true
  | [.onFalse, .onTrue] => true
  | _ => false

/-- The lowest slot whose operands or predicate are not each fed once (R127). -/
def badFeed (is : List Instr) : Option Nat :=
  (is.zipIdx.find? fun (i, k) =>
    let s : BitVec 6 := BitVec.ofNat 6 k
    let n := usesOf i
    !((n < 1 || fedOnce (namers is (.a s))) && (n < 2 || fedOnce (namers is (.b s))) && (n < 3 || fedOnce (namers is (.c s)))
      && (decide (prOf i = .always) || fedOnce (namers is (.p s))))).map (·.2)

/-- BLOCK FETCH, the one shared operation (R133): reads and checks the block at an address of a plane's share, in the
order of R133. A header word outside the share is read where it stands, modulo 2^16, so that its fields are tested first. -/
def State.fetch (s : State) (pl : PlaneId) (a : BitVec 16) : Except Refused BlockRun :=
  let p := s.plane pl
  let tile := tileIx pl.col pl.row
  let at_ := a.toNat
  let share (n : Nat) : Bool := decide (p.shBase ≤ at_) && decide (at_ + n ≤ p.shBase + p.shSize)
  let prot : Refused := { cls := .prot, code := 0, slot := 0, info := a.setWidth 64 }
  let head : Refused := { cls := .blockIllegal, code := 1, slot := 0, info := 0#64 }
  let bad (k : Nat) : Refused := { cls := .blockIllegal, code := 0, slot := k, info := 0#64 }
  let word (i : Nat) : W32 := BitVec.ofNat 32 (leNat (Memory.readBytes s.mem (localKey tile (at_ + 4 * i)) 4))
  let h := (word 0).toNat
  let nexit := bitsOf h 18 16
  let nc := bitsOf h 15 12
  let nseq := bitsOf h 11 6
  let ni := bitsOf h 5 0 + 1
  if bitsOf h 31 24 ≠ 0xB5 ∨ bitsOf h 23 20 ≠ 1 ∨ bitsOf h 19 19 ≠ 0 ∨ 32 < nseq then .error head
  else
    let body := (1 + ni + 1) / 2 * 8
    let len := body + 8 * nc
    if !share len then .error prot
    else
      let words := (List.range ni).map fun i => word (i + 1)
      match words.zipIdx.find? fun (w, k) => !slotOk words nseq nc k w with
      | some (_, k) => .error (bad k)
      | none =>
        let is := blockInstrs words
        if ni % 2 = 0 ∧ word (ni + 1) ≠ 0#32 then .error head
        else if (is.filter fun i => decide (classOf i = .exit)).length ≠ nexit + 1 then .error head
        else if (is.filter fun i => (linkOf i).isSome).length ≠ nseq then .error head
        else match seqRepeat (is.zipIdx.map fun (i, k) => (k, i)) [] with
          | some k => .error (bad k)
          | none =>
            match badFeed is with
            | some k => .error (bad k)
            | none =>
              .ok { words := words, len := len, waves := List.replicate nseq .opened,
                    consts := (List.range nc).map fun i =>
                      le64 (Memory.readBytes s.mem (localKey tile (at_ + body + 8 * i)) 8) }

/-- Fetches the block that the plane's firing stands at and maps it; a rejected block stops the firing (R133). Nothing
is fetched while the launch waits for a page (R323): the firing then stands between blocks until BLOCK_FETCH. -/
def State.mapBlock (s : State) (pl : PlaneId) : State :=
  match (s.plane pl).firing with
  | none => s
  | some f =>
    if !s.planeGoes pl then s
    else match s.fetch pl f.block with
    | .ok r => s.modPlane pl fun p => { p with firing := some { f with run := some r, st := .running } }
    | .error e => s.blockFault pl e.cls e.code e.slot e.info

/-! ### Starting a firing (R21, R22, R25, R27) -/

/-- The tag of the data token that stands in place `n` on the lowest-numbered aligned input that holds one (R27); where none
holds one there (NULL tokens only), I64: DESIGN CHOICE (assumption 42). -/
def padTag (a : ActorRec) (p : Plane) (n : Nat) : ETy :=
  ((a.aligned.filterMap fun k =>
    if (p.inp k).headCtl = some .eos then none
    else match (p.inp k).slots[n]? with
      | some (_, .data d) => some d.tag
      | _ => none).head?).getD .i64

/-- The token that stands for one that an input at EOS would have supplied (R27). -/
def padToken (x : Launch) (a : ActorRec) (p : Plane) (j n : Nat) : Token :=
  identToken ((x.inChan p.actor j).map fun (_, r) => r.shape) a.ident (padTag a p n)

/-- The tokens that a data task's firing consumes on an input (R21, R27). -/
def taskTokens (x : Launch) (a : ActorRec) (p : Plane) (t : TaskRec) (j : Nat) : List Token :=
  let c := t.irate.getD j 0
  if padded a p j then (List.range c).map fun n => padToken x a p j n
  else ((p.inp j).slots.take c).map (·.2)

/-- Starts a firing on a plane; an overflow of event 7 names slot 0, since no instruction starts a firing: DESIGN CHOICE
(assumption 42). A firing that a fault or trap has stopped stands aside while a fault task runs (R336). -/
def State.startFiring (s : State) (pl : PlaneId) (f : Firing) : State :=
  let s := s.modPlane pl fun p => { p with firing := some f, aside := if p.firing.isSome then p.firing else p.aside }
  let s := match f.fid with
    | some fid => s.modFault fid fun r => { r with st := .taken }
    | none => s
  (s.count pl 7 f.block 0).mapBlock pl

/-- TASK_FIRING (R21): the task that R21 chooses starts at its entry block. -/
def State.taskFiring (s : State) (pl : PlaneId) : State :=
  match s.actorOf pl with
  | none => s
  | some (_, x, a) =>
    let p := s.plane pl
    match s.choose x a pl p with
    | some (.task ix) =>
      match a.tasks[ix]? with
      | none => s
      | some t =>
        let cons := ((List.range 16).filter fun j => decide (t.irate.getD j 0 ≠ 0)).map fun j => (j, taskTokens x a p t j)
        let fid := if a.isFaultTask t then
            match (cons.find? fun (j, _) => decide (j = t.bind)).bind fun (_, ts) => ts.head? with
            | some (.fault n _) => some n
            | _ => none
          else none
        s.startFiring pl { task := ix, kind := t.kind, block := t.entry, consumed := cons, fid := fid }
    | _ => s

/-- Ends an EOS step or a control step: the inputs named give up their head (R25, R27). -/
def State.popCtl (s : State) (pl : PlaneId) (k : Ctl) (ins : List Nat) : State :=
  s.modPlane pl fun p =>
    let p := ins.foldl (fun p j => { p with ins := Store.set p.ins j { p.inp j with slots := (p.inp j).slots.drop 1 } }) p
    { p with eosTaken := p.eosTaken || decide (k = .eos) }

/-- CONTROL_STEP (R25, R27): with a control task, that task fires on the head control tokens; without one, a control
token of that kind goes out on every output and the aligned inputs give theirs up, and the step counts as a firing
(R21, R250); an overflow of event 7 then names block 0 and slot 0: DESIGN CHOICE (assumption 42). -/
def State.controlStep (s : State) (pl : PlaneId) : State :=
  match s.actorOf pl with
  | none => s
  | some (_, x, a) =>
    let p := s.plane pl
    match s.choose x a pl p with
    | some (.step k ins) =>
      match a.tasks.zipIdx.find? fun (t, _) => decide (t.kind = .control) with
      | some (t, ix) =>
        let cons := a.aligned.map fun j => (j, [Token.ctl (if ins.contains j then k else .eos)])
        s.startFiring pl { task := ix, kind := .control, block := t.entry, consumed := cons }
      | none =>
        let s := (x.outsOf p.actor).foldl (fun s o => s.sendOut pl o (.ctl k)) s
        ((s.popCtl pl k ins).count pl 7 0#16 0).settle pl
    | _ => s

/-! ### The end of a firing (R22, R23, R161) -/

/-- Sends a response token on a channel of a plane, through a response place of its own (R217, R219). -/
def State.respond (s : State) (pl : PlaneId) (ch : Nat) (t : Token) : State :=
  let (rid, s) := s.fresh
  s.modPlane pl fun p => { p with resp := p.resp ++ [{ rid := rid, ch := ch, tok := some t }] }

/-- A promise goes out on a channel of a plane of a launch, on its planes or scanned out. -/
def State.promiseTo (s : State) (l : Nat) (pl : PlaneId) (ch : Nat) (due : W64) : State :=
  s.onPlane pl l fun s => s.respond pl ch (.data ⟨.scalar, [due], .u64, 1#64⟩)

/-- The new promise that a copy engine computed at a miss goes out, also where the copy has completed since (R343). -/
def State.sendPromise (s : State) (f : FaultRec) : State :=
  match f.src with
  | .promise pl ch cid due =>
    (s.modCopy cid fun c => if c.owed then { c with owed := false, missed := true } else c).promiseTo f.lid pl ch due
  | _ => s

/-- A fault token that no handler acts on: the default action of its class (R246, R335). -/
def State.unhandled (s : State) (fid : Nat) : State :=
  match s.fault? fid with
  | none => s
  | some f =>
    match f.cls with
    | .streamStall | .svcBusy => s.dropFault fid
    | .parkFull =>
      match f.src with
      | .request pl rid => (s.setReq pl rid .tableFull).dropFault fid
      | .copy cid => (s.modCopy cid fun c => { c with fault := none }).dropFault fid
      | _ => s.dropFault fid
    | .promiseMissed => (s.dropFault fid).sendPromise f
    | _ => (s.modFault fid fun r => { r with st := .reported }).defaultAction f

/-- The inputs that give up tokens when a firing ends, and how many. -/
def Firing.takes (f : Firing) (p : Plane) : List (Nat × Nat) :=
  match f.kind with
  | .control =>
    let eos := f.consumed.all fun (_, ts) => decide (ts = [.ctl .eos])
    (f.consumed.filter fun (_, ts) => eos || decide (ts ≠ [.ctl .eos])).map fun (j, _) => (j, 1)
  | _ => (f.consumed.filter fun (j, _) => decide ((p.inp j).headCtl = none)).map fun (j, ts) => (j, ts.length)

/-- NULL tokens that make up an output's rate (R23). -/
def State.padOut (s : State) (pl : PlaneId) (f : Firing) : State :=
  match s.actorOf pl, f.kind with
  | _, .control => s
  | none, _ => s
  | some (_, _, a), _ =>
    match a.tasks[f.task]? with
    | none => s
    | some t =>
      (List.range 16).foldl (fun s o =>
        (List.range (t.orate.getD o 0 - Store.getD f.sent o 0)).foldl (fun s _ => s.sendOut pl o .null) s) s

/-- The firing ends: padding, consumed tokens leave, an unhandled fault takes its default action. -/
def State.endCore (s : State) (pl : PlaneId) : State :=
  match (s.plane pl).firing with
  | none => s
  | some f =>
    let s := s.padOut pl f
    let s := s.modPlane pl fun p =>
      let p := (f.takes p).foldl (fun p (j, n) =>
        { p with ins := Store.set p.ins j { p.inp j with slots := (p.inp j).slots.drop n } }) p
      let eos : Bool := decide (f.kind = .control) && f.consumed.all fun (_, ts) => decide (ts = [.ctl .eos])
      { p with firing := p.aside, aside := none, eosTaken := p.eosTaken || eos }
    match f.fid with
    | some fid => if f.acted then s else s.unhandled fid
    | none => s

/-- Ends the firing; one that stood aside comes back, and goes on if its fault or trap has been resolved (R22, R336). -/
def State.endFiring (s : State) (pl : PlaneId) : State :=
  let s := s.endCore pl
  match (s.plane pl).firing with
  | some f =>
    match f.st, f.run with
    | .running, none => if f.ending then (s.endCore pl).settle pl else (s.mapBlock pl).settle pl
    | _, _ => s.settle pl
  | none => s.settle pl

/-! ### Actions on faults (R75, R200, R234, R245, R246, R334, R343) -/

/-- A stopped firing goes on: between two blocks, or yielding as its last block's PYIELD has it (R160). -/
def Firing.goes (f : Firing) : Firing :=
  { f with run := none, yields := none, st := match f.yields with | some (ready, since) => .yielding ready since | none => .running }

/-- The firing of a plane, which goes on, fetches its next block, ends or yields. -/
def State.goNext (s : State) (pl : PlaneId) (f : Firing) : State :=
  let s := s.modPlane pl fun p => { p with firing := some f.goes }
  if f.ending then s.endFiring pl else if f.yields.isSome then s else s.mapBlock pl

/-- A stopped firing of a plane goes on: a faulted one fetches its block again, a trapped one its successor. -/
def State.goOn (s : State) (pl : PlaneId) (fid : Nat) : State :=
  let p := s.plane pl
  let mine (f : Firing) : Option Firing :=
    match f.st with
    | .faulted n | .trapped n => if n = fid then some f else none
    | _ => none
  match p.aside.bind mine with
  | some f => s.modPlane pl fun p => { p with aside := some f.goes }
  | none => match p.firing.bind mine with
    | some f => s.goNext pl f
    | none => s

/-- Restores the budget of the record of a request and tries it at once (R75). -/
def State.resumeRecord (s : State) (pl : PlaneId) (rid : Nat) : State :=
  match (s.glades.map fun (_, g) => g.park.filter fun r => decide (r.pl = pl) && decide (r.rid = rid) && r.fid.isSome).flatten with
  | r :: _ =>
    let left : Nat := if r.form = 4 then
        match s.copies.find? fun c => decide (c.cid = rid) with
        | some c => c.budget.toNat
        | none => r.left
      else (s.plane pl).budget.toNat
    let r' : ParkRec := { r with left := left, fid := none }
    let s := s.modGlade r.glade fun g => { g with park := g.park.map fun q => if q = r then r' else q }
    let s := if r.form = 4 then s else s.setReq pl rid .parked
    match s.tryRec r' with
    | some (s, ws) => s.wake ws
    | none => s
  | [] => s

/-- Whether a request has a park record. -/
def State.hasRecord (s : State) (pl : PlaneId) (rid : Nat) : Bool :=
  s.glades.any fun (_, g) => g.park.any fun r => decide (r.form ≠ 4) && decide (r.pl = pl) && decide (r.rid = rid)

/-- RESUMING WORK AFTER A FAULT (R246), the one shared operation: what HRESUME does for each source of a fault. -/
def State.resumeFault (s : State) (fid : Nat) : State :=
  match s.fault? fid with
  | none => s
  | some f =>
    let s := s.dropFault fid
    match f.src with
    | .firing pl => s.goOn pl fid
    | .trap pl => s.goOn pl fid
    | .input pl => s.modPlane pl fun p =>
        match s.actorOf pl with
        | some (_, _, a) => { p with ins := Store.mapV (fun j e => if a.align.getLsbD j then e
            else { e with slots := e.slots.filter fun (_, t) => t.ctl?.isNone }) p.ins }
        | none => p
    | .request pl rid => if s.hasRecord pl rid then s.resumeRecord pl rid else s.setReq pl rid .waiting
    | .stall _ _ => s
    | .svc _ => s
    | .node l n => s.modLaunch l fun x =>
        let nd := Store.getD x.nodes n {}
        { x with nodes := Store.set x.nodes n { nd.popAll nd.faultPops with fault := none, faultPops := [] } }
    | .matrix g mid => s.modGlade g fun y =>
        { y with seqr := y.seqr.map fun m =>
            if m.mid = mid then
              (match f.cls with
               | .page | .prot => { m with st := if m.region.isSome then .running else .queued }
               | _ => { m with st := .completed, bad := true })
            else m }
    | .copy cid =>
      let s := { s with copies := s.copies.map fun (c : CopyJob) => if c.cid = cid then { c with fault := none } else c }
      match s.copies.find? fun c => decide (c.cid = cid) with
      | some c => s.resumeRecord c.pl cid
      | none => s
    | .promise _ _ _ _ => s.sendPromise f
    | .launch _ | .other => s

/-- REPAIR at commit (R245): the response place is filled, the request and its record go, the stream issues again. -/
def State.repairFault (s : State) (fid : Nat) (t : Token) : State :=
  match s.fault? fid with
  | none => s
  | some f =>
    match f.src with
    | .request pl rid => (((s.unpark pl rid).fillPlace pl rid t).retire pl rid).dropFault fid
    | _ => s.dropFault fid

/-! ### Wave admission (R130, R201, R202) -/

/-- Whether a wave-ordered instruction's links let it be admitted now. -/
def BlockRun.linkMet (r : BlockRun) (lk : Link) : Bool :=
  let notOpen (t : Nat) : Bool := decide (r.waves.getD t .opened ≠ .opened)
  let sq := lk.seq.toNat
  if lk.pdl = 15#4 then (List.range sq).all notOpen
  else decide (lk.pdl = 0#4) || notOpen (sq - lk.pdl.toNat)

/-- The waves that an admission passes over (R130). -/
def BlockRun.span (r : BlockRun) (lk : Link) : List Nat :=
  let sq := lk.seq.toNat
  let lo := if lk.pdl = 0#4 then 0 else sq + 1 - lk.pdl.toNat
  let hi := if lk.sdl = 0#4 then r.waves.length else sq + lk.sdl.toNat
  (List.range (min hi r.waves.length)).filter fun t => decide (lo ≤ t) && decide (t ≠ sq)

/-- The block's stores so far, laid over some bytes (R131). -/
def BlockRun.forward (r : BlockRun) (key : Nat) (bs : List Byte) : List Byte :=
  r.effs.foldl (fun cur (_, e) => match e with
    | .lstore a d => overlay key cur a d
    | _ => cur) bs

/-- The neighbour of a tile: N, E, S, W (R5, R201). -/
def neighbour (col row d : Nat) : Option (Nat × Nat) :=
  match d with
  | 0 => if row = 0 then none else some (col, row - 1)
  | 1 => if col = 95 then none else some (col + 1, row)
  | 2 => if row = 63 then none else some (col, row + 1)
  | _ => if col = 0 then none else some (col - 1, row)

/-- Whether a memory tile's SRAM is in FIFO mode: a resident launch keeps a FIFO stream, a FIFO extension or a delay
buffer there (R202, R264, R265, R50). -/
def State.fifoTile (s : State) (col row : Nat) : Bool :=
  s.launches.any fun (_, x) => x.plane.isSome && (
    (x.streams.any fun st => st.sr.isFifo && decide (firstCol x.glade + bitsOf st.sr.base 31 25 = col)
        && decide (bitsOf st.sr.base 24 19 = row))
    || (x.img.chans.any fun r => decide (r.fifo ≠ 0) && decide (firstCol x.glade + r.fcol = col) && decide (r.frow = row))
    || (x.img.nodes.any fun r => decide (r.nkind = 4) && decide (firstCol x.glade + r.col = col) && decide (r.row = row)))

/-- Whether a memory tile's SRAM is in cache-bank mode: it serves a bank of some glade (R202). -/
def State.bankTile (s : State) (col row : Nat) : Bool := s.bankMap.any fun b => decide (b.tile = tileIx col row)

/-- The key of a local access, or `none` where it raises F_PROT (R13, R202). -/
def State.localAt (s : State) (pl : PlaneId) (nb st : Bool) (a : W64) (n : Nat) : Option Nat :=
  let p := s.plane pl
  if nb then
    let off := bitsOf a.toNat 18 0
    let d := bitsOf a.toNat 20 19
    match neighbour pl.col pl.row d with
    | none => none
    | some (c, w) =>
      if 2 ^ 19 < off + n ∨ !p.nbr.getLsbD d ∨ s.fifoTile c w ∨ s.bankTile c w then none else some (sramKey (tileIx c w) off)
  else
    let off := bitsOf a.toNat 15 0
    if off < p.shBase ∨ p.shBase + p.shSize < off + n ∨ (st = true ∧ off < p.roEnd) then none
    else some (localKey (tileIx pl.col pl.row) off)

/-- The value of a local load (R201). -/
def localVal (wd : Width) (bs : List Byte) : Val :=
  if widVec wd then
    let ws := wordsOf (widWords wd) bs
    vecVal (mkLanes fun j => ws.getD j 0#64) .u64 (prefMask (widWords wd))
  else
    let t : ETy := match wd with | .b => .u8 | .h => .u16 | .w => .u32 | _ => .u64
    scalarVal (BitVec.ofNat 64 (leNat bs)) t

/-- A wave that is admitted acts: a local access is performed, any other joins the sequence (R131). -/
def State.admitWave (s : State) (pl : PlaneId) (r : BlockRun) (w : Wave) : State :=
  let r := { r with seq := r.seq ++ [w.slot] }
  match w.lcl with
  | none => s.setRun pl { r with effs := r.effs ++ [(w.slot, .request w.req)] }
  | some (nb, st) =>
    let n := widBytes w.req.wd
    match s.localAt pl nb st w.req.a n with
    | none => s.blockFault pl .prot 0 w.slot (vaInfo w.req.a)
    | some key =>
      if st then s.setRun pl { r with effs := r.effs ++ [(w.slot, .lstore key w.req.data)] }
      else
        let v := localVal w.req.wd (r.forward key (Memory.readBytes s.mem key n))
        match r.put (.a (BitVec.ofNat 6 w.tgt), v) with
        | some r' => s.setRun pl r'
        | none => s.blockFault pl .blockIllegal 0 w.slot 0#64

/-- WAVE_ADMISSION (R130) of the fired instruction of a slot: one that was skipped while it waited is admitted all the same,
since its state was tested when it fired. -/
def State.waveAdmit (s : State) (pl : PlaneId) (slot : Nat) : State :=
  match (s.plane pl).firing.bind (·.run) with
  | none => s
  | some r =>
    match r.pend.find? fun w => decide (w.slot = slot) with
    | none => s
    | some w =>
      let sq := w.lk.seq.toNat
      if !s.planeGoes pl || !r.linkMet w.lk then s
      else
        let span := r.span w.lk
        if span.any fun t => decide (r.waves.getD t .opened = .admitted) then s.blockFault pl .blockIllegal 0 slot 0#64
        else
          let r := span.foldl (fun r t => if r.waves.getD t .opened = .opened then r.setWave t .skipped else r) r
          s.admitWave pl { r.setWave sq .admitted with pend := r.pend.filter fun q => decide (q.slot ≠ slot) } w

/-! ### Commit (R132) -/

/-- Whether every output of the block has fired or been nullified and the wave sequence is complete. -/
def BlockRun.outsDone (r : BlockRun) : Bool :=
  r.pend.isEmpty && (r.waves.all fun w => decide (w ≠ .opened))
    && (blockInstrs r.words).zipIdx.all fun (i, k) =>
      match classOf i with
      | .out | .wave => r.done.contains k
      | _ => true

/-- Whether some instruction can still fire or be admitted (R45). -/
def BlockRun.canMove (r : BlockRun) : Bool :=
  r.anyMoves || r.pend.any fun w => r.linkMet w.lk

/-- Inserts by slot, after entries of the same slot. -/
def insEff (e : Nat × Eff) : List (Nat × Eff) → List (Nat × Eff)
  | [] => [e]
  | q :: t => if e.1 < q.1 then e :: q :: t else q :: insEff e t
def sortEffs (l : List (Nat × Eff)) : List (Nat × Eff) := l.foldl (fun acc e => insEff e acc) []

/-- Whether an effect belongs to the wave sequence. -/
def Eff.isWave : Eff → Bool
  | .lstore _ _ | .request _ => true
  | _ => false

/-- The eight words of a command record in a plane's share; none where the record does not lie in it (R215, R224). -/
def State.recordAt (s : State) (pl : PlaneId) (a : W64) : List W64 :=
  match s.localAt pl false false a 64 with
  | some key => wordsOf 8 (Memory.readBytes s.mem key 64)
  | none => []

/-- The form of a request as a number, for the record that a twin run retains. -/
def ReqKind.code : ReqKind → Nat
  | .st => 1 | .stf => 2 | .sts => 3 | .fempty => 4 | .ldc => 5
  | .atom op d => 16 + 2 * (match op with | .add => 0 | .and => 1 | .or => 2 | .xor => 3 | .min => 4 | .max => 5 | .swap => 6 | .cas => 7)
      + (if d then 1 else 0)
  | .upd op d => 32 + 2 * (match op with | .add => 0 | .and => 1 | .or => 2 | .xor => 3 | .min => 4 | .max => 5 | .fadd => 6)
      + (if d then 1 else 0)
  | _ => 0

/-- In a twin run, a store-like or update request is retained: form, address, width and data (R372). -/
def State.twinLog (s : State) (pl : PlaneId) (r : Req) : State :=
  match s.fo.twin, (s.plane pl).launch with
  | some t, some l =>
    if (t.pairs.any fun (a, b) => decide (a = l ∨ b = l)) && (r.kind.storeLike || r.kind.isUpd) then
      let p := s.plane pl
      let bs := toLE 1 r.kind.code ++ toLE 8 r.a.toNat ++ toLE 1 (widBytes r.wd % 256) ++ toLE 8 r.b.toNat ++ toLE 8 r.c.toNat
        ++ bytesOfWords r.lanes
      let logs := if t.logs.any fun (a, b, c, _) => decide (a = l ∧ b = p.actor ∧ c = p.copy) then
          t.logs.map fun (a, b, c, rs) => if a = l ∧ b = p.actor ∧ c = p.copy then (a, b, c, rs ++ [bs]) else (a, b, c, rs)
        else t.logs ++ [(l, p.actor, p.copy, [bs])]
      { s with fo := { s.fo with twin := some { t with logs := logs } } }
    else s
  | _, _ => s

/-- A held request enters the plane's request stream (R131): SETBUD sets the budget of those after it (R71, R222), and
COPY's record is read (R215). -/
def State.enterReq (s : State) (pl : PlaneId) (r : Req) : State :=
  if r.kind = .setbud then s.modPlane pl fun p => { p with budget := r.a.setWidth 8 }
  else
    let (rid, s) := s.fresh
    let r := if r.kind = .copy then { r with lanes := s.recordAt pl r.a } else r
    let s := s.modPlane pl fun p =>
      { p with rq := p.rq ++ [{ r with rid := rid, budget := p.budget }],
               resp := match r.resp with
                 | some c => p.resp ++ [{ rid := rid, ch := c, tok := none, strm := r.strm }]
                 | none => p.resp }
    (s.count pl 8 r.block r.slot).twinLog pl r

/-- Whether a token counts toward a rate (R16). -/
def Token.counts : Token → Bool
  | .data _ | .null => true
  | _ => false

/-- One effect of a committed block. -/
def State.commitEff (s : State) (pl : PlaneId) (f : Firing) (slot : Nat) : Eff → State
  | .sreg n v => s.modPlane pl fun p => { p with sregs := Store.set p.sregs n v }
  | .vreg n v m => s.modPlane pl fun p =>
      { p with vregs := Store.set p.vregs n (mkLanes fun j => if bitAt m j then laneAt v j else laneAt (p.vreg n) j) }
  | .mreg n v => s.modPlane pl fun p => { p with mregs := Store.set p.mregs n v }
  | .send ch t =>
    let s := s.modPlane pl fun p => { p with firing := p.firing.map fun f =>
      if t.counts then { f with sent := Store.set f.sent ch (Store.getD f.sent ch 0 + 1) } else { f with ctlSent := ch :: f.ctlSent } }
    s.sendOut pl ch t
  | .timer ch rel v =>
    let due := if rel then s.cycle (s.gladeOf pl.col) + v else v
    s.modPlane pl fun p => { p with timers := p.timers ++ [(ch, due)] }
  | .svc ch n v =>
    let ver := ((s.plane pl).launch.bind s.launch?).elim 0#16 (·.ver)
    s.modPlane pl fun p => { p with ring := p.ring ++ [{ n := n, arg := v, ch := ch, ver := ver }],
                                    firing := p.firing.map fun f => { f with svcs := f.svcs + 1 } }
  | .sacc ty acc =>
    let ix := tileIx pl.col pl.row
    s.setTile ix { s.tile ix with sacc := acc, saccTy := if acc.isEmpty then none else some ty }
  | .saccTake n =>
    let ix := tileIx pl.col pl.row
    let acc := (s.tile ix).sacc.drop n
    s.setTile ix { s.tile ix with sacc := acc, saccTy := if acc.isEmpty then none else (s.tile ix).saccTy }
  | .saccClear =>
    let ix := tileIx pl.col pl.row
    s.setTile ix { s.tile ix with sacc := [], saccTy := none }
  | .cbset v =>
    let ix := tileIx pl.col pl.row
    s.setTile ix { s.tile ix with
      codebook := (laneAt v 3 ++ laneAt v 2 ++ laneAt v 1 ++ laneAt v 0 : BitVec 256) }
  | .wrperf n cnt v =>
    let ix := tileIx pl.col pl.row
    let t := s.tile ix
    let c := Store.getD t.perf n {}
    s.setTile ix { t with perf := Store.set t.perf n (if cnt then { c with cnt := v.setWidth 48 } else { c with ev := v.setWidth 8 }) }
  | .trap code =>
    let noH : Bool := f.fid.isSome
    let (fid, s) := s.raise .software ((s.plane pl).launch.getD 0) (some pl) pl (.trap pl) code false f.block.toNat slot 0 0
      0#64 noH
    s.modPlane pl fun p => { p with firing := p.firing.map fun f => { f with st := .trapped fid } }
  | .brkt code =>
    let lid := (s.plane pl).launch.getD 0
    if ((s.launch? lid).elim false (·.debug)) then
      let (fid, s) := s.raise .brk lid none pl .other code false f.block.toNat slot 0 0 0#64
      let s := s.tell fid none
      let s := s.inject lid .stop
      s.modPlane pl fun p => { p with firing := p.firing.map fun f =>
        match f.st with | .trapped _ => f | _ => { f with st := .atBreak } }
    else s
  | .blaze stop => s.inject ((s.plane pl).launch.getD 0) (if stop then .stop else .snap)
  | .repair t =>
    let s := s.modPlane pl fun p => { p with firing := p.firing.map fun f => { f with acted := true } }
    match f.fid with | some fid => s.repairFault fid t | none => s
  | .hresume =>
    let s := s.modPlane pl fun p => { p with firing := p.firing.map fun f => { f with acted := true } }
    match f.fid with | some fid => s.resumeFault fid | none => s
  | .habort =>
    let s := s.modPlane pl fun p => { p with firing := p.firing.map fun f => { f with acted := true } }
    match f.fid with
    | some fid => (s.modFault fid fun r => { r with st := .reported }).askRung ((s.plane pl).launch.getD 0) 3 fid
    | none => s
  | .lstore key bs => { s with mem := Memory.writeBytes s.mem key bs }
  | .request r => s.enterReq pl r

/-- The planes of a tile other than one that are ready in this cycle (R160). -/
def State.othersReady (s : State) (pl : PlaneId) : List Nat :=
  (List.range 4).filter fun q => decide (q ≠ pl.plane) && s.planeReady ⟨pl.col, pl.row, q⟩

/-- The fired exit acts (R132, R157, R160, R242). -/
def State.takeExit (s : State) (pl : PlaneId) (e : ExitKind) : State :=
  let stopped : Bool := match (s.plane pl).firing with
    | some f => (match f.st with | .trapped _ | .atBreak => true | _ => false)
    | none => false
  let at_ (s : State) (a : BitVec 16) : State :=
    s.modPlane pl fun p => { p with firing := p.firing.map fun f => { f with block := a, run := none } }
  match e with
  | .tend =>
    if stopped then s.modPlane pl fun p => { p with firing := p.firing.map fun f => { f with run := none, ending := true } }
    else s.endFiring pl
  | .goto a | .call a => if stopped then at_ s a else (at_ s a).mapBlock pl
  | .yield a =>
    let ready := s.othersReady pl
    let s := (at_ s a).modPlane pl fun p => { p with deficit := min p.deficit 0 }
    let y : Yield := (ready, s.cycle (s.gladeOf pl.col))
    s.modPlane pl fun p => { p with firing := p.firing.map fun f =>
      if stopped then { f with yields := some y } else { f with st := .yielding y.1 y.2 } }

/-- BLOCK_COMMIT (R132): once every output has fired or been nullified, exactly one exit has fired and the wave sequence
is complete, the effects come into force in one step and the exit chooses the successor. A block that can make no further
progress raises F_BLOCK_ILLEGAL (R45), whose fault token names slot 0, since no instruction is at fault: DESIGN CHOICE
(assumption 42), as is slot 0 in the sample of an overflow of event 6. Nothing commits while the launch waits for a page, and a fetch that this kept back follows (R323). -/
def State.blockCommit (s : State) (pl : PlaneId) : State :=
  match (s.plane pl).firing with
  | none => s
  | some f =>
    if !s.planeGoes pl then s
    else match f.st, f.run with
    | .running, some r =>
      match r.outsDone, r.exits with
      | true, [e] =>
        let plain := sortEffs (r.effs.filter fun (_, e) => !e.isWave)
        let waves := r.effs.filter fun (_, e) => e.isWave
        let s := s.modPlane pl fun p => { p with firing := some { f with run := none } }
        let s := (plain ++ waves).foldl (fun s (k, e) => s.commitEff pl f k e) s
        (s.count pl 6 f.block 0).takeExit pl e
      | _, _ => if r.canMove then s else s.blockFault pl .blockIllegal 0 0 0#64
    | .running, none => if f.ending then s else s.mapBlock pl
    | _, _ => s

/-- PYIELD_RELEASE (R160): the successor is fetched once every plane of the recorded set has issued or has ceased to be
ready, or 64 cycles have passed. A blaze that has arrived is acted on first (R342). -/
def State.yieldRelease (s : State) (pl : PlaneId) : State :=
  match (s.plane pl).firing, s.actorOf pl with
  | some f, some (_, x, _) =>
    match f.st with
    | .yielding ready since =>
      let now := s.cycle x.glade
      let gone (q : Nat) : Bool :=
        decide (since < (s.plane ⟨pl.col, pl.row, q⟩).lastIssue) || !s.planeReady ⟨pl.col, pl.row, q⟩
      if x.runs ∧ !(s.plane pl).stopped ∧ !(s.plane pl).paused ∧ (x.blazeOf pl (s.plane pl)).isNone
          ∧ (ready.all gone ∨ 64 ≤ (now - since).toNat) then s.mapBlock pl
      else s
    | _ => s
  | _, _ => s

end Sys2Proof.Machine
end

