-- ==== Sys2Proof/Machine/Barrier.lean ====
section
/-!
DEFINITION. Barrier objects at their home unit and the barrier wait queue of an edge block (10 R212 to R214).
-/
namespace Sys2Proof.Machine

/-- Most entries of the wait queue of an edge block (R214). -/
def barDepth : Nat := 512

/-- The edge block that owns a physical address (R214, assumption 11). -/
def edgeOfKey (key : Nat) : Nat := Config.homeEdge (key / 64) % 192

/-- Entries in the wait queue of an edge block. -/
def State.barCount (s : State) (edge : Nat) : Nat := (s.barq.filter fun e => decide (e.edge = edge)).length

/-- A barrier object (R212). -/
structure BarObj where
  pend : Nat
  ver : Nat
  cnt : Nat
  arr : Nat
  phase : Nat
  init : Bool
  deriving DecidableEq, Repr

/-- The object that two words hold. -/
def barOf (a b : Nat) : BarObj :=
  { pend := bitsOf a 47 0, ver := bitsOf a 63 48, cnt := bitsOf b 15 0, arr := bitsOf b 31 16, phase := bitsOf b 47 32,
    init := decide (bitsOf b 48 48 = 1) }

/-- The object at a key, as it is committed (R273). -/
def State.bar (s : State) (key : Nat) : BarObj :=
  barOf (leNat (s.view committedObs key 8)) (leNat (s.view committedObs (key + 8) 8))

/-- The 16 bytes of an object. -/
def BarObj.bytes (o : BarObj) : List Byte :=
  toLE 8 (o.pend % 2 ^ 48 + o.ver * 2 ^ 48)
    ++ toLE 8 (o.cnt + o.arr * 2 ^ 16 + o.phase * 2 ^ 32 + (if o.init then 2 ^ 48 else 0))

/-- Writes an object home, behind what has been committed there (R273, R279). -/
def State.setBar (s : State) (key : Nat) (o : BarObj) : State :=
  let s := s.foldIn key 16
  { s with mem := Memory.writeBytes s.mem key o.bytes }

/-- Whether a BARWT for t may respond (R213). -/
def BarObj.open_ (o : BarObj) (t : Nat) : Bool :=
  let d := (o.phase + 16 - t % 16) % 16
  decide (1 ≤ d) && decide (d ≤ 8)

/-- The token of a BARWT (R213). -/
def phaseToken (o : BarObj) : Token := .data ⟨.scalar, [BitVec.ofNat 64 o.phase], .u64, 1#64⟩

/-- The requests held on an object, in the order in which they came. -/
def State.barHeld (s : State) (key : Nat) : List (PlaneId × Req) :=
  s.barq.filterMap fun e =>
    match e.owner with
    | .request pl rid => if e.pa = key then (s.findReq pl rid).map fun q => (pl, q.2) else none
    | .core _ => none

/-- Takes a request out of the wait queue. -/
def State.unbar (s : State) (pl : PlaneId) (rid : Nat) : State :=
  { s with barq := s.barq.filter fun e => decide (e.owner ≠ .request pl rid) }

/-- An object whose phase ends when ARR = CNT and PEND = 0 (R213). -/
def BarObj.ripe (o : BarObj) : Bool := o.init && decide (o.arr = o.cnt) && decide (o.pend = 0)
def BarObj.step (o : BarObj) : BarObj := if o.ripe then { o with phase := (o.phase + 1) % 2 ^ 16, arr := 0 } else o

/-- Completes the phase when ARR = CNT and PEND = 0, and then every held BARWT whose condition holds responds, in order
(R213). -/
def State.phaseCheck (s : State) (key : Nat) : State :=
  let o := s.bar key
  if o.ripe then
    let o := o.step
    (s.barHeld key).foldl (fun s (pl, r) =>
      if r.kind = .barwt ∧ o.open_ (r.a.toNat % 16) then s.onReq pl r.rid fun s => (s.unbar pl r.rid).finish pl r (phaseToken o)
      else s) (s.setBar key o)
  else s

/-- The object in a SNAP cut in progress follows what an actor copy does to it until the copy has recorded, so that the saved
object and what the copies have saved are of one moment (R214, R292). -/
def Cut.barDo (c : Cut) (pl : PlaneId) (key : Nat) (new : BarObj) (f : BarObj → BarObj) : Cut :=
  if c.kind ≠ .snap ∨ c.elems.contains (.actor pl) then c
  else if c.bars.any fun b => decide (b.pa = key) then
    { c with bars := c.bars.map fun (b : BarSave) =>
        if b.pa = key then { b with bytes := ((f (barOf (leNat (b.bytes.take 8)) (leNat (b.bytes.drop 8)))).step).bytes } else b }
  else { c with bars := c.bars ++ [⟨key, new.bytes⟩] }

/-- An actor copy of a launch changes an object. -/
def State.barDo (s : State) (l : Nat) (pl : PlaneId) (key : Nat) (f : BarObj → BarObj) : State :=
  let o := f (s.bar key)
  (s.setBar key o).modLaunch l fun x => { x with cuts := x.cuts.map fun c => c.barDo pl key o f }

/-- A copy lowers PEND by the bytes of a line (R213). -/
def State.lowerPend (s : State) (l : Nat) (pl : PlaneId) (key n : Nat) : State :=
  (s.barDo l pl key fun o => { o with pend := (o.pend + 2 ^ 48 - n % 2 ^ 48) % 2 ^ 48 }).phaseCheck key

/-- BAREXP, BARARV and BARWT on an object with INIT = 1, up to the end of the phase; `none` where a BARWT must be held. -/
def State.barAct (s : State) (pl : PlaneId) (ver : BitVec 16) (r : Req) (key : Nat) : Option State :=
  let o := s.bar key
  let l := (s.plane pl).launch.getD 0
  if o.ver ≠ ver.toNat then some ((s.unbar pl r.rid).reqFault pl r .prot 0 (vaInfo r.a))
  else match r.kind with
    | .barexp =>
      if r.b.toNat / 2 ^ 48 ≠ 0 then some ((s.unbar pl r.rid).reqFault pl r .shape 0 0#64)
      else some (((s.unbar pl r.rid).barDo l pl key fun o => { o with pend := (o.pend + r.b.toNat) % 2 ^ 48 }).finish pl r .null)
    | .bararv =>
      if o.arr = o.cnt then some ((s.unbar pl r.rid).reqFault pl r .shape 0 0#64)
      else some (((s.unbar pl r.rid).barDo l pl key fun o => { o with arr := o.arr + 1 }).finish pl r .null)
    | _ => if o.open_ (r.a.toNat % 16) then some ((s.unbar pl r.rid).finish pl r (phaseToken o)) else none

/-- Holds a request in the wait queue (R214). -/
def State.barHold (s : State) (pl : PlaneId) (r : Req) (key : Nat) : State :=
  if r.budget = 0#8 then
    (if r.kind = .barwt then s.finish pl r .null else s.reqFault pl r .parkBudget 0 (vaInfo r.a))
  else if barDepth ≤ s.barCount (edgeOfKey key) then s.reqFault pl r .parkFull 0 (vaInfo r.a)
  else
    let e : BarEnt := { edge := edgeOfKey key, owner := .request pl r.rid, pa := key }
    let s : State := { s with barq := s.barq ++ [e] }
    s.setReq pl r.rid (.barHeld (s.cycle (s.gladeOf pl.col)))

/-- A form that has been held for a BARINIT, as it stands then: performed, and with it the end of the phase. One that the end of a
phase has answered meanwhile is not held any more. -/
def State.barNext (s : State) (key : Nat) (pl : PlaneId) (rid : Nat) : State :=
  if !(s.barq.any fun e => decide (e.owner = .request pl rid)) then s
  else match s.findReq pl rid with
    | none => s
    | some (l, r) =>
      let ver := (s.launch? l).elim 0#16 (·.ver)
      (s.onReq pl rid fun s => (s.barAct pl ver r key).getD s).phaseCheck key

/-- BARINIT (R213), and then the forms that were held for it, in order. -/
def State.barInit (s : State) (pl : PlaneId) (lid : Nat) (ver : BitVec 16) (r : Req) (key : Nat) : State :=
  let o := s.bar key
  let n := r.b.toNat % 2 ^ 16
  let held := s.barHeld key
  if n = 0 ∨ (o.init ∧ (o.arr ≠ 0 ∨ o.pend ≠ 0 ∨ held.any fun (_, q) => decide (q.kind = .barwt))) then
    s.reqFault pl r .shape 0 0#64
  else
    let s := s.barDo lid pl key fun o =>
      { pend := 0, ver := ver.toNat, cnt := n, arr := 0, phase := (if o.init then o.phase else 0), init := true }
    let s := { s with bars := if s.bars.contains key then s.bars else key :: s.bars }
    let s := s.modLaunch lid fun x => { x with bars := if x.bars.contains key then x.bars else key :: x.bars }
    held.foldl (fun s (q, h) => s.barNext key q h.rid) (s.finish pl r .null)

/-- BARRIER_PERFORM (R212 to R214). -/
def State.barPerform (s : State) (pl : PlaneId) (rid : Nat) : State :=
  match s.ready? pl rid with
  | none => s
  | some (lid, x, r) =>
    if !r.kind.isBarrier then s
    else
      let port := tilePort pl
      let va := va48 r.a / 16 * 16
      if s.invalHolds port x.asid va then s
      else match s.xlate1 lid x port va 16 r.kind.writes with
        | (.notPresent lvl, s) => s.holdPage lid pl r port va lvl .fe
        | (.prot, s) => s.reqFault pl r .prot 0 (vaInfo r.a)
        | (.ok key imm, s) =>
          if !imm ∨ isPeer key ∨ isHost key then s.reqFault pl r .prot 0 (vaInfo r.a)
          else if r.kind = .barinit then s.barInit pl lid x.ver r key
          else if (s.bar key).init then
            match s.barAct pl x.ver r key with
            | some s => s.phaseCheck key
            | none => s.barHold pl r key
          else s.barHold pl r key

/-- The end of the wait of a held request whose time is up. -/
def State.barExpire (s : State) (pl : PlaneId) (rid : Nat) : State :=
  match s.req? pl rid, (s.plane pl).launch.bind s.launch? with
  | some r, some x =>
    match r.st, s.glade? x.glade with
    | .barHeld t, some g =>
      if r.budget ≠ 255#8 ∧ g.parkTimeout < (g.cycle - t).toNat then
        (s.unbar pl rid).reqFault pl r .parkBudget 1 (vaInfo r.a)
      else s
    | _, _ => s
  | _, _ => s

/-- BARRIER_WAIT_QUEUE_TIMEOUT (R214): a held request with b below 255 that has waited longer than the park timeout. -/
def State.barTimeout (s : State) (edge k : Nat) : State :=
  match (s.barq.filter fun e => decide (e.edge = edge))[k]? with
  | some e =>
    match e.owner with
    | .core _ => s
    | .request pl rid => s.onReq pl rid fun s => s.barExpire pl rid
  | none => s

end Sys2Proof.Machine
end

