-- ==== Sys2Proof/Machine/Copy.lean ====
section
/-!
DEFINITION. Copy engines (10 R215 to R219, 04 R76, 16 R292, 21 R343): acceptance, the two codecs, one destination line at
a time, promises.
-/
namespace Sys2Proof.Machine

/-- Records that a copy engine holds (R217). -/
def copyDepth : Nat := 64

/-! ### The command record (R215) -/

def cwSaddr (cw : List W64) : Nat := bitsOf (cw.getD 0 0#64).toNat 47 0
def cwMode (cw : List W64) : Nat := bitsOf (cw.getD 0 0#64).toNat 50 48
def cwCodec (cw : List W64) : Nat := bitsOf (cw.getD 0 0#64).toNat 53 51
def cwBaddr (cw : List W64) : Nat := bitsOf (cw.getD 3 0#64).toNat 47 0
def cwSlen (cw : List W64) : Nat := bitsOf (cw.getD 4 0#64).toNat 47 0
def cwDbase (cw : List W64) : W64 := cw.getD 5 0#64

/-- Whether two ranges of n and m bytes overlap. -/
def overlaps (a n b m : Nat) : Bool := decide (a < b + m) && decide (b < a + n) && decide (0 < n) && decide (0 < m)

/-- The checks of R216; false where one fails. -/
def copyOk (cw : List W64) : Bool :=
  let w (k : Nat) : Nat := (cw.getD k 0#64).toNat
  let mode := cwMode cw
  let codec := cwCodec cw
  let reserved : Bool := decide (bitsOf (w 0) 63 54 ≠ 0) || decide (bitsOf (w 1) 63 48 ≠ 0) || decide (bitsOf (w 2) 63 48 ≠ 0)
    || decide (bitsOf (w 3) 63 48 ≠ 0) || decide (bitsOf (w 4) 63 48 ≠ 0) || decide (w 6 ≠ 0) || decide (w 7 ≠ 0)
  let bad : Bool := decide (5 ≤ mode) || decide (3 ≤ codec) || reserved || (decide (codec = 0) && decide (cwSlen cw ≠ 0))
    || (decide (codec ≠ 2) && decide (cwDbase cw ≠ 0#64))
    || (decide (codec ≠ 0) && (decide (mode = 1) || decide (mode = 4)))
    || (decide (codec = 2) && decide (cwLen cw % 8 ≠ 0))
    || (decide (mode ≠ 0) && (decide (cwDaddr cw % 8 ≠ 0) || decide (cwLen cw % 8 ≠ 0)))
    || ((decide (mode = 1) || decide (mode = 4)) && decide (cwSaddr cw % 8 ≠ 0))
    || (decide (codec = 0) && overlaps (cwSaddr cw) (cwLen cw) (cwDaddr cw) (cwLen cw))
    || (decide (codec ≠ 0) && overlaps (cwSaddr cw) (cwSlen cw) (cwDaddr cw) (cwLen cw))
    || decide (cwBaddr cw % 16 ≠ 0)
  !bad

/-! ### Codecs (R218) -/

/-- A byte of a copy's source, or why it cannot be read. -/
inductive SrcB where
  | byte (b : Byte)
  | absent (level : Nat)
  | prot
  | held
  deriving DecidableEq, Repr

/-- What a decoder answers: its output with the source bytes it took, F_SHAPE, or the source byte that it could not
read. -/
inductive Dec where
  | out (bs : List Byte) (used : Nat)
  | shape
  | stop (pos : Nat) (why : SrcB)
  deriving DecidableEq, Repr

/-- Where an LZ4 decoder stands within a sequence. -/
inductive LzSt where
  | token
  | litLen (n m : Nat)
  | lit (n m : Nat)
  | off (m : Nat)
  | offHi (lo m : Nat)
  | matLen (off n : Nat)
  | mat (off n : Nat)
  deriving DecidableEq, Repr

/-- The LZ4 block format (R218): `out` is the output so far, newest byte first; it stops once it holds `want` bytes,
unless those are all `len` bytes, when the source must end there too. -/
def lz4Go (get : Nat → SrcB) (slen want len : Nat) : Nat → LzSt → Nat → List Byte → Nat → Dec
  | 0, _, _, _, _ => .shape
  | fuel + 1, st, pos, out, n =>
    if want ≤ n ∧ want < len then .out out.reverse pos
    else if len < n then .shape
    else match st with
      | .lit 0 m =>
        if pos = slen then (if n = len then .out out.reverse pos else .shape)
        else lz4Go get slen want len fuel (.off m) pos out n
      | .mat _ 0 => lz4Go get slen want len fuel .token pos out n
      | .mat off (k + 1) =>
        match out[off - 1]? with
        | some b => lz4Go get slen want len fuel (.mat off k) pos (b :: out) (n + 1)
        | none => .shape
      | st =>
        if slen ≤ pos then .shape
        else match get pos with
          | .absent l => .stop pos (.absent l)
          | .prot => .stop pos .prot
          | .held => .stop pos .held
          | .byte b =>
            let v := b.toNat
            let go (st : LzSt) : Dec := lz4Go get slen want len fuel st (pos + 1) out n
            match st with
            | .token => if v / 16 = 15 then go (.litLen 15 (v % 16)) else go (.lit (v / 16) (v % 16))
            | .litLen k m => if v = 255 then go (.litLen (k + 255) m) else go (.lit (k + v) m)
            | .lit k m => lz4Go get slen want len fuel (.lit (k - 1) m) (pos + 1) (b :: out) (n + 1)
            | .off m => go (.offHi v m)
            | .offHi lo m =>
              let off := lo + 256 * v
              if off = 0 ∨ n < off then .shape
              else if m = 15 then go (.matLen off 19) else go (.mat off (m + 4))
            | .matLen off k => if v = 255 then go (.matLen off (k + 255)) else go (.mat off (k + v))
            | .mat _ _ => .shape

/-- DV64 (R218): words of running sums of LEB128 values; at most 10 bytes a value. -/
def dv64Go (get : Nat → SrcB) (slen want : Nat) : Nat → Nat → Nat → Nat → W64 → List Byte → Nat → Dec
  | 0, _, _, _, _, _, _ => .shape
  | fuel + 1, pos, k, v, last, out, n =>
    if want ≤ n then .out out pos
    else if slen ≤ pos ∨ 10 ≤ k then .shape
    else match get pos with
      | .absent l => .stop pos (.absent l)
      | .prot => .stop pos .prot
      | .held => .stop pos .held
      | .byte b =>
        let v := v + b.toNat % 128 * 2 ^ (7 * k)
        if 128 ≤ b.toNat then dv64Go get slen want fuel (pos + 1) (k + 1) v last out n
        else
          let w := last + BitVec.ofNat 64 v
          dv64Go get slen want fuel (pos + 1) 0 0 w (out ++ toLE 8 w.toNat) (n + 8)

/-! ### Acceptance (R216, R217) -/

/-- A promised cycle: the present one and the time that the engine reckons for all the work that it holds (R217). -/
def State.promiseOf (s : State) (engine glade : Nat) (now : List CopyJob) : W64 × State :=
  let (i, s) := s.freeIx
  let work := (now.filter fun c => decide (c.engine = engine)).foldl (fun n c => n + Config.copyTime i (cwLen c.cw - c.done)) 0
  (s.cycle glade + BitVec.ofNat 64 work, s)

/-- COPY_ACCEPT (R215 to R217). -/
def State.copyAccept (s : State) (pl : PlaneId) (rid : Nat) : State :=
  match s.ready? pl rid with
  | none => s
  | some (lid, x, r) =>
    let engine := edgeIx pl.col pl.row
    if r.kind ≠ .copy ∨ copyDepth ≤ (s.copies.filter fun c => decide (c.engine = engine)).length then s
    else
      let cw := r.lanes
      if cw.isEmpty then s.reqFault pl r .prot 0 (vaInfo r.a)
      else if !copyOk cw then s.reqFault pl r .shape 0 0#64
      else
        let bar : Except FCls Unit × State :=
          if cwBaddr cw = 0 then (.ok (), s)
          else match s.xlate1 lid x (tilePort pl) (cwBaddr cw) 16 true with
            | (.notPresent _, s) => (.error .page, s)
            | (.prot, s) => (.error .prot, s)
            | (.ok _ imm, s) => (if imm then .ok () else .error .prot, s)
        match bar with
        | (.error c, s) => s.reqFault pl r c 0 (BitVec.ofNat 64 (cwBaddr cw))
        | (.ok (), s) =>
          if cwLen cw = 0 then s.finish pl r (.data ⟨.scalar, [s.cycle x.glade], .u64, 1#64⟩)
          else
            let job : CopyJob :=
              { cid := rid, engine := engine, glade := x.glade, lid := lid, pl := pl, ch := r.resp.getD 0, rid := rid, cw := cw,
                promise := 0#64, budget := r.budget, block := r.block, slot := r.slot, cut := cutIndex (s.plane pl).recorded }
            let (due, s) := s.promiseOf engine x.glade (s.copies ++ [job])
            { s.finish pl r (.data ⟨.scalar, [due], .u64, 1#64⟩) with copies := s.copies ++ [{ job with promise := due }] }

/-! ### One destination line (R76, R218, R219) -/

/-- A page that is absent stops the copy until its page request is answered (R219, R321). -/
def State.copyPage (s : State) (c : CopyJob) (port va level : Nat) (kind : PKind) : State :=
  let (ix, s) := s.postPage c.lid port va level kind
  s.modCopy c.cid fun c => { c with page := some ix }

/-- The parts of n ≤ 64 bytes at an address, one for each 64-byte line. -/
def lineParts (va n : Nat) : List (Nat × Nat) :=
  let a := 64 - va % 64
  if n ≤ a then [(va, n)] else [(va, a), (va + a, n - a)]

/-- Translates some parts for a copy. -/
def State.copyXlate (s : State) (c : CopyJob) (x : Launch) (port : Nat) (write : Bool) : List (Nat × Nat) → XlR × List Part × State
  | [] => (.ok [], [], s)
  | (va, n) :: t =>
    match s.xlateFor c.lid x port va n write with
    | (.ok ps, s) =>
      match State.copyXlate s c x port write t with
      | (.ok qs, parts, s) => (.ok (ps ++ qs), partsOf n ps ++ parts, s)
      | r => r
    | (.notPresent a l, s) => (.notPresent a l, [], s)
    | (.prot, s) => (.prot, [], s)

/-- What a copy has read for its next line: the bytes, the bits of the source words (for MIRROR), and the source parts, which
enter the read signature; or the words, by key and virtual address, that an AWAIT copy has not yet found full, and those
that it finds full now; or nothing, where an invalidation holds a line of the source (R319). -/
inductive CopyRead where
  | got (bs : List Byte) (bits : List Bool) (ps : List Part)
  | wait (words : List (Nat × Nat)) (found : List Nat)
  | absent (va level : Nat)
  | held
  | fault (cls : FCls) (info : W64)
  deriving DecidableEq, Repr

/-- The observer of a copy engine: the launch's view at the home units (R82, R219). -/
def copyObs (c : CopyJob) : Obs := { lid := some c.lid, glade := none }

/-- A byte of an encoded source. -/
def State.srcByte (s : State) (c : CopyJob) (x : Launch) (port pos : Nat) : SrcB :=
  let va := cwSaddr c.cw + pos
  if s.invalHolds port x.asid va then .held
  else match (s.xlateFor c.lid x port va 1 false).1 with
  | .ok [(_, key, _)] => if isPeer key then .prot else .byte ((s.view (copyObs c) key 1).headD 0#8)
  | .notPresent _ l => .absent l
  | _ => .prot

/-- The lines of an encoded source's first n bytes, translated in turn, so that the leaves that walks find for them enter the
port's leaf cache (R317). -/
def State.srcParts (s : State) (c : CopyJob) (x : Launch) (port n : Nat) : List Part × State :=
  (List.range ((n + 127) / 64)).foldl (fun (ps, s) i =>
    let va := if i = 0 then cwSaddr c.cw else (cwSaddr c.cw / 64 + i) * 64
    if cwSaddr c.cw + n ≤ va then (ps, s)
    else match s.xlateFor c.lid x port va 1 false with
      | (.ok [(_, key, imm)], s) => (ps ++ [{ va := va, key := key, imm := imm, len := 1 }], s)
      | (_, s) => (ps, s)) ([], s)

/-- Reads the source of the next line of n bytes. -/
def State.copyRead (s : State) (c : CopyJob) (x : Launch) (port n : Nat) : CopyRead × State :=
  match cwCodec c.cw with
  | 0 =>
    let va := cwSaddr c.cw + c.done
    if (lineParts va n).any fun q => s.invalHolds port x.asid q.1 then (.held, s)
    else match s.copyXlate c x port false (lineParts va n) with
    | (.notPresent a l, _, s) => (.absent a l, s)
    | (.prot, _, s) => (.fault .prot (BitVec.ofNat 64 va), s)
    | (.ok _, ps, s) =>
      if ps.any fun p => isPeer p.key || (isHost p.key && (decide (cwMode c.cw = 1) || decide (cwMode c.cw = 4))) then
        (.fault .prot (BitVec.ofNat 64 va), s)
      else
        let o := copyObs c
        let bits := s.readBits o ps
        match s.demandReads (ps.map (·.key)) with
        | (true, s) => (.fault .memUncorr 0#64, s)
        | (false, s) =>
        match cwMode c.cw with
        | 4 =>
          match c.line with
          | some bs => (.got bs bits [], s)
          | none =>
            let ws := (partWords ps).zipIdx.map fun (w, i) => (w * 8, va + 8 * i)
            let new := ws.filter fun (_, a) => !c.found.contains a
            match new.filter fun (k, _) => !s.viewBit o (k / 8) with
            | [] => (.got (s.readParts o ps) bits ps, s)
            | miss => (.wait miss ((new.filter fun q => !miss.contains q).map (·.2)), s)
        | _ => (.got (s.readParts o ps) bits ps, s)
  | k =>
    let get := s.srcByte c x port
    let slen := cwSlen c.cw
    let want := c.done + n
    let len := cwLen c.cw
    let d := if k = 1 then lz4Go get slen want len (4 * (slen + len) + 16) .token 0 [] 0
      else dv64Go get slen want (slen + 1) 0 0 0 (cwDbase c.cw) [] 0
    match d with
    | .out bs used =>
      let (ps, s) := s.srcParts c x port used
      match s.demandReads (ps.map (·.key)) with
      | (true, s) => (.fault .memUncorr 0#64, s)
      | (false, s) => (.got ((bs.drop c.done).take n) [] ps, s)
    | .shape => (.fault .shape 0#64, (s.srcParts c x port slen).2)
    | .stop _ .held => (.held, s)
    | .stop pos (.absent l) => (.absent (cwSaddr c.cw + pos) l, (s.srcParts c x port pos).2)
    | .stop pos _ => (.fault .prot (BitVec.ofNat 64 (cwSaddr c.cw + pos)), (s.srcParts c x port pos).2)

/-- The bit that the copy gives the i-th destination word of a line, if it changes it (R76). -/
def copyBit (mode : Nat) (bits : List Bool) (i : Nat) : Option Bool :=
  match mode with
  | 0 => none
  | 1 => some (bits.getD i false)
  | 3 => some false
  | _ => some true

/-- Parks a copy on a source word (R76, FORM 0b100). -/
def State.parkCopy (s : State) (c : CopyJob) (x : Launch) (key va : Nat) : State :=
  if c.budget = 0#8 then s.copyFault c .parkBudget 0 (BitVec.ofNat 64 va)
  else match s.glade? c.glade with
    | none => s
    | some g =>
      if !g.parkRoom then s.copyFault c .parkFull 0 (BitVec.ofNat 64 va)
      else
        let r : ParkRec :=
          { glade := c.glade, pl := c.pl, rid := c.cid, lid := c.lid, ver := x.ver, va := va, asid := x.asid,
            form := 4, wid := 3, nw := 1, left := c.budget.toNat, data := 0#64, rch := c.ch, stamp := g.cycle }
        ((s.park r [key]).modCopy c.cid fun c => { c with waiting := true }).cycleScan [key]

/-- An AWAIT copy notes the words of its line that it finds full and parks on each of the others that has no record of it
yet, until one of them faults the copy (R76). -/
def State.parkWords (s : State) (c : CopyJob) (x : Launch) (found : List Nat) (miss : List (Nat × Nat)) : State :=
  let s := s.modCopy c.cid fun c => { c with found := c.found ++ found }
  let new := miss.filter fun (_, va) => !(s.parked.any fun r => decide (r.form = 4) && decide (r.rid = c.cid) && decide (r.va = va))
  new.foldl (fun s (key, va) =>
    if (s.copies.find? fun d => decide (d.cid = c.cid)).elim true (·.fault.isSome) then s else s.parkCopy c x key va) s

/-- Holds a copy whose line would anchor the launch or pass its quota, until the launch is the oldest (R83, R87, R219). -/
def State.holdCopy (s : State) (c : CopyJob) (keys : List Nat) : State :=
  let s := (s.modCopy c.cid fun c => { c with waiting := true, held := true }).holdLaunch c.lid
  if s.cycleOn c.lid keys then s.copyFault c .handshakeCycle 0 (BitVec.ofNat 64 (cwDaddr c.cw + c.done)) else s

/-- Writes a line: its bytes and bits, the barrier, bytes done; the copy ends with its last line (R213, R218). -/
def State.copyPut (s : State) (c : CopyJob) (p : Part) (n : Nat) (bs : List Byte) (bits : List Bool) (bar : Option Nat) : State :=
  let ws := if cwMode c.cw = 0 then [] else { p with len := n }.words
  let changed := (ws.zipIdx.filter fun (w, i) => match copyBit (cwMode c.cw) bits i with
    | some f => s.viewBit (copyObs c) w != f
    | none => false).map (·.1)
  let s := s.putEff c.lid c.cut p.imm p.va (.bytes p.key bs)
  let s := ws.zipIdx.foldl (fun s (w, i) =>
    match copyBit (cwMode c.cw) bits i with
    | some f => s.putEff c.lid c.cut p.imm p.va (.fe w f)
    | none => s) s
  let s := match bar with
    | some k => s.lowerPend c.lid c.pl k n
    | none => s
  let s := if c.done + n = cwLen c.cw then { s with copies := s.copies.filter fun d => decide (d.cid ≠ c.cid) }
    else s.modCopy c.cid fun c => { c with done := c.done + n, found := [], line := none }
  s.wake changed

/-- The write side of a line: its destination, its barrier, and what holds it back. -/
def State.copyWrite (s : State) (c : CopyJob) (x : Launch) (port n : Nat) (bs : List Byte) (bits : List Bool) (src : List Part) :
    State :=
  let va := cwDaddr c.cw + c.done
  let info : W64 := BitVec.ofNat 64 va
  match s.copyXlate c x port true [(va, n)] with
  | (.notPresent a l, _, s) => s.copyPage c port a l .write
  | (.ok _, [p], s) =>
    let user := (s.actorFor c.lid x c.pl).all fun a => decide (a.level ≠ 1)
    if isPeer p.key ∨ isArg p.key ∨ (isHost p.key ∧ cwMode c.cw ≠ 0) ∨ (user ∧ s.liveDesc [{ p with len := n }])
        ∨ s.twinPart c.lid x [{ p with len := n }] then
      s.copyFault c .prot 0 info
    else
      let bar : Xl × State := if cwBaddr c.cw = 0 then (.ok 0 true, s) else s.xlate1 c.lid x port (cwBaddr c.cw) 16 true
      match bar with
      | (.notPresent l, s) => s.copyPage c port (cwBaddr c.cw) l .fe
      | (.prot, s) => s.copyFault c .prot 0 (BitVec.ofNat 64 (cwBaddr c.cw))
      | (.ok bkey _, s) =>
        if p.imm ∧ !x.irrev then s.holdCopy c ((Part.words { p with len := n }).map fun w => w * 8)
        else if !p.imm ∧ !x.irrev ∧ s.overQuota c.lid [p.key / 64] then
          (if x.noirr then s.copyFault c .shadowOverflow 0 0#64 else s.holdCopy c [])
        else (s.signParts c.lid src).copyPut c p n bs bits (if cwBaddr c.cw = 0 then none else some bkey)
  | (_, _, s) => s.copyFault c .prot 0 info

/-- COPY_LINE_WRITE (R218): the next destination line of a copy. -/
def State.copyLine (s : State) (cid : Nat) : State :=
  match s.copies.find? fun c => decide (c.cid = cid) with
  | none => s
  | some c =>
    match s.launch? c.lid with
    | none => s
    | some x =>
      if !x.goesOn ∨ c.stopped ∨ c.waiting ∨ c.fault.isSome ∨ c.page.isSome then s
      else
        let port := tilePort c.pl
        let n := c.lineLen
        if s.invalHolds port x.asid (cwDaddr c.cw + c.done) ∨ (cwBaddr c.cw ≠ 0 ∧ s.invalHolds port x.asid (cwBaddr c.cw)) then s
        else match s.copyRead c x port n with
          | (.absent va l, s) => s.copyPage c port va l .read
          | (.held, s) => s
          | (.fault cls info, s) => s.copyFault c cls 0 info
          | (.wait miss found, s) => s.parkWords c x found miss
          | (.got bs bits ps, s) => s.copyWrite c x port n bs bits ps

/-! ### Promises (R217, R343) -/

/-- PROMISE_MISSED (R217, R343): a copy that has not completed by its promised cycle. The engine computes a new promise, which
HRESUME or the default action sends; until it is sent there is none to miss. The miss of a promise that was sent after a
miss takes rung 2. -/
def State.promiseMiss (s : State) (cid : Nat) : State :=
  match s.copies.find? fun c => decide (c.cid = cid) with
  | none => s
  | some c =>
    if c.stopped ∨ c.owed ∨ ¬ c.promise < s.cycle c.glade then s
    else if c.missed then
      if ((s.launch? c.lid).bind (·.rung)).isSome then s else
      let (fid, s) := s.raise .promiseMissed c.lid (some c.pl) c.pl (.promise c.pl c.ch cid c.promise) 0 false c.block.toNat c.slot
        0 0 0#64 true
      s.askRung c.lid 2 fid
    else
      let (due, s) := s.promiseOf c.engine c.glade s.copies
      let s := s.modCopy cid fun c => { c with promise := due, owed := true }
      let (fid, s) := s.raise .promiseMissed c.lid (some c.pl) c.pl (.promise c.pl c.ch cid due) 0 false c.block.toNat c.slot 0 0
        0#64
      if (s.fault? fid).map (·.st) = some FSt.reported then s.unhandled fid else s

end Sys2Proof.Machine
end

