-- ==== Sys2Proof/Machine/Matrix.lean ====
section
/-!
DEFINITION. The matrix sequencer and the matrix regions (11 R224 to R236, 06 R113 to R120, 16 R290, R291).
-/
namespace Sys2Proof.Machine

/-! ### The command record (R225) -/

/-- Bits of a word of a record. -/
def mw (cw : List W64) (k hi lo : Nat) : Nat := bitsOf (cw.getD k 0#64).toNat hi lo
def mKind (cw : List W64) : Nat := mw cw 0 2 0
def mClr (cw : List W64) : Bool := decide (mw cw 0 3 3 = 1)
def mDrn (cw : List W64) : Bool := decide (mw cw 0 4 4 = 1)
def mRstr (cw : List W64) : Bool := decide (mw cw 0 5 5 = 1)
def mCen (cw : List W64) : Bool := decide (mw cw 0 6 6 = 1)
def mRoute (cw : List W64) : Nat := mw cw 0 14 12
def mCrt (cw : List W64) : Nat := mw cw 0 18 16
def mTag (cw : List W64) : Nat := mw cw 0 31 24
def mWait0 (cw : List W64) : Nat := mw cw 0 39 32
def mWait1 (cw : List W64) : Nat := mw cw 0 47 40
def mAcc (cw : List W64) : Nat := mw cw 0 55 48
def mM (cw : List W64) : Nat := mw cw 1 15 0
def mN (cw : List W64) : Nat := mw cw 1 31 16
def mK (cw : List W64) : Nat := mw cw 1 63 32
def mAaddr (cw : List W64) : Nat := mw cw 2 47 0
def mBaddr (cw : List W64) : Nat := mw cw 3 47 0
def mAscl (cw : List W64) : Nat := mw cw 4 47 0
def mBscl (cw : List W64) : Nat := mw cw 5 47 0
def mLda (cw : List W64) : Nat := mw cw 6 31 0
def mLdb (cw : List W64) : Nat := mw cw 6 63 32

/-- Chunks of K (R119). -/
def mChunks (cw : List W64) : Nat := up64 (mK cw)
/-- Bytes of a 64-element block (R226). -/
def blkBytes (f : MFmt) : Nat := 8 * mfmtWidth f

/-- Accumulator tiles of a region (R268). -/
def RegionRec.tiles (r : RegionRec) : Nat := (r.h + 1) * (r.wc + 1) * (r.acct + 1)
def RegionRec.fmtA (r : RegionRec) : MFmt := (mfmtOf (r.npol.extractLsb' 8 4).toNat).getD .bf16
def RegionRec.fmtB (r : RegionRec) : MFmt := (mfmtOf (r.npol.extractLsb' 12 4).toNat).getD .bf16

/-! ### Acceptance (R224, R226, R227) -/

/-- Reserved fields that must be 0. -/
def mReserved (cw : List W64) : Bool :=
  decide (mw cw 0 7 7 = 0) && decide (mw cw 0 15 15 = 0) && decide (mw cw 0 23 19 = 0) && decide (mw cw 0 63 56 = 0)
    && decide (mw cw 2 63 48 = 0) && decide (mw cw 3 63 48 = 0) && decide (mw cw 4 63 48 = 0) && decide (mw cw 5 63 48 = 0)
    && decide (mw cw 7 63 0 = 0)

/-- Fields that R225 does not give to TABLE and DRAIN. -/
def mUnused (cw : List W64) : Bool :=
  match mKind cw with
  | 2 => !mClr cw && !mDrn cw && !mRstr cw && decide (mRoute cw = 0) && decide (mw cw 1 63 0 = 0) && decide (mBaddr cw = 0)
      && decide (mAscl cw = 0) && decide (mBscl cw = 0) && decide (mw cw 6 63 0 = 0)
  | 3 => !mClr cw && !mDrn cw && decide (mw cw 1 63 0 = 0) && decide (mAaddr cw = 0) && decide (mBaddr cw = 0)
      && decide (mAscl cw = 0) && decide (mBscl cw = 0) && decide (mw cw 6 63 0 = 0)
  | _ => true

/-- The operand checks 3 and 4 of R226 for MM and WLOAD. -/
def mOperands (cw : List W64) (fa fb : MFmt) : Bool :=
  let kb := mChunks cw
  let three : Bool := decide (mM cw = 0) || decide (mN cw = 0) || decide (mK cw = 0)
    || (decide (mAaddr cw % 64 = 0) && decide (mBaddr cw % 64 = 0) && decide (mLda cw % 64 = 0) && decide (mLdb cw % 64 = 0)
        && decide (kb * blkBytes fa ≤ mLda cw) && decide (kb * blkBytes fb ≤ mLdb cw))
  three && (mfmtScaled fa == decide (mAscl cw ≠ 0)) && (mfmtScaled fb == decide (mBscl cw ≠ 0))

/-- The checks of R226, in order, against the regions of the posting launch and the records accepted before. -/
def mOk (cw : List W64) (rs : List Region) (before_ : List MRec) : Bool :=
  let kind := mKind cw
  let acc := mAcc cw
  let widest := rs.foldl (fun w q => max w (64 * (q.rr.wc + 1))) 0
  let most := rs.foldl (fun w q => max w q.rr.tiles) 0
  let fmt : MFmt × MFmt := match rs with | q :: _ => (q.rr.fmtA, q.rr.fmtB) | [] => (.bf16, .bf16)
  decide (kind ≤ 3) && decide (mw cw 0 11 8 = 1) && mReserved cw
    && (if kind = 2 then decide (acc = 0) else decide (acc ≠ 0)) && mUnused cw
    && (decide (2 ≤ kind) || (mOperands cw fmt.1 fmt.2 && decide (mN cw ≤ widest) && decide (accTiles (mM cw) (mN cw) ≤ most)))
    && (!(decide (kind = 3) || (decide (kind = 0) && !mClr cw)) || (rs.any fun q => decide (q.acc = some acc))
        || before_.any fun m => decide (mAcc m.cw = acc) && !m.bad && decide (m.st ≠ .completed))
    && (decide (kind ≠ 2) || decide (mAaddr cw % 32 = 0))

/-- The regions of a launch in a glade, with their numbers. -/
def Glade.regionsOf (g : Glade) (lid : Nat) : List Region := g.regions.filter fun q => decide (q.lid = lid)

def State.modRec (s : State) (g mid : Nat) (f : MRec → MRec) : State :=
  s.modGlade g fun y => { y with seqr := y.seqr.map fun m => if m.mid = mid then f m else m }

def State.modRegion (s : State) (g r : Nat) (f : Region → Region) : State :=
  s.modGlade g fun y => match y.regions[r]? with
    | some q => { y with regions := y.regions.set r (f q) }
    | none => y

/-- A fault in a matrix command (R234): it names the MMPOST; the command holds its tag and region. -/
def State.mFault (s : State) (g : Nat) (m : MRec) (cls : FCls) : State :=
  let (fid, s) := s.raise cls m.lid (some m.pl) m.pl (.matrix g m.mid) 0 false m.block.toNat m.slot 0 0
    (BitVec.ofNat 64 (mTag m.cw))
  s.modRec g m.mid fun m => { m with st := .faulted fid }

/-- Records that the sequencer's queue holds (R227). -/
def seqDepth : Nat := 64

/-- MATRIX_RECORD_ACCEPT (R224, R226, R227). -/
def State.mAccept (s : State) (pl : PlaneId) (rid : Nat) : State :=
  match s.ready? pl rid with
  | none => s
  | some (lid, x, r) =>
    if r.kind ≠ .mmpost then s
    else match s.glade? x.glade with
      | none => s
      | some g =>
        let cw := s.recordAt pl r.a
        if cw.isEmpty then s.reqFault pl r .prot 0 (vaInfo r.a)
        else if seqDepth + g.spillSize ≤ g.seqr.length then s.setReq pl rid .tableFull
        else
          let (mid, s) := s.fresh
          let m : MRec := { mid := mid, lid := lid, pl := pl, block := r.block, slot := r.slot, cw := cw }
          let ok := mOk cw (g.regionsOf lid) (g.seqr.filter fun q => decide (q.lid = lid))
          let s := s.modGlade x.glade fun y => { y with seqr := y.seqr ++ [{ m with bad := !ok }] }
          let s := s.finish pl r .null
          if ok then s else s.mFault x.glade m .shape

/-! ### Dispatch (R227, R228, R230, R233) -/

/-- Whether a record needs a binding: an MM that is not a no-op, a WLOAD that loads something. -/
def mBinds (cw : List W64) : Bool :=
  match mKind cw with
  | 0 => decide (mM cw ≠ 0) && decide (mN cw ≠ 0)
  | 1 => decide (mK cw ≠ 0) && decide (mN cw ≠ 0)
  | _ => false

/-- The region bound to an accumulation of a launch. -/
def Glade.bound (g : Glade) (lid acc : Nat) : Option Nat :=
  (g.regions.zipIdx.find? fun (q, _) => decide (q.lid = lid) && decide (q.acc = some acc)).map (·.2)

/-- Whether a free region fits an accumulation of M × N (R228). -/
def Region.fits (q : Region) (m n : Nat) : Bool :=
  q.acc.isNone && decide (n ≤ 64 * (q.rr.wc + 1)) && decide (accTiles m n ≤ q.rr.tiles)

/-- The lowest-numbered free region of a launch that fits N and M (R228). -/
def Glade.freeRegion (g : Glade) (lid m n : Nat) : Option Nat :=
  (g.regions.zipIdx.find? fun (q, _) => decide (q.lid = lid) && q.fits m n).map (·.2)

/-- Whether the record at place k of the queue is eligible (R227), with the region that it will use. -/
def Glade.eligible (g : Glade) (k : Nat) : Option (MRec × Option Nat) :=
  match g.seqr[k]? with
  | none => none
  | some m =>
    let pre := (g.seqr.take k).filter fun q => decide (q.lid = m.lid)
    let tagDone (t : Nat) : Bool := decide (t = 0) || pre.all fun q => decide (mTag q.cw ≠ t) || decide (q.st = .completed)
    let acc := mAcc m.cw
    let reg := g.bound m.lid acc
    let accOk : Bool := decide (acc = 0) || ((pre.all fun q => q.bad || decide (mAcc q.cw ≠ acc) || decide (q.st ≠ .queued))
      && (match reg.bind fun r => g.regions[r]? with
          | some q => q.cmd.isNone
          | none => true))
    let tableOk : Bool := pre.all fun q => q.bad || decide (q.st ≠ .queued) || (decide (mKind q.cw ≠ 2) && decide (mKind m.cw ≠ 2))
    if decide (m.st = .queued) && !m.bad && m.page.isNone && decide (k < seqDepth) && !g.seqrStopped.contains m.lid
        && tagDone (mWait0 m.cw) && tagDone (mWait1 m.cw) && accOk && tableOk then
      (if mBinds m.cw then
        (match reg with
         | some r => some (m, some r)
         | none => (g.freeRegion m.lid (mM m.cw) (mN m.cw)).map fun r => (m, some r))
       else some (m, if mKind m.cw = 3 then reg else none))
    else none

/-- Holds a matrix fetch for a page request (R321). -/
def State.mPage (s : State) (g : Nat) (m : MRec) (port va level : Nat) : State :=
  let (ix, s) := s.postPage m.lid port va level .read
  s.modRec g m.mid fun m => { m with page := some ix }

/-- What a fetch answers. -/
inductive Fetched where
  | bytes (bs : List Byte)
  | absent (va level : Nat)
  | prot
  | uncorr
  | held
  deriving DecidableEq, Repr

/-- The pieces of n bytes at an address, one for each 64-byte line. -/
def linePieces : Nat → Nat → Nat → List (Nat × Nat)
  | 0, _, _ => []
  | fuel + 1, va, n =>
    if n = 0 then []
    else
      let a := min n (64 - va % 64)
      (va, a) :: linePieces fuel (va + a) (n - a)

/-- A line that the fetch unit has pinned for a command (R235). -/
def State.pinnedLine (s : State) (gl mid va : Nat) : Option (List Byte) :=
  (s.glade? gl).bind fun g => (g.regions.find? fun q => decide (q.cmd = some mid)).bind fun q =>
    (q.pinned.find? fun p => decide (p.1 = va)).map (·.2)

/-- Pins a line with the bytes that were fetched for a command; one that runs on no region pins nothing (R235). -/
def State.pin (s : State) (gl mid va : Nat) (bs : List Byte) : State :=
  s.modGlade gl fun g => { g with regions := g.regions.map fun q => if q.cmd = some mid then { q with pinned := q.pinned ++ [(va, bs)] } else q }

/-- The 64 bytes of the line at an address, as a command reads them: as they were when the line was pinned, or fetched now with
class MTX in the launch's view (R235). A TX line enters the read signature (R84). -/
def State.mLine (s : State) (m : MRec) (x : Launch) (port va : Nat) : Fetched × State :=
  match s.pinnedLine x.glade m.mid va with
  | some bs => (.bytes bs, s)
  | none =>
    if s.invalHolds port x.asid va then (.held, s)
    else match s.xlateFor m.lid x port va 64 false with
    | (.ok [(_, key, imm)], s) =>
      if isPeer key then (.prot, s)
      else match s.demandRead key with
        | (true, s) => (.uncorr, s)
        | (false, s) =>
          let s := if imm then s else s.sign m.lid va
          let bs := s.view { lid := some m.lid, glade := none } key 64
          (.bytes bs, s.pin x.glade m.mid va bs)
    | (.notPresent a l, s) => (.absent a l, s)
    | (_, s) => (.prot, s)

/-- An operand fetch: pieces of lines, in turn. -/
def State.mFetch (s : State) (m : MRec) (x : Launch) (port : Nat) : List (Nat × Nat) → Fetched × State
  | [] => (.bytes [], s)
  | (va, n) :: t =>
    match s.mLine m x port (va / 64 * 64) with
    | (.bytes b, s) =>
      match State.mFetch s m x port t with
      | (.bytes bs, s) => (.bytes ((b.drop (va % 64)).take n ++ bs), s)
      | r => r
    | r => r

/-- A fetch of n bytes at an address. -/
def State.mRead (s : State) (m : MRec) (x : Launch) (va n : Nat) : Fetched × State :=
  s.mFetch m x (tilePort m.pl) (linePieces (n / 64 + 2) va n)

/-- Completes a record at dispatch (R230 to R232): it sends its completion token next if CEN = 1. -/
def State.mComplete (s : State) (g mid : Nat) : State := s.modRec g mid fun m => { m with st := .completed }

/-- Ends a binding: the region is free and its accumulators are +0 (R228). -/
def Region.free (q : Region) : Region :=
  { q with acc := none, m := none, n := 0, chunkIx := 0, cmd := none, nextChunk := 0, accs := [], draining := false,
           drainPos := 0, drainRow := 0, drainRoute := none, weights := none, pinned := [] }

/-- A binding with its accumulators and command, taken up by another region; the steering input and the place stay (R236).
Its pinned lines have been released and are fetched again; weights stay resident where the regions lay them out alike
(assumption 44). -/
def Region.takes (q b : Region) : Region :=
  let alike := decide (q.rr.h = b.rr.h) && decide (q.rr.wc = b.rr.wc) && decide (q.rr.fmtB = b.rr.fmtB)
  { b with lid := q.lid, rr := q.rr, steer := q.steer, pinned := [], weights := if alike then b.weights else none }

/-- The saved regions of a launch as they are taken up again (R236): each saved binding, in the order of the regions, goes to
the region that R228 chooses among those that are free by then. Answers the regions and, for each saved one, the region
that took its binding. -/
def rebind (saved : List Region) : List Region × List (Option Nat) :=
  saved.foldl (fun (acc : List Region × List (Option Nat)) b =>
    if b.acc.isNone then (acc.1, acc.2 ++ [none])
    else
      match (acc.1.zipIdx.find? fun (q, _) => q.fits (b.m.getD 0) b.n).map (·.2) with
      | some i => (acc.1.set i ((acc.1.getD i b).takes b), acc.2 ++ [some i])
      | none => (acc.1, acc.2 ++ [none])) (saved.map fun q => { q.free with steer := q.steer }, [])

/-- SEQUENCER_DISPATCH (R227, R228, R230, R232, R233) of the record at place k of the queue. -/
def State.seqDispatch (s : State) (gl k : Nat) : State :=
  match s.glade? gl with
  | none => s
  | some g =>
    match g.eligible k with
    | none => s
    | some (m, reg) =>
      match s.launch? m.lid with
      | none => s
      | some x =>
        if !x.onFabric then s
        else
          let cw := m.cw
          let start (s : State) (r : Nat) (f : Region → Region) : State :=
            (s.modRec gl m.mid fun m => { m with st := .running, region := some r, codebook := x.codebook }).modRegion gl r
              fun q => f { q with cmd := some m.mid, nextChunk := 0, draining := false, drainPos := 0, drainRow := 0,
                                  drainRoute := none, pinned := [] }
          match mKind cw with
          | 2 =>
            match s.mRead m x (mAaddr cw) 32 with
            | (.absent va l, s) => s.mPage gl m (tilePort m.pl) va l
            | (.prot, s) => s.mFault gl m .prot
            | (.uncorr, s) => s.mFault gl m .memUncorr
            | (.held, s) => s
            | (.bytes bs, s) => (s.modLaunch m.lid fun x => { x with codebook := BitVec.ofNat 256 (leNat bs) }).mComplete gl m.mid
          | 3 =>
            match reg.bind fun r => (g.regions[r]?).map fun q => (r, q) with
            | none => s.mComplete gl m.mid
            | some (r, q) =>
              if q.m.isNone then (s.modRegion gl r Region.free).mComplete gl m.mid
              else start s r fun q => { q with draining := true }
          | kind =>
            match reg.bind fun r => (g.regions[r]?).map fun q => (r, q) with
            | none => s.mComplete gl m.mid
            | some (r, q) =>
              if q.acc.isSome ∧ (q.n ≠ mN cw ∨ (kind = 0 ∧ q.m.isSome ∧ q.m ≠ some (mM cw))) then s.mFault gl m .shape
              else
                let bind_ (q : Region) : Region :=
                  { q with acc := some (mAcc cw), n := mN cw, m := if kind = 0 then some (mM cw) else q.m }
                let clr (q : Region) : Region := if kind = 0 ∧ mClr cw then { q with accs := [], chunkIx := 0 } else q
                start s r fun q =>
                  let q := clr (bind_ q)
                  { q with draining := decide (kind = 0) && decide (mK cw = 0) && mDrn cw }

/-! ### Chunks (R118 to R120, R229, R233, R291) -/

/-- The 64 element codes of a block of bytes (R110). -/
def blockElems (f : MFmt) (bs : List Byte) : List Nat :=
  let n := leNat bs
  (List.range 64).map fun j => n / 2 ^ (mfmtWidth f * j) % 2 ^ mfmtWidth f

/-- A decoded block of an operand: block bytes and its scale. -/
def State.mBlock (s : State) (m : MRec) (x : Launch) (npol : W32) (f : MFmt) (base scl ld row c : Nat) :
    Except Fetched (List FV) × State :=
  match s.mRead m x (base + row * ld + c * blkBytes f) (blkBytes f) with
  | (.bytes bs, s) =>
    let fin (scale : Nat) : List FV := (blockElems f bs).map fun e => decodeElem npol f m.codebook e scale
    if mfmtScaled f then
      match s.mRead m x (scl + row * mChunks m.cw + c) 1 with
      | (.bytes sb, s) => (.ok (fin (leNat sb)), s)
      | (e, s) => (.error e, s)
    else (.ok (fin 0), s)
  | (e, s) => (.error e, s)

/-- The blocks of rows 0 to n − 1. -/
def State.mBlocks (s : State) (m : MRec) (x : Launch) (npol : W32) (f : MFmt) (base scl ld c : Nat) :
    List Nat → Except Fetched (List (List FV)) × State
  | [] => (.ok [], s)
  | row :: t =>
    match s.mBlock m x npol f base scl ld row c with
    | (.error e, s) => (.error e, s)
    | (.ok b, s) =>
      match State.mBlocks s m x npol f base scl ld c t with
      | (.ok bs, s) => (.ok (b :: bs), s)
      | r => r

/-- The compute tile of region row i and column j (R268): the one of the row pair whose coordinates add to an odd number. -/
def weightTile (gl : Nat) (r : RegionRec) (i j : Nat) : Nat :=
  let col := firstCol gl + r.col + j
  let row := r.row + 2 * i
  tileIx col (if isCompute col row then row else row + 1)

/-- Where column n of chunk c lies in the weight stores, and its scale byte. -/
def weightPlace (gl : Nat) (r : RegionRec) (c n : Nat) : Nat × Nat :=
  let t := weightTile gl r (c % (r.h + 1)) (n / 64)
  (weightKey t (n % 64 * blkBytes r.fmtB), weightKey t (64 * blkBytes r.fmtB + n % 64))

/-- Resident weights of a chunk, as the MM reads them. -/
def State.wBlocks (s : State) (gl : Nat) (m : MRec) (r : RegionRec) (c n : Nat) : List (List FV) :=
  (List.range n).map fun j =>
    let (a, b) := weightPlace gl r c j
    let scale := leNat (Memory.readBytes s.mem b 1)
    (blockElems r.fmtB (Memory.readBytes s.mem a (blkBytes r.fmtB))).map fun e => decodeElem r.npol r.fmtB m.codebook e scale

/-- Loads column n of chunk c into the weight stores. -/
def State.wLoad (s : State) (gl : Nat) (m : MRec) (x : Launch) (r : RegionRec) (c n : Nat) : Fetched × State :=
  let f := r.fmtB
  match s.mRead m x (mBaddr m.cw + n * mLdb m.cw + c * blkBytes f) (blkBytes f) with
  | (.bytes bs, s) =>
    let (a, b) := weightPlace gl r c n
    let s : State := { s with mem := Memory.writeBytes s.mem a bs }
    if mfmtScaled f then
      match s.mRead m x (mBscl m.cw + n * mChunks m.cw + c) 1 with
      | (.bytes sb, s) => (.bytes [], { s with mem := Memory.writeBytes s.mem b sb })
      | e => e
    else (.bytes [], s)
  | e => e

/-- Loads several columns of several chunks. -/
def State.wLoadAll (s : State) (gl : Nat) (m : MRec) (x : Launch) (r : RegionRec) : List (Nat × Nat) → Fetched × State
  | [] => (.bytes [], s)
  | (c, n) :: t =>
    match s.wLoad gl m x r c n with
    | (.bytes _, s) => State.wLoadAll s gl m x r t
    | e => e

/-- Whether both formats take the integer path (R118). -/
def intPath (r : RegionRec) : Bool :=
  (decide (r.fmtA = .int8) || decide (r.fmtA = .int4)) && (decide (r.fmtB = .int8) || decide (r.fmtB = .int4))

/-- The exact integer of a decoded integer element. -/
def fvInt : FV → Int
  | .fin s m e => let v : Int := (m * 2 ^ e.toNat : Nat); if s then -v else v
  | _ => 0

/-- An accumulator after a chunk (R118 to R120): the new code, or `none` where STRICT raises F_ARITH. -/
def chunkAdd (r : RegionRec) (old : Nat) (a b : List FV) : Option Nat :=
  let ps := List.zipWith (fun x y => (x, y)) a b
  if intPath r then
    let sum := ps.foldl (fun (t : Int) (x, y) => t + fvInt x * fvInt y) 0
    some (((old : Int) + sum) % (2 ^ 32 : Nat)).toNat
  else
    let strict := decide (nanmOf r.npol = .strict)
    let nan := nanCode fF32
    match chunkSum r.npol (ps.map fun (x, y) => mulExact x y) with
    | none => if strict then none else some nan
    | some c =>
      match accAdd r.npol old c with
      | some v => some v
      | none =>
        match decodeF fF32 old with
        | .nan _ _ => some nan
        | _ => if strict then none else some nan

/-- The index of accumulator (m, n). -/
def accIx (n i j : Nat) : Nat := (i / 64 * up64 n + j / 64) * 4096 + i % 64 * 64 + j % 64

/-- The places of M × N, in the order of their indices. -/
def accPlaces (m n : Nat) : List (Nat × Nat) :=
  ((List.range (accTiles m n)).map fun t =>
    ((List.range 64).map fun i => (List.range 64).map fun j => (t / up64 n * 64 + i, t % up64 n * 64 + j)).flatten).flatten.filter
    fun (i, j) => decide (i < m) && decide (j < n)

/-- All accumulators after a chunk; `none` where some sum raises F_ARITH. -/
def accsAfter (r : RegionRec) (old : Store W32) (m n : Nat) (as bs : List (List FV)) : Option (Store W32) :=
  (accPlaces m n).mapM fun (i, j) =>
    (chunkAdd r (Store.getD old (accIx n i j) 0#32).toNat (as.getD i []) (bs.getD j [])).map fun v =>
      (accIx n i j, BitVec.ofNat 32 v)

/-- A region with the record that it runs. -/
def State.regionRun (s : State) (gl r : Nat) : Option (Region × MRec × Launch) :=
  match s.glade? gl with
  | none => none
  | some g =>
    match g.regions[r]? with
    | none => none
    | some q =>
      match q.cmd.bind fun mid => g.seqr.find? fun m => decide (m.mid = mid) with
      | none => none
      | some m =>
        match s.launch? m.lid with
        | none => none
        | some x =>
          if m.st = .running ∧ m.page.isNone ∧ x.onFabric ∧ !g.seqrStopped.contains m.lid then some (q, m, x) else none

/-- A fetch that failed (R234). -/
def State.mStop (s : State) (gl : Nat) (m : MRec) : Fetched → State
  | .absent va l => s.mPage gl m (tilePort m.pl) va l
  | .prot => s.mFault gl m .prot
  | .uncorr => s.mFault gl m .memUncorr
  | .held => s
  | .bytes _ => s

/-- Whether a later chunk than c uses a line of an MM's operands (R235). -/
def usedAfter (cw : List W64) (fa fb : MFmt) (c va : Nat) : Bool :=
  let left := mChunks cw - (c + 1)
  let rows (n base ld b : Nat) : Bool := (List.range n).any fun i => overlaps va 64 (base + i * ld + (c + 1) * b) (left * b)
  rows (mM cw) (mAaddr cw) (mLda cw) (blkBytes fa) || rows (mN cw) (mBaddr cw) (mLdb cw) (blkBytes fb)
    || (mfmtScaled fa && rows (mM cw) (mAscl cw) (mChunks cw) 1) || (mfmtScaled fb && rows (mN cw) (mBscl cw) (mChunks cw) 1)

/-- MM_CHUNK (R119, R229, R233): the next chunk of an MM is added to every accumulator in one step, or the weights of a
WLOAD become resident. -/
def State.mmChunk (s : State) (gl r : Nat) : State :=
  match s.regionRun gl r with
  | none => s
  | some (q, m, x) =>
    let cw := m.cw
    let rr := q.rr
    match mKind cw with
    | 1 =>
      let n := min (rr.h + 1) (mChunks cw)
      if q.weights = some (mBaddr cw, mBscl cw, mLdb cw, n) then s
      else match s.wLoadAll gl m x rr ((List.range n).map fun c => (List.range (mN cw)).map fun j => (c, j)).flatten with
        | (.bytes _, s) => s.modRegion gl r fun q =>
            { q with weights := some (mBaddr cw, mBscl cw, mLdb cw, n), pinned := [] }
        | (e, s) => s.mStop gl m e
    | 0 =>
      let c := q.nextChunk
      if mChunks cw ≤ c ∨ q.draining then s
      else
        let left := mK cw - 64 * c
        let cut (l : List (List FV)) : List (List FV) := l.map fun b => b.take left
        let resident := match q.weights with
          | some (b, sc, ld, n) => decide (b = mBaddr cw) && decide (sc = mBscl cw) && decide (ld = mLdb cw) && decide (c < n)
          | none => false
        match s.mBlocks m x rr.npol rr.fmtA (mAaddr cw) (mAscl cw) (mLda cw) c (List.range (mM cw)) with
        | (.error e, s) => s.mStop gl m e
        | (.ok as, s) =>
          let (bres, s) : Except Fetched (List (List FV)) × State :=
            if resident then (.ok (s.wBlocks gl m rr c (mN cw)), s)
            else s.mBlocks m x rr.npol rr.fmtB (mBaddr cw) (mBscl cw) (mLdb cw) c (List.range (mN cw))
          match bres with
          | .error e => s.mStop gl m e
          | .ok bs =>
            match accsAfter rr q.accs (mM cw) (mN cw) (cut as) (cut bs) with
            | none => s.mFault gl m .arith
            | some accs =>
              s.modRegion gl r fun q =>
                { q with accs := accs, chunkIx := q.chunkIx + 1, nextChunk := c + 1,
                         pinned := q.pinned.filter fun p => usedAfter cw rr.fmtA rr.fmtB c p.1,
                         weights := (if resident then q.weights else none),
                         draining := mDrn cw && decide (c + 1 = mChunks cw) }
    | _ => s

/-! ### Drains (R232, R268, R289) -/

/-- The actor input that a route names, if it is configured. -/
def RegionRec.route (r : RegionRec) (k : Nat) : Option (Nat × Nat) := (r.routes.getD k none)

/-- The tokens of one accumulator tile: SOT, its rows, EOT (R232). -/
def tileTokens (q : Region) (m n t : Nat) : List Token :=
  let mb := t / up64 n
  let nb := t % up64 n
  let rows := min 64 (m - 64 * mb)
  let ty : ETy := if intPath q.rr then .i32 else .f32
  let width := min 64 (n - 64 * nb)
  [.ctl .sot] ++ ((List.range rows).map fun i =>
      .data ⟨.vector, mkLanes fun j =>
        if j < width then canonBits ty ((Store.getD q.accs (accIx n (64 * mb + i) (64 * nb + j)) 0#32).setWidth 64) else 0#64,
        ty, prefMask width⟩) ++ [.ctl .eot]

/-- Sends tokens to an actor input while it has room; answers how many went. -/
def sendRoom (pl : PlaneId) (ch : Nat) : List Token → State → Nat → Nat × State
  | [], s, n => (n, s)
  | t :: ts, s, n => if s.inputFree pl ch then sendRoom pl ch ts (s.arriveAt pl ch t) (n + 1) else (n, s)

/-- The route of the next tile: chosen before, ROUTE, or the value of a steering token; `none` where it must wait, an error
where it names no configured route. -/
def Region.nextRoute (q : Region) (cw : List W64) : Option (Except Unit (Nat × Bool)) :=
  match q.drainRoute with
  | some k => some (.ok (k, false))
  | none =>
    if mRstr cw then
      match q.steer.slots with
      | [] => none
      | (_, t) :: _ =>
        match t.num with
        | some v => some (if v < 8 ∧ (q.rr.route v).isSome then .ok (v, true) else .error ())
        | none => some (.error ())
    else some (if (q.rr.route (mRoute cw)).isSome then .ok (mRoute cw, false) else .error ())

/-- DRAIN_TILE (R232): a draining region sends the tokens of its next accumulator tile to the tile's route, as many as
have a free slot; the tile's accumulators become +0 once it has been sent. A region whose steering input has hit a breakpoint
begins no further tile (R96; assumption 42). -/
def State.drainTile (s : State) (gl r : Nat) : State :=
  match s.regionRun gl r with
  | none => s
  | some (q, m, x) =>
    let mm := q.m.getD 0
    if !q.draining ∨ accTiles mm q.n ≤ q.drainPos ∨ (q.brkStop ∧ q.drainRoute.isNone) then s
    else
      let pop (q : Region) : Region := { q with steer := { q.steer with slots := q.steer.slots.drop 1 } }
      match q.nextRoute m.cw with
      | none => s
      | some (.error _) => ((if mRstr m.cw then s.modRegion gl r pop else s)).mFault gl m .shape
      | some (.ok (k, took)) =>
        match (q.rr.route k).bind fun (a, ch) => (x.planeOf a 0).map fun pl => (pl, ch) with
        | none => s.mFault gl m .shape
        | some (pl, ch) =>
          let s := if took then s.modRegion gl r pop else s
          let toks := tileTokens q mm q.n q.drainPos
          let (n, s) := sendRoom pl ch (toks.drop q.drainRow) s 0
          s.modRegion gl r fun q =>
            if q.drainRow + n = toks.length then
              { q with drainPos := q.drainPos + 1, drainRow := 0, drainRoute := none, chunkIx := 0,
                       accs := q.accs.filter fun (i, _) => decide (i / 4096 ≠ q.drainPos) }
            else { q with drainRow := q.drainRow + n, drainRoute := some k }

/-! ### Completion (R231) -/

/-- Whether a running command has done everything. -/
def mDone (q : Region) (cw : List W64) : Bool :=
  let drained := decide (accTiles (q.m.getD 0) q.n ≤ q.drainPos)
  match mKind cw with
  | 0 => if mDrn cw then q.draining && drained else decide (mChunks cw ≤ q.nextChunk)
  | 1 => decide (q.weights = some (mBaddr cw, mBscl cw, mLdb cw, min (q.rr.h + 1) (mChunks cw)))
  | _ => drained

/-- The completion token (R231). -/
def doneToken (cw : List W64) : Token :=
  .data ⟨.vector, mkLanes fun j => if j = 0 then BitVec.ofNat 64 (mTag cw) else 0#64, .u64, 1#64⟩

/-- A completed record sends its completion token, if CEN = 1, and leaves (R231). -/
def State.mRetire (s : State) (gl : Nat) (m : MRec) : State :=
  let out (s : State) : State := s.modGlade gl fun y =>
    { y with seqr := y.seqr.filter fun q => decide (q.mid ≠ m.mid),
             regions := y.regions.map fun q =>
               if q.cmd = some m.mid then { q with cmd := none, draining := false, pinned := [] } else q }
  if m.bad ∨ !mCen m.cw then out s
  else match s.launch? m.lid, (s.glade? gl).map fun g => g.regionsOf m.lid with
    | some x, some (q :: _) =>
      match (q.rr.route (mCrt m.cw)).bind fun (a, ch) => (x.planeOf a 0).map fun pl => (pl, ch) with
      | some (pl, ch) => if s.inputFree pl ch then out (s.arriveAt pl ch (doneToken m.cw)) else s
      | none => out s
    | _, _ => out s

/-- COMMAND_COMPLETION (R231) of a record. -/
def State.mCompletion (s : State) (gl mid : Nat) : State :=
  match (s.glade? gl).bind fun g => g.seqr.find? fun m => decide (m.mid = mid) with
  | none => s
  | some m =>
    if ((s.launch? m.lid).elim false fun x => x.onFabric) then
      match m.st with
      | .completed => s.mRetire gl m
      | .running =>
        match m.region.bind fun r => (s.regionRun gl r).map fun (q, _, _) => (r, q) with
        | some (r, q) =>
          if mDone q m.cw then
            let ends := decide (mKind m.cw = 3) || (decide (mKind m.cw = 0) && mDrn m.cw)
            let s := s.modRegion gl r fun q => if ends then q.free else { q with cmd := none, pinned := [] }
            (s.mComplete gl mid).mRetire gl { m with st := .completed }
          else s
        | none => s
      | _ => s
    else s

end Sys2Proof.Machine
end

