-- ==== Sys2Proof/Machine/Watch.lean ====
section
/-!
DEFINITION. Watching the fabric (05): arming a breakpoint comparator (R96), draining a sample ring (R100), and the trail
walker (R99).
-/
namespace Sys2Proof.Machine

/-- An endpoint with one more armed ordinal; a fifth is refused and leaves it as it is (R96). -/
def Endpoint.arm (e : Endpoint) (ord : BitVec 48) (pre : Bool) : Endpoint :=
  if e.armed.length < 4 then { e with armed := e.armed ++ [(ord, pre)] } else e

/-- One more armed ordinal among the registers that a launch off its planes keeps for consumer copy `j` of channel `ci`. -/
def Launch.keepArm (x : Launch) (ci j : Nat) (ord : BitVec 48) (pre : Bool) : Launch :=
  let here (q : Nat × Nat × List (BitVec 48 × Bool)) : Bool := decide ((q.1, q.2.1) = (ci, j))
  let old := (x.arms.find? here).elim [] (·.2.2)
  if old.length < 4 then { x with arms := x.arms.filter (fun q => !here q) ++ [(ci, j, old ++ [(ord, pre)])] } else x

/-- Arms the endpoint that channel `ci` of a launch reaches at consumer copy `j`: in place where the launch holds planes, else
among the registers that it keeps for its return (R96). -/
def State.armAt (s : State) (l : Nat) (x : Launch) (ci : Nat) (r : ChanRec) (j : Nat) (ord : BitVec 48) (pre : Bool) : State :=
  if x.plane.isSome then s.modEp l x r j fun e => e.arm ord pre else s.modLaunch l fun x => x.keepArm ci j ord pre

/-- The launch that a PRE cut or scanning out keeps off a plane, with the actor and copy that it had there. -/
def State.awayFrom (s : State) (pl : PlaneId) : Option (Nat × Launch × Nat × Nat) :=
  s.launches.findSome? fun (l, y) =>
    if y.plane.isNone && (y.preHeld || y.scanned.isSome) then
      let z : Launch := { y with plane := y.lastPlane }
      (z.copies.find? fun (i, j) => decide (z.planeOf i j = some pl)).map fun (i, j) => (l, y, i, j)
    else none

/-- BREAKPOINT_COMPARATOR_ARM (R96, R293). On a plane that no launch holds an input is armed for the launch that a PRE cut or
scanning out keeps off it, and where there is none for the launch that is loaded into it (R100): DESIGN CHOICE (assumption
42). -/
def State.arm (s : State) (ep : EpId) (ord : BitVec 48) (pre : Bool) : State :=
  let at_ (l : Nat) (pick : ChanRec → Bool) (j : Nat) : State :=
    match s.launch? l with
    | none => s
    | some x =>
      match x.img.chans.zipIdx.find? fun (r, _) => pick r with
      | some (r, ci) => if s.mayDebug x then s.armAt l x ci r j ord pre else s
      | none => s
  match ep with
  | .actor pl ch =>
    let here : State := s.modPlane pl fun p => { p with ins := Store.set p.ins ch ((p.inp ch).arm ord pre) }
    match s.actorOf pl, s.awayFrom pl with
    | some (_, x, _), _ => if s.mayDebug x then here else s
    | none, some (l, _, i, j) => at_ l (fun r => decide (r.ckind = 0 ∧ r.cons = i ∧ r.cep = ch)) j
    | none, none => here
  | .node l n ix => at_ l (fun r => decide (r.ckind = 1 ∧ r.cons = n ∧ r.cep = ix)) 0
  | .steer l q => at_ l (fun r => decide (r.ckind = 2 ∧ r.cons = q)) 0

/-- Drains a glade's sample ring to the debugger's border core (R100, assumption 46); a confidential tenant's only in a session
that it has authorised (R371). -/
def State.drainSamples (s : State) (g : Nat) : State :=
  match s.glade? g with
  | none => s
  | some y =>
    if (s.tenant y.tenant).confidential && !(s.tenant y.tenant).debugOk then s
    else ({ s with debugger := s.debugger ++ y.samples.map Sample.words } : State).modGlade g fun y => { y with samples := [] }

/-! ### The trail walker (R99) -/

/-- The counters of every endpoint of a launch, by channel and consumer copy: CFULL, CEMPTY, CMOVE. -/
def State.chanCounts (s : State) (x : Launch) : List (Nat × Nat × Nat × Nat × Nat) :=
  (x.img.chans.zipIdx.map fun (r, i) =>
    (List.range (x.consCopies r)).map fun j =>
      let e := s.consEp x r j
      (i, j, e.cfull.toNat, e.cempty.toNat, e.cmove.toNat)).flatten

/-- The (channel, consumer copy) pairs that leave or enter an element, lower endpoint number first. -/
def State.trailChans (s : State) (x : Launch) (back : Bool) (e : Elem) : List (Nat × Nat) :=
  let cs := x.img.chans.zipIdx
  let order (f : ChanRec → Nat) (l : List (ChanRec × Nat)) : List (ChanRec × Nat) :=
    ((List.range 16).map fun k => l.filter fun (r, _) => decide (f r = k)).flatten
  match e, back with
  | .actor pl, true =>
    ((order (·.pep) (cs.filter fun (r, _) => decide (r.pkind = 0) && decide (r.prod = (s.plane pl).actor))).map fun (r, i) =>
      (List.range (x.consCopies r)).map fun j => (i, j)).flatten
  | .node n, true =>
    ((order (·.pep) (cs.filter fun (r, _) => decide (r.pkind = 1) && decide (r.prod = n))).map fun (r, i) =>
      (List.range (x.consCopies r)).map fun j => (i, j)).flatten
  | .actor pl, false =>
    (order (·.cep) (cs.filter fun (r, _) => decide (r.ckind = 0) && decide (r.cons = (s.plane pl).actor))).map fun (_, i) =>
      (i, (s.plane pl).copy)
  | .node n, false =>
    (order (·.cep) (cs.filter fun (r, _) => decide (r.ckind = 1) && decide (r.cons = n))).map fun (_, i) => (i, 0)

/-- What three counters of a channel have gained over the window: CFULL, CEMPTY, CMOVE. -/
def Trail.gain (t : Trail) (ij : Nat × Nat) : Nat × Nat × Nat :=
  let get (l : List (Nat × Nat × Nat × Nat × Nat)) : Nat × Nat × Nat :=
    match l.find? fun (i, j, _) => decide ((i, j) = ij) with
    | some (_, _, f, e, m) => (f, e, m)
    | none => (0, 0, 0)
  let (f1, e1, m1) := get (t.last.getD [])
  let (f0, e0, m0) := get t.base
  (f1 - f0, e1 - e0, m1 - m0)

/-- A gain in percent of the window, rounded down: DESIGN CHOICE (assumption 42). -/
def Trail.pct (t : Trail) (n : Nat) : Nat := n * 100 / t.window

/-- Where a walk goes over a channel: the next element, or why it ends. A back-pressure walk that reaches a region's steering
input ends with MEMORY; a starvation walk that reaches a timer or the fault network ends with SOURCE, a service response with
HOST, a region's route with MEMORY: DESIGN CHOICE (assumption 42). -/
def trailNext (x : Launch) (back : Bool) (r : ChanRec) (j : Nat) (copy : Nat) : Except TrailEnd Elem :=
  if back then
    match r.ckind with
    | 0 => match x.planeOf r.cons j with | some pl => .ok (.actor pl) | none => .error .limit
    | 1 => .ok (.node r.cons)
    | _ => .error .memory
  else
    match r.pkind with
    | 0 =>
      let n := match x.img.actors[r.prod]? with | some a => a.repl | none => 1
      match x.planeOf r.prod (if copy < n then copy else 0) with
      | some pl => .ok (.actor pl)
      | none => .error .limit
    | 1 => .ok (.node r.prod)
    | 3 | 7 => .error .memory
    | 6 => .error .host
    | _ => .error .source

/-- Follows the direction from an element; `hops` bounds the walk. The channel with the highest counter is taken, the first in
the order of the endpoints on a tie; below half of the window the element sets the rate. -/
def State.trailGo (s : State) (x : Launch) (t : Trail) : Nat → Elem → List TrailLine → List TrailLine × TrailEnd
  | 0, _, ls => (ls, .hops)
  | hops + 1, e, ls =>
    let key (ij : Nat × Nat) : Nat := let (f, m, _) := t.gain ij; if t.back then f else m
    let best := (s.trailChans x t.back e).foldl (fun (b : Option (Nat × Nat)) ij =>
      match b with
      | none => some ij
      | some c => if key c < key ij then some ij else some c) none
    match best with
    | none => (ls ++ [⟨e, none, 0, 0, 0⟩], .limit)
    | some (i, j) =>
      let (f, m, v) := t.gain (i, j)
      let ls := ls ++ [⟨e, some (i, j), t.pct f, t.pct m, t.pct v⟩]
      if 2 * key (i, j) < t.window then (ls, .limit)
      else match x.img.chans[i]? with
        | none => (ls, .limit)
        | some r =>
          match trailNext x t.back r j j with
          | .error w => (ls, w)
          | .ok e' => if ls.any fun q => decide (q.elem = e') then (ls, .cycle) else s.trailGo x t hops e' ls

/-- The counters at the end of the window, which the walk reads, are taken in the cycle in which it ends. -/
def State.trailTick (s : State) : State :=
  match s.trail with
  | some t =>
    match s.launch? t.lid with
    | some x =>
      if t.last.isNone ∧ t.window ≤ (s.cycle x.glade - t.since).toNat then
        { s with trail := some { t with last := some (s.chanCounts x) } }
      else s
    | none => s
  | none => s

/-- TRAIL_WALK (R99): the first step takes the counters and opens the window; a step after the window's end walks and
leaves the report. A window of 0 stands for the default of 65,536 cycles. -/
def State.trailWalk (s : State) (l : Nat) (e : Elem) (back : Bool) (w : Nat) : State :=
  match (s.launch? l).filter s.mayDebug with
  | none => s
  | some x =>
    let w := if w = 0 then 65536 else w
    let new : State :=
      { s with trail := some { lid := l, start := e, back := back, window := w, since := s.cycle x.glade, base := s.chanCounts x } }
    match s.trail with
    | some t =>
      if t.lid = l ∧ t.start = e ∧ t.back = back ∧ t.window = w ∧ t.reason = none then
        if t.last.isNone then s
        else
          let (ls, why) := s.trailGo x t 64 e []
          { s with trail := some { t with lines := ls, reason := some why } }
      else new
    | none => new

end Sys2Proof.Machine
end

