-- ==== Sys2Proof/Machine/Image.lean ====
section
/-!
DEFINITION. Graph images (12 R259 to R268): reading the records, and the loader's checks in their order (R269 to R271)
with their error codes (R270).
-/
namespace Sys2Proof.Machine

/-! ### Reading records -/

/-- The little-endian number of the n bytes of a record at an offset. -/
def imgRec (bs : List Byte) (off n : Nat) : Nat := leNat ((bs.drop off).take n)
def bit1 (x k : Nat) : Bool := decide (bitsOf x k k = 1)
/-- A 12-bit or wider index field, none where it holds the given code. -/
def idxOf (x none_ : Nat) : Option Nat := if x = none_ then none else some x

/-- A task record (R263). -/
def parseTask (r : Nat) : TaskRec :=
  { entry := BitVec.ofNat 16 (bitsOf r 15 0), bind := bitsOf r 19 16,
    kind := (match bitsOf r 21 20 with | 0 => .aligned | 1 => .unaligned | _ => .control), svcr := bitsOf r 24 22,
    irate := (List.range 16).map fun j => bitsOf r (34 + 3 * j) (32 + 3 * j),
    orate := (List.range 16).map fun j => bitsOf r (82 + 3 * j) (80 + 3 * j) }

/-- An actor record (R262) with its task records; sizes in bytes. -/
def parseActor (r : Nat) (tasks : List Nat) : ActorRec :=
  let cl := bitsOf r 303 288
  let a : ActorRec :=
    { col := bitsOf r 6 0, row := bitsOf r 12 7, plane := bitsOf r 14 13, repl := bitsOf r 20 15 + 1, colwise := bit1 r 21,
      eosp := bitsOf r 23 22, align := BitVec.ofNat 16 (bitsOf r 47 32), timer := BitVec.ofNat 16 (bitsOf r 63 48),
      fault := BitVec.ofNat 16 (bitsOf r 79 64), dlin := (if bit1 r 84 then some (bitsOf r 83 80) else none),
      own := BitVec.ofNat 4 (bitsOf r 88 85), nbr := BitVec.ofNat 4 (bitsOf r 92 89), level := bitsOf r 95 93,
      npol := BitVec.ofNat 32 (bitsOf r 127 96), shBase := bitsOf r 131 128 * 4096, shSize := bitsOf r 136 132 * 4096,
      roEnd := bitsOf r 152 137, ident := BitVec.ofNat 64 (bitsOf r 255 192), code := bitsOf r 287 256,
      clen := (if cl = 0 then 65536 else cl), ninit := bitsOf r 310 304, tasks := tasks.map parseTask }
  a

/-- A channel record (R264). -/
def parseChan (r : Nat) : ChanRec :=
  { pkind := bitsOf r 2 0, prod := bitsOf r 14 3, pep := bitsOf r 18 15, ckind := bitsOf r 20 19, cons := bitsOf r 32 21,
    cep := bitsOf r 36 33, shape := bitsOf r 38 37, dtag := bitsOf r 42 39, prio := bitsOf r 45 43, fifo := bitsOf r 57 46,
    fcol := bitsOf r 64 58, frow := bitsOf r 70 65 }

/-- A node record (R265). -/
def parseNode (r : Nat) : NodeRec :=
  { nkind := bitsOf r 3 0, mode := bit1 r 4, eosp := bitsOf r 6 5, npath := bitsOf r 9 7, col := bitsOf r 16 10,
    row := bitsOf r 22 17, slot := bitsOf r 23 23, depth := bitsOf r 31 24, ident := BitVec.ofNat 64 (bitsOf r 127 64) }

/-- A stream record (R50, R266). -/
def parseStream (r : Nat) : StreamRec :=
  let b := r / 2 ^ 512
  let s : StreamRec :=
    { ver := bitsOf r 3 0, back := bitsOf r 5 4, fsz := bit1 r 6, esz := bitsOf r 9 7, hostp := bit1 r 10,
      hostr := BitVec.ofNat 4 (bitsOf r 14 11), nrd := bitsOf r 16 15, log2e := bitsOf r 26 22, nfrm := bitsOf r 47 32,
      start := BitVec.ofNat 32 (bitsOf r 95 64), base := bitsOf r 175 128, stall := BitVec.ofNat 32 (bitsOf r 479 448),
      handle := bitsOf b 5 0, pcol := bitsOf b 12 6, pedge := bit1 b 13, port := bitsOf b 15 14,
      lead := BitVec.ofNat 32 (bitsOf b 63 32), writer := bitsOf b 75 64,
      rdrs := (List.range 4).map fun k => bitsOf b (87 + 12 * k) (76 + 12 * k), etag := bitsOf b 127 124 }
  s

/-- A window entry (R267). -/
def parseWin (r : Nat) : WinRec :=
  { vbase := bitsOf r 47 0, col := bitsOf r 54 48, edge := bit1 r 55, port := bitsOf r 57 56, ent := bitsOf r 60 58,
    npg := bitsOf r 119 100, wr := bit1 r 120 }

/-- A region record (R268). -/
def parseRegion (r : Nat) : RegionRec :=
  { col := bitsOf r 6 0, row := bitsOf r 12 7, wc := bitsOf r 19 13, h := bitsOf r 24 20, acct := bitsOf r 28 25,
    npol := BitVec.ofNat 32 (bitsOf r 63 32), steer := idxOf (bitsOf r 79 64) 0xFFFF,
    routes := (List.range 8).map fun i =>
      let v := bitsOf r (287 + 32 * i) (256 + 32 * i)
      if bit1 v 16 then some (bitsOf v 11 0, bitsOf v 15 12) else none }

/-- The raw records of an image: actors with their tasks, then the other tables. -/
structure Raw where
  actors : List (Nat × List Nat)
  chans : List Nat
  nodes : List Nat
  streams : List Nat
  wins : List Nat
  regions : List Nat
  deriving Repr

/-- The actor table: records of 64 bytes, each followed by its task records of 32; with the bytes it takes. -/
def actorTable (bs : List Byte) : Nat → Nat → List (Nat × List Nat) × Nat
  | 0, off => ([], off)
  | n + 1, off =>
    let r := imgRec bs off 64
    let nt := bitsOf r 26 24 + 1
    let ts := (List.range nt).map fun i => imgRec bs (off + 64 + 32 * i) 32
    let (t, e) := actorTable bs n (off + 64 + 32 * nt)
    ((r, ts) :: t, e)

def table (bs : List Byte) (off n size : Nat) : List Nat := (List.range n).map fun i => imgRec bs (off + size * i) size

/-! ### The checks (R269, R270) -/

def cfgImage : Nat := 0x01
def cfgPlace : Nat := 0x02
def cfgTasks : Nat := 0x03
def cfgCapacity : Nat := 0x04
def cfgBalance : Nat := 0x05
def cfgEospol : Nat := 0x06
def cfgChan : Nat := 0x07
def cfgNode : Nat := 0x08
def cfgStream : Nat := 0x09
def cfgWindow : Nat := 0x0A
def cfgQdepth : Nat := 0x0B
def cfgFormat : Nat := 0x0C
def cfgNpol : Nat := 0x0D
def cfgRoute : Nat := 0x0E

/-- A refusal: its code, the kind of the record (0 header, 1 actor, 2 task, 3 channel, 4 node, 5 stream, 6 window,
7 region, 8 the graph) and the record's index. -/
abbrev CfgErr := Nat × Nat × Nat

/-- The code of the first condition that holds. -/
def firstBad : List (Bool × Nat) → Option Nat
  | [] => none
  | (b, c) :: t => if b then some c else firstBad t

/-- The first refusal of a table in record order. -/
def firstErr {α : Type} (kind : Nat) (chk : Nat → α → Option Nat) (l : List α) : Option CfgErr :=
  (l.zipIdx.findSome? fun (x, i) => (chk i x).map fun c => (c, kind, i))

/-- Whether two byte ranges meet. -/
def meets (a b : Nat × Nat) : Bool := decide (0 < a.2) && decide (0 < b.2) && decide (a.1 < b.1 + b.2) && decide (b.1 < a.1 + a.2)

/-- Header, offsets and table bounds (step 1). `width` is the glade's width in columns. -/
def checkHeader (h : Nat) (bs : List Byte) (width : Nat) : Option Nat :=
  let w := bitsOf h 26 20
  let nact := bitsOf h 47 36
  let offs := [bitsOf h 159 128, bitsOf h 191 160, bitsOf h 223 192, bitsOf h 255 224, bitsOf h 287 256, bitsOf h 319 288,
    bitsOf h 351 320]
  let len := bitsOf h 383 352
  let aend := (actorTable bs nact (bitsOf h 159 128)).2
  let ranges : List (Nat × Nat) :=
    [(0, 64), (bitsOf h 159 128, aend - bitsOf h 159 128), (bitsOf h 191 160, 32 * bitsOf h 63 48),
     (bitsOf h 223 192, 32 * bitsOf h 75 64), (bitsOf h 255 224, 128 * bitsOf h 83 76), (bitsOf h 287 256, 64 * bitsOf h 87 84),
     (bitsOf h 319 288, 16 * bitsOf h 100 88)]
  let nsrc := ((table bs (bitsOf h 191 160) (bitsOf h 63 48) 32).filter fun r => decide (bitsOf r 2 0 = 2)).length
  if [decide (bitsOf h 15 0 ≠ 0x4A47), decide (bitsOf h 19 16 ≠ 1), decide (w ≠ width), decide (w % 4 ≠ 0), decide (w < 4),
      decide (96 < w), decide (bitsOf h 31 27 ≠ 0), decide (nact = 0), decide (64 < bitsOf h 83 76), decide (8 < bitsOf h 87 84),
      decide (6144 < bitsOf h 100 88), decide (bitsOf h 127 101 ≠ 0), offs.any fun o => decide (o % 64 ≠ 0) || decide (len < o),
      decide (bitsOf h 511 384 ≠ 0), ranges.any fun (o, n) => decide (len < o + n),
      ranges.zipIdx.any fun (a, i) => (ranges.drop (i + 1)).any (meets a),
      decide (nsrc ≠ bitsOf h 35 32 + 1)].any id
  then some cfgImage else none

/-- The refusals of a number policy word, lowest bit upward (R106); `qfmt` are those of an actor's QFMT. -/
def npolBad (n : Nat) (qfmt : List (Bool × Nat)) : List (Bool × Nat) :=
  [(decide (bitsOf n 3 2 = 3), cfgNpol), (bit1 n 7, cfgNpol), (decide (10 ≤ bitsOf n 11 8), cfgFormat),
   (decide (10 ≤ bitsOf n 15 12), cfgFormat)] ++ qfmt ++ [(decide (bitsOf n 31 20 ≠ 0), cfgNpol)]

/-! ### An actor's instructions (assumption 19) -/

/-- The instructions of the block at an address of an actor's code, with the address after it. -/
def imgBlock (code : List Byte) (base a : Nat) : Option (List Instr × Nat) :=
  let off := a - base
  let word (i : Nat) : Nat := imgRec code (off + 4 * i) 4
  let h := word 0
  if a < base ∨ code.length < off + 8 ∨ bitsOf h 31 24 ≠ 0xB5 ∨ bitsOf h 23 19 ≠ 2 then none
  else
    let ni := bitsOf h 5 0 + 1
    let len := (ni + 2) / 2 * 8 + 8 * bitsOf h 15 12
    if code.length < off + len then none
    else some (blockInstrs ((List.range ni).map fun i => BitVec.ofNat 32 (word (i + 1))), a + len)

/-- The addresses that a block's exits name. -/
def exitsOf (a after : Nat) : Instr → List Nat
  | .br _ imm | .pyield _ imm => [(BitVec.ofNat 16 a + (imm.signExtend 16 <<< 3)).toNat]
  | .call _ imm => [(BitVec.ofNat 16 a + (imm.signExtend 16 <<< 3)).toNat, after % 2 ^ 16]
  | _ => []

/-- The instructions of the blocks reached from a list of addresses. -/
def reachBlocks (code : List Byte) (base : Nat) : Nat → List Nat → List Nat → List (List Instr)
  | 0, _, _ => []
  | _, [], _ => []
  | n + 1, a :: t, seen =>
    if seen.contains a then reachBlocks code base n t seen
    else match imgBlock code base a with
      | none => reachBlocks code base n t (a :: seen)
      | some (is, after) => is :: reachBlocks code base n (t ++ (is.map (exitsOf a after)).flatten) (a :: seen)

def isBri : Instr → Bool | .bri _ => true | _ => false
def isRet : Instr → Bool | .ret _ => true | _ => false
/-- Whether an instruction gives the link register s63 a value other than a CALL's link. -/
def putsLink : Instr → Bool | .put _ h => decide (h.toNat = 63) | _ => false

/-- The blocks that stand one after another in a code area: what a BRI, whose target is a value, may reach. -/
def scanBlocks (code : List Byte) (base : Nat) : Nat → Nat → List (List Instr)
  | 0, _ => []
  | n + 1, a =>
    if base + code.length ≤ a then []
    else match imgBlock code base a with
      | none => scanBlocks code base n (a + 8)
      | some (is, after) => is :: scanBlocks code base n after

/-- The blocks reached from some entries of an actor's code; every block of the code besides where one of them holds a BRI, or a
RET while `link` says that s63 starts with a value of the image's or one of them puts a value into it (assumption 19). -/
def blocksFrom (code : List Byte) (base : Nat) (link : Bool) (entries : List Nat) : List (List Instr) :=
  let n := 4 * (code.length / 8 + 1)
  let bs := reachBlocks code base n entries []
  let anyIs (p : Instr → Bool) : Bool := bs.any fun is => is.any p
  if anyIs isBri || (anyIs isRet && (link || anyIs putsLink)) then bs ++ scanBlocks code base n base else bs

/-- An actor's code bytes. -/
def actorCode (bs : List Byte) (codeoff : Nat) (a : ActorRec) : List Byte := (bs.drop (codeoff + a.code)).take a.clen

/-- Whether an actor's initial registers give s63 a value (R262). -/
def initsLink (bs : List Byte) (codeoff : Nat) (a : ActorRec) : Bool :=
  (List.range a.ninit).any fun i => decide (imgRec bs (codeoff + a.code + a.clen + 16 * i) 8 % 64 = 63)

/-- The blocks of an actor. -/
def actorBlocks (bs : List Byte) (codeoff : Nat) (a : ActorRec) : List (List Instr) :=
  blocksFrom (actorCode bs codeoff a) a.shBase (initsLink bs codeoff a) (a.tasks.map fun t => t.entry.toNat)

/-- The outputs on which some blocks hold a SENDC of a kind other than NULL (R155). -/
def sendcMask (bs : List (List Instr)) : BitVec 16 :=
  bs.flatten.foldl (fun m i => match i with
    | .sendc _ c k => if k.toNat = 7 then m else m ||| (1#16 <<< c.toNat)
    | _ => m) 0#16

/-- An actor with the control outputs of its tasks (R155). -/
def ActorRec.withCtl (bs : List Byte) (codeoff : Nat) (a : ActorRec) : ActorRec :=
  let code := actorCode bs codeoff a
  { a with tasks := a.tasks.map fun t => { t with ctl := sendcMask (blocksFrom code a.shBase (initsLink bs codeoff a) [t.entry.toNat]) } }

def isVqnt : Instr → Bool | .vqnt _ _ _ _ => true | _ => false
def isVcbq : Instr → Bool | .vcbq _ _ _ _ => true | _ => false
def isVdqnt : Instr → Bool | .vdqnt _ _ _ => true | _ => false
/-- Vector reductions (R182, R183): the instructions that reduce lanes to one value. -/
def isReduction : Instr → Bool
  | .vrsum _ _ _ _ | .vrmin _ _ _ _ | .vrmax _ _ _ _ | .vamax _ _ _ _ => true
  | _ => false
def isVamax : Instr → Bool | .vamax _ _ _ _ => true | _ => false

/-! ### Actors and tasks -/

/-- The tiles that an actor covers, glade-relative. -/
def ActorRec.places (a : ActorRec) : List (Nat × Nat) := (List.range a.repl).map (copyTile 0 a)

/-- An actor record (step 2), lowest bit upward; `r` holds its raw bits. An actor with a fault input is a handler actor, whose
LEVEL must be HANDLER (R283). -/
def checkActor (bs : List Byte) (codeoff width plane0 : Nat) (cs : List ChanRec) (i r : Nat) (a : ActorRec) : Option Nat :=
  let is := (actorBlocks bs codeoff a).flatten
  let q := bitsOf a.npol.toNat 19 16
  let ins (k : Nat) : List Nat := (cs.filter fun c => decide (c.pkind = k) && decide (c.ckind = 0) && decide (c.cons = i)).map (·.cep)
  firstBad (
    [(!isCompute a.col a.row, cfgPlace), (a.places.any fun (c, w) => decide (width ≤ c) || decide (63 < w), cfgPlace),
     (decide (a.plane ≠ plane0), cfgPlace), (decide (a.eosp = 3), cfgEospol), (decide (bitsOf r 31 27 ≠ 0), cfgPlace),
     ((ins 3 ++ ins 6).any fun j => a.align.getLsbD j, cfgTasks), (decide (a.align &&& a.timer ≠ 0#16), cfgTasks),
     (decide (a.align &&& a.fault ≠ 0#16), cfgTasks), (a.dlin.any fun j => !a.timer.getLsbD j, cfgTasks),
     (decide (a.fault ≠ 0#16) && decide (a.level ≠ 1), cfgTasks), (decide (1 < a.level), cfgPlace)]
    ++ npolBad a.npol.toNat [(is.any isVqnt && (decide (q < 2) || decide (6 < q)), cfgFormat),
        (is.any isVcbq && decide (q ≠ 7), cfgFormat), (is.any isVdqnt && (decide (q < 2) || decide (7 < q)), cfgFormat)]
    ++ [(decide (a.shSize = 0) || decide (65536 < a.shSize) || decide (65536 < a.shBase + a.shSize), cfgPlace),
        (decide (bitsOf r 191 153 ≠ 0), cfgPlace), (decide (bs.length < codeoff + a.code + a.clen + 16 * a.ninit), cfgImage),
        (decide (a.clen % 8 ≠ 0) || decide (a.shSize < a.clen), cfgTasks), (decide (64 < a.ninit), cfgPlace),
        (decide (bitsOf r 511 311 ≠ 0), cfgPlace)])

/-- A task record (step 2): task `k` of actor `i`, lowest bit upward, with what R20 and R30 ask of its kind and rates. -/
def checkTask (cs : List ChanRec) (i : Nat) (a : ActorRec) (k r : Nat) (t : TaskRec) : Option Nat :=
  let ctl := decide (t.kind = .control)
  let outs := (cs.filter fun c => decide (c.pkind = 0) && decide (c.prod = i)).map (·.pep)
  let rate (j : Nat) : Nat := t.irate.getD j 0
  let twice := decide (t.kind ≠ .unaligned) && (a.tasks.take k).any fun q => decide (q.kind = t.kind)
  let inBad : Bool := match t.kind with
    | .control => t.irate.any fun n => decide (n ≠ 0)
    | .aligned => decide (rate t.bind = 0) || (List.range 16).any fun j =>
        if a.align.getLsbD j then decide (rate j = 0) || (decide (1 < a.repl) && decide (rate j ≠ 1)) else decide (rate j ≠ 0)
    | .unaligned => decide (rate t.bind = 0) || (List.range 16).any fun j => a.align.getLsbD j && decide (rate j ≠ 0)
  let outBad : Bool := decide (1 < a.repl) && match t.kind with
    | .control => false
    | .aligned => outs.any fun o => decide (t.orate.getD o 0 ≠ 1)
    | .unaligned => outs.any fun o => decide (t.orate.getD o 0 ≠ 0)
  firstBad
    [(decide (t.entry.toNat % 8 ≠ 0) || decide (t.entry.toNat < a.shBase) || decide (a.shBase + a.shSize ≤ t.entry.toNat), cfgTasks),
     (ctl && decide (t.bind ≠ 0), cfgTasks), (decide (bitsOf r 21 20 = 3) || twice, cfgTasks),
     (decide (4 < t.svcr) || (ctl && decide (t.svcr ≠ 0)), cfgTasks), (decide (bitsOf r 31 25 ≠ 0), cfgTasks),
     ((t.irate.any fun n => decide (4 < n)) || inBad, cfgTasks), ((t.orate.any fun n => decide (4 < n)) || outBad, cfgTasks),
     (decide (bitsOf r 255 128 ≠ 0), cfgTasks)]

/-- What is wrong with an actor's tasks as a whole: a replicated actor without an aligned task (R30). -/
def checkMix (a : ActorRec) : Option Nat :=
  if decide (1 < a.repl) && a.tasks.all fun t => decide (t.kind ≠ .aligned) then some cfgTasks else none

/-- An actor record with its tasks, and then their mix. A task is named by its number among all task records of the table, of
which `ntask` stand before this actor's (assumption 19). -/
def checkActorAll (bs : List Byte) (codeoff width plane0 : Nat) (cs : List ChanRec) (i ntask : Nat) (raw : Nat × List Nat) : Option CfgErr :=
  let a := parseActor raw.1 raw.2
  match checkActor bs codeoff width plane0 cs i raw.1 a with
  | some c => some (c, 1, i)
  | none =>
    match firstErr 2 (fun k r => checkTask cs i a k r (parseTask r)) raw.2 with
    | some (c, k, t) => some (c, k, ntask + t)
    | none => (checkMix a).map fun c => (c, 1, i)

/-! ### Channels and nodes -/

/-- Inputs and outputs of a node (R265). -/
def NodeRec.nins (n : NodeRec) : Nat :=
  match n.nkind with
  | 0 => 2
  | 1 => n.npath + 1 + (if n.mode then 1 else 0)
  | 2 | 3 => 2
  | _ => 1
def NodeRec.nouts (n : NodeRec) : Nat := match n.nkind with | 0 => n.npath + 1 | 3 => 3 | _ => 1

/-- Whether the shapes of a node's channels agree with its kind: data keeps its shape, steering, predicates,
coordinates and ordinals are SCALAR. -/
def shapeBad (cs : List ChanRec) (ns : List NodeRec) (c : ChanRec) : Bool :=
  let input (n : Nat) : Option Nat := (cs.find? fun d => decide (d.ckind = 1) && decide (d.cons = n) && decide (d.cep = 0)).map (·.shape)
  let side (n : NodeRec) : Bool :=
    match n.nkind with
    | 0 | 2 => decide (c.cep = 1)
    | 1 => n.mode && decide (c.cep = n.npath + 1)
    | 3 => true
    | _ => false
  (decide (c.ckind = 1) && match ns[c.cons]? with
    | some n => if side n then decide (c.shape ≠ 0)
        else (n.nkind = 1) && (input c.cons).any fun h => decide (h ≠ c.shape)
    | none => false)
  || (decide (c.pkind = 1) && match ns[c.prod]? with
    | some n => if n.nkind = 3 then decide (c.shape ≠ 0) else (input c.prod).any fun h => decide (h ≠ c.shape)
    | none => false)

/-- A channel record (step 3). A fault channel's SHAPE has no effect (R376). -/
def checkChan (width : Nat) (as : List ActorRec) (ns : List NodeRec) (nreg : Nat) (cs : List ChanRec) (i : Nat) (rc : Nat × ChanRec) :
    Option Nat :=
  let c := rc.2
  let earlier := cs.take i
  let consA := if c.ckind = 0 then as[c.cons]? else none
  firstBad
    [(match c.pkind with
      | 0 => decide (as.length ≤ c.prod)
      | 1 => match ns[c.prod]? with | some n => decide (n.nouts ≤ c.pep) | none => true
      | 7 => decide (nreg ≤ c.prod) || decide (7 < c.pep)
      | _ => decide (c.prod ≠ 0xFFF), cfgChan),
     (match c.ckind with
      | 0 => decide (as.length ≤ c.cons)
      | 1 => match ns[c.cons]? with | some n => decide (n.nins ≤ c.cep) | none => true
      | 2 => decide (nreg ≤ c.cons)
      | _ => true, cfgChan),
     (earlier.any fun d => decide (d.ckind = c.ckind) && decide (d.cons = c.cons) && (decide (c.ckind = 2) || decide (d.cep = c.cep)), cfgChan),
     (decide (c.pkind = 0 ∨ c.pkind = 1) && decide (4 ≤ (earlier.filter fun d =>
        decide (d.pkind = c.pkind) && decide (d.prod = c.prod) && decide (d.pep = c.pep)).length), cfgChan),
     (consA.any fun a => (a.timer.getLsbD c.cep != decide (c.pkind = 4)) || (a.fault.getLsbD c.cep != decide (c.pkind = 5)), cfgChan),
     (decide (4 ≤ c.pkind ∧ c.pkind ≤ 6) && decide (c.ckind ≠ 0), cfgChan),
     (decide (c.pkind = 2) && (consA.any fun a => !a.align.getLsbD c.cep), cfgChan),
     (decide (c.shape = 3), cfgChan),
     ((decide (c.pkind = 2) || decide (c.pkind = 4) || decide (c.pkind = 6) || decide (c.ckind = 2)) && decide (c.shape ≠ 0), cfgChan),
     (shapeBad cs ns c, cfgChan), (decide (c.dtag = 13 ∨ c.dtag = 14), cfgChan),
     (decide (c.fifo ≠ 0) && (isCompute c.fcol c.frow || decide (width ≤ c.fcol)), cfgPlace),
     (decide (bitsOf rc.1 255 71 ≠ 0), cfgChan)]

/-- A node record (step 4). -/
def checkNode (width : Nat) (cs : List ChanRec) (i : Nat) (rn : Nat × NodeRec) : Option Nat :=
  let n := rn.2
  firstBad
    [(decide (5 ≤ n.nkind), cfgNode), (n.mode && decide (n.nkind = 0 ∨ n.nkind = 4), cfgNode), (decide (n.eosp = 3), cfgEospol),
     (decide (n.npath ≠ 0) && decide (2 ≤ n.nkind), cfgNode), (isCompute n.col n.row || decide (width ≤ n.col), cfgPlace),
     (decide (n.depth ≠ 0) && decide (n.nkind ≠ 4), cfgNode), (decide (bitsOf rn.1 63 32 ≠ 0), cfgNode),
     (decide (bitsOf rn.1 255 128 ≠ 0), cfgNode),
     ((List.range n.nins).any fun k => !(cs.any fun c => decide (c.ckind = 1) && decide (c.cons = i) && decide (c.cep = k)), cfgNode)]

/-! ### Streams, windows, regions -/

/-- A stream record (step 5), lowest bit upward. Its writer and readers are actors of the image or the host: R266 gives no field
that names an actor of another graph, so no stream joins two launches of a group (R38). A FIFO stream whose BASE byte offset is
not a multiple of 8, one with E = 1, and a HOSTR bit beyond NRD are refused with CFG_STREAM, where R50 and R51 give no code or say
nothing: DESIGN CHOICE (assumption 42). -/
def checkStream (width : Nat) (as : List ActorRec) (ss : List StreamRec) (i : Nat) (rs : Nat × StreamRec) : Option Nat :=
  let r := rs.1
  let s := rs.2
  let e := 2 ^ s.log2e
  let hosts := (if s.hostp then 1 else 0) + ((List.range 4).filter fun j => s.hostr.getLsbD j).length
  let curs := (List.range (s.nrd + 1)).map fun j => (bitsOf r (223 + 64 * j) (192 + 64 * j), bitsOf r (255 + 64 * j) (224 + 64 * j))
  let fcol := bitsOf s.base 31 25
  let frow := bitsOf s.base 24 19
  let actorBad (a : Nat) : Bool := decide (as.length ≤ a)
  let rd (k : Nat) : Nat := s.rdrs.getD k 0xFFF
  firstBad
    [(decide (s.ver ≠ 1), cfgStream), (decide (1 < s.back), cfgStream), (s.fsz && s.isFifo, cfgStream), (decide (6 ≤ s.esz), cfgStream),
     (decide (1 < hosts) || (s.isFifo && decide (hosts ≠ 0)), cfgStream),
     ((List.range 4).any fun j => s.hostr.getLsbD j && decide (s.nrd < j), cfgStream),
     (if s.isFifo then decide (s.log2e = 0) else decide (e * eszBytes s.esz ≠ s.frameBytes), cfgStream),
     (decide (s.nfrm = 0), cfgStream), (decide (2 ^ 30 < s.cap), cfgWindow), (decide (s.start.toNat % e ≠ 0), cfgStream),
     (decide (bitsOf r 127 96 ≠ s.start.toNat), cfgStream),
     (if s.isFifo then decide (bitsOf s.base 18 0 % 8 ≠ 0) else decide (s.base % s.frameBytes ≠ 0), cfgStream),
     (s.isFifo && decide (2 ^ 19 < bitsOf s.base 18 0 + s.nfrm * s.frameBytes), cfgWindow),
     (s.isFifo && (isCompute fcol frow || decide (width ≤ fcol)), cfgPlace),
     (s.isFifo && decide (bitsOf s.base 47 32 ≠ 0), cfgStream),
     (curs.any fun (a, b) => decide (a ≠ s.start.toNat) || decide (b ≠ s.start.toNat), cfgStream),
     ((ss.take i).any fun t => decide (t.handle = s.handle), cfgStream),
     (if s.isFifo then decide (s.pcol ≠ 0) || s.pedge || decide (s.port ≠ 0) else decide (width ≤ s.pcol), cfgStream),
     (decide (bitsOf r 543 528 ≠ 0), cfgStream), (decide (s.cap + 1 < s.lead.toNat + e), cfgWindow),
     (if s.hostp then decide (s.writer ≠ 0xFFF) else actorBad s.writer, cfgStream),
     ((List.range 4).any fun k =>
        if s.nrd < k ∨ s.hostr.getLsbD k = true then decide (rd k ≠ 0xFFF)
        else actorBad (rd k) || (List.range k).any fun m => decide (rd m = rd k), cfgStream),
     (decide (12 < s.etag), cfgStream), (decide (bitsOf r 1023 640 ≠ 0), cfgStream)]

/-- A window entry (step 5). -/
def checkWin (width : Nat) (ws : List WinRec) (i : Nat) (rw_ : Nat × WinRec) : Option Nat :=
  let w := rw_.2
  firstBad
    [(decide (w.vbase % 2 ^ 16 ≠ 0), cfgWindow), (decide (width ≤ w.col), cfgWindow),
     ((ws.take i).any fun v => decide ((v.col, v.edge, v.port, v.ent) = (w.col, w.edge, w.port, w.ent)), cfgWindow),
     (decide (bitsOf rw_.1 63 61 ≠ 0), cfgWindow), (decide (w.npg = 0), cfgWindow), (decide (bitsOf rw_.1 127 123 ≠ 0), cfgWindow)]

/-- Whether a route names an unaligned VECTOR input that its channel record feeds from a region's route i. -/
def routeOk (as : List ActorRec) (cs : List ChanRec) (i a j : Nat) : Bool :=
  (as[a]?.any fun r => !r.align.getLsbD j)
    && cs.any fun c => decide (c.ckind = 0) && decide (c.cons = a) && decide (c.cep = j) && decide (c.pkind = 7) && decide (c.pep = i)
      && decide (c.shape = 1)

/-- A region record (step 6); `others` are the regions that other launches have in the glade (R228). -/
def checkRegion (width : Nat) (as : List ActorRec) (cs : List ChanRec) (qs others : List RegionRec) (i : Nat) (rq : Nat × RegionRec) :
    Option Nat :=
  let q := rq.2
  let before_ := qs.take i ++ others
  firstBad (
    [(decide (width < q.col + q.wc + 1), cfgPlace), (decide (q.row % 2 ≠ 0) || decide (63 < q.row + 2 * q.h + 1), cfgPlace),
     (decide (bitsOf rq.1 31 29 ≠ 0), cfgPlace)]
    ++ npolBad q.npol.toNat []
    ++ [(before_.any fun p => decide (p.npol ≠ q.npol), cfgFormat),
        (match q.steer with
          | some c => !(cs[c]?.any fun d => decide (d.ckind = 2) && decide (d.cons = i))
          | none => cs.any fun d => decide (d.ckind = 2) && decide (d.cons = i), cfgRoute),
        (decide (bitsOf rq.1 255 80 ≠ 0), cfgPlace),
        ((List.range 8).any fun k => decide (bitsOf rq.1 (287 + 32 * k) (273 + 32 * k) ≠ 0), cfgRoute),
        (q.routes.zipIdx.any fun (t, k) => match t with | some (a, j) => !routeOk as cs k a j | none => false, cfgRoute),
        (before_.any fun p => decide (p.routes ≠ q.routes), cfgRoute)])

/-! ### Checks that span the graph (step 7) -/

/-- The nonzero rates at which an actor's tasks send on an output or take from an input. -/
def outRates (a : ActorRec) (o : Nat) : List Nat := (a.tasks.map fun t => t.orate.getD o 0).filter fun n => decide (n ≠ 0)
def inRates (a : ActorRec) (j : Nat) : List Nat := (a.tasks.map fun t => t.irate.getD j 0).filter fun n => decide (n ≠ 0)

/-- R18 on a channel: capacity p + c − gcd(p, c) for every pair of rates; whatever is no actor moves one token. -/
def checkCapacity (as : List ActorRec) (_i : Nat) (c : ChanRec) : Option Nat :=
  let ps := if c.pkind = 0 then (as[c.prod]?.elim [] fun a => outRates a c.pep) else [1]
  let qs := if c.ckind = 0 then (as[c.cons]?.elim [] fun a => inRates a c.cep) else [1]
  if ps.any fun p => qs.any fun q => decide (4 + c.fifo < p + q - Nat.gcd p q) then some cfgCapacity else none

/-- The consumer inputs that a channel reaches directly or through delay nodes. -/
def reachThrough (cs : List ChanRec) (ns : List NodeRec) : Nat → ChanRec → List (Nat × Nat)
  | 0, _ => []
  | n + 1, c =>
    match c.ckind with
    | 0 => [(c.cons, c.cep)]
    | 1 =>
      if ns[c.cons]?.any fun r => decide (r.nkind = 4) then
        ((cs.filter fun d => decide (d.pkind = 1) && decide (d.prod = c.cons)).map (reachThrough cs ns n)).flatten
      else []
    | _ => []

/-- The balance equations (R271): producer, consumer, and the two rates. -/
def equations (as : List ActorRec) (cs : List ChanRec) (ns : List NodeRec) : List (Nat × Nat × Nat × Nat) :=
  ((cs.filter fun c => decide (c.pkind = 0)).map fun c =>
    match as[c.prod]? with
    | none => []
    | some a =>
      match a.tasks.find? fun t => decide (t.kind = .aligned) with
      | none => []
      | some t =>
        let p := t.orate.getD c.pep 0
        if p = 0 then [] else
        (reachThrough cs ns (ns.length + 1) c).filterMap fun (b, j) =>
          match as[b]? with
          | none => none
          | some r =>
            let q := r.alignedRate j
            if r.align.getLsbD j && decide (q ≠ 0) then some (c.prod, b, p, q) else none).flatten

/-- One pass that carries known firing ratios (numerator, denominator) across the equations. -/
def carry (eqs : List (Nat × Nat × Nat × Nat)) (m : Store (Nat × Nat)) : Store (Nat × Nat) :=
  eqs.foldl (fun m (a, b, p, q) =>
    match Store.get? m a, Store.get? m b with
    | some (n, d), none => let g := Nat.gcd (n * p) (d * q); Store.set m b (n * p / g, d * q / g)
    | none, some (n, d) => let g := Nat.gcd (n * q) (d * p); Store.set m a (n * q / g, d * p / g)
    | _, _ => m) m

def carryAll (eqs : List (Nat × Nat × Nat × Nat)) : Nat → Store (Nat × Nat) → Store (Nat × Nat)
  | 0, m => m
  | n + 1, m => carryAll eqs n (carry eqs m)

/-- Ratios for every actor: each connected set grows from its first actor. -/
def ratios (n : Nat) (eqs : List (Nat × Nat × Nat × Nat)) : Store (Nat × Nat) :=
  (List.range n).foldl (fun m a => match Store.get? m a with
    | some _ => m
    | none => carryAll eqs n (Store.set m a (1, 1))) []

/-- The first actor whose equation the ratios break (R271). -/
def unbalanced (as : List ActorRec) (cs : List ChanRec) (ns : List NodeRec) : Option Nat :=
  let eqs := equations as cs ns
  let m := ratios as.length eqs
  (eqs.find? fun (a, b, p, q) =>
    let (n, d) := Store.getD m a (1, 1)
    let (u, v) := Store.getD m b (1, 1)
    decide (p * n * v ≠ q * u * d)).map (·.1)

/-- The inputs whose RECVs feed an operand of an instruction of a block, through MOVs besides; complementary RECVs of one input
count once. `n` bounds the MOVs between. -/
def recvInto (is : List Instr) : Nat → Tgt → List Nat
  | 0, _ => []
  | n + 1, t =>
    (is.zipIdx.map fun (i, k) => match i with
      | .recv _ c _ ta => if ta = t then [c.toNat] else []
      | .mov _ tb ta => if ta = t ∨ tb = t then recvInto is n (.a (BitVec.ofNat 6 k)) else []
      | _ => []).flatten.eraseDups

/-- The actor outputs that a channel record's data leaves, back through the records into which nodes split the channel (R264),
with the delay nodes on the way: through a node's data input, through every path of a merge, and no further through an intersect
node, which sends coordinates of its own. -/
def origins (cs : List ChanRec) (ns : List NodeRec) : Nat → ChanRec → List (Nat × Nat × List Nat)
  | 0, _ => []
  | n + 1, c =>
    match c.pkind with
    | 0 => [(c.prod, c.pep, [])]
    | 1 =>
      match ns[c.prod]? with
      | some r =>
        let ins : List Nat := match r.nkind with | 1 => List.range (r.npath + 1) | 3 => [] | _ => [0]
        let froms := cs.filter fun d => decide (d.ckind = 1) && decide (d.cons = c.prod) && ins.contains d.cep
        (froms.map (origins cs ns n)).flatten.map fun (p, o, ds) => (p, o, if r.nkind = 4 then c.prod :: ds else ds)
      | none => []
    | _ => []

/-- R117 for one VQNT of an actor: slot `k` of block `is`. -/
def qdepthBad (red : Nat → Bool) (cs : List ChanRec) (ns : List NodeRec) (act : Nat) (is : List Instr) (k : Nat) : Bool :=
  let s : BitVec 6 := BitVec.ofNat 6 k
  let back (a j : Nat) : List (Nat × Nat × List Nat) :=
    (cs.find? fun c => decide (c.ckind = 0) && decide (c.cons = a) && decide (c.cep = j)).elim [] (origins cs ns (ns.length + 1))
  match recvInto is (is.length + 1) (.a s), recvInto is (is.length + 1) (.b s) with
  | [ja], [jb] =>
    match back act ja, back act jb with
    | (p, o, ds) :: more, (v, w, _) :: more' =>
      let sameA := more.all fun q => decide (q = (p, o, ds))
      let sameB := more'.all fun q => decide (q.1 = v ∧ q.2.1 = w)
      let delayed : Bool := match ds with | [n] => ns[n]?.any fun r => decide (r.depth = 63) | _ => false
      let fed := (cs.filter fun d => decide (d.ckind = 0) && decide (d.cons = v)).any fun d =>
        (origins cs ns (ns.length + 1) d).any fun q => decide (q.1 = p ∧ q.2.1 = o)
      !(sameA && sameB && delayed && red v && fed)
    | _, _ => true
  | _, _ => true

/-- The tiles of a region: columns and rows, glade-relative. -/
def RegionRec.covers (q : RegionRec) (c w : Nat) : Bool :=
  decide (q.col ≤ c) && decide (c ≤ q.col + q.wc) && decide (q.row ≤ w) && decide (w ≤ q.row + 2 * q.h + 1)

/-- Placement collisions: (kind, index) of the later record. -/
def collision (as : List ActorRec) (ns : List NodeRec) (qs : List RegionRec) : Option CfgErr :=
  let hitA (i : Nat) (a : ActorRec) : Bool :=
    a.places.any fun t => ((as.take i).any fun b => b.places.contains t) || qs.any fun q => q.covers t.1 t.2
  match as.zipIdx.find? fun (a, i) => hitA i a with
  | some (_, i) => some (cfgPlace, 1, i)
  | none =>
    match ns.zipIdx.find? fun (n, i) => (ns.take i).any fun m => decide ((m.col, m.row, m.slot) = (n.col, n.row, n.slot)) with
    | some (_, i) => some (cfgPlace, 4, i)
    | none =>
      (qs.zipIdx.find? fun (q, i) => (qs.take i).any fun p =>
        decide (p.col ≤ q.col + q.wc) && decide (q.col ≤ p.col + p.wc) && decide (p.row ≤ q.row + 2 * q.h + 1)
          && decide (q.row ≤ p.row + 2 * p.h + 1)).map fun (_, i) => (cfgPlace, 7, i)

/-- The checks that span the graph. -/
def checkGraph (bs : List Byte) (codeoff : Nat) (as : List ActorRec) (cs : List ChanRec) (ns : List NodeRec) (qs : List RegionRec) :
    Option CfgErr :=
  let blocks (a : ActorRec) : List (List Instr) := actorBlocks bs codeoff a
  let red (i : Nat) : Bool := match as[i]? with
    | some a =>
      let rs := ((blocks a).flatten).filter isReduction
      !rs.isEmpty && rs.all isVamax
    | none => false
  let qbad (i : Nat) (a : ActorRec) : Bool :=
    (blocks a).any fun is => is.zipIdx.any fun (x, k) => isVqnt x && qdepthBad red cs ns i is k
  match firstErr 3 (checkCapacity as) cs with
  | some e => some e
  | none =>
    match unbalanced as cs ns with
    | some a => some (cfgBalance, 1, a)
    | none =>
      match as.zipIdx.find? fun (a, i) => qbad i a with
      | some (_, i) => some (cfgQdepth, 1, i)
      | none => collision as ns qs

/-- The first region of an image whose number policy word or route table differs from those of other regions of its glade
(R228). -/
def regionsDiffer (qs others : List RegionRec) : Option CfgErr :=
  let at_ (q : RegionRec) : Option Nat :=
    firstBad [(others.any fun p => decide (p.npol ≠ q.npol), cfgFormat), (others.any fun p => decide (p.routes ≠ q.routes), cfgRoute)]
  qs.zipIdx.findSome? fun (q, i) => (at_ q).map fun c => (c, 7, i)

/-- THE LOADER (R269): reads an image's bytes and checks it in the order of the rule, for a glade of `width` columns in which
other launches have the regions `others`. -/
def loadImage (bs : List Byte) (width : Nat) (others : List RegionRec := []) : Except CfgErr Image :=
  let h := imgRec bs 0 64
  match checkHeader h bs width with
  | some c => .error (c, 0, 0)
  | none =>
    let codeoff := bitsOf h 351 320
    let ar := (actorTable bs (bitsOf h 47 36) (bitsOf h 159 128)).1
    let cr := table bs (bitsOf h 191 160) (bitsOf h 63 48) 32
    let nr := table bs (bitsOf h 223 192) (bitsOf h 75 64) 32
    let sr := table bs (bitsOf h 255 224) (bitsOf h 83 76) 128
    let qr := table bs (bitsOf h 287 256) (bitsOf h 87 84) 64
    let wr := table bs (bitsOf h 319 288) (bitsOf h 100 88) 16
    let as := ar.map fun (r, ts) => (parseActor r ts).withCtl bs codeoff
    let cs := cr.map parseChan
    let ns := nr.map parseNode
    let ss := sr.map parseStream
    let qs := qr.map parseRegion
    let ws := wr.map parseWin
    let plane0 := match as with | a :: _ => a.plane | [] => 0
    let err := ((ar.zipIdx.findSome? fun (raw, i) =>
      checkActorAll bs codeoff width plane0 cs i ((ar.take i).foldl (fun n r => n + r.2.length) 0) raw).or
      ((firstErr 3 (checkChan width as ns qs.length cs) (cr.zip cs)).or
      ((firstErr 4 (checkNode width cs) (nr.zip ns)).or
      ((firstErr 5 (checkStream width as ss) (sr.zip ss)).or
      ((firstErr 6 (checkWin width ws) (wr.zip ws)).or
      ((firstErr 7 (checkRegion width as cs qs others) (qr.zip qs)).or (checkGraph bs codeoff as cs ns qs)))))))
    match err with
    | some e => .error e
    | none => .ok { width := width, actors := as, chans := cs, nodes := ns, streams := ss, wins := ws, regions := qs,
                    strmoff := bitsOf h 255 224, codeoff := codeoff, bytes := bs }

end Sys2Proof.Machine
end

