-- ==== Sys2Proof/Machine/Keccak.lean ====
section
/-!
DEFINITION. The digests that the spec names: SHAKE256 (22 R359, R360, 23 R366) and SHA3-512 (23 R373). The algorithms are
those of FIPS 202 (assumption 12).
-/
namespace Sys2Proof.Machine

/-- Round constants of Keccak-f[1600]. -/
def keccakRC : List W64 :=
  [0x0000000000000001#64, 0x0000000000008082#64, 0x800000000000808A#64, 0x8000000080008000#64, 0x000000000000808B#64,
   0x0000000080000001#64, 0x8000000080008081#64, 0x8000000000008009#64, 0x000000000000008A#64, 0x0000000000000088#64,
   0x0000000080008009#64, 0x000000008000000A#64, 0x000000008000808B#64, 0x800000000000008B#64, 0x8000000000008089#64,
   0x8000000000008003#64, 0x8000000000008002#64, 0x8000000000000080#64, 0x000000000000800A#64, 0x800000008000000A#64,
   0x8000000080008081#64, 0x8000000000008080#64, 0x0000000080000001#64, 0x8000000080008008#64]

/-- Rotation of lane (x, y), at index x + 5 y. -/
def keccakRot : List Nat := [0, 1, 62, 28, 27, 36, 44, 6, 55, 20, 3, 10, 43, 25, 39, 41, 45, 15, 21, 8, 18, 2, 61, 56, 14]

/-- One round on 25 lanes. -/
def keccakRound (a : List W64) (rc : W64) : List W64 :=
  let at_ (l : List W64) (i : Nat) : W64 := l.getD i 0#64
  let c := (List.range 5).map fun x => at_ a x ^^^ at_ a (x + 5) ^^^ at_ a (x + 10) ^^^ at_ a (x + 15) ^^^ at_ a (x + 20)
  let d := (List.range 5).map fun x => at_ c ((x + 4) % 5) ^^^ (at_ c ((x + 1) % 5)).rotateLeft 1
  let t := (List.range 25).map fun i => at_ a i ^^^ at_ d (i % 5)
  let b := (List.range 25).map fun i =>
    let x := i % 5
    let y := i / 5
    let u := (x + 3 * y) % 5
    (at_ t (u + 5 * x)).rotateLeft (keccakRot.getD (u + 5 * x) 0)
  (List.range 25).map fun i =>
    let x := i % 5
    let y := i / 5
    let v := at_ b i ^^^ (~~~at_ b ((x + 1) % 5 + 5 * y) &&& at_ b ((x + 2) % 5 + 5 * y))
    if i = 0 then v ^^^ rc else v

def keccakF (a : List W64) : List W64 := keccakRC.foldl keccakRound a

/-- Absorbs padded blocks of r bytes. -/
def absorb (r : Nat) : Nat → List W64 → List Byte → List W64
  | 0, a, _ => a
  | n + 1, a, bs =>
    let ws := wordsOf (r / 8) (bs.take r)
    absorb r n (keccakF ((a.zipIdx).map fun (w, i) => if i < r / 8 then w ^^^ ws.getD i 0#64 else w)) (bs.drop r)

/-- Squeezes blocks of r bytes. -/
def squeeze (r : Nat) : Nat → List W64 → List Byte
  | 0, _ => []
  | n + 1, a => (bytesOfWords a).take r ++ squeeze r n (keccakF a)

/-- The sponge: rate r bytes, the suffix that ends the message, and the bytes of output. -/
def sponge (r : Nat) (suffix : Byte) (bs : List Byte) (out : Nat) : List Byte :=
  let n := bs.length / r + 1
  let pad := n * r - bs.length
  let tail : List Byte := if pad = 1 then [suffix ||| 0x80#8] else suffix :: (List.replicate (pad - 2) 0#8 ++ [0x80#8])
  (squeeze r (out / r + 1) (absorb r n (List.replicate 25 0#64) (bs ++ tail))).take out

/-- SHAKE256 with a 512-bit output. -/
def shake256 (bs : List Byte) : List Byte := sponge 136 0x1F#8 bs 64
/-- SHA3-512. -/
def sha3_512 (bs : List Byte) : List Byte := sponge 72 0x06#8 bs 64

end Sys2Proof.Machine
end

