-- ==== Sys2Proof/Machine/Launch.lean ====
section
/-!
DEFINITION. The launch unit (18 R299 to R307): head checks, tickets and versions, placing and loading an image, start
tokens; graph completion (01 R28) and commit (04 R85). Access to memory by firmware and the launch unit.
-/
namespace Sys2Proof.Machine

/-! ### Memory as firmware and the launch unit reach it: committed state in an address space -/

/-- The keys of the lines of a range. -/
def State.fwKeys (s : State) (asid : BitVec 16) (write : Bool) : List (Nat × Nat) → Option (List (Nat × Nat))
  | [] => some []
  | (va, n) :: t =>
    match s.fwKey asid va write, s.fwKeys asid write t with
    | some (k, _), some ks => some ((k, n) :: ks)
    | _, _ => none

/-- Committed bytes of a range, if every page of it is present. -/
def State.fwRead (s : State) (asid : BitVec 16) (va n : Nat) : Option (List Byte) :=
  (s.fwKeys asid false (lineParts va n)).map fun ks => (ks.map fun (k, m) => s.view committedObs k m).flatten

/-- Writes a range; false, and nothing written, where a page is absent or read-only. -/
def State.fwWrite (s : State) (asid : BitVec 16) (va : Nat) (bs : List Byte) : Bool × State :=
  match s.fwKeys asid true (lineParts va bs.length) with
  | none => (false, s)
  | some ks =>
    (true, (ks.foldl (fun (acc : State × List Byte) (k, m) => (acc.1.homeWrite k (acc.2.take m), acc.2.drop m)) (s, bs)).1)

/-- Fills a word with data, as STS does, and wakes its waiters (R349). -/
def State.fillWord (s : State) (key : Nat) (v : W64) : State :=
  ((s.homeWrite key (toLE 8 v.toNat)).homeFill key true).wake [key / 8]

/-! ### The launch record (R299) -/

def rcPrio (r : List Byte) : Nat := recBits r 6 4
def rcNoirr (r : List Byte) : Bool := decide (recBits r 7 7 = 1)
def rcDebug (r : List Byte) : Bool := decide (recBits r 8 8 = 1)
def rcGidx (r : List Byte) : Nat := recBits r 19 16
def rcGcnt (r : List Byte) : Nat := recBits r 23 20
def rcRbud (r : List Byte) : Nat := recBits r 31 24
def rcCad (r : List Byte) : Nat := recBits r 47 32
def rcGraph (r : List Byte) : Nat := recBits r 111 64
def rcQuota (r : List Byte) : Nat := recBits r 159 128
/-- The wait words and signal words that are named. -/
def rcWaits (r : List Byte) : List Nat := ((List.range 4).map fun i => recBits r (239 + 64 * i) (192 + 64 * i)).filter fun a => decide (a ≠ 0)
def rcSigs (r : List Byte) : List Nat := ((List.range 4).map fun i => recBits r (495 + 64 * i) (448 + 64 * i)).filter fun a => decide (a ≠ 0)
/-- Whether a reserved field is not zero. -/
def rcReserved (r : List Byte) : Bool :=
  decide (recBits r 15 9 ≠ 0) || decide (recBits r 63 48 ≠ 0) || decide (recBits r 127 112 ≠ 0) || decide (recBits r 191 160 ≠ 0)
    || (List.range 4).any fun i => decide (recBits r (255 + 64 * i) (240 + 64 * i) ≠ 0) || decide (recBits r (511 + 64 * i) (496 + 64 * i) ≠ 0)

/-! ### Head checks (R301, R302) -/

/-- The members of the group at the head of a queue that have arrived, and whether a record stands in another's place. -/
def headGroup (q : List QEnt) : List QEnt × Bool × Bool :=
  match q with
  | [] => ([], false, false)
  | e :: _ =>
    let c := rcGcnt e.rcd
    let fits (x : QEnt × Nat) : Bool := decide (rcGidx x.1.rcd = x.2) && decide (rcGcnt x.1.rcd = c) && x.1.ctx.isNone
    let ms := ((q.take (c + 1)).zipIdx.takeWhile fits).map (·.1)
    (ms, decide (ms.length = c + 1), decide (ms.length < (q.take (c + 1)).length))

/-- A graph image as the launch unit finds it: resident in a plane of the glade, or read from memory (R301, R307). -/
def State.findImage (s : State) (g : Glade) (asid : BitVec 16) (graph : Nat) : Except CfgErr Image :=
  match g.resident.find? fun r => decide (r.graph.toNat = graph) && decide (r.asid = asid) with
  | some r => match regionsDiffer r.img.regions (g.regions.map (·.rr)) with
    | some e => .error e
    | none => .ok r.img
  | none =>
    match s.fwRead asid graph 64 with
    | none => .error (cfgImage, 0, 0)
    | some h =>
      match s.fwRead asid graph (max 64 (recBits h 383 352)) with
      | none => .error (cfgImage, 0, 0)
      | some bs => loadImage bs (4 * g.nisl) (g.regions.map (·.rr))

/-- What a twin launch may not hold (R372): global streams, peer windows are refused at the image. -/
def twinBad (img : Image) : Option CfgErr :=
  (img.streams.zipIdx.find? fun (r, _) => !r.isFifo).map fun (_, i) => (cfgStream, 5, i)

/-- Whether a queue of a glade belongs to a twin run (R372). -/
def State.twinQueue (s : State) (g q : Nat) : Bool :=
  s.fo.twin.any fun t => decide (t.queue = q) && decide (t.prim = g ∨ t.sec = g)

/-- The checks of R301 on one record: the number of the check that fails and what it found, or the image. The checks are
numbered 1 reserved fields, 2 GRAPH, 3 wait and signal words, 4 GIDX, 5 the image, 6 the ASID table entry. -/
def State.checkRecord (s : State) (gl q : Nat) (g : Glade) (asid : BitVec 16) (r : List Byte) : Except (Nat × List W64) Image :=
  let imm (a : Nat) : Bool := decide (a % 8 = 0) && match s.fwKey asid a false with | some (_, i) => i | none => false
  if rcReserved r then .error (1, [])
  else if rcGraph r % 64 ≠ 0 then .error (2, [])
  else if rcGcnt r < rcGidx r then .error (4, [])
  else if (Store.get? s.asids asid.toNat).isNone then .error (6, [])
  else if (rcWaits r ++ rcSigs r).any fun a => !imm a then .error (3, [])
  else
    let w (e : CfgErr) : Nat × List W64 := (5, [BitVec.ofNat 64 e.1, BitVec.ofNat 64 e.2.1, BitVec.ofNat 64 e.2.2])
    match s.findImage g asid (rcGraph r) with
    | .error e => .error (w e)
    | .ok img =>
      match (if s.twinQueue gl q then twinBad img else none) with
      | some e => .error (w e)
      | none => .ok img

/-- A launch made from a queue entry. -/
def launchOf (gl q : Nat) (asid : BitVec 16) (tenant : Nat) (e : QEnt) (group : Nat) : Launch :=
  let r := e.rcd
  let x : Launch :=
    { rcd := r, glade := gl, queue := q, asid := asid, tenant := tenant, core := e.core, group := group, noirr := rcNoirr r,
      debug := rcDebug r, rbud := rcRbud r, quota := rcQuota r, cad := rcCad r, graph := BitVec.ofNat 64 (rcGraph r),
      waits := (rcWaits r).map (BitVec.ofNat 64), sigs := (rcSigs r).map (BitVec.ofNat 64), img := e.img.getD {} }
  x

/-- A launch that fails before it starts: FAILED with its report (R301). -/
def State.failEntry (s : State) (gl q : Nat) (asid : BitVec 16) (tenant : Nat) (e : QEnt) (rep : Nat × List W64) : State :=
  let (lid, s) := s.fresh
  let x := launchOf gl q asid tenant e lid
  (s.setLaunch lid { x with st := .failed, report := some rep }).modGlade gl fun g => { g with fails := g.fails + 1 }

/-- Sets a queue of a glade. -/
def State.setQueue (s : State) (gl q : Nat) (l : List QEnt) : State :=
  s.modGlade gl fun g => { g with queues := Store.set g.queues q l }

/-- The checks of R301 and R302 on the head of a queue: a failing record or group leaves as FAILED, each member with the
report of the check that failed; a good one keeps its images. -/
def State.checkHead (s : State) (gl q : Nat) : State :=
  match s.glade? gl with
  | none => s
  | some g =>
    let es := Store.getD g.queues q []
    match es, Store.get? g.binds q with
    | e :: _, some (tenant, asid) =>
      if e.ctx.isSome ∨ e.img.isSome then s
      else
        let (ms, whole, wrong) := headGroup es
        if ms.isEmpty then
          (s.failEntry gl q asid tenant e (match s.checkRecord gl q g asid e.rcd with | .error r => r | .ok _ => (4, []))).setQueue gl q (es.drop 1)
        else if wrong then
          (ms.foldl (fun s m => s.failEntry gl q asid tenant m (7, [])) s).setQueue gl q (es.drop ms.length)
        else if !whole then s
        else
          let rs := ms.map fun m => (m, s.checkRecord gl q g asid m.rcd)
          match rs.findSome? fun (_, r) => match r with | .error e => some e | .ok _ => none with
          | some bad =>
            (rs.foldl (fun s (m, r) => s.failEntry gl q asid tenant m (match r with | .error e => e | .ok _ => bad)) s).setQueue gl q
              (es.drop ms.length)
          | none =>
            let ok := rs.map fun (m, r) => { m with img := (match r with | .ok i => some i | .error _ => none),
                                                    waits := List.range (rcWaits m.rcd).length }
            s.setQueue gl q (ok ++ es.drop ms.length)
    | _, _ => s

/-- The launch unit's LDW for one wait word (R88): FORM 0b101 with unlimited budget. It completes at once where the word is
full and else parks; with no free record it raises no fault and is issued again: DESIGN CHOICE (assumption 42), for R73 speaks of
requests of actors. Answers whether it has completed. -/
def State.issueWait (s : State) (gl : Nat) (asid : BitVec 16) (e : QEnt) (i : Nat) : Bool × State :=
  let va := (rcWaits e.rcd).getD i 0
  if s.parked.any fun r => decide (r.form = 5 ∧ r.rid = e.seq ∧ r.rch = i) then (false, s)
  else match s.keyAt asid va, s.glade? gl with
    | some k, some g =>
      if s.viewBit committedObs (k / 8) then (true, s)
      else if !g.parkRoom then (false, s)
      else
        let r : ParkRec := { glade := gl, pl := ⟨0, 0, 0⟩, rid := e.seq, lid := e.seq, ver := 0#16, va := va, asid := asid,
                             form := 5, wid := 3, nw := 1, left := 255, data := 0#64, rch := i, stamp := g.cycle }
        (false, s.park r [k])
    | _, _ => (false, s)

/-- The LDWs of a checked entry that have not completed. -/
def State.issueWaits (s : State) (gl : Nat) (asid : BitVec 16) (e : QEnt) : QEnt × State :=
  e.waits.foldl (fun (acc : QEnt × State) i =>
    let (done, s) := acc.2.issueWait gl asid e i
    (if done then { acc.1 with waits := acc.1.waits.filter fun j => decide (j ≠ i) } else acc.1, s)) (e, s)

/-- Issues the LDWs for the wait words of the entry at the head of a queue, once it has passed its checks (R88). -/
def State.headWaits (s : State) (gl q : Nat) : State :=
  match s.glade? gl with
  | none => s
  | some g =>
    let es := Store.getD g.queues q []
    match es, Store.get? g.binds q with
    | e :: _, some (_, asid) =>
      if e.ctx.isSome ∨ e.img.isNone then s
      else
        let ms := (headGroup es).1
        let r := ms.foldl (fun (acc : List QEnt × State) m =>
          let (m, s) := acc.2.issueWaits gl asid m
          (acc.1 ++ [m], s)) ([], s)
        r.2.setQueue gl q (r.1 ++ es.drop ms.length)
    | _, _ => s

/-- LAUNCH_HEAD_CHECK (R301, R302, R88) of a queue. -/
def State.headCheck (s : State) (gl q : Nat) : State := (s.checkHead gl q).headWaits gl q

/-! ### Claims and placing (R13, R261) -/

/-- Tiles of a region of a glade, absolute. -/
def RegionRec.tilesAt (r : RegionRec) (gl : Nat) : List (Nat × Nat) :=
  ((List.range (2 * (r.h + 1))).map fun i => (List.range (r.wc + 1)).map fun j => (firstCol gl + r.col + j, r.row + i)).flatten

/-- Bytes of a memory tile's SRAM that an image uses there, by glade-relative place: FIFO extensions, delay buffers,
windows of FIFO streams, accumulator tiles. The SHAPE of a fault channel, whose tokens are SCALAR, has no effect (R376). -/
def Image.sramUse (img : Image) (col row : Nat) : Nat :=
  let chans := img.chans.foldl (fun n c =>
    if c.fcol = col ∧ c.frow = row then n + c.fifo * (if c.shape = 1 ∧ c.pkind ≠ 5 then 512 else 8) else n) 0
  let nodes := img.nodes.foldl (fun n d => if d.nkind = 4 ∧ d.col = col ∧ d.row = row then n + (d.depth + 1) * 512 else n) 0
  let fifos := img.streams.foldl (fun n r =>
    if r.isFifo ∧ bitsOf r.base 31 25 = col ∧ bitsOf r.base 24 19 = row then n + r.nfrm * r.frameBytes else n) 0
  let accs := img.regions.foldl (fun n q =>
    if q.covers col row ∧ !isCompute col row then n + 16384 * (q.acct + 1) else n) 0
  chans + nodes + fifos + accs

/-- Memory tiles that an image uses, glade-relative. -/
def Image.sramTiles (img : Image) : List (Nat × Nat) :=
  ((img.chans.filter fun c => decide (c.fifo ≠ 0)).map fun c => (c.fcol, c.frow))
    ++ ((img.nodes.filter fun d => decide (d.nkind = 4)).map fun d => (d.col, d.row))
    ++ ((img.streams.filter StreamRec.isFifo).map fun r => (bitsOf r.base 31 25, bitsOf r.base 24 19))
    ++ (img.regions.map fun q => (q.tilesAt 0).filter fun (c, w) => !isCompute c w).flatten

/-- The window of a FIFO stream in its tile: first byte and length. -/
def StreamRec.fifoRange (r : StreamRec) : Nat × Nat × Nat × Nat :=
  (bitsOf r.base 31 25, bitsOf r.base 24 19, bitsOf r.base 18 0, r.nfrm * r.frameBytes)

/-- Whether the claims of two images of one glade collide (R13, R261). -/
def claimsMeet (a b : Image) : Bool :=
  let owners (i : Image) (k : Nat) : List (Nat × Nat) :=
    ((i.actors.filter fun r => r.own.getLsbD k).map ActorRec.places).flatten
      ++ (if k = 0 then (i.regions.map fun q => (q.tilesAt 0).filter fun (c, w) => isCompute c w).flatten else [])
  let shares := a.actors.any fun r => b.actors.any fun t =>
    decide (r.shBase < t.shBase + t.shSize) && decide (t.shBase < r.shBase + r.shSize) && r.places.any fun p => t.places.contains p
  let nodes := a.nodes.any fun n => b.nodes.any fun m => decide ((n.col, n.row, n.slot) = (m.col, m.row, m.slot))
  let own := (List.range 4).any fun k => (owners a k).any fun p => (owners b k).contains p
  let fifo := a.streams.any fun r => r.isFifo && b.streams.any fun t => t.isFifo &&
    (let (c, w, o, n) := r.fifoRange; let (c', w', o', n') := t.fifoRange
     decide (c = c') && decide (w = w') && meets (o, n) (o', n'))
  shares || nodes || own || fifo

/-- Whether two images cover a common tile, so that they cannot share a plane number. -/
def tilesMeet (a b : Image) : Bool :=
  let ts (i : Image) : List (Nat × Nat) := (i.actors.map ActorRec.places).flatten ++ (i.regions.map fun q => q.tilesAt 0).flatten
  (ts a).any fun p => (ts b).contains p

/-- The launches that are on planes of a glade. -/
def State.onPlanes (s : State) (gl : Nat) : List (Nat × Launch) := s.launches.filter fun (_, y) => decide (y.glade = gl) && y.plane.isSome

/-- The plane that R261 gives an image now, if there is one. An image whose regions differ from those of a launch that holds
planes waits too: both passed the loader's check while neither was placed (R228; assumption 44). -/
def State.placeFor (s : State) (gl : Nat) (img : Image) : Option Nat :=
  let on := (s.onPlanes gl).map (·.2)
  let sram := img.sramTiles.all fun (c, w) =>
    decide (on.foldl (fun n y => n + y.img.sramUse c w) (img.sramUse c w) ≤ 2 ^ 19)
  if on.any (fun y => claimsMeet img y.img || (regionsDiffer img.regions y.img.regions).isSome) || !sram then none
  else
    let want := match img.actors with | a :: _ => a.plane | [] => 0
    (want :: List.range 4).find? fun p => on.all fun y => decide (y.plane ≠ some p) || !tilesMeet img y.img

/-! ### Loading (R12, R50, R94, R262, R267, R304) -/

/-- The initial scalar registers of an actor (R262). -/
def Image.inits (img : Image) (a : ActorRec) : Store W64 :=
  let off := img.codeoff + a.code + a.clen
  (List.range a.ninit).foldl (fun m i =>
    Store.set m (imgRec img.bytes (off + 16 * i) 8 % 64) (BitVec.ofNat 64 (imgRec img.bytes (off + 16 * i + 8) 8))) []

/-- A plane as loading leaves it. The deficit counter and its issue time belong to the tile (R311); breakpoints that were armed
on it before stay armed where the launch may be debugged (R100, R371). -/
def loadedPlane (p : Plane) (l i j : Nat) (img : Image) (a : ActorRec) (debug : Bool) : Plane :=
  let q : Plane :=
    { launch := some l, actor := i, copy := j, repl := a.repl, level := (if a.level = 1 then .handler else .user),
      shBase := a.shBase, shSize := a.shSize, roEnd := a.roEnd, npol := a.npol, own := a.own, nbr := a.nbr,
      sregs := img.inits a, deficit := p.deficit, lastIssue := p.lastIssue,
      ins := if debug then p.ins.map fun (j, e) => (j, ({ armed := e.armed } : Endpoint)) else [] }
  q

/-- Loads one actor copy: its share, its plane, and the tile structures that it owns. -/
def State.loadCopy (s : State) (l : Nat) (img : Image) (pl : PlaneId) (i j : Nat) (a : ActorRec) : State :=
  let tile := tileIx pl.col pl.row
  let code := (img.bytes.drop (img.codeoff + a.code)).take a.clen
  let s : State := { s with mem := Memory.writeBytes s.mem (localKey tile a.shBase) code }
  let debug := (s.launch? l).any s.mayDebug
  let s := s.setPlane pl (loadedPlane (s.plane pl) l i j img a debug)
  if a.own.getLsbD 2 then s.setTile tile { s.tile tile with saccOwner := some pl.plane, saccTy := none, sacc := [] } else s

/-- A stream as the loader leaves it (R50). -/
def initStream (r : StreamRec) : Stream :=
  let n := r.nrd + 1
  { sr := r, hwm := r.start, tail := r.start, rd := List.replicate n r.start, rel := List.replicate n r.start,
    front := r.start }

/-- Sets every word of the window of a launch's stream `i` empty (R50); pages that are away are noted, and are emptied before
the server serves from them (assumption 22). -/
def State.emptyWindow (s : State) (l i : Nat) (x : Launch) (r : StreamRec) : State :=
  let (away, s) := (List.range r.nfrm).foldl (fun (acc : List Nat × State) k =>
    let (a, s) := acc.2.emptySlot x r k
    (acc.1 ++ a, s)) ([], s)
  if away.isEmpty then s else s.modLaunch l fun y => { y with unset := y.unset ++ away.map fun o => (i, o) }

/-- Writes the descriptor of a launch's stream `i` whole (R50). -/
def State.writeDesc (s : State) (l i : Nat) (x : Launch) (st : Stream) : State :=
  let va := x.descVa i
  let bs := bytesOfWords (st.words x.glade x.asid)
  match s.reach x.asid va with
  | .home d =>
    let s := s.foldIn d 64
    { s with mem := Memory.writeBytes s.mem d bs }
  | .side => s.modPaged x.asid va fun q => { q with bytes := overlay q.va q.bytes va bs }
  | .away => s.modLaunch l fun y => { y with owed := y.owed ++ [i] }

/-- The port of a window entry. -/
def winPort (x : Launch) (w : WinRec) : Nat := portIx (firstCol x.glade + w.col) (if w.edge then 1 else 0) w.port

/-- Fills a window entry of a port by walking the launch's page table: V = 0 where a page of it is unmapped or its pages do not
lie one after another (R267). Its class is that of its first page: DESIGN CHOICE (assumption 44). -/
def State.loadWin (s : State) (l : Nat) (x : Launch) (w : WinRec) : State :=
  let port := winPort x w
  let page (i : Nat) : Option (Nat × Bool) :=
    match s.walk x.asid (w.vbase + i * 2 ^ 16) with
    | .leaf f => some (f.pa + (w.vbase + i * 2 ^ 16 - f.va), f.imm)
    | _ => none
  let (pa, imm) := (page 0).getD (0, false)
  let ok := (List.range w.npg).all fun i => (page i).any fun q => decide (q.1 = pa + i * 2 ^ 16)
  let p := s.port port
  let e : WinEnt := { vbase := w.vbase, npg := w.npg, pfrm := pa / 2 ^ 16, wr := w.wr, imm := imm, v := ok, lid := l, asid := x.asid }
  s.setPort port { p with wins := Store.set p.wins w.ent e }

/-- Puts back the cycle counters of a launch's endpoints, which no rollback takes back (R95). -/
def State.putCounts (s : State) (l : Nat) (x : Launch) : State :=
  x.counts.foldl (fun s (i, j, f, e, m) =>
    match x.img.chans[i]? with
    | some r => s.modEp l x r j fun ep =>
        { ep with cfull := BitVec.ofNat 40 f, cempty := BitVec.ofNat 40 e, cmove := BitVec.ofNat 40 m }
    | none => s) s

/-- The breakpoint registers of a launch's endpoints, by channel and consumer copy (R96). -/
def State.armsOf (s : State) (x : Launch) : List (Nat × Nat × List (BitVec 48 × Bool)) :=
  (x.img.chans.zipIdx.map fun (r, i) => (List.range (x.consCopies r)).map fun j => (i, j, (s.consEp x r j).armed)).flatten.filter
    fun (_, _, a) => !a.isEmpty

/-- An endpoint with the registers that its launch kept, beside those armed on it meanwhile, up to four (R96). -/
def Endpoint.rearm (e : Endpoint) (a : List (BitVec 48 × Bool)) : Endpoint :=
  { e with armed := (e.armed ++ a.filter fun q => !e.armed.contains q).take 4 }

/-- Puts them back: no rollback arms or disarms one (R96). -/
def State.putArms (s : State) (l : Nat) (x : Launch) : State :=
  x.arms.foldl (fun s (i, j, a) =>
    match x.img.chans[i]? with
    | some r => s.modEp l x r j fun ep => ep.rearm a
    | none => s) s

/-- Which of a launch's window entries are filled (R320). -/
def State.winsOf (s : State) (l : Nat) (x : Launch) : List Bool :=
  x.img.wins.map fun w => (Store.get? (s.port (winPort x w)).wins w.ent).any fun e => e.v && decide (e.lid = l)

/-- Fills a launch's window entries again; one that an invalidation cleared stays clear for the launch's life (R320). -/
def State.loadWins (s : State) (l : Nat) (x : Launch) : State :=
  x.img.wins.zipIdx.foldl (fun s (w, i) => if x.wins.getD i true then s.loadWin l x w else s) s

/-- A confidential tenant's load measurement takes a launch record and its image (R373, block 4). -/
def State.measureLoad (s : State) (x : Launch) : State :=
  let t := s.tenant x.tenant
  if t.confidential then s.setTenant x.tenant { t with loads := shake256 (t.loads ++ x.rcd ++ x.img.bytes) } else s

/-- The key of a FIFO stream's window in its memory tile (R50). -/
def fifoKey (gl : Nat) (r : StreamRec) : Nat :=
  let (c, w, o, _) := r.fifoRange
  sramKey (tileIx (firstCol gl + c) w) o

/-- The windows of a launch's FIFO streams, as `Launch.fifos` keeps them. -/
def State.fifoWindows (s : State) (x : Launch) : List (List Byte × List Bool) :=
  x.img.streams.map fun r =>
    if r.isFifo then
      let k := fifoKey x.glade r
      let (_, _, _, n) := r.fifoRange
      (Memory.readBytes s.mem k n, (List.range (n / 8)).map fun i => s.homeBit (k / 8 + i))
    else ([], [])

/-- Puts the kept windows of a launch's FIFO streams back, once it holds their SRAM again. -/
def State.putFifos (s : State) (l : Nat) : State :=
  match s.launch? l with
  | none => s
  | some x =>
    let s := (x.img.streams.zip x.fifos).foldl (fun (s : State) (r, bs, fs) =>
      let k := fifoKey x.glade r
      let s : State := if bs.isEmpty then s else { s with mem := Memory.writeBytes s.mem k bs }
      fs.zipIdx.foldl (fun s (f, i) => if s.homeBit (k / 8 + i) = f then s else s.setHomeBit (k / 8 + i) f) s) s
    s.modLaunch l fun y => { y with fifos := [] }

/-- A plane number of a glade holds a launch's image from now on (R307). -/
def State.noteResident (s : State) (x : Launch) (p : Nat) : State :=
  s.modGlade x.glade fun g =>
    { g with resident := (g.resident.filter fun r => decide (r.plane ≠ p)) ++ [⟨p, x.graph, x.asid, x.img⟩] }

/-- Loads an image into plane `p` of its glade (step 2 of R304): planes, regions, streams, windows, argument area. The
first load also empties the streams' windows (R50); a replay leaves that to R91. -/
def State.loadInto (s : State) (l p : Nat) (first : Bool := true) : State :=
  match s.launch? l with
  | none => s
  | some x =>
    let x : Launch := { x with plane := some p, chans := [], nodes := [], codebook := 0#256, cuts := [], lastCut := none, cutNo := 0,
                               sig := [], scanned := none, preHeld := false, stopHeld := false, preCut := none,
                               unset := if first then [] else x.unset, owed := if first then [] else x.owed }
    let s := s.setLaunch l x
    let s := (x.copies.foldl (fun s (i, j) =>
      match x.img.actors[i]?, x.planeOf i j with
      | some a, some pl => s.loadCopy l x.img pl i j a
      | _, _ => s) s)
    let s := s.loadWins l x
    let s : State := { s with mem := Memory.writeBytes s.mem (argKey l) x.rcd }
    let rs := x.img.regions.map fun q => ({ lid := l, rr := q } : Region)
    let s := (s.modGlade x.glade fun g => { g with regions := g.regions ++ rs }).noteResident x p
    let sts := x.img.streams.map initStream
    let s := s.modLaunch l fun y => { y with streams := sts }
    let s := sts.zipIdx.foldl (fun s (st, i) => if first then (s.emptyWindow l i x st.sr).writeDesc l i x st else s) (s.putFifos l)
    (s.putCounts l x).putArms l x

/-- The start tokens (R37, step 3 of R304): the address of the argument area, then EOS, on every source channel. -/
def State.startTokens (s : State) (l : Nat) : State :=
  match s.launch? l with
  | none => s
  | some x =>
    let arg : Token := .data ⟨.scalar, [(Config.argAddr l).setWidth 64], .u64, 1#64⟩
    let s := (s.pushAll l x.sources arg).pushAll l x.sources (.ctl .eos)
    s.modLaunch l fun x => { x with st := .live, irrev := false, startCycle := s.cycle x.glade, cadTaken := 0 }

/-! ### Leaving the planes -/

/-- Removes a launch's regions from its glade; regions of other launches keep their records. -/
def Glade.dropRegions (g : Glade) (l : Nat) : Glade :=
  let kept := g.regions.zipIdx.filter fun (q, _) => decide (q.lid ≠ l)
  let ix (r : Nat) : Option Nat := (kept.zipIdx.find? fun ((_, i), _) => decide (i = r)).map (·.2)
  { g with regions := kept.map (·.1), seqr := g.seqr.map fun m => { m with region := m.region.bind ix } }

/-- A plane that no launch holds. -/
def Plane.freed (p : Plane) : Plane := { deficit := p.deficit, lastIssue := p.lastIssue }

/-- A launch leaves its planes and gives up its claims (R305, R342): its counters of time spent (R95), its breakpoint registers
(R96) and the windows of its FIFO streams are kept, and which of its window entries are filled. -/
def State.unload (s : State) (l : Nat) : State :=
  match s.launch? l with
  | none => s
  | some x =>
    if x.plane.isNone then s else
    let counts := s.chanCounts x
    let fifos := s.fifoWindows x
    let arms := s.armsOf x
    let wins := s.winsOf l x
    let s := s.modLaunch l fun x => { x with plane := none, lastPlane := x.plane, counts := counts, fifos := fifos, arms := arms, wins := wins }
    let drop (p : Plane) : Plane := if p.launch = some l then p.freed else p
    let offTile (k : Nat) (t : Tile) : Tile :=
      match t.saccOwner with
      | some p => if (s.plane ⟨k % 96, k / 96, p⟩).launch = some l then { t with saccOwner := none, saccTy := none, sacc := [] } else t
      | none => t
    let s : State :=
      { s with tiles := Store.mapV offTile s.tiles, planes := Store.mapV (fun _ p => drop p) s.planes,
               ports := Store.mapV (fun _ (q : Port) => { q with wins := q.wins.filter fun (_, w) => decide (w.lid ≠ l) }) s.ports }
    s.modGlade x.glade fun g => g.dropRegions l

/-! ### Tickets, versions and the start of a launch (R302, R304, R305) -/

/-- The version after `v`, skipping 0 and those that live launches hold (R305). -/
def nextVersion (used : List (BitVec 16)) : Nat → BitVec 16 → BitVec 16
  | 0, v => v
  | n + 1, v => let w := v + 1#16; if w = 0#16 ∨ used.contains w then nextVersion used n w else w

/-- Versions that launches of a glade hold. -/
def State.versions (s : State) (gl : Nat) : List (BitVec 16) :=
  (s.launches.filter fun (_, y) => decide (y.glade = gl) && (y.st.isLive || decide (y.st = .waiting))).map fun (_, y) => y.ver

/-- Gives a launch a version and a ticket. -/
def State.ticketTo (s : State) (l gl : Nat) : State :=
  match s.glade? gl with
  | none => s
  | some g =>
    let used := s.versions gl
    let v := nextVersion used (used.length + 2) g.lastVer
    let s := s.setGlade gl { g with ticket := g.ticket + 1#32, lastVer := v }
    s.modLaunch l fun x => { x with ticket := g.ticket, ver := v }

/-- Launches whose tickets are assigned and whose start is not done (R304). -/
def State.starting (s : State) (gl : Nat) : List (Nat × Launch) :=
  s.launches.filter fun (_, y) => decide (y.glade = gl) && decide (y.st = .waiting) && decide (y.ver ≠ 0#16) && y.preCut.isNone

/-- The candidate at the head of a queue: its members and what R304's choice compares. -/
def candidate (g : Glade) (q : Nat) : Option (List QEnt × Nat × Nat) :=
  let es := Store.getD g.queues q []
  match es, Store.get? g.binds q with
  | e :: _, some _ =>
    let ms := if e.ctx.isSome then [e] else (headGroup es).1
    let ok := if e.ctx.isSome then true
      else (headGroup es).2.1 && ms.all fun m => m.img.isSome && m.waits.isEmpty
    if ok then some (ms, rcPrio e.rcd, e.seq) else none
  | _, _ => none

/-- The queue that R304 chooses: highest PRIO, then accepted earliest, then the lower number. -/
def chooseQueue (g : Glade) : Option Nat :=
  ((List.range 16).foldl (fun (b : Option (Nat × Nat × Nat)) q =>
    match candidate g q, b with
    | none, b => b
    | some (_, p, n), none => some (q, p, n)
    | some (_, p, n), some (q', p', n') => if p' < p ∨ (p' = p ∧ n < n') then some (q, p, n) else some (q', p', n')) none).map (·.1)

/-- Places as many of the starting launches as planes and claims allow; once all are placed, they start (R304). -/
def State.placeStarting (s : State) (gl : Nat) : State :=
  let s := (s.starting gl).foldl (fun s (l, x) =>
    if x.plane.isSome then s
    else match s.placeFor gl x.img with
      | some p => (s.measureLoad x).loadInto l p
      | none => s) s
  let st := s.starting gl
  if st.all fun (_, x) => x.plane.isSome then st.foldl (fun s (l, _) => s.startTokens l) s else s

/-- The secondary glade of a twin run on a queue of a glade (R372). -/
def State.twinOther (s : State) (gl q : Nat) : Option Nat :=
  s.fo.twin.bind fun t => if t.queue = q ∧ t.prim = gl then some t.sec else none

/-- Tickets, versions and launches for the members of a chosen entry; in a twin run each member also becomes a launch of
the secondary glade (R304, R372). -/
def State.letIn (s : State) (gl q : Nat) (tenant : Nat) (asid : BitVec 16) (ms : List QEnt) : State :=
  let (grp, s) := s.fresh
  ms.foldl (fun s m =>
    let (l, s) := s.fresh
    let s := (s.setLaunch l (launchOf gl q asid tenant m grp)).ticketTo l gl
    match s.twinOther gl q with
    | some sec =>
      let (l2, s) := s.fresh
      let s := (s.setLaunch l2 (launchOf sec q asid tenant m grp)).ticketTo l2 sec
      { s with fo := { s.fo with twin := s.fo.twin.map fun t => { t with pairs := t.pairs ++ [(l, l2)] } } }
    | none => s) s

/-! ### Completion and commit (R28, R85, R93) -/

/-- Bank and update lines that a launch's requests left, written home (R28, R79): its own, those that it has written as an
irrevocable launch, and those that its planes have touched. -/
def State.flushLaunch (s : State) (l : Nat) : State :=
  let touched := (s.planes.filter fun (_, p) => decide (p.launch = some l)).map fun (k, p) => (s.gladeOf (planeOfKey k).col, p.touched)
  s.flushBank true fun b => decide (b.lid = some l)
    || (b.owes && (b.tx.contains l || touched.any fun (g, ts) => decide (g = b.glade) && ts.contains b.line))

/-- GRAPH_COMPLETION (R28): a launch whose graph is complete is DONE; it releases its planes and claims (R305). -/
def State.complete (s : State) (l : Nat) : State :=
  match s.launch? l with
  | none => s
  | some x =>
    if (x.st = .live ∨ x.st = .irrevocable) ∧ x.onFabric ∧ x.rung.isNone ∧ s.graphDone x then
      let s := s.flushLaunch l
      match s.launch? l with
      | some y =>
        if y.st = .live ∨ y.st = .irrevocable then
          (s.modLaunch l fun y => { y with st := .done, cuts := [], preAgain := false }).unload l
        else s
      | none => s
    else s

/-- Ticket order: insertion by `before`. -/
def byTicket (x : Nat × Launch) : List (Nat × Launch) → List (Nat × Launch)
  | [] => [x]
  | y :: t => if before x.2.ticket y.2.ticket then x :: y :: t else y :: byTicket x t

/-- The members of a launch's group, earliest ticket first. -/
def State.members (s : State) (x : Launch) : List (Nat × Launch) :=
  (s.launches.filter fun (_, y) => sameGroup x y).foldl (fun l y => byTicket y l) []

/-- Whether a group may commit (R85): every member is DONE, and no launch with an earlier ticket is live. A launch whose
uncommitted stream data a member consumed is a member too (R38), so it is ready to commit in the same step. -/
def State.mayCommit (s : State) (ms : List (Nat × Launch)) : Bool :=
  !ms.isEmpty && ms.all fun (_, x) => decide (x.st = .done) && x.rung.isNone
    && s.launches.all fun (_, y) => decide (y.glade ≠ x.glade) || (sameGroup x y) || !before y.ticket x.ticket
        || !(y.st.isLive || (decide (y.st = .waiting) && decide (y.ver ≠ 0#16)))

/-- Commits one member: its commit test, its entries into the committed prefix, its signal words (R84, R85). Answers the words
whose committed bit it changed. -/
def State.commitOne (s : State) (l : Nat) (x : Launch) : State × List Nat :=
  let mine (e : UEnt) : Bool := decide (e.lid = l) && !e.committed
  let es := s.under.filter mine
  let ws := s.feWords es
  let s := es.foldl (fun s e => s.commitTest l e.va) s
  let old := s.under.filter (·.committed)
  let rest := s.under.filter fun e => !e.committed && !mine e
  let s : State := { s with under := old ++ (es.map fun e => { e with committed := true }) ++ rest }
  let sigs := x.sigs.filterMap fun a => (s.fwKey x.asid a.toNat false).map (·.1)
  let dry := sigs.filter fun k => !s.viewBit committedObs (k / 8)
  let s := dry.foldl (fun s k => s.homeFill k true) s
  let s := s.modLaunch l fun y => { y with st := .committed, lastCut := none, cuts := [] }
  let s := s.modGlade x.glade fun g => { g with commits := g.commits + 1 }
  (s, ws ++ dry.map (· / 8))

/-- LAUNCH_COMMIT (R85, R88): one step for a whole group; then waiters are woken. -/
def State.commitGroup (s : State) (ms : List (Nat × Launch)) : State :=
  let r := ms.foldl (fun (acc : State × List Nat) (l, x) =>
    let (s, ws) := acc.1.commitOne l x
    (s, acc.2 ++ ws)) (s, [])
  r.1.wake r.2

end Sys2Proof.Machine
end

