-- ==== Sys2Proof/Machine/Recover.lean ====
section
/-!
DEFINITION. Cuts (21 R341, R342, 17 R294, 11 R236): what each element records, and when a cut is complete. Restoring a
cut. The recovery ladder (21 R338, 04 R90 to R93), pre-emption and its end, SNAP cadence, oldest-only mode.
-/
namespace Sys2Proof.Machine

/-! ### Recording (R342) -/

def isMmpost : Instr → Bool | .mmpost _ _ => true | _ => false

/-- The actors of an image that hold an MMPOST (R236). -/
def Image.posters (img : Image) : List Nat :=
  (img.actors.zipIdx.filter fun (a, _) => (actorBlocks img.bytes img.codeoff a).any fun is => is.any isMmpost).map (·.2)

/-- The plane that a fault was raised on, if it was one. -/
def FSrc.pl? : FSrc → Option PlaneId
  | .firing p | .input p | .trap p | .request p _ | .stall p _ | .svc p | .promise p _ _ _ => some p
  | _ => none

/-- Whether a fault still waits for a handler. -/
def FaultRec.open_ (f : FaultRec) : Bool := match f.st with | .reported | .resolved => false | _ => true

/-- Changes the cut of a kind that is in progress. -/
def State.modCut (s : State) (l : Nat) (k : CutKind) (f : Cut → Cut) : State :=
  s.modLaunch l fun x => { x with cuts := x.cuts.map fun (c : Cut) => if c.kind = k then f c else c }

/-- The tokens that stand ahead of a blaze on the way to a consumer copy. -/
def aheadOf (b : Token) (ts : List Token) : List Token := ts.takeWhile fun t => decide (t ≠ b)

/-- A blaze leaves the way to a consumer copy once the element has recorded its state. -/
def Launch.unblaze (x : Launch) (ci j : Nat) (b : Token) : Launch :=
  let c := Store.getD x.chans ci {}
  { x with chans := Store.set x.chans ci { c with flight := Store.set c.flight j ((Store.getD c.flight j []).erase b) } }

/-- An endpoint as a cut saves it; its breakpoint registers belong to no cut (R96). -/
def Endpoint.saved (e : Endpoint) : Endpoint := { e with blazes := [], moved := false, armed := [] }

/-- The SNAP cuts that an element has recorded, once it records one more: they give the cut index of what it does from then
on (R82). -/
def noteCut (k : CutKind) (n : Nat) (recorded : List (CutKind × Nat)) : List (CutKind × Nat) :=
  if k = .snap then recorded ++ [(k, n)] else recorded

/-- A plane as a cut saves it. What waits at the outputs of a replicated actor is saved when the blaze passes its join. -/
def Plane.saved (p : Plane) (k : CutKind) (n : Nat) : Plane :=
  { p with ins := Store.mapV (fun _ e => e.saved) p.ins,
           outs := if p.repl = 1 then p.outs else Store.mapV (fun _ _ => ({} : OutEp)) p.outs,
           timers := [], recorded := noteCut k n p.recorded, stopped := false, paused := false, brkStop := false }

/-- A node as a cut saves it. -/
def Node.saved (nd : Node) (k : CutKind) (n : Nat) : Node :=
  { nd with ins := Store.mapV (fun _ e => e.saved) nd.ins, recorded := noteCut k n nd.recorded, stopped := false, paused := false,
            brkStop := false }

/-- A plane's state with its share and the tile structures that it owns. A timer is saved as its due cycle less the cycle
counter (R163). -/
def State.saveActor (s : State) (x : Launch) (pl : PlaneId) (p : Plane) : ActorSave :=
  let tile := tileIx pl.col pl.row
  let t := s.tile tile
  let own (i : Nat) : Bool := (s.plane pl).own.getLsbD i
  let now := s.cycle x.glade
  { pl := pl, plane := p, share := Memory.readBytes s.mem (localKey tile p.shBase) p.shSize,
    sacc := if own 2 then t.sacc else [], saccTy := if own 2 then t.saccTy else none,
    codebook := if own 1 then t.codebook else 0#256,
    weights := if own 0 then Memory.readBytes s.mem (weightKey tile 0) 8192 else [],
    timers := (s.plane pl).timers.map fun (c, due) => (c, (due.toNat : Int) - now.toNat) }

/-- The weight stores of a region, in tile order. -/
def State.weightBytes (s : State) (gl : Nat) (q : Region) : List (List Byte) :=
  ((List.range (q.rr.h + 1)).map fun i => (List.range (q.rr.wc + 1)).map fun j =>
    Memory.readBytes s.mem (weightKey (weightTile gl q.rr i j) 0) 8192).flatten

/-- A launch's regions and sequencer records, whose regions are named by their places among the launch's own. -/
def Glade.matrixOf (g : Glade) (l : Nat) : List Region × List MRec :=
  let mine := g.regions.zipIdx.filter fun (q, _) => decide (q.lid = l)
  let rel (r : Nat) : Option Nat := (mine.zipIdx.find? fun ((_, i), _) => decide (i = r)).map (·.2)
  (mine.map (·.1), (g.seqr.filter fun m => decide (m.lid = l)).map fun m => { m with region := m.region.bind rel })

/-- The tokens of a channel towards a consumer copy. -/
def Launch.flightOf (x : Launch) (ci j : Nat) : List Token := Store.getD (Store.getD x.chans ci {}).flight j []

/-- The channels of some indexes as their producer saves them: the dealing and joining counters (R31). -/
def Launch.savedChans (x : Launch) (cs : List Nat) : List (Nat × Chan) :=
  cs.map fun i => (i, { Store.getD x.chans i {} with flight := [] })

/-- Every channel that enters a node or leaves it. -/
def Launch.nodeChans (x : Launch) (n : Nat) : List Nat :=
  (x.img.chans.zipIdx.filter fun (r, _) => decide (r.ckind = 1) && decide (r.cons = n)).map (·.2)
def Launch.nodeOuts (x : Launch) (n : Nat) : List (Nat × ChanRec) :=
  (x.img.chans.zipIdx.filter fun (r, _) => decide (r.pkind = 1) && decide (r.prod = n)).map fun (r, i) => (i, r)

/-- The flights that an actor copy, or a node, records: what stands ahead of the blaze on each channel that enters it (R97,
R294). -/
def Launch.flightsInto (x : Launch) (b : Token) (actor copy : Nat) : List (Nat × Nat × List Token) :=
  (List.range 16).filterMap fun j => (x.inChan actor j).map fun (ci, _) => (ci, copy, aheadOf b (x.flightOf ci copy))
def Launch.flightsNode (x : Launch) (b : Token) (n : Nat) : List (Nat × Nat × List Token) :=
  (x.nodeChans n).map fun ci => (ci, 0, aheadOf b (x.flightOf ci 0))

/-- The faults that a cut records with some planes: those raised on them and on their copies, not yet resolved (R337). -/
def State.faultsOf (s : State) (l : Nat) (pick : PlaneId → Bool) : List FaultRec :=
  s.faults.filter fun f => f.open_ && decide (f.lid = l) && (f.src.pl?.any pick
    || s.copies.any fun c => pick c.pl && decide (f.src = .copy c.cid))

/-- The park records of some planes of a launch; those of copies are made again (R76). -/
def State.parksOf (s : State) (l : Nat) (pick : PlaneId → Bool) : List ParkRec :=
  s.parked.filter fun r => r.ofLaunch l && pick r.pl && decide (r.form ≠ 4)

/-- What a stream records with an element: HWM with its producer, cursors with each reader (R342). -/
def Stream.recordFor (saved now : Stream) (actor : Nat) : Stream :=
  let r := now.sr
  let s := if r.writer = actor ∧ !r.hostp then { saved with hwm := now.hwm, closed := now.closed, endp := now.endp } else saved
  match r.readerOf actor with
  | some j => { s with rd := s.rd.set j (now.rdOf j), rel := s.rel.set j (now.relOf j),
                       forced := if now.forced.getLsbD j then s.forced ||| (1#4 <<< j) else s.forced &&& ~~~(1#4 <<< j) }
  | none => s

/-- A copy as a cut records it (R292). -/
def CopyJob.save (c : CopyJob) : CopySave :=
  { cid := c.cid, pl := c.pl, ch := c.ch, cw := c.cw, done := c.done, budget := c.budget, block := c.block, slot := c.slot,
    fault := c.fault, cut := c.cut }

/-- The streams of a cut once an actor has recorded (R342). -/
def Cut.streamsFor (c : Cut) (x : Launch) (actor : Nat) : List Stream :=
  c.streams.zipIdx.map fun (st, i) => (x.streams[i]?).elim st fun w => st.recordFor w actor

/-- Records one actor copy for the cut of blaze (k, n): its registers, endpoints, timers, share, owned structures,
requests, faults and copies; then forwards the blaze and continues, stops or pauses (R342). -/
def State.recordActor (s : State) (l : Nat) (x : Launch) (pl : PlaneId) (k : CutKind) (n : Nat) : State :=
  let p := s.plane pl
  let b : Token := .blaze k n
  let s : State := { s with copies := s.copies.map fun (c : CopyJob) =>
    if c.pl = pl then (if k = .snap then { c with cut := n } else { c with stopped := true }) else c }
  let twinN := match s.fo.twin with
    | some w => (w.logs.find? fun (a, i, j, _) => decide (a = l ∧ i = p.actor ∧ j = p.copy)).elim 0 fun (_, _, _, rs) => rs.length
    | none => 0
  let a : ActorSave := { s.saveActor x pl (p.saved k n) with twinN := twinN }
  let mine (q : PlaneId) : Bool := decide (q = pl)
  let faults := s.faultsOf l mine
  let parks := s.parksOf l mine
  let jobs := (s.copies.filter fun c => decide (c.pl = pl)).map CopyJob.save
  let s := s.modCut l k fun c =>
    { c with actors := c.actors ++ [a], flights := c.flights ++ x.flightsInto b p.actor p.copy, faults := c.faults ++ faults,
             parks := c.parks ++ parks, copies := c.copies ++ jobs, elems := c.elems ++ [.actor pl],
             streams := c.streamsFor x p.actor }
  let ins := x.blazeIns p.actor
  let s := s.modPlane pl fun p =>
    { p with ins := ins.foldl (fun m j => Store.set m j { Store.getD m j {} with blazes := (Store.getD m j {}).blazes.erase (k, n) }) p.ins,
             recorded := noteCut k n p.recorded, stopped := p.stopped || decide (k = .pre), paused := p.paused || decide (k = .stop) }
  let s := s.modLaunch l fun y => ins.foldl (fun y j => match x.inChan p.actor j with
    | some (ci, _) => y.unblaze ci p.copy b
    | none => y) y
  (x.outsOf p.actor).foldl (fun s o =>
    let cs := x.outChans 0 p.actor o
    if p.repl = 1 then
      (s.modCut l k fun c => { c with chans := c.chans ++ x.savedChans (cs.map (·.1)) }).pushAll l cs b
    else (s.modOut pl o fun e => { e with joinq := e.joinq ++ [b] }).flushOut l p.actor o) s

/-- Records one node and forwards the blaze (R342). -/
def State.recordNode (s : State) (l : Nat) (x : Launch) (n : Nat) (k : CutKind) (num : Nat) : State :=
  let nd := Store.getD x.nodes n {}
  let b : Token := .blaze k num
  let outs := x.nodeOuts n
  let faults := s.faults.filter fun f => f.open_ && decide (f.src = .node l n)
  let s := s.modCut l k fun c =>
    { c with nodes := c.nodes ++ [(n, nd.saved k num)], flights := c.flights ++ x.flightsNode b n, faults := c.faults ++ faults,
             elems := c.elems ++ [.node n], chans := c.chans ++ x.savedChans (outs.map (·.1)) }
  let s := s.modLaunch l fun y =>
    let nd := { nd with ins := Store.mapV (fun _ e => { e with blazes := e.blazes.erase (k, num) }) nd.ins,
                        recorded := noteCut k num nd.recorded, stopped := nd.stopped || decide (k = .pre),
                        paused := nd.paused || decide (k = .stop) }
    let y := { y with nodes := Store.set y.nodes n nd }
    (x.nodeIns n).foldl (fun y (_, ci) => y.unblaze ci 0 b) y
  s.pushAll l outs b

/-- The steering channels of a launch's regions. -/
def Launch.steers (x : Launch) : List (Nat × ChanRec) :=
  (x.img.chans.zipIdx.filter fun (r, _) => decide (r.ckind = 2)).map fun (r, i) => (i, r)

/-- The faults of a launch's matrix commands that are not resolved. -/
def State.matrixFaults (s : State) (l : Nat) : List FaultRec :=
  s.faults.filter fun f => f.open_ && decide (f.lid = l) && (match f.src with | .matrix _ _ => true | _ => false)

/-- A cut with what the sequencer and the regions record (R236). -/
def Cut.withMatrix (c : Cut) (x : Launch) (b : Token) (qs : List Region) (recs : List MRec) (stores : List (List (List Byte)))
    (faults : List FaultRec) : Cut :=
  { c with regions := qs.map fun q => { q with steer := q.steer.saved }, recs := recs,
           stores := stores.zipIdx.map fun (bs, i) => (i, bs),
           flights := c.flights ++ x.steers.map fun (ci, _) => (ci, 0, aheadOf b (x.flightOf ci 0)),
           faults := c.faults ++ faults, matrixDone := true, codebook := x.codebook }

/-- The sequencer and the regions record, once every actor that holds an MMPOST has recorded and a blaze has arrived on
every steering input (R236, R342). -/
def State.recordMatrix (s : State) (l : Nat) (k : CutKind) : State :=
  match s.launch? l with
  | none => s
  | some x =>
    match x.cuts.find? fun c => decide (c.kind = k), s.glade? x.glade with
    | some c, some g =>
      let posters := x.img.posters
      let b : Token := .blaze k c.num
      let ready := (x.copies.all fun (i, j) => !posters.contains i || (match x.planeOf i j with
          | some pl => c.elems.contains (.actor pl)
          | none => true))
        && x.steers.all fun (_, r) => decide (2 < r.pkind) || (s.consEp x r 0).blazes.head? = some (k, c.num)
      if c.matrixDone ∨ !ready then s
      else
        let (qs, recs) := g.matrixOf l
        let faults := s.matrixFaults l
        let stores := qs.map fun q => s.weightBytes x.glade q
        let s := s.modCut l k fun c => c.withMatrix x b qs recs stores faults
        let s := x.steers.foldl (fun s (_, r) => s.modEp l x r 0 fun e => { e with blazes := e.blazes.erase (k, c.num) }) s
        let s := s.modLaunch l fun y => x.steers.foldl (fun y (ci, _) => y.unblaze ci 0 b) y
        if k = .snap then s else s.modGlade x.glade fun g => { g with seqrStopped := g.seqrStopped ++ [l] }
    | _, _ => s

/-- Everything that a launch holds at servers, engines and queues goes. -/
def State.dropWork (s : State) (l : Nat) : State :=
  let s := s.unparkWhere fun r => r.ofLaunch l
  let mine (pl : PlaneId) (rid : Nat) : Bool := (s.findReq pl rid).any fun q => decide (q.1 = l)
  let s : State :=
    { s with barq := s.barq.filter fun e => match e.owner with | .request pl rid => !mine pl rid | .core _ => true,
             copies := s.copies.filter fun c => decide (c.lid ≠ l),
             faults := s.faults.filter fun f => decide (f.lid ≠ l) }
  let s := s.modLaunch l fun x => { x with pageHold := false }
  match s.launch? l with
  | none => s
  | some x =>
    (s.modGlade x.glade fun g => { g with seqr := g.seqr.filter fun m => decide (m.lid ≠ l),
                                          seqrStopped := g.seqrStopped.filter fun m => decide (m ≠ l) }).refill x.glade

/-- A launch held by a PRE cut leaves its planes and claims, with what it has written in cache banks on its way home (R342);
an irrevocable one that was killed is SUSPENDED. A SNAP cut that the PRE cut overtakes is abandoned and gives its number
back (R82). -/
def State.holdOff (s : State) (l : Nat) (c : Cut) : State :=
  let s := ((s.flushLaunch l).dropWork l).unload l
  s.modLaunch l fun x =>
    { x with preCut := some c, preHeld := true, cuts := [], stopHeld := false, scanned := none, pageHold := false,
             cutNo := if x.cuts.any fun d => decide (d.kind = .snap) then x.cutNo - 1 else x.cutNo,
             st := if x.suspend then .suspended else x.st, suspend := false }

/-- A cut in which every element has recorded is complete (R342). A SNAP cut holds the barrier objects as they were when the
copies recorded (R292), any other as they are now that nothing moves. -/
def State.completeCut (s : State) (l : Nat) (x : Launch) (c : Cut) : State :=
  let c : Cut := { c with bars := if c.kind = .snap then c.bars else s.saveBars x, streams := c.streams.map Stream.retail }
  match c.kind with
  | .snap => s.modLaunch l fun x =>
      { x with lastCut := some c, snaps := c.num, cuts := x.cuts.filter fun d => decide (d.kind ≠ .snap),
               streams := x.streams.zipIdx.map fun (st, i) => match c.streams[i]? with
                 | some w => { st with save := st.save.filter fun (p, _) => !before p w.tail }
                 | none => st }
  | .pre => s.holdOff l c
  | .stop => s.modLaunch l fun x => { x with cuts := x.cuts.filter fun d => decide (d.kind ≠ .stop), stopHeld := true }

/-- Completes the cut of a kind once every element has recorded. -/
def State.finishCut (s : State) (l : Nat) (k : CutKind) : State :=
  match s.launch? l with
  | none => s
  | some x =>
    match x.cuts.find? fun c => decide (c.kind = k) with
    | none => s
    | some c =>
      if c.matrixDone && (x.planes.all fun pl => c.elems.contains (.actor pl))
          && (List.range x.img.nodes.length).all fun n => c.elems.contains (.node n) then s.completeCut l x c
      else s

/-! ### Cuts of a launch that is scanned out (R323, R342) -/

/-- A cut with what the elements that have not recorded were scanned out with. `sc` is the state that the launch was scanned
out with; what waits in a join counts up to the blaze. -/
def State.scannedInto (s : State) (l : Nat) (x : Launch) (sc : Cut) (c : Cut) : Cut :=
  let b : Token := .blaze c.kind c.num
  let new := sc.actors.filter fun a => !c.elems.contains (.actor a.pl)
  let nodes := (List.range x.img.nodes.length).filter fun n => !c.elems.contains (.node n)
  let isNew (q : PlaneId) : Bool := new.any fun a => decide (a.pl = q)
  let known (f : FaultRec) : Bool := c.faults.any fun g => decide (g.fid = f.fid)
  let faults := (s.faultsOf l isNew ++ s.faults.filter fun f => f.open_ && nodes.any fun n => decide (f.src = .node l n)).filter
    fun f => !known f
  let unpassed (i : Nat) : Bool := !(c.chans.any fun q => decide (q.1 = i))
  let join (a : ActorSave) : ActorSave :=
    if a.plane.repl = 1 then a
    else match sc.actors.find? fun q => decide (q.pl = a.pl) with
      | none => a
      | some q =>
        let os := (x.outsOf a.plane.actor).filter fun o => (x.outChans 0 a.plane.actor o).any fun (i, _) => unpassed i
        { a with plane := { a.plane with outs := os.foldl (fun m o =>
            let e := q.plane.out o
            Store.set m o { e with joinq := e.joinq.takeWhile fun t => decide (t ≠ b) }) a.plane.outs } }
  let c' : Cut :=
    { c with actors := (c.actors ++ new.map fun (a : ActorSave) => { a with plane := a.plane.saved c.kind c.num }).map join,
             nodes := c.nodes ++ nodes.map fun n => (n, (Store.getD x.nodes n {}).saved c.kind c.num),
             flights := c.flights ++ (new.map fun a => x.flightsInto b a.plane.actor a.plane.copy).flatten
               ++ (nodes.map fun n => x.flightsNode b n).flatten,
             chans := c.chans ++ x.savedChans ((List.range x.img.chans.length).filter unpassed),
             faults := c.faults ++ faults, parks := c.parks ++ s.parksOf l isNew,
             copies := c.copies ++ (s.copies.filter fun w => decide (w.lid = l) && isNew w.pl).map fun (w : CopyJob) =>
               { w.save with cut := if c.kind = .snap then c.num else w.cut },
             streams := new.foldl (fun ss a => ({ c with streams := ss } : Cut).streamsFor x a.plane.actor) c.streams,
             elems := c.elems ++ new.map (fun a => Elem.actor a.pl) ++ nodes.map Elem.node }
  if c.matrixDone then c' else c'.withMatrix x b sc.regions sc.recs (sc.stores.map (·.2)) (s.matrixFaults l)

/-- The scanned-out state after a cut: its blazes are gone from the graph, and the elements have recorded it. -/
def Cut.afterCut (sc : Cut) (k : CutKind) (n : Nat) : Cut :=
  let b : Token := .blaze k n
  let ep (e : Endpoint) : Endpoint := { e with blazes := e.blazes.erase (k, n) }
  let out (e : OutEp) : OutEp := { e with hold := e.hold.erase b, joinq := e.joinq.erase b }
  { sc with
    actors := sc.actors.map fun (a : ActorSave) =>
      { a with plane := { a.plane with ins := Store.mapV (fun _ e => ep e) a.plane.ins, outs := Store.mapV (fun _ e => out e) a.plane.outs,
                                       recorded := if a.plane.recorded.contains (k, n) then a.plane.recorded else noteCut k n a.plane.recorded,
                                       paused := a.plane.paused || decide (k = .stop) } },
    regions := sc.regions.map fun (q : Region) => { q with steer := ep q.steer } }
def Launch.afterCut (x : Launch) (k : CutKind) (n : Nat) : Launch :=
  let b : Token := .blaze k n
  { x with
    chans := Store.mapV (fun _ (c : Chan) => { c with flight := Store.mapV (fun _ ts => ts.erase b) c.flight }) x.chans,
    nodes := Store.mapV (fun _ (nd : Node) =>
      { nd with ins := Store.mapV (fun _ e => { e with blazes := e.blazes.erase (k, n) }) nd.ins,
                recorded := if nd.recorded.contains (k, n) then nd.recorded else noteCut k n nd.recorded,
                paused := nd.paused || decide (k = .stop) }) x.nodes,
    scanned := x.scanned.map fun (t, sc) => (t, sc.afterCut k n) }

/-- An element that is scanned out records the state that it was scanned out with (R342): the cut of a kind of a launch that
is scanned out is complete at once. -/
def State.scanCutDone (s : State) (l : Nat) (k : CutKind) : State :=
  match s.launch? l with
  | none => s
  | some x =>
    match x.scanned, x.cuts.find? fun c => decide (c.kind = k) with
    | some (_, sc), some c =>
      let c' := s.scannedInto l x sc c
      let s : State := { s with copies := s.copies.map fun (w : CopyJob) =>
        if w.lid = l ∧ !c.elems.contains (.actor w.pl) then
          (if k = .snap then { w with cut := c.num } else { w with stopped := true })
        else w }
      (s.modLaunch l fun y => y.afterCut k c.num).completeCut l x c'
    | _, _ => s

/-- Completes the cuts in progress of a launch that is scanned out, in their order. -/
def State.scanRecord (s : State) (l : Nat) : State :=
  match s.launch? l with
  | some x => if x.scanned.isSome then x.cuts.foldl (fun s c => s.scanCutDone l c.kind) s else s
  | none => s

/-- Takes a cut of a launch, on its planes or scanned out (R341, R342). -/
def State.takeCut (s : State) (l : Nat) (k : CutKind) (core : Option Nat := none) : State := (s.inject l k core).scanRecord l

/-- Whether an actor copy has nothing in progress that a cut must wait for (R342, steps 1 and 2). -/
def State.quiet (s : State) (pl : PlaneId) : Bool :=
  (match (s.plane pl).firing with
    | none => true
    | some f => match f.st with | .running => false | _ => true) && s.canDrain pl

/-- BLAZE_ARRIVAL (R97, R294, R342). -/
def State.blazeArrive (s : State) (l : Nat) (e : Elem) (k : CutKind) : State :=
  match s.launch? l with
  | none => s
  | some x =>
    if !x.onFabric then s
    else
      let s := match e with
        | .actor pl =>
          let p := s.plane pl
          match x.blazeOf pl p with
          | some (k', n) => if k' = k ∧ p.launch = some l ∧ s.quiet pl then s.recordActor l x pl k n else s
          | none => s
        | .node n =>
          let nd := Store.getD x.nodes n {}
          match x.nodeBlaze n nd with
          | some (k', num) => if k' = k ∧ n < x.img.nodes.length then s.recordNode l x n k num else s
          | none => s
      (s.recordMatrix l k).finishCut l k

/-! ### Restoring -/

/-- A place of a plane after a restore. -/
def movePl (m : List (PlaneId × PlaneId)) (p : PlaneId) : PlaneId := match m.find? fun q => decide (q.1 = p) with | some (_, q) => q | none => p

/-- A fault whose planes have moved. -/
def FaultRec.move (m : List (PlaneId × PlaneId)) (gl : Nat) (f : FaultRec) : FaultRec :=
  let mv := movePl m
  let src : FSrc := match f.src with
    | .firing p => .firing (mv p)
    | .input p => .input (mv p)
    | .trap p => .trap (mv p)
    | .request p r => .request (mv p) r
    | .stall p r => .stall (mv p) r
    | .svc p => .svc (mv p)
    | .promise p ch cid due => .promise (mv p) ch cid due
    | .matrix _ mid => .matrix gl mid
    | q => q
  { f with glade := gl, src := src, input := f.input.map fun (p, c) => (mv p, c) }

/-- A request as it is taken up again: one whose park record is restored stays parked, one held ahead of its window or
faulted stays so, every other waits to be performed again. -/
def Req.again (parks : List ParkRec) (faults : List FaultRec) (pl : PlaneId) (r : Req) : Req :=
  match r.st with
  | .parked => if parks.any fun q => decide (q.pl = pl ∧ q.rid = r.rid) then r else { r with st := .waiting }
  | .readHeld _ => r
  | .retryAt _ _ => r
  | .faulted fid => if faults.any fun f => decide (f.fid = fid) then r else { r with st := .waiting }
  | _ => { r with st := .waiting }

/-- Writes a region's weight stores. -/
def State.putWeights (s : State) (gl : Nat) (q : Region) (bs : List (List Byte)) : State :=
  let tiles := ((List.range (q.rr.h + 1)).map fun i => (List.range (q.rr.wc + 1)).map fun j => weightTile gl q.rr i j).flatten
  (tiles.zip bs).foldl (fun (s : State) (t, b) => { s with mem := Memory.writeBytes s.mem (weightKey t 0) b }) s

/-- Restores one actor copy on a plane, its requests as `again` has them. A timer that was past due is due at once (R163).
Breakpoint registers that are armed on the plane stay armed where the launch may be debugged (R96, R371). -/
def State.putActor (s : State) (l : Nat) (x : Launch) (again : Req → Req) (pl : PlaneId) (a : ActorSave) : State :=
  let tile := tileIx pl.col pl.row
  let old := s.plane pl
  let now := s.cycle x.glade
  let own (i : Nat) : Bool := a.plane.own.getLsbD i
  let kept (m : Store Endpoint) : Store Endpoint :=
    if s.mayDebug x then old.ins.foldl (fun m (j, e) => if e.armed.isEmpty then m else Store.set m j ((Store.getD m j {}).rearm e.armed)) m
    else m
  let p : Plane :=
    { a.plane with launch := some l, ins := kept a.plane.ins, deficit := old.deficit, lastIssue := old.lastIssue,
                   timers := a.timers.map fun (ch, n) => (ch, BitVec.ofNat 64 ((now.toNat : Int) + n).toNat),
                   rq := a.plane.rq.map again }
  let s : State := { s with mem := Memory.writeBytes s.mem (localKey tile p.shBase) a.share }
  let s : State := if own 0 then { s with mem := Memory.writeBytes s.mem (weightKey tile 0) a.weights } else s
  let s := if own 1 then s.setTile tile { s.tile tile with codebook := a.codebook } else s
  let s := if own 2 then s.setTile tile { s.tile tile with saccOwner := some pl.plane, saccTy := a.saccTy, sacc := a.sacc } else s
  s.setPlane pl p

/-- Restores the regions and the sequencer's records: each saved binding goes to the region that R228 chooses, with its
weights (R236). -/
def State.putMatrix (s : State) (l : Nat) (x : Launch) (c : Cut) (recs : List MRec) : State :=
  let (rs, took) := rebind c.regions
  let off := (s.glade? x.glade).elim 0 fun g => g.regions.length
  let place (r : Option Nat) : Option Nat := r.bind fun i => (took.getD i none).map (· + off)
  let s := s.modGlade x.glade fun g =>
    { g with regions := g.regions ++ rs.map (fun q => { q with lid := l }),
             seqr := g.seqr ++ recs.map fun m => { m with lid := l, region := place m.region } }
  (took.zip c.stores).foldl (fun s (t, (_, bs)) => match t.bind fun i => rs[i]? with
    | some q => s.putWeights x.glade q bs
    | none => s) s

/-- Takes a saved copy up again: its engine sends a new promise (R219, R292). -/
def State.putCopy (s : State) (l : Nat) (x : Launch) (mv : List (PlaneId × PlaneId)) (faults : List FaultRec) (w : CopySave) :
    State :=
  let pl := movePl mv w.pl
  let job : CopyJob :=
    { cid := w.cid, engine := edgeIx pl.col pl.row, glade := x.glade, lid := l, pl := pl, ch := w.ch, rid := w.cid, cw := w.cw,
      done := w.done, promise := 0#64, budget := w.budget, block := w.block, slot := w.slot, cut := w.cut,
      fault := w.fault.filter fun n => faults.any fun f => decide (f.fid = n) }
  let (due, s) := s.promiseOf job.engine x.glade (s.copies ++ [job])
  ({ s with copies := s.copies ++ [{ job with promise := due }] } : State).promiseTo l pl w.ch due

/-- Where a saved fault stands again: with its token in an input that was saved, or in a handler's firing that has not acted on
it, or else it waits for the exception queue, to be delivered again (R337). -/
def Cut.faultSt (c : Cut) (fid : Nat) : FSt :=
  let token (t : Token) : Bool := match t with | .fault n _ => decide (n = fid) | _ => false
  let inPlane (p : Plane) : Bool := p.ins.any fun (_, e) => e.slots.any fun (_, t) => token t
  let took (p : Plane) : Bool := (p.firing.toList ++ p.aside.toList).any fun f => decide (f.fid = some fid) && !f.acted
  if (c.actors.any fun a => inPlane a.plane) || c.flights.any (fun (_, _, ts) => ts.any token) then .delivered
  else if c.actors.any fun a => took a.plane then .taken
  else .heldFull

/-- The words that a restored record stands on: those of its address, or of its place in a FIFO window. -/
def State.parkKeys (s : State) (x : Launch) (r : ParkRec) : List Nat :=
  if r.keys.isEmpty then s.vaKeys r.asid r.va r.nw
  else match (if r.form = 3 then (s.req? r.pl r.rid).bind fun q => x.streamOf q.handle else none) with
    | some (_, st) => (elemWords st.sr (fifoAt x st.sr r.va)).map (· * 8)
    | none => r.keys

/-- Restores park records at the end of their chains (R77). -/
def State.putParks (s : State) (l : Nat) (x : Launch) (mv : List (PlaneId × PlaneId)) (rs : List ParkRec) : State :=
  rs.foldl (fun s r =>
    let r := { r with pl := movePl mv r.pl, lid := l, glade := x.glade, ver := x.ver, asid := x.asid }
    s.park r (s.parkKeys x r)) s

/-- Scans what a launch's restored records wait for, where one of them would be performed now (R74). -/
def State.wakeParks (s : State) (l : Nat) : State := s.wake (s.ripe fun r => r.ofLaunch l)

/-- The planes that a launch's actor copies had when they were saved, with those that they get. -/
def Launch.moves (x : Launch) (c : Cut) : List (PlaneId × PlaneId) :=
  c.actors.filterMap fun a => (x.planeOf a.plane.actor a.plane.copy).map fun q => (a.pl, q)

/-- Restores a cut of a launch that has been given plane `p` of its glade: elements, channels, regions, sequencer
records, copies with new promises (R219), park records, faults (R337). Cycle counters, breakpoint registers and cleared
window entries are as the launch left them (R95, R96, R320). -/
def State.putCut (s : State) (l p : Nat) (c : Cut) : State :=
  match s.launch? l with
  | none => s
  | some x =>
    let chans := c.flights.foldl (fun (m : Store Chan) (ci, j, ts) =>
      let h := Store.getD m ci {}
      Store.set m ci { h with flight := Store.set h.flight j ts }) (c.chans.foldl (fun m (ci, h) => Store.set m ci h) [])
    let nodes : Store Node := c.nodes.foldl (fun (m : Store Node) (n, nd) => Store.set m n nd) []
    let x : Launch := { x with plane := some p, chans := chans, nodes := nodes, scanned := none, preHeld := false, preCut := none,
                               stopHeld := false, cuts := [], codebook := c.codebook,
                               owed := List.range x.streams.length }
    let s := ((s.setLaunch l x).putFifos l).noteResident x p
    let mv := x.moves c
    let s := c.actors.foldl (fun s a => match x.planeOf a.plane.actor a.plane.copy with
      | some q => s.putActor l x (Req.again c.parks c.faults a.pl) q a
      | none => s) s
    let s := s.loadWins l x
    let s := s.putMatrix l x c (c.recs.map fun m => { m with pl := movePl mv m.pl, page := none })
    let s : State := { s with faults := s.faults ++ c.faults.map fun f => { f.move mv x.glade with st := c.faultSt f.fid } }
    let s := c.copies.foldl (fun s w => s.putCopy l x mv c.faults w) s
    let s := s.putParks l x mv (c.parks.map fun r => { r with stamp := s.cycle x.glade })
    let s := (List.range x.streams.length).foldl (fun s i => s.catchUp l i) s
    ((s.refill x.glade).putCounts l x).putArms l x

/-! ### Streams on a rollback or replay (R91) -/

/-- Positions of a stream that share a word of its window (R52). -/
def StreamRec.group (r : StreamRec) : Nat := if r.isFifo then 1 else max 1 (8 / eszBytes r.esz)

/-- Bytes that a save gives back at an element's place. -/
def StreamRec.placeBytes (r : StreamRec) (ws : List W64) : List Byte :=
  (bytesOfWords ws).take (if r.isFifo then r.stepBytes else eszBytes r.esz)

/-- Whether every page of a launch's windows is within reach of their servers, but those that are still to be set empty. -/
def State.windowsThere (s : State) (x : Launch) : Bool :=
  x.streams.zipIdx.all fun (st, i) => (List.range st.sr.nfrm).all fun k => (st.sr.slotPages k).all fun off =>
    x.unset.contains (i, off) || decide (s.reach x.asid (streamVa st.sr off) ≠ .away)

/-- The elements of a window that lie before HWM, as (position, words). -/
def State.windowElems (s : State) (x : Launch) (st : Stream) : List (W32 × List W64) :=
  (List.range st.sr.cap).filterMap fun i =>
    let p := st.front + BitVec.ofNat 32 i
    if before p st.hwm then (s.winBytes x st.sr (st.offset p) (eszBytes st.sr.esz)).map fun bs => (p, elemSave bs) else none

/-- The positions that share their words with position p. -/
def StreamRec.mates (r : StreamRec) (p : W32) : List W32 :=
  let p0 := p.toNat / r.group * r.group
  (List.range r.group).map fun i => BitVec.ofNat 32 (p0 + i)

/-- Gives the words of the positions that share them with p a state. -/
def State.fillGroup (s : State) (x : Launch) (st : Stream) (p : W32) (f : Bool) : State :=
  match st.sr.mates p with
  | q :: t => s.winFill x st.sr (st.offset q) ((t.length + 1) * st.sr.stepBytes) f
  | [] => s

/-- The server supplies a host producer's elements from the log while the window has room (R64, R91). The words of an element
become full once their last element, or the last of the log, is there. -/
def supplyGo (l i : Nat) : Nat → State → State
  | 0, s => s
  | n + 1, s =>
    match (s.launch? l).bind fun x => (x.streams[i]?).map fun st => (x, st) with
    | none => s
    | some (x, st) =>
      if !st.sr.hostp ∨ !before st.hwm st.bound then s
      else match st.log.find? fun (p, _) => decide (p = st.hwm) with
        | some (p, ws) =>
          let s := s.winWrite x st.sr (st.offset p) (st.sr.placeBytes ws)
          let last := decide ((st.sr.mates p).getLast? = some p) || st.log.all fun q => decide (q.1 ≠ p + 1#32)
          let s := if last then s.fillGroup x st p true else s
          supplyGo l i n (s.setStream l i { st with hwm := st.hwm + 1#32 })
        | none => s
def State.supply (s : State) (l i : Nat) : State := supplyGo l i (((s.launch? l).bind fun x => x.streams[i]?).elim 0 fun st => st.sr.cap) s

/-- One group of positions of the restored window `st`: words that hold all their elements stay as they are; words of which
only some are held belong to a closed stream's end, and stay full only where the restored stream is closed too; any others
are refilled from what is known or become empty. -/
def State.restoreGroup (s : State) (x : Launch) (st : Stream) (held : W32 → Bool) (known : List (W32 × List W64)) (p : W32) :
    State :=
  let ps := st.sr.mates p
  if ps.all held then s
  else if ps.any held then (if st.closed then s else s.fillGroup x st p false)
  else
    let found := known.filter fun q => ps.contains q.1
    (found.foldl (fun s q => s.winWrite x st.sr (st.offset q.1) (st.sr.placeBytes q.2)) s).fillGroup x st p (!found.isEmpty)

/-- The server's order on replay (R91): restore the descriptor from the cut or from START, empty the words that do not
hold their position's element, refill the saved and logged ones. A word holds its position's element where the attempt that ends
has written it, or an earlier one that got further (R92). -/
def State.restoreStream (s : State) (l i : Nat) (x : Launch) (now : Stream) (saved : Option Stream) : State :=
  let r := now.sr
  let base : Stream := (saved.getD (initStream r)).retail
  let frames := 2 ^ (32 - r.log2e)
  let front := r.frameStart base.tail
  let back := (r.frameOf now.front + frames - r.frameOf front) % frames
  let elems := s.windowElems x now
  let log := if r.hostp then now.log ++ elems.filter (fun (p, _) => !(now.log.any fun q => decide (q.1 = p))) else now.log
  let st : Stream := { base with sr := r, front := front, fslot := (now.fslot + back * (r.nfrm - 1)) % r.nfrm,
                                 served := now.served, stallCnt := 0, log := log, save := now.save, attempt := [] }
  let ahead := now.attempt.filter fun q => !before q.1 now.hwm
  let held (p : W32) : Bool :=
    !r.hostp && !before p now.front && (before p now.hwm || ahead.any fun q => decide (q.1 = p))
  let known := if r.hostp then log.filter fun q => before q.1 st.hwm else now.save
  let ps := (List.range r.cap).map fun k => front + BitVec.ofNat 32 k
  let s := (ps.filter fun p => decide (p.toNat % r.group = 0)).foldl (fun s p => s.restoreGroup x st held known p) s
  let full (p : W32) : Bool := (r.mates p).all held || (st.closed && held p) || (now.save.any fun q => decide (q.1 = p))
  let attempt := if r.hostp then [] else (elems ++ ahead ++ now.save).filter fun (p, _) =>
    ps.contains p && !before p st.hwm && full p
  (s.setStream l i { st with attempt := attempt }).supply l i

/-- Restores every stream of a launch. -/
def State.restoreStreams (s : State) (l : Nat) (c : Option Cut) (old : List Stream) : State :=
  match s.launch? l with
  | none => s
  | some x => old.zipIdx.foldl (fun s (st, i) => s.restoreStream l i x st (c.bind fun c => c.streams[i]?)) s

/-! ### The ladder (R90, R338) -/

/-- Discards the entries of a launch whose cut index is not less than `n`, and what it left in cache banks under such an index
(R82, R90). -/
def State.discard (s : State) (l n : Nat) : State :=
  let go (e : UEnt) : Bool := decide (e.lid = l) && !e.committed && decide (n ≤ e.cut)
  let lines := linesOf (s.under.filter go)
  let s : State := { s with under := s.under.filter fun e => !go e,
                            bank := s.bank.filter fun b => !(decide (b.lid = some l) && decide (n ≤ b.cut)) }
  lines.foldl (fun s k =>
    if s.under.any fun e => decide (e.eff.line = k) then s
    else s.setSide k { Store.getD s.side k {} with shadowed := false }) s

/-- The plane to use again: the one the launch holds, or the one R261 gives. -/
def State.replace (s : State) (x : Launch) : Option Nat := match x.plane with | some p => some p | none => s.placeFor x.glade x.img

/-- INIT is cleared on every barrier object that the launch initialised (R214). -/
def State.clearBars (s : State) (x : Launch) : State :=
  x.bars.foldl (fun s k => s.setBar k { s.bar k with init := false }) s

/-- Retained requests of a twin run go back to those that the cut holds (R372). -/
def State.cutTwin (s : State) (l : Nat) (c : Option Cut) : State :=
  let keep (i j : Nat) : Nat := match c with
    | some c => (c.actors.find? fun a => decide (a.plane.actor = i ∧ a.plane.copy = j)).elim 0 (·.twinN)
    | none => 0
  let go (e : Nat × Nat × Nat × List (List Byte)) : Nat × Nat × Nat × List (List Byte) :=
    let (a, i, j, rs) := e
    if a = l then (a, i, j, rs.take (keep i j)) else e
  { s with fo := { s.fo with twin := s.fo.twin.map fun t => { t with logs := t.logs.map go } } }

/-- Starts a launch again from its record on a plane (R90, R304): streams go back to START, then the start tokens. It waits while a
page of a window is away (assumption 22). -/
def State.replay (s : State) (l : Nat) : State :=
  match s.launch? l with
  | none => s
  | some x =>
    match (if s.windowsThere x then s.placeFor x.glade x.img else none) with
    | none => s
    | some p =>
      let old := x.streams
      let s := (s.cutTwin l none).loadInto l p false
      let s := s.modLaunch l fun y => { y with streams := old, bars := [] }
      (s.restoreStreams l none old).startTokens l

/-- Rung 2 (R90, R91): back to the last complete SNAP cut, or to the start. A DONE launch waits for a plane, and any launch while
a page of a window is away (assumption 22). -/
def State.rollback (s : State) (l : Nat) (x : Launch) : State :=
  let n := x.lastCut.elim 0 (·.num)
  match (if s.windowsThere x then s.replace x else none) with
  | none => s
  | some p =>
    let pre := x.preAgain || x.cuts.any fun c => decide (c.kind = .pre)
    let s := s.discard l n
    let s := s.modLaunch l fun y => { y with used := y.used + 1, rung := none, rungFid := none, cuts := [], cutNo := n, st := .live,
                                             codebook := 0#256 }
    let s := (s.dropWork l).unload l
    let s := s.modGlade x.glade fun g => { g with rollbacks := g.rollbacks + 1 }
    let s := match x.lastCut with
      | none => (s.clearBars x).replay l
      | some c =>
        let s := c.bars.foldl (fun (s : State) (b : BarSave) => { s with mem := Memory.writeBytes s.mem b.pa b.bytes }) (s.clearBars x)
        (((s.cutTwin l (some c)).putCut l p c).restoreStreams l (some c) x.streams).wakeParks l
    let s := s.modLaunch l fun y => { y with preAgain := false }
    if pre then s.inject l .pre else s

/-- Everything of an attempt goes (R90). -/
def State.discardAll (s : State) (l : Nat) (x : Launch) : State :=
  let s := (((s.discard l 0).dropWork l).clearBars x).unload l
  s.modLaunch l fun y => { y with cuts := [], lastCut := none, cutNo := 0, sig := [], preHeld := false, preCut := none, scanned := none,
                                  stopHeld := false, rung := none, rungFid := none, preAgain := false, suspend := false }

/-- An image sealed to a tenant's public key with a fresh key of a number: the fresh public key, the tag, the image encrypted
(R370). -/
def sealedImage (key : List W64) (id : Nat) (bs : List Byte) : List Byte :=
  toLE 56 (Config.freshPublic id).toNat ++ toLE 16 (Config.gcmTag key id bs).toNat
    ++ bs.zipIdx.map fun (b, i) => b ^^^ Config.gcmStream key id i

/-- The bytes of an image or dump as they leave the device: sealed for a confidential tenant (R370). -/
def State.sealFor (s : State) (x : Launch) (id : Nat) (bs : List Byte) : List Byte :=
  if (s.tenant x.tenant).confidential then sealedImage (s.tenant x.tenant).key id bs else bs

/-- Rung 4: the launch is FAILED, with the fault's words as its report, and its token goes to the core that issued the
JLAUNCH (R93, R335, R338). Its fault dump is the whole token, sealed for a confidential tenant (R370; assumption 13). -/
def State.failLaunch (s : State) (l : Nat) (x : Launch) (fid : Nat) : State :=
  let f := s.fault? fid
  let words := f.elim [] (·.words)
  let s := s.discardAll l x
  let (id, s) := s.freeIx
  let report := s.shown (some x) words
  let dump := s.sealFor x id (bytesOfWords words)
  let s := s.modLaunch l fun y => { y with st := .failed, report := some (9, report), dump := dump }
  let s := s.modGlade x.glade fun g => { g with fails := g.fails + 1 }
  if f.any fun f => decide (fdest f.cls ≠ .driver) then
    s.setCore x.core { s.core x.core with reports := (s.core x.core).reports ++ [report] }
  else s

/-- Rung 3 for one launch (R90, R93): ABORTED, and after its first abort it replays; a later one is OLDEST_ONLY. -/
def State.abort (s : State) (l : Nat) (x : Launch) : State :=
  let s := s.discardAll l x
  let s := s.modLaunch l fun y => { y with used := y.used + 1, aborts := y.aborts + 1, snaps := 0,
                                           st := if y.aborts = 0 then .aborted else .oldestOnly }
  s.modGlade x.glade fun g => { g with aborts := g.aborts + 1 }

/-- The members of a launch's group that have started (R81). -/
def State.startedMembers (s : State) (x : Launch) : List (Nat × Launch) := (s.members x).filter fun (_, y) => y.st.isLive

/-- A group aborts as a whole (R81): every member that has started goes back, then each replays whose first abort it was. -/
def State.abortGroup (s : State) (x : Launch) : State :=
  let ms := s.startedMembers x
  let s := ms.foldl (fun s (l, y) => s.abort l y) s
  ms.foldl (fun s (l, y) => if y.aborts = 0 then s.replay l else s) s

/-- A group that cannot replay, or of which one member fails, is FAILED as a whole (R81, assumption 20). -/
def State.failGroup (s : State) (x : Launch) (fid : Nat) : State :=
  (s.members x).foldl (fun s (l, y) => if y.st.isLive ∨ y.st = .waiting then s.failLaunch l y fid else s) s

/-- Whether a rung's action applies in a launch's state (R93). -/
def rungApplies (x : Launch) (r : Nat) : Bool :=
  match x.st with
  | .live | .held | .irrevocable | .done => true
  | .oldestOnly | .aborted => decide (3 ≤ r)
  | _ => false

/-- RECOVERY_RUNG (R338): the highest pending rung of a launch, or the replay of an aborted launch that waits for a
plane. A launch that has been moved acts on it once it has started (R295). Rungs 3 and 4 act on the launch's whole group (R81): a member that is irrevocable or has no unit left fails it. -/
def State.recover (s : State) (l : Nat) : State :=
  match s.launch? l with
  | none => s
  | some x =>
    match x.rung with
    | none => if x.st = .aborted ∧ x.plane.isNone then s.replay l else s
    | some r =>
      let fid := x.rungFid.getD 0
      let last (y : Launch) : Bool := y.irrev || decide (y.rbud ≤ y.used)
      if x.st = .waiting ∧ x.preCut.isSome then s
      else if !rungApplies x r ∨ r ≤ 1 then s.modLaunch l fun y => { y with rung := none, rungFid := none }
      else if last x ∨ r = 4 then s.failGroup x fid
      else if r = 2 then s.rollback l x
      else if (s.startedMembers x).any fun (_, y) => last y then s.failGroup x fid
      else s.abortGroup x

/-- OLDEST_ONLY_START (R90, R93). -/
def State.oldestStart (s : State) (l : Nat) : State :=
  match s.launch? l with
  | none => s
  | some x => if x.st = .oldestOnly ∧ x.rung.isNone ∧ s.isOldest l x then s.replay l else s

/-- Whether cuts of a launch can be taken: it is on its planes, or scanned out (R342). -/
def Launch.takesCuts (x : Launch) : Bool :=
  (match x.st with | .live | .held | .irrevocable => true | _ => false) && !x.preHeld

/-- SNAP_CADENCE (R306): the cadence points that have passed since step 3 of R304; one during a SNAP cut joins it. -/
def State.snapCadence (s : State) (l : Nat) : State :=
  match s.launch? l with
  | none => s
  | some x =>
    let due := (s.cycle x.glade - x.startCycle).toNat / (x.cad * 65536)
    if x.cad ≠ 0 ∧ x.takesCuts ∧ x.cadTaken < due then
      (s.modLaunch l fun y => { y with cadTaken := due }).takeCut l .snap
    else s

/-! ### Kill, pre-emption, resumption (R93, R97, R256, R340, R342) -/

/-- Lets paused planes and nodes of a launch go on (R97): breakpoints' stops end, BRKT's firings take their successors,
copies continue with new promises. Where the launch is scanned out, they go on once it is back. -/
def State.unpause (s : State) (l : Nat) (x : Launch) : State :=
  let free (p : Plane) : Plane := { p with paused := false, brkStop := false }
  let s := s.modLaunch l fun y =>
    { y with stopHeld := false,
             nodes := Store.mapV (fun _ (n : Node) => { n with paused := false, brkStop := false }) y.nodes,
             scanned := y.scanned.map fun (t, c) =>
               (t, { c with actors := c.actors.map fun (a : ActorSave) => { a with plane := free a.plane } }) }
  let s := s.modGlade x.glade fun g =>
    { g with seqrStopped := g.seqrStopped.filter fun m => decide (m ≠ l),
             regions := g.regions.map fun q => if q.lid = l then { q with brkStop := false } else q }
  let s := (s.copies.filter fun c => decide (c.lid = l) && c.stopped).foldl (fun s c =>
    let (due, s) := s.promiseOf c.engine c.glade s.copies
    (s.modCopy c.cid fun c => { c with stopped := false, promise := due, missed := false, owed := false }).promiseTo l c.pl c.ch due) s
  x.planes.foldl (fun s pl =>
    let s := s.modPlane pl free
    match (s.plane pl).firing with
    | some f =>
      if f.st = .atBreak then s.goNext pl f else s
    | none => s) s

/-- Resumes a launch that a PRE cut holds, on a plane that R261 gives (R342). -/
def State.resumePre (s : State) (l : Nat) (x : Launch) : State :=
  match x.preCut, s.placeFor x.glade x.img with
  | some c, some p =>
    let s := (s.putCut l p c).wakeParks l
    let s := s.modLaunch l fun y => { y with st := if y.st = .suspended then .irrevocable else y.st }
    s.unpause l ((s.launch? l).getD x)
  | _, _ => s

end Sys2Proof.Machine
end

