-- ==== Sys2Proof/Machine/Pages.lean ====
section
/-!
DEFINITION. Invalidation (19 R319, R320), run-ahead fetches (R318), answers to page requests and scanning out (R323,
R324), paging and migration (04 R77, 19 R326), the park timeout (04 R74).
-/
namespace Sys2Proof.Machine

/-! ### Invalidation (R319) -/

def WinEnt.meets (w : WinEnt) (v : Inval) : Bool :=
  w.v && decide (w.asid = v.asid) && overlaps w.vbase (w.npg * 2 ^ 16) v.base v.len
def Leaf.meets (l : Leaf) (v : Inval) : Bool := decide (l.asid = v.asid) && overlaps l.va l.size v.base v.len
/-- Whether a port holds a translation that an invalidation names. -/
def Port.meets (p : Port) (v : Inval) : Bool := (p.wins.any fun (_, w) => w.meets v) || p.cache.any fun l => l.meets v

/-- JINVR retires once every port has acknowledged; rd takes the acknowledgements that count (R255, R319). -/
def State.invalDone (s : State) (iid : Nat) : State :=
  match s.invals.find? fun v => decide (v.iid = iid) with
  | none => s
  | some v =>
    if v.todo.isEmpty && v.active.isEmpty then
      let s := { s with invals := s.invals.filter fun w => decide (w.iid ≠ iid) }
      let c := s.core v.core
      match c.wait with
      | some (.inval rd i) =>
        if i = iid then s.setCore v.core ({ c.setReg rd (BitVec.ofNat 64 v.acks) with wait := none, pc := c.pc + 4#64 }) else s
      | _ => s
    else s

/-- PORT_INVALIDATION (R319, steps 1 and 2; R320): from here the port holds accesses in the range that have not been
translated. In this model an access is translated and performed in one step, so that step 3 waits for nothing. -/
def State.portInval (s : State) (iid port : Nat) : State :=
  match s.invals.find? fun v => decide (v.iid = iid) with
  | none => s
  | some v =>
    if !v.todo.contains port then s
    else
      let p := s.port port
      let v' : Inval := { v with todo := v.todo.erase port, active := port :: v.active, acks := if p.meets v then v.acks + 1 else v.acks }
      let p : Port := { p with wins := Store.mapV (fun _ (w : WinEnt) => if w.meets v then { w with v := false } else w) p.wins,
                               cache := p.cache.filter fun l => !l.meets v }
      { s.setPort port p with invals := s.invals.map fun w => if w.iid = iid then v' else w }

/-- PORT_ACKNOWLEDGE (R319, step 4). -/
def State.portAck (s : State) (iid port : Nat) : State :=
  match s.invals.find? fun v => decide (v.iid = iid) with
  | none => s
  | some v =>
    if !v.active.contains port then s
    else
      ({ s with invals := s.invals.map fun w => if w.iid = iid then { w with active := w.active.erase port } else w } : State).invalDone iid

/-! ### Run-ahead (R318) -/

/-- Counts a dropped fetch of a port. -/
def State.dropFetch (s : State) (port : Nat) : State :=
  let p := s.port port
  s.setPort port { p with drops := if p.drops = BitVec.allOnes 48 then p.drops else p.drops + 1#48 }

/-- RUN_AHEAD_FETCH (R318; assumption 49) at `va`, which an access at `prompt` prompts: issued only within the window entry or
cached leaf that covers the access. Where none does, the tables that are present are walked, and a leaf that covers both is
cached. A fetch brings a line nearer, which no reader sees. -/
def State.runAhead (s : State) (port : Nat) (asid : BitVec 16) (va prompt : Nat) : State :=
  let p := s.port port
  if (p.wins.any fun (_, w) => w.v && decide (w.asid = asid) && decide (w.vbase ≤ prompt) && decide (prompt < w.vbase + w.npg * 2 ^ 16))
      || (p.cache.any fun l => decide (l.asid = asid) && decide (l.va ≤ prompt) && decide (prompt < l.va + l.size)) then s
  else match s.walk asid va with
    | .leaf f => if f.va ≤ prompt ∧ prompt < f.va + f.size then s.cacheLeaf port f else s
    | _ => s.dropFetch port

/-! ### Answers to page requests (R324) -/

/-- Whether a request is held on an entry. -/
def Req.heldOn (ix : Nat) (r : Req) : Bool := decide (r.st = .pageHeld ix)

/-- Whether a launch has an access held on entry `ix`: on its planes, in the sequencer, in an engine, or scanned out. -/
def State.heldBy (s : State) (ix l : Nat) (x : Launch) : Bool :=
  (s.planes.any fun (_, p) => decide (p.launch = some l) && p.rq.any (Req.heldOn ix))
    || (s.copies.any fun c => decide (c.lid = l) && decide (c.page = some ix))
    || (match s.glade? x.glade with | some g => g.seqr.any fun m => decide (m.lid = l) && decide (m.page = some ix) | none => false)
    || (match x.scanned with
        | some (_, c) => (c.actors.any fun a => a.plane.rq.any (Req.heldOn ix)) || c.recs.any fun m => decide (m.page = some ix)
        | none => false)

/-- The launches that have an access held on an entry. -/
def State.holders (s : State) (ix : Nat) : List (Nat × Launch) := s.launches.filter fun (l, x) => s.heldBy ix l x

/-- A launch with no access held on an entry in use issues again (R323). -/
def State.unholdPages (s : State) (l : Nat) : State :=
  match s.launch? l with
  | none => s
  | some x => if s.prq.ents.any fun e => s.heldBy e.ix l x then s else s.setLaunch l { x with pageHold := false }

/-- A number that no entry has: accesses that an abort discards, and scanned-out accesses that a FAULT answer waits for. -/
def prqDrop : Nat := 256
def prqFault : Nat := 257

def Req.rehold (ix : Nat) (st : ReqSt) (r : Req) : Req := if r.heldOn ix then { r with st := st } else r
def reholdRec (ix : Nat) (dst : Option Nat) (m : MRec) : MRec := if m.page = some ix then { m with page := dst } else m

/-- Changes what the accesses held on an entry wait for, wherever they are. -/
def State.rehold (s : State) (ix : Nat) (st : ReqSt) (dst : Option Nat) : State :=
  let inCut (c : Cut) : Cut :=
    { c with actors := c.actors.map fun (a : ActorSave) => { a with plane := { a.plane with rq := a.plane.rq.map (Req.rehold ix st) } },
             recs := c.recs.map (reholdRec ix dst) }
  let scan (x : Launch) : Launch :=
    match x.scanned with | some (w, c) => { x with scanned := some (w, inCut c) } | none => x
  { s with planes := Store.mapV (fun _ (p : Plane) => { p with rq := p.rq.map (Req.rehold ix st) }) s.planes,
           copies := s.copies.map fun (c : CopyJob) => if c.page = some ix then { c with page := dst } else c,
           glades := Store.mapV (fun _ (g : Glade) => { g with seqr := g.seqr.map (reholdRec ix dst) }) s.glades,
           launches := Store.mapV (fun _ x => scan x) s.launches }

/-- Raises F_PAGE for the accesses of a launch that are held on an entry (R200, R219, R234). -/
def State.faultHeld (s : State) (l ix : Nat) : State :=
  let on := s.planes.filter fun (_, p) => decide (p.launch = some l)
  let s := on.foldl (fun s (k, p) => (p.rq.filter (Req.heldOn ix)).foldl (fun s r => s.reqFault (planeOfKey k) r .page 0 (vaInfo r.a)) s) s
  let s := (s.copies.filter fun c => decide (c.lid = l) && decide (c.page = some ix)).foldl (fun s c =>
    (s.modCopy c.cid fun c => { c with page := none }).copyFault c .page 0 (BitVec.ofNat 64 (cwSaddr c.cw + c.done))) s
  match (s.launch? l).bind fun x => (s.glade? x.glade).map fun g => (x.glade, g) with
  | none => s
  | some (gl, g) => (g.seqr.filter fun m => decide (m.lid = l) && decide (m.page = some ix)).foldl (fun s m =>
      (s.modRec gl m.mid fun m => { m with page := none }).mFault gl m .page) s

/-- The entry that an answer names, if it is in use. -/
def State.answered (s : State) (val : W64) : Option PrqEnt := s.prq.ents.find? fun e => decide (e.ix = val.toNat % 256)
/-- The action of an answer. -/
def answerAct (val : W64) : Nat := bitsOf val.toNat 9 8
/-- The fault `w` that waits for an entry, if it may have one now: it joins or is posted, and its accesses are held on that
entry. A fault with no access left is discarded. -/
def State.postWait (s : State) (w : PrqEnt) : State :=
  let drop (s : State) : State := { s with prq := { s.prq with waits := s.prq.waits.filter fun e => decide (e.ix ≠ w.ix) } }
  let on (s : State) (ix : Nat) : State :=
    let hs := s.holders w.ix
    hs.foldl (fun s (l, _) => s.pageHold l) (drop (s.rehold w.ix (.pageHeld ix) (some ix)))
  if (s.holders w.ix).isEmpty then drop s
  else match s.prq.ents.find? w.samePage with
    | some e => on s e.ix
    | none =>
      if s.prqRoom w.glade then
        let (ix, s) := s.takeEntry w
        on s ix
      else s

/-- Frees an entry; the faults that wait for one are posted in order (R322). -/
def State.freePrqEnt (s : State) (ix : Nat) : State :=
  let s : State := { s with prq := { s.prq with ents := s.prq.ents.filter fun e => decide (e.ix ≠ ix) } }
  s.prq.waits.foldl State.postWait s

/-- The words of an entry as SERVICE code reads them (R321). -/
def PrqEnt.bits (e : PrqEnt) : BitVec 256 :=
  1#1 ++ 0#31 ++ e.stamp.setWidth 32 ++ 0#48 ++ e.ver ++ e.ticket ++ 0#6 ++ BitVec.ofNat 2 (e.port % 4) ++ BitVec.ofNat 1 (e.port / 4)
    ++ BitVec.ofNat 7 (e.port / 8) ++ 0#7 ++ BitVec.ofNat 2 e.level ++ BitVec.ofNat 2 e.kind ++ BitVec.ofNat 5 e.glade
    ++ e.asid ++ BitVec.ofNat 48 e.va

/-- What SERVICE code reads at entry `ix` of the queue, and at the queue's status word (R321, R357). -/
def Prq.read (q : Prq) (ix : Nat) : BitVec 256 := ((q.ents.find? fun e => decide (e.ix = ix)).map PrqEnt.bits).getD 0#256
def Prq.status (q : Prq) : W64 := q.refused.setWidth 64

/-- What waits for a launch's requests outside its planes names their new planes: park records, barrier waits, copies and
faults. -/
def State.rePlane (s : State) (l : Nat) (x : Launch) (mv : List (PlaneId × PlaneId)) : State :=
  let mine (pl : PlaneId) (rid : Nat) : Bool := (s.findReq pl rid).any fun q => decide (q.1 = l)
  let own (o : BarOwner) : BarOwner := match o with
    | .request pl rid => if mine pl rid then .request (movePl mv pl) rid else o
    | .core c => .core c
  let s : State :=
    { s with barq := s.barq.map fun e => { e with owner := own e.owner },
             faults := s.faults.map fun (f : FaultRec) => if f.lid = l then f.move mv x.glade else f,
             copies := s.copies.map fun (w : CopyJob) => if w.lid = l then { w with pl := movePl mv w.pl } else w }
  s.modGlade x.glade fun g => { g with park := g.park.map fun r => if r.ofLaunch l then { r with pl := movePl mv r.pl } else r }

/-- Reloads a launch that was scanned out, in place, on a plane that R261 gives, once it waits for no entry (R323). -/
def State.reload (s : State) (l : Nat) : State :=
  match s.launch? l with
  | none => s
  | some x =>
    match x.scanned, (if x.pageHold then none else s.placeFor x.glade x.img) with
    | some (_, c), some p =>
      let x : Launch := { x with plane := some p, scanned := none }
      let mv := x.moves c
      let s := s.rePlane l x mv
      let s := ((s.setLaunch l x).putFifos l).noteResident x p
      let s := c.actors.foldl (fun s a => s.putActor l x id (movePl mv a.pl) a) s
      let s := s.loadWins l x
      let s := s.putMatrix l x c (c.recs.map fun m => { m with pl := movePl mv m.pl })
      ((s.putCounts l x).putArms l x).faultHeld l prqFault
    | _, _ => s

/-- After an answer: the launches that held accesses on the entry issue again or are reloaded. -/
def State.resumeHolders (s : State) (hs : List (Nat × Launch)) : State :=
  hs.foldl (fun s (l, _) => (s.unholdPages l).reload l) s

/-- Counts an answer without effect. -/
def State.refuseAnswer (s : State) : State := { s with prq := { s.prq with refused := s.prq.refused + 1#32 } }

/-- PRQ_ANSWER_RESUME (R324). -/
def State.answerResume (s : State) (val : W64) : State :=
  if answerAct val ≠ 0 then s
  else match s.answered val with
    | none => s.refuseAnswer
    | some e =>
      let hs := s.holders e.ix
      ((s.rehold e.ix .waiting none).freePrqEnt e.ix).resumeHolders hs

/-- PRQ_ANSWER_FAULT (R324): accesses of a launch that is scanned out fault once it is reloaded. -/
def State.answerFault (s : State) (val : W64) : State :=
  if answerAct val ≠ 1 then s
  else match s.answered val with
    | none => s.refuseAnswer
    | some e =>
      let hs := s.holders e.ix
      let s := hs.foldl (fun s (l, x) => if x.scanned.isSome then s else s.faultHeld l e.ix) s
      ((s.rehold e.ix (.pageHeld prqFault) (some prqFault)).freePrqEnt e.ix).resumeHolders hs

/-- PRQ_ANSWER_ABORT (R324): rung 3 for every launch with an access held on the entry; an irrevocable one fails (R338). -/
def State.answerAbort (s : State) (val : W64) : State :=
  if answerAct val ≠ 2 then s
  else match s.answered val with
    | none => s.refuseAnswer
    | some e =>
      let hs := s.holders e.ix
      let s := ((s.rehold e.ix (.pageHeld prqDrop) (some prqDrop)).freePrqEnt e.ix)
      hs.foldl (fun s (l, _) => s.askRung l 3 0) s

/-- PRQ_ANSWER_REFUSED (R324): action 0b11, or an entry that is not in use. -/
def State.answerRefused (s : State) (val : W64) : State :=
  if answerAct val = 3 ∨ (s.answered val).isNone then s.refuseAnswer else s

/-! ### Scanning out (R323) -/

/-- Everything that a launch holds now, as a context image counts it and as scanning out saves it. -/
def State.scanCut (s : State) (l : Nat) (x : Launch) (g : Glade) : Cut :=
  let (qs, recs) := g.matrixOf l
  let flights := (x.chans.map fun (ci, h) => h.flight.map fun (j, ts) => (ci, j, ts)).flatten
  { kind := .pre, num := 0, actors := x.planes.map fun pl => s.saveActor x pl { s.plane pl with timers := [] },
    regions := qs, recs := recs, stores := (qs.map fun q => s.weightBytes x.glade q).zipIdx.map fun (bs, i) => (i, bs),
    parks := s.parksOf l fun _ => true, nodes := x.nodes, streams := x.streams, flights := flights, bars := s.saveBars x,
    copies := (s.copies.filter fun c => decide (c.lid = l)).map CopyJob.save,
    faults := s.faults.filter fun f => f.open_ && decide (f.lid = l) }

/-- Scans a launch out: its planes are freed, and the cuts in progress are completed from the state that it is scanned out with
(R342). Its park records, barrier waits and copies go on (R323; assumption 50). -/
def State.scanLaunch (s : State) (l : Nat) (x : Launch) : State :=
  match s.glade? x.glade with
  | none => s
  | some g =>
    let c := s.scanCut l x g
    let s := s.modGlade x.glade fun g => { g with seqr := g.seqr.filter fun m => decide (m.lid ≠ l) }
    ((s.unload l).modLaunch l fun y => { y with scanned := some (s.cycle x.glade, c) }).scanRecord l

/-- Whether a launch's matrix commands have gone as far as they can: no step of theirs has an effect (R227 to R232). -/
def State.matrixStill (s : State) (l : Nat) (x : Launch) (g : Glade) : Bool :=
  (g.seqr.zipIdx.all fun (m, k) => decide (m.lid ≠ l) || (decide (s.seqDispatch x.glade k = s) && decide (s.mCompletion x.glade m.mid = s)))
    && g.regions.zipIdx.all fun (q, r) => decide (q.lid ≠ l) || (decide (s.mmChunk x.glade r = s) && decide (s.drainTile x.glade r = s))

/-- QUICK_SERVICE_SCAN_OUT (R323) of entry `ix`: past the limit, the launches whose accesses it holds, once the requests and
matrix commands that they have issued have gone as far as they can (assumption 50). -/
def State.scanOut (s : State) (ix : Nat) : State :=
  match s.prq.ents.find? fun e => decide (e.ix = ix) with
  | none => s
  | some e =>
    match s.glade? e.glade with
    | none => s
    | some g =>
      if (s.cycle e.glade - e.stamp).toNat ≤ g.quick then s
      else (s.holders ix).foldl (fun s (l, x) =>
        if x.plane.isSome && x.scanned.isNone && !x.preHeld && x.planes.all s.canDrain && s.matrixStill l x g then s.scanLaunch l x else s) s

/-! ### Paging and migration (R77, R326) -/

/-- The home words, in a frame, of the records that stand in a page (R77). -/
def State.pageWaiters (s : State) (asid : BitVec 16) (page frame : Nat) : List Nat :=
  ((s.parked.filter fun r => r.keys.isEmpty && decide (r.asid = asid)).map fun r =>
    ((List.range r.nw).map fun i => r.va + 8 * i).filter fun a => decide (a / 2 ^ 16 = page)).flatten.map fun a =>
      frame + a % 2 ^ 16 / 8 * 8

/-- The frame that holds a page: by the tables, or the frame `f` of the address space's tenant that held it until its entry
was cleared (R326). -/
def State.pageFrame (s : State) (asid : BitVec 16) (page f : Nat) : Option Nat :=
  match s.keyAt asid (page * 2 ^ 16), Store.get? s.asids asid.toNat with
  | some k, _ => some k
  | none, some e => if (s.frame f).st = .owned ∧ (s.frame f).tenant = e.tenant then some (f * 2 ^ 16) else none
  | none, none => none

/-- PAGE_OUT (R77, R326) of the page at an address, which may have been unmapped from frame `f` before: its bits and bytes go
to the side array; its records stay, and PARKED leaves the frame. -/
def State.pageOut (s : State) (asid : BitVec 16) (va f : Nat) : State :=
  let page := va / 2 ^ 16
  match s.pageFrame asid page f with
  | some k =>
    let s := s.flushBank false fun b => decide (b.line * 64 / 2 ^ 16 = k / 2 ^ 16)
    let s := (List.range 1024).foldl (fun (s : State) i => s.foldLine (k / 64 + i)) s
    let p : PageSide :=
      { asid := asid, va := page * 2 ^ 16, bits := (List.range 8192).map fun i => s.homeBit (k / 8 + i),
        bytes := Memory.readBytes s.mem k 65536 }
    let side := s.side.map fun (l, b) => if l * 64 / 2 ^ 16 = k / 2 ^ 16 then (l, { b with parked := false }) else (l, b)
    let s : State := { s with side := side.filter fun (_, (b : SideBits)) => decide (b ≠ {}),
                              paged := p :: s.paged.filter fun q => !(decide (q.asid = asid) && decide (q.va = page * 2 ^ 16)) }
    s.catchUpAll
  | none => s

/-- PAGE_IN (R77, R326) of a page into a frame of its tenant: bytes and bits are restored before the page is mapped, and
PARKED is set on every line for which a record exists; records whose words then have the state that they wait for are scanned
(R74). -/
def State.pageIn (s : State) (asid : BitVec 16) (va f : Nat) : State :=
  let page := va / 2 ^ 16
  match s.paged.find? fun q => decide (q.asid = asid) && decide (q.va = page * 2 ^ 16), Store.get? s.asids asid.toNat with
  | some q, some e =>
    if (s.frame f).st = .owned ∧ (s.frame f).tenant = e.tenant then
      let k := f * 2 ^ 16
      let s : State := { s with mem := Memory.writeBytes s.mem k q.bytes, paged := s.paged.erase q }
      let s := q.bits.zipIdx.foldl (fun s (b, i) => s.setHomeBit (k / 8 + i) b) s
      let s := (s.pageWaiters asid page k).foldl (fun s k => s.markParked k true) s
      s.wake (s.ripe fun _ => true)
    else s
  | _, _ => s

/-! ### The park timeout (R74) -/

/-- PARK_TIMEOUT_CHECK: the records of a glade that have been parked longer than its timeout raise F_PARK_BUDGET, with
code 1; a record of budget 255 is exempt (R71). -/
def State.parkTimeouts (s : State) (gl : Nat) : State :=
  match s.glade? gl with
  | none => s
  | some g => (g.park.filter fun r => r.fid.isNone && decide (r.left ≠ 255) && decide (g.parkTimeout < (g.cycle - r.stamp).toNat)).foldl
      (fun s r => s.budgetFault r 1) s

end Sys2Proof.Machine
end

