-- ==== Sys2Proof/Machine/CtxBytes.lean ====
section
/-!
DEFINITION. The bytes of a context image (21 R344, R345). Where the table of R345 names the parts of a record without their
places, the places are the model's (assumption 13).
-/
namespace Sys2Proof.Machine

/-! ### The size of an image (R345) -/

/-- Understory entries of a launch as an image holds them: one for each line and cut index, with the address of the line. -/
def State.imageEntries (s : State) (l : Nat) : List (Nat × Nat × Nat) :=
  s.under.foldl (fun es e =>
    if e.lid = l && !e.committed && !(es.any fun q => decide (q.1 = e.eff.line ∧ q.2.1 = e.cut)) then
      es ++ [(e.eff.line, e.cut, e.va / 64 * 64)]
    else es) []

/-- Bytes of the whole image (R344: LEN). -/
def State.ctxLen (s : State) (l : Nat) (x : Launch) (c : Cut) : Nat :=
  64 + 128 + to64 x.img.bytes.length + c.size + (match x.lastCut with | some d => d.saveSize | none => 0)
    + to64 (80 * (s.imageEntries l).length)

/-! ### Pieces -/

/-- Bytes whose contents the spec does not place. -/
def ctxFree (id at_ n : Nat) : List Byte := (List.range n).map fun i => Config.ctxByte (id * 2 ^ 40 + at_ + i)

/-- A list of bytes filled up to a length with bytes of that kind. -/
def ctxPad (id at_ : Nat) (n : Nat) (bs : List Byte) : List Byte := bs ++ ctxFree id (at_ + bs.length) (n - bs.length)

/-- Appends a section that takes n bytes. -/
def ctxAdd (id n : Nat) (bs piece : List Byte) : List Byte := bs ++ ctxPad id bs.length n piece

/-- Codes of the control kinds (R16). -/
def Ctl.code : Ctl → Nat
  | .sot => 0 | .eot => 1 | .stop0 => 2 | .stop1 => 3 | .stop2 => 4 | .stop3 => 5 | .eos => 6

/-- A token in 528 bytes: 512 of data, 8 of LMASK, and a byte that holds TAG and CTL (R15). -/
def Token.bytes : Token → List Byte
  | .data d => bytesOfWords (mkLanes (laneAt d.lanes)) ++ toLE 8 d.lmask.toNat ++ toLE 8 (tyCode d.tag).toNat
  | .null => bytesOfWords (mkLanes fun _ => 0#64) ++ toLE 8 1 ++ toLE 8 (7 + 16)
  | .ctl k => bytesOfWords (mkLanes fun _ => 0#64) ++ toLE 8 1 ++ toLE 8 (k.code + 16)
  | .blaze k n =>
    let kind : Nat := match k with | .snap => 0 | .pre => 1 | .stop => 2
    bytesOfWords (mkLanes fun _ => 0#64) ++ toLE 8 (kind + n % 2 ^ 16 * 4) ++ toLE 8 (8 + 16)
  | .fault _ ws => bytesOfWords (mkLanes fun j => ws.getD j 0#64) ++ toLE 8 (2 ^ 4 - 1) ++ toLE 8 (tyCode .u64).toNat

/-- The 528-byte places of some tokens, of n; the others are empty. -/
def ctxTokens (id at_ n : Nat) (ts : List Token) : List Byte := ctxPad id at_ (528 * n) ((ts.take n).map Token.bytes).flatten

/-! ### Sections -/

/-- The header (R344). -/
def ctxHeader (x : Launch) (c : Cut) (susp : Bool) (len : Nat) : List Byte :=
  toLE 8 (0x4358 + 2 ^ 16 + (if susp then 2 ^ 20 else 0) + x.used % 256 * 2 ^ 32 + x.cutNo % 2 ^ 24 * 2 ^ 40)
    ++ toLE 8 (x.cutNo / 2 ^ 24 % 256 + c.actors.length % 4096 * 2 ^ 8 + c.regions.length % 16 * 2 ^ 20)
    ++ toLE 8 len ++ toLE 40 0

/-- A request that is parked, held or faulted, as a park record (R72): its record among those saved, which has the rounds that
are left and the stamp, or one made for it. Its place in a chain is lost. -/
def Req.recBytes (x : Launch) (parks : List ParkRec) (pl : PlaneId) (r : Req) : List Byte :=
  let made : ParkRec :=
    { glade := x.glade, pl := pl, rid := r.rid, lid := 0, ver := x.ver, va := va48 r.a / 8 * 8, asid := x.asid,
      form := formOf r.kind, wid := (widCode r.wd).toNat, nw := max 1 (min 64 (widWords r.wd)), left := r.budget.toNat,
      data := if r.kind = .stf then r.b else 0#64, rch := r.resp.getD 0, stamp := 0#64 }
  let rec_ : ParkRec := (parks.find? fun q => decide (q.pl = pl ∧ q.rid = r.rid)).getD made
  bytesOfWords (({ nisl := 0 } : Glade).recWords { rec_ with slot := chainEnd })

/-- The dealing counter of an actor (R31, R297): that of the channel of its first aligned input. -/
def Cut.dealingOf (c : Cut) (x : Launch) (i : Nat) : Nat :=
  ((x.img.actors[i]?).bind fun a => (a.aligned.filterMap fun k => x.inChan i k).head?).elim 0 fun (ci, _) =>
    ((c.chans.find? fun (a, _) => decide (a = ci)).map (·.2)).elim 0 (·.deal)

/-- A tile record: head with tile, plane, copy index, continuation and dealing counter; registers, slots and holding entries,
ordinals, timers, budget and flags, share, owned structures, requests. -/
def ActorSave.bytes (id at_ : Nat) (x : Launch) (c : Cut) (a : ActorSave) : List Byte :=
  let p := a.plane
  let cont : Nat := p.firing.elim 0 fun f => f.block.toNat
  let head := toLE 8 (a.pl.col + a.pl.row * 2 ^ 8 + a.pl.plane * 2 ^ 16 + p.copy * 2 ^ 24 + cont * 2 ^ 32)
    ++ toLE 8 (c.dealingOf x p.actor)
  let bs := ctxPad id at_ 64 head
    ++ ((List.range 64).map fun n => toLE 8 (p.sreg n).toNat).flatten
    ++ ((List.range 16).map fun n => bytesOfWords (mkLanes (laneAt (p.vreg n)))).flatten
    ++ ((List.range 8).map fun n => toLE 8 (p.mreg n).toNat).flatten
    ++ ((List.range 16).map fun j => ctxTokens id (at_ + 8832 + 2112 * j) 4 ((p.inp j).slots.map (·.2))).flatten
    ++ ((List.range 16).map fun o => ctxTokens id (at_ + 42624 + 528 * o) 1 (p.out o).hold).flatten
    ++ ((List.range 16).map fun j => toLE 8 (p.inp j).ord.toNat).flatten
    ++ ctxPad id (at_ + 51200) 128 ((a.timers.take 8).map fun (ch, n) => toLE 8 (BitVec.ofInt 64 n).toNat ++ toLE 8 ch).flatten
    ++ ctxPad id (at_ + 51328) 64 (toLE 1 p.budget.toNat)
    ++ a.share ++ a.weights ++ (if p.own.getLsbD 1 then toLE 32 a.codebook.toNat else [])
    ++ (a.sacc.map fun (i, v) => toLE 8 i ++ toLE 8 v.toNat).flatten
    ++ (p.keptReqs.map fun r => r.recBytes x c.parks a.pl).flatten
  ctxPad id at_ (to64 a.size) bs

/-- A node record and the tokens that it holds. -/
def nodeBytes (n : Nat) (nd : Node) : List Byte :=
  toLE 8 n ++ toLE 8 nd.posA ++ toLE 8 nd.posB ++ toLE 8 (nd.lastA.getD 0#64).toNat ++ toLE 8 (nd.lastB.getD 0#64).toNat
    ++ toLE 24 (if nd.eosOut then 1 else 0)
    ++ (nd.buf.map Token.bytes).flatten ++ (nd.ins.map fun (_, e) => (e.slots.map fun (_, t) => t.bytes).flatten).flatten

/-- A region record: its binding, its command's next chunk and record (all zero where it runs none), its accumulators and the
addresses of its pinned lines (R236). -/
def Region.imgBytes (recs : List MRec) (q : Region) : List Byte :=
  let cmd := recs.find? fun m => decide (q.cmd = some m.mid)
  toLE 64 (q.acc.getD 0 + q.m.getD 0 * 2 ^ 16 + q.n * 2 ^ 32 + q.chunkIx * 2 ^ 48 + q.nextChunk * 2 ^ 80
      + (if cmd.isSome then 2 ^ 128 else 0))
    ++ (match cmd with | some m => (bytesOfWords m.cw).take 64 ++ toLE (64 - m.cw.length * 8) 0 | none => toLE 64 0)
    ++ toLE 64 0
    ++ (match q.m with
        | some m => ((List.range (4096 * accTiles m q.n)).map fun i => toLE 4 (Store.getD q.accs i 0#32).toNat).flatten
        | none => [])
    ++ (q.pinned.map fun p => toLE 8 p.1).flatten

/-- The saves and log of a stream: a position and its words. -/
def Stream.saveBytes (st : Stream) : List Byte :=
  ((st.save ++ st.log).map fun (p, ws) => toLE 8 p.toNat ++ bytesOfWords ws).flatten

/-- Adds the first sections of a cut: tiles, nodes, regions, sequencer, stream descriptors. -/
def Cut.addFront (id : Nat) (x : Launch) (c : Cut) (bs : List Byte) : List Byte :=
  let bs := c.actors.foldl (fun bs a => bs ++ a.bytes id bs.length x c) bs
  let bs := ctxAdd id (to64 c.nodesSize) bs
    ((c.nodes.map fun (n, nd) => nodeBytes n nd).flatten ++ (c.flights.map fun (_, _, ts) => (ts.map Token.bytes).flatten).flatten)
  let bs := c.regions.foldl (fun bs q => ctxAdd id (to64 q.size) bs (q.imgBytes c.recs)) bs
  let bs := bs ++ (c.recs.map fun m => ctxPad id 0 64 (bytesOfWords m.cw)).flatten
  bs ++ (c.streams.map fun st => bytesOfWords (st.words x.glade x.asid)).flatten

/-- Adds the section of barriers and copies. -/
def Cut.addBars (id : Nat) (c : Cut) (bs : List Byte) : List Byte :=
  ctxAdd id (to64 (16 * c.bars.length + 72 * c.copies.length)) bs
    ((c.bars.map fun b => b.bytes).flatten ++ (c.copies.map fun w => ctxPad id 0 64 (bytesOfWords w.cw) ++ toLE 8 w.done).flatten)

/-- An understory entry: the line as the entry's writes leave it, its address, version and cut index. -/
def State.entryBytes (s : State) (id l : Nat) (x : Launch) (e : Nat × Nat × Nat) : List Byte :=
  let own := s.under.filter fun u => decide (u.lid = l) && !u.committed && decide (u.eff.line = e.1) && decide (u.cut = e.2.1)
  own.foldl (fun cur u => u.eff.onBytes (e.1 * 64) cur) (ctxFree id e.1 64)
    ++ toLE 8 e.2.2 ++ toLE 4 x.ver.toNat ++ toLE 4 e.2.1

/-- The context image of a launch (R344, R345): header, launch record, graph image, the sections of its PRE cut with the
stream saves and log and the understory entries, and behind them those of its last complete cut (R295). -/
def State.ctxImage (s : State) (id l : Nat) (x : Launch) (c : Cut) (susp : Bool) : List Byte :=
  let n := s.ctxLen l x c
  let bs := ctxHeader x c susp n ++ x.rcd
  let bs := ctxAdd id (to64 x.img.bytes.length) bs x.img.bytes
  let bs := c.addFront id x bs
  let bs := ctxAdd id (to64 (sumOf (c.streams.map Stream.saveSize))) bs (c.streams.map Stream.saveBytes).flatten
  let es := s.imageEntries l
  let bs := c.addBars id (ctxAdd id (to64 (80 * es.length)) bs (es.map (s.entryBytes id l x)).flatten)
  ctxPad id 0 n (match x.lastCut with | some d => d.addBars id (d.addFront id x bs) | none => bs)

end Sys2Proof.Machine
end

