-- ==== Sys2Proof/Machine/Context.lean ====
section
/-!
DEFINITION. Context images (21 R344, R345), the launch that one moves to another glade (17 R295 to R297), and
LAUNCH_START (18 R304), which also resumes such a launch.
-/
namespace Sys2Proof.Machine

/-! ### JCTXSAVE (R258) -/

/-- Whether a launch is held off its planes by a complete PRE cut, or SUSPENDED (R258); one that was moved stays so until it
is resumed (R295). -/
def Launch.heldOff (x : Launch) : Option Cut := if x.plane.isNone then x.preCut else none

/-- JCTXSAVE (R258, R295) of a launch to an address of the core's space: the result for rd, or none where the destination
is not mapped writable. -/
def State.ctxSave (s : State) (asid : BitVec 16) (l dst : Nat) : Option W64 × State :=
  match s.launch? l with
  | none => (some allOnes, s)
  | some x =>
    match x.heldOff with
    | none => (some 0#64, s)
    | some c =>
      let (id, s) := s.freeIx
      let susp := decide (x.st = .suspended) || x.suspend
      let bs := s.sealFor x id (s.ctxImage id l x c susp)
      match s.fwWrite asid dst bs with
      | (false, s) => (none, s)
      | (true, s) => (some (BitVec.ofNat 64 bs.length), { s with ctxs := Store.set s.ctxs id (l, x, c, susp) })

/-! ### Replacing the graph (R296) -/

/-- Sets fields of the n-byte record at an offset to 0. -/
def maskRec (bs : List Byte) (off n : Nat) (fields : List (Nat × Nat)) : List Byte :=
  let r := imgRec bs off n
  let r' := fields.foldl (fun r (hi, lo) => r - bitsOf r hi lo * 2 ^ lo) r
  bs.take off ++ toLE n r' ++ bs.drop (off + n)

/-- The same in every record of a table. -/
def maskTable (bs : List Byte) (off n size : Nat) (fields : List (Nat × Nat)) : List Byte :=
  (List.range n).foldl (fun bs i => maskRec bs (off + size * i) size fields) bs

/-- COL, ROW, REPL and DIR of the actor records, each of which its task records follow. -/
def maskActors : Nat → Nat → List Byte → List Byte
  | 0, _, bs => bs
  | n + 1, off, bs =>
    let nt := bitsOf (imgRec bs off 64) 26 24 + 1
    maskActors n (off + 64 + 32 * nt) (maskRec bs off 64 [(6, 0), (12, 7), (20, 15), (21, 21)])

/-- An image's bytes without the fields in which a replacement may differ (R296): WIDTH; COL, ROW, REPL and DIR of actors;
COL and ROW of nodes and regions; FCOL and FROW of channels; PCOL and PEDGE of streams; PORTID of window entries. -/
def maskImage (bs : List Byte) : List Byte :=
  let h := imgRec bs 0 64
  let bs := maskActors (bitsOf h 47 36) (bitsOf h 159 128) (maskRec bs 0 64 [(26, 20)])
  let bs := maskTable bs (bitsOf h 191 160) (bitsOf h 63 48) 32 [(64, 58), (70, 65)]
  let bs := maskTable bs (bitsOf h 223 192) (bitsOf h 75 64) 32 [(16, 10), (22, 17)]
  let bs := maskTable bs (bitsOf h 255 224) (bitsOf h 83 76) 128 [(512 + 12, 512 + 6), (512 + 13, 512 + 13)]
  let bs := maskTable bs (bitsOf h 287 256) (bitsOf h 87 84) 64 [(6, 0), (12, 7)]
  maskTable bs (bitsOf h 319 288) (bitsOf h 100 88) 16 [(57, 48)]

/-- Whether an image may stand in a context image in another's place (R296). -/
def mayReplace (a b : Image) : Bool := decide (maskImage a.bytes = maskImage b.bytes)

/-! ### Another REPL (R297) -/

/-- Tokens that the dealing rule gives to copy j of n, of d dealt. -/
def dealt (d n j : Nat) : Nat := if j < d then (d - j + n - 1) / n else 0

/-- Insertion by ordinal, behind equals. -/
def insOrd {α : Type} (q : Nat × α) : List (Nat × α) → List (Nat × α)
  | [] => [q]
  | r :: t => if q.1 < r.1 then q :: r :: t else r :: insOrd q t
def sortOrd {α : Type} (l : List (Nat × α)) : List (Nat × α) := l.foldl (fun acc q => insOrd q acc) []

/-- The saved state of a copy of an actor. -/
def Cut.copyOf (c : Cut) (i j : Nat) : Option ActorSave := c.actors.find? fun a => decide (a.plane.actor = i) && decide (a.plane.copy = j)
/-- The tokens on the way to a copy. -/
def Cut.flightTo (c : Cut) (ci j : Nat) : List Token := ((c.flights.find? fun (a, b, _) => decide (a = ci) && decide (b = j)).map fun (_, _, t) => t).getD []
def Cut.chanOf (c : Cut) (ci : Nat) : Chan := ((c.chans.find? fun (a, _) => decide (a = ci)).map (·.2)).getD {}

/-- Tokens of an input of a copy, oldest first, with the cycle of their arrival. -/
def Cut.tokensAt (c : Cut) (ci i j k : Nat) : List (Nat × Token) :=
  (match c.copyOf i j with | some a => (a.plane.inp k).slots | none => []) ++ (c.flightTo ci j).map fun t => (0, t)

/-- The aligned inputs of an actor with their channels. -/
def Launch.alignedChans (x : Launch) (i : Nat) (a : ActorRec) : List (Nat × Nat) :=
  a.aligned.filterMap fun k => (x.inChan i k).map fun (ci, _) => (k, ci)
def Launch.looseChans (x : Launch) (i : Nat) (a : ActorRec) : List (Nat × Nat) :=
  ((List.range 16).filter fun k => !a.align.getLsbD k).filterMap fun k => (x.inChan i k).map fun (ci, _) => (k, ci)

/-- The control tokens of a queue, in order. -/
def ctlsOf (ts : List Token) : List Token := ts.filter fun t => match t with | .ctl _ => true | _ => false

/-- Gives the tokens that wait in a join their ordinals from `k` on (R31): those that wait with an ordinal keep it; the next
one of any other is copy (k mod n)'s next data token, or a control token once it stands first at every copy. -/
def numberJoin : Nat → Nat → List (Nat × Token) → List (List Token) → List (Nat × Token)
  | 0, _, late, _ => late
  | fuel + 1, k, late, qs =>
    let here := late.filter fun q => decide (q.1 = k)
    let later := late.filter fun q => decide (q.1 ≠ k)
    if !here.isEmpty then
      let data := here.any fun q => (ctlsOf [q.2]).isEmpty
      here ++ numberJoin fuel (if data then k + 1 else k) later qs
    else if qs.all (·.isEmpty) && late.isEmpty then []
    else match qs.getD (k % qs.length) [] with
      | t :: ts =>
        if (ctlsOf [t]).isEmpty then (k, t) :: numberJoin fuel (k + 1) late (qs.set (k % qs.length) ts)
        else if qs.all fun q => decide (q.head? = some t) then (k, t) :: numberJoin fuel k late (qs.map fun q => q.drop 1)
        else numberJoin fuel (k + 1) late qs
      | [] => numberJoin fuel (k + 1) late qs

/-- The tokens that wait at an output of an actor, each with its ordinal; none where a control token has been sent by some
copies only. -/
def Cut.joinOrd (c : Cut) (x : Launch) (i o n : Nat) : Option (List (Nat × Token)) :=
  let first := (c.chanOf (((x.outChans 0 i o).head?.map (·.1)).getD 0)).joinIx
  let ep (j : Nat) : OutEp := match c.copyOf i j with | some a => a.plane.out o | none => {}
  let qs := (List.range n).map fun j => if n = 1 then (ep j).hold else (ep j).joinq
  let ctl := ctlsOf (qs.headD [])
  if qs.any fun q => decide (ctlsOf q ≠ ctl) then none
  else
    let late := (ep 0).late
    let top := late.foldl (fun m q => max m q.1) first
    let total := qs.foldl (fun m q => m + q.length) late.length
    some (numberJoin ((total + 1) * (n + 1) + (top - first) + 1) first late qs)

/-- A waiting token of an aligned channel, with the key by which R297 deals it again: twice its dealing ordinal and one for a
data token; for a control token in a FIFO extension twice the ordinal that is next behind it. `ts` are the tokens of copy j
of n, of d dealt, that have not been consumed. -/
def dealKeys (d n j : Nat) (ts : List (Nat × Token)) : List (Nat × Nat × Token) :=
  let left := (ts.filter fun q => (ctlsOf [q.2]).isEmpty).length
  (ts.foldl (fun (acc : List (Nat × Nat × Token) × Nat) q =>
    let m := dealt d n j - left + acc.2
    if (ctlsOf [q.2]).isEmpty then (acc.1 ++ [(2 * (j + n * m) + 1, q)], acc.2 + 1)
    else (acc.1 ++ [(if m = 0 then 0 else 2 * (j + n * (m - 1)) + 2, q)], acc.2)) ([], 0)).1

/-- The tokens that new copy j' of n' gets of an aligned channel: the data tokens of every copy that the dealing gives it,
and the control tokens that stood before old copy j (R297). -/
def redealt (n' j' : Nat) (all : List (List (Nat × Nat × Token))) (own : List (Nat × Nat × Token)) : List (Nat × Token) :=
  let isCtl (q : Nat × Nat × Token) : Bool := !(ctlsOf [q.2.2]).isEmpty
  let ctlsFrom (l : List (Nat × Nat × Token)) : List (Nat × Nat × Token) := (l.filter isCtl).reverse
  let ctls := (ctlsFrom own).zipIdx.map fun (q, e) =>
    (all.foldl (fun m l => match (ctlsFrom l)[e]? with | some r => max m r.1 | none => m) q.1, q.2)
  let data := (all.map fun l => l.filter fun q => !isCtl q && decide (q.1 / 2 % n' = j')).flatten
  (sortOrd (ctls.reverse ++ data)).map (·.2)

/-- A copy beyond the old REPL as R297 makes it: the registers and share of old copy 0, and nothing of its own. -/
def ActorSave.fresh (a : ActorSave) (i j : Nat) : ActorSave :=
  let p : Plane := { a.plane with ins := [], outs := [], firing := none, aside := none, timers := [], rq := [], resp := [], ring := [],
                                  budget := 16#8 }
  { a with pl := ⟨1000 + j, i, 0⟩, plane := p, timers := [], sacc := [], saccTy := none, twinN := 0 }

/-- Whether JCTXLOAD refuses another REPL (R297): a copy that goes holds a token on an unaligned channel, a pending timer, a
request or sparse accumulator entries; an aligned endpoint holds a control token; or a join holds one that some copies have
not sent. -/
def Cut.keepsRepl (x : Launch) (i : Nat) (a : ActorRec) (n' : Nat) (c : Cut) : Bool :=
  let olds := (List.range a.repl).filterMap fun j => c.copyOf i j
  (olds.any fun o => decide (n' ≤ o.plane.copy) &&
    (((x.looseChans i a).any fun (k, ci) => !(c.tokensAt ci i o.plane.copy k).isEmpty) || !o.timers.isEmpty || !o.sacc.isEmpty
      || !o.plane.rq.isEmpty))
    || (x.alignedChans i a).any (fun (k, _) => olds.any fun o => !(ctlsOf ((o.plane.inp k).slots.map (·.2))).isEmpty)
    || (x.outsOf i).any fun o => (c.joinOrd x i o a.repl).isNone

/-- The copies of commands, sequencer records and faults that a cut holds of some planes go to others. -/
def Cut.moveWork (c : Cut) (mv : List (PlaneId × PlaneId)) : Cut :=
  { c with copies := c.copies.map fun (w : CopySave) => { w with pl := movePl mv w.pl },
           recs := c.recs.map fun (m : MRec) => { m with pl := movePl mv m.pl },
           faults := c.faults.map fun (f : FaultRec) => f.move mv f.glade }

/-- The saved copies of one actor, rebuilt for another REPL (R297); none where JCTXLOAD returns 3. Accepted copies, matrix
commands and faults of an old copy that goes are those of copy 0 from then on (assumption 13). -/
def Cut.redeal (x : Launch) (i : Nat) (a : ActorRec) (n' : Nat) (c : Cut) : Option Cut :=
  let n := a.repl
  if n = n' then some c
  else if c.keepsRepl x i a n' then none
  else match c.copyOf i 0 with
    | none => none
    | some base =>
      let al := x.alignedChans i a
      let keys (k ci j : Nat) : List (Nat × Nat × Token) := dealKeys (c.chanOf ci).deal n j (c.tokensAt ci i j k)
      let share (k ci j : Nat) : List (Nat × Token) :=
        redealt n' j ((List.range n).map (keys k ci)) (keys k ci (if j < n then j else 0))
      let ctls (k ci : Nat) : Nat :=
        (base.plane.inp k).ord.toNat + (c.flightTo ci 0).length - dealt (c.chanOf ci).deal n 0
      let endp (j : Nat) (p : Plane) (q : Nat × Nat) : Plane :=
        let (k, ci) := q
        let mine := share k ci j
        let ord := dealt (c.chanOf ci).deal n' j + ctls k ci - (mine.drop 4).length
        { p with ins := Store.set p.ins k { p.inp k with slots := mine.take 4, ord := BitVec.ofNat 48 ord } }
      let outs (j : Nat) : Store OutEp :=
        if j = 0 then (x.outsOf i).foldl (fun m o => Store.set m o ({ late := (c.joinOrd x i o n).getD [] } : OutEp)) [] else []
      let copy (j : Nat) : ActorSave :=
        let b := ((if j < n then c.copyOf i j else none)).getD (base.fresh i j)
        { b with plane := al.foldl (endp j) { b.plane with copy := j, repl := n', outs := outs j } }
      let kept := c.flights.filter fun (ci, j, _) => !(al.any fun q => decide (q.2 = ci)) && !((x.looseChans i a).any fun q =>
        decide (q.2 = ci) && decide (n' ≤ j))
      let new := (al.map fun (k, ci) => (List.range n').map fun j => (ci, j, ((share k ci j).drop 4).map (·.2))).flatten
      let gone := ((List.range n).drop n').filterMap fun j => (c.copyOf i j).map fun o => (o.pl, base.pl)
      some { c.moveWork gone with
                    actors := (c.actors.filter fun o => decide (o.plane.actor ≠ i)) ++ (List.range n').map copy,
                    flights := kept ++ new }

/-- A cut rebuilt for a replacement image: its regions lie where that image puts them (R296), its actors have that image's
REPL (R297). -/
def Cut.forImage (x : Launch) (img : Image) (c : Cut) : Option Cut :=
  let c : Cut := { c with regions := (c.regions.zip img.regions).map fun (q, r) => { q with rr := r } }
  (x.img.actors.zipIdx.zip img.actors).foldl (fun (r : Option Cut) ((a, i), b) => r.bind (Cut.redeal x i a b.repl)) (some c)

/-! ### JCTXLOAD (R258, R295) -/

/-- Bytes of two images that must agree: everything but the graph. -/
def sameOutsideGraph (a b : List Byte) (glen : Nat) : Bool :=
  decide (a.take 192 = b.take 192) && decide (a.drop (192 + to64 glen) = b.drop (192 + to64 glen))

/-- The saved image that stands at an address, with the bytes there: LEN bytes as the header of a clear image says, or a
sealed image. -/
def State.findCtx (s : State) (asid : BitVec 16) (va : Nat) : Option (Nat × Nat × Launch × Cut × Bool × List Byte) :=
  s.ctxs.findSome? fun (id, l, x, c, susp) =>
    let plain := s.ctxImage id l x c susp
    let bs := s.sealFor x id plain
    match s.fwRead asid va bs.length with
    | some m =>
      if (s.tenant x.tenant).confidential then (if m = bs then some (id, l, x, c, susp, plain) else none)
      else if sameOutsideGraph m bs x.img.bytes.length then some (id, l, x, c, susp, m) else none
    | none => none

/-- The launch whose saved image stands at an address but for a graph image of another length (R296), if it is still held. -/
def State.findOther (s : State) (asid : BitVec 16) (va : Nat) : Option (Nat × Launch) :=
  s.ctxs.findSome? fun (id, l, x, c, susp) =>
    let bs := s.ctxImage id l x c susp
    let tail := bs.drop (192 + to64 x.img.bytes.length)
    let noLen (b : List Byte) : List Byte := b.take 16 ++ (b.drop 24).take 168
    match s.fwRead asid va 192, s.fwRead asid (va + 192) 64 with
    | some h, some g =>
      let n := to64 (recBits g 383 352)
      if (s.tenant x.tenant).confidential ∨ noLen h ≠ noLen bs ∨ n = to64 x.img.bytes.length
          ∨ s.fwRead asid (va + 192 + n) tail.length ≠ some tail then none
      else (s.launch? l).bind fun y => if y.heldOff = some c then some (l, y) else none
    | _, _ => none

/-- What JCTXLOAD finds for an image that fits: the image, and the cuts rebuilt for it. -/
def State.ctxFit (s : State) (gl q : Nat) (x : Launch) (c : Cut) (bs : List Byte) (asid : BitVec 16) : Option (Image × Cut × Option Cut) :=
  match s.glade? gl with
  | none => none
  | some g =>
    match Store.get? g.binds q, loadImage ((bs.drop 192).take x.img.bytes.length) (4 * g.nisl) with
    | some (tenant, a), .ok img =>
      if a ≠ x.asid ∨ a ≠ asid ∨ ((s.tenant x.tenant).confidential ∧ tenant ≠ x.tenant) ∨ !mayReplace x.img img then none
      else match c.forImage x img, x.lastCut with
        | some c, none => some (img, c, none)
        | some c, some d => (d.forImage x img).map fun d => (img, c, some d)
        | none, _ => none
    | _, _ => none

/-- The launch that an accepted image moves (R295): the source glade removes it; its entries are inserted in the target's
understory, and its stream descriptors are those of the launch there. Its version and ticket are assigned when the launch
unit takes it from the queue. An irrevocable launch waits, as a SUSPENDED one does, to be the oldest (assumption 45). -/
def State.moveLaunch (s : State) (l gl q core : Nat) (x : Launch) (img : Image) (c : Cut) (last : Option Cut) (susp : Bool) : State :=
  let upd (st : Stream) (r : StreamRec) : Stream := { st with sr := { st.sr with pcol := r.pcol, pedge := r.pedge } }
  let ups (l : List Stream) : List Stream := (l.zip img.streams).map fun (a, b) => upd a b
  let y : Launch :=
    { x with st := .waiting, glade := gl, queue := q, core := core, ver := 0#16, ticket := 0#32, group := l, img := img, plane := none,
             preHeld := false, resuming := false, preCut := some { c with streams := ups c.streams }, suspend := susp || x.irrev, irrev := susp || x.irrev,
             streams := ups x.streams, lastCut := last.map fun (d : Cut) => { d with streams := ups d.streams } }
  let s : State := { s.setLaunch l y with under := s.under.map fun (e : UEnt) => if e.lid = l ∧ !e.committed then { e with glade := gl } else e,
                                          ctxs := s.ctxs.filter fun (_, k, _) => decide (k ≠ l) }
  let s := s.modGlade x.glade fun g => { g with queues := Store.mapV (fun _ es => es.filter fun e => decide (e.ctx ≠ some l)) g.queues }
  let (n, s) := s.fresh
  let e : QEnt := { rcd := x.rcd, seq := n, core := core, ctx := some l }
  s.modGlade gl fun g => { g with queues := Store.set g.queues q (Store.getD g.queues q [] ++ [e]) }

/-- Whether an island accepts launches: it is ACTIVE (R253, R365). -/
def State.islandOpen (s : State) (core : Nat) : Bool := decide ((s.island (core / 8)).st = .active)

/-- JCTXLOAD by a core into queue q of its glade: the status for rd, or none where the image cannot be read. -/
def State.ctxLoad (s : State) (core gl : Nat) (asid : BitVec 16) (va q : Nat) : Option Nat × State :=
  if !s.islandOpen core then (some 1, s)
  else match s.findCtx asid va with
    | none =>
      match s.fwRead asid va 64 with
      | none => (none, s)
      | some h =>
        if recBits h 15 0 ≠ 0x4358 ∨ recBits h 19 16 ≠ 1 then (some 2, s)
        else match (s.glade? gl).bind fun g => Store.get? g.binds q with
          | none => (some 4, s)
          | some _ => match s.findOther asid va with
            | some (_, y) => (some (if y.glade = gl then 5 else 3), s)
            | none => (some 5, s)
    | some (_, l, x, c, susp, bs) =>
      match (s.glade? gl).bind fun g => (Store.get? g.binds q).map fun b => (g, b) with
      | none => (some 4, s)
      | some (g, _, qa) =>
        match s.launch? l with
        | none => (some 5, s)
        | some y =>
          if y.heldOff ≠ some c ∨ y.glade = gl then (some 5, s)
          else match s.ctxFit gl q { y with lastCut := y.lastCut } c bs qa with
            | none => (some 3, s)
            | some (img, c, last) =>
              if 64 ≤ (Store.getD g.queues q []).length then (some 1, s)
              else (some 0, s.moveLaunch l gl q core { y with used := x.used } img c last susp)

/-! ### LAUNCH_START (R304) -/

/-- A context entry at the head of a queue: its queue and its launch. -/
def headCtx (g : Glade) (q : Nat) : Option Nat := match Store.getD g.queues q [] with | e :: _ => e.ctx | [] => none

/-- The queue that the launch unit serves next: a context entry that has its ticket comes first, then one that must wait to
be the oldest, which lets no other entry of the glade have a ticket (R295); else R304's choice. -/
def State.nextQueue (s : State) (g : Glade) : Option Nat :=
  let head (p : Launch → Bool) : Option Nat := (List.range 16).find? fun q => ((headCtx g q).bind s.launch?).any p
  match head fun x => decide (x.ver ≠ 0#16), head (·.suspend) with
  | some q, _ => some q
  | none, some q => some q
  | none, none => chooseQueue g

/-- A launch's version written into its entries and its barriers. -/
def State.newVersion (s : State) (l : Nat) : State :=
  match s.launch? l with
  | none => s
  | some x =>
    let s : State := { s with under := s.under.map fun (e : UEnt) => if e.lid = l then { e with ver := x.ver } else e }
    x.bars.foldl (fun s k => s.setBar k { s.bar k with ver := x.ver.toNat }) s

/-- A moved launch at the head of its queue: it takes a version and a ticket, waits for a plane (and, if it was SUSPENDED,
until no other launch of the glade is live), and is resumed (R295, R304). -/
def State.startCtx (s : State) (gl q l : Nat) (rest : List QEnt) : State :=
  match s.launch? l with
  | none => s.setQueue gl q rest
  | some x =>
    let s := if x.ver = 0#16 then (s.ticketTo l gl).newVersion l else s
    let others := s.launches.any fun (k, y) => decide (k ≠ l) && decide (y.glade = gl) && y.st.isLive
    if x.suspend && others then s
    else match x.preCut, s.placeFor gl x.img with
      | some c, some p =>
        let s := ((s.setQueue gl q rest).putCut l p c).wakeParks l
        let s := s.modLaunch l fun y =>
          { y with st := if x.suspend then .irrevocable else .live, irrev := x.suspend, suspend := false, startCycle := s.cycle gl, cadTaken := 0 }
        s.unpause l ((s.launch? l).getD x)
      | _, _ => s

/-- LAUNCH_START (R304) of queue q of a glade: one launch or group at a time. -/
def State.launchStart (s : State) (gl q : Nat) : State :=
  match s.glade? gl with
  | none => s
  | some g =>
    if !(s.starting gl).isEmpty then s.placeStarting gl
    else if s.nextQueue g ≠ some q then s
    else
      let es := Store.getD g.queues q []
      match es, Store.get? g.binds q with
      | e :: rest, some (tenant, asid) =>
        match e.ctx with
        | some l => s.startCtx gl q l rest
        | none =>
          let ms := (headGroup es).1
          let s := (s.letIn gl q tenant asid ms).setQueue gl q (es.drop ms.length)
          let s := s.placeStarting gl
          match s.twinOther gl q with
          | some sec => s.placeStarting sec
          | none => s
      | _, _ => s

end Sys2Proof.Machine
end

