-- ==== Sys2Proof/Machine/Border.lean ====
section
/-!
DEFINITION. Border cores: the eight custom-0 instructions (11 R251 to R258), their waits (R257), calls and tenant budgets
(18 R312, 20 R329).
-/
namespace Sys2Proof.Machine

/-! ### The frame of a border instruction (R251) -/

/-- The glade whose columns hold a core. -/
def State.coreGlade (s : State) (c : Nat) : Nat := s.gladeOf (c / 2)

/-- A core writes rd and goes on to the next word. -/
def State.coreRet (s : State) (c rd : Nat) (v : W64) : State :=
  let k := s.core c
  s.setCore c ({ k.setReg rd v with pc := k.pc + 4#64 })

/-- A core takes an exception (assumption 8). -/
def State.coreTrap (s : State) (c : Nat) (cause tval : W64) : State := s.setCore c ((s.core c).trap cause tval)

/-- Causes of RISC-V exceptions: illegal instruction, misaligned load, load and store page fault. -/
def causeIllegal : W64 := 2#64
def causeMisaligned : W64 := 4#64
def causeLoad : W64 := 13#64
def causeStore : W64 := 15#64

/-- Whether a core is powered down: its island is DISABLED (R365). -/
def State.coreOff (s : State) (c : Nat) : Bool := decide ((s.island (c / 8)).st = .disabled)

/-- A custom-0 instruction of the acting core: in U-mode the illegal-instruction exception; a core that waits, or that is powered
down, does not step (R251, R365). -/
def borderDo (s : State) (k : Nat → Core → State) : Res :=
  let c := s.cur.core
  let x := s.core c
  if x.wait.isSome || s.coreOff c then .next s
  else if x.mode = .u then .next (s.coreTrap c causeIllegal 0#64)
  else .next (k c x)

/-! ### JLAUNCH (R253) -/

/-- The checks of JLAUNCH for a queue of a glade, in the order of assumption 24, and the copy of the record into the
queue. -/
def State.launchRecord (s : State) (gl : Nat) (isOpen : Bool) (c : Nat) (asid : BitVec 16) (a q : W64) : Option Nat × State :=
  if !isOpen then (some 1, s)
  else if a.toNat % 128 ≠ 0 ∨ 16 ≤ q.toNat then (some 3, s)
  else match s.fwRead asid (a.toNat % 2 ^ 48) 128 with
    | none => (none, s)
    | some r =>
      if recBits r 3 0 ≠ 1 then (some 2, s)
      else match s.glade? gl with
        | none => (some 1, s)
        | some g =>
          if (Store.get? g.binds q.toNat).isNone then (some 4, s)
          else if 64 ≤ (Store.getD g.queues q.toNat []).length then (some 1, s)
          else
            let (n, s) := s.fresh
            let e : QEnt := { rcd := r, seq := n, core := c }
            (some 0, s.modGlade gl fun g => { g with queues := Store.set g.queues q.toNat (Store.getD g.queues q.toNat [] ++ [e]) })

/-- A result for rd, or the page fault of an access that could not be made. -/
def State.coreAnswer (c rd : Nat) (cause va : W64) (r : Option W64 × State) : State :=
  match r with
  | (some v, s) => s.coreRet c rd v
  | (none, s) => s.coreTrap c cause va

def State.jLaunch (s : State) (rd rs1 rs2 : BitVec 5) (c : Nat) (x : Core) : State :=
  let a := x.reg rs1.toNat
  let r := s.launchRecord (s.coreGlade c) (s.islandOpen c) c x.asid a (x.reg rs2.toNat)
  State.coreAnswer c rd.toNat causeLoad a (r.1.map fun n => BitVec.ofNat 64 n, r.2)

/-! ### JQUERY (R254) -/

/-- The launch of a glade that holds a ticket, the latest where several have held it. -/
def State.byTicketNo (s : State) (gl : Nat) (t : W32) : Option (Nat × Launch) :=
  (s.launches.reverse).find? fun (_, y) => decide (y.glade = gl) && decide (y.ver ≠ 0#16) && decide (y.ticket = t)

/-- The state codes of JQUERY; a launch that has been moved and not yet resumed is SUSPENDED (R295). -/
def Launch.stateCode (x : Launch) : Nat :=
  match x.st with
  | .waiting => if x.suspend then 4 else 0
  | .live => 1
  | .held => 2
  | .irrevocable => 3
  | .suspended => 4
  | .done => 5
  | .committed => 6
  | .aborted => 7
  | .oldestOnly => 8
  | .failed => 9

/-- What a context image of the launch would take now (R254, selector 5). -/
def State.sizeNow (s : State) (l : Nat) (x : Launch) : Nat :=
  match x.heldOff, x.scanned, s.glade? x.glade with
  | some c, _, _ => s.ctxLen l x c
  | none, some (_, c), _ =>
    s.ctxLen l x { c with nodes := x.nodes, streams := x.streams, bars := s.saveBars x, parks := s.parksOf l fun _ => true,
                          copies := (s.copies.filter fun c => decide (c.lid = l)).map CopyJob.save }
  | none, none, some g => s.ctxLen l x (s.scanCut l x g)
  | _, _, _ => 0

/-- The value that a selector names. A confidential launch answers selectors 0, 1 and 4 alone (R371). -/
def State.queryValue (s : State) (l : Nat) (x : Launch) (sel : Nat) : W64 :=
  if (s.tenant x.tenant).confidential ∧ sel ≠ 0 ∧ sel ≠ 1 ∧ sel ≠ 4 then allOnes
  else match sel with
    | 0 => BitVec.ofNat 64 x.stateCode
    | 1 => BitVec.ofNat 64 x.used
    | 2 => BitVec.ofNat 64 x.ver.toNat
    | 3 => BitVec.ofNat 64 x.snaps
    | 4 => if x.scanned.isSome then 2#64 else if x.preHeld && decide (x.st ≠ .suspended) then 1#64 else 0#64
    | 5 => BitVec.ofNat 64 (s.sizeNow l x)
    | _ => allOnes

def State.jQuery (s : State) (rd rs1 rs2 : BitVec 5) (c : Nat) (x : Core) : State :=
  let v := match s.byTicketNo (s.coreGlade c) ((x.reg rs1.toNat).setWidth 32) with
    | none => allOnes
    | some (l, y) => s.queryValue l y ((x.reg rs2.toNat).toNat % 8)
  s.coreRet c rd.toNat v

/-! ### JINVR (R255) -/

def State.jInvr (s : State) (rd rs1 rs2 : BitVec 5) (c : Nat) (x : Core) : State :=
  let base := (x.reg rs1.toNat).toNat % 2 ^ 48
  let w := (x.reg rs2.toNat).toNat
  let n := w / 2 ^ 16
  if base % 2 ^ 16 ≠ 0 ∨ n = 0 then s.coreRet c rd.toNat allOnes
  else
    let (iid, s) := s.fresh
    let v : Inval := { iid := iid, core := c, base := base, len := n * 2 ^ 16, asid := BitVec.ofNat 16 w, todo := [], active := [], acks := 0 }
    let v : Inval := { v with todo := (s.ports.filter fun (_, p) => p.meets v).map (·.1) }
    let s : State := { s with invals := s.invals ++ [v] }
    (s.setCore c { x with wait := some (.inval rd.toNat iid) }).invalDone iid

/-! ### JCMD (R93, R256, R340) -/

/-- KILL: the status and what it does. -/
def State.kill (s : State) (l : Nat) (x : Launch) (c : Nat) : Nat × State :=
  let raised (s : State) : State := (s.raise .kill l none ⟨0, 0, 0⟩ (.launch l) 0 false 0 0 0 0 0#64).2
  match x.st with
  | .live | .held | .oldestOnly => (0, raised s)
  | .done => if x.irrev then (2, s) else (0, raised s)
  | .irrevocable =>
    if x.preHeld then (0, s.modLaunch l fun y => { y with st := .suspended })
    else (0, (s.modLaunch l fun y => { y with suspend := true }).takeCut l .pre (some c))
  | _ => (2, s)

/-- Whether a cut of a launch may be taken: it is on its planes, or scanned out of them (R342). -/
def Launch.mayCut (x : Launch) : Bool := x.takesCuts && (x.plane.isSome || x.scanned.isSome)

/-- Resumes a launch that a PRE cut holds as soon as R261 gives it a plane. -/
def State.resumeTry (s : State) (l : Nat) : State :=
  match s.launch? l with
  | none => s
  | some x =>
    if x.resuming ∧ x.preHeld ∧ (s.placeFor x.glade x.img).isSome then (s.modLaunch l fun y => { y with resuming := false }).resumePre l x
    else s

/-- A command for a launch: its status and its effect. -/
def State.command (s : State) (l : Nat) (x : Launch) (cmd c : Nat) : Nat × State :=
  match cmd with
  | 0 => s.kill l x c
  | 1 => if x.mayCut then (0, s.takeCut l .pre (some c)) else (2, s)
  | 2 => if x.mayCut then (0, s.takeCut l .snap (some c)) else (2, s)
  | 3 => if x.mayCut ∧ !x.stopHeld then (0, s.takeCut l .stop (some c)) else (2, s)
  | _ =>
    if x.stopHeld then (0, s.unpause l x)
    else if x.preHeld ∧ x.preCut.isSome ∧ x.rung.isNone then (0, (s.modLaunch l fun y => { y with resuming := true }).resumeTry l)
    else (2, s)

/-- JCMD, whose five commands share one word and are told apart by rs2. A STOP of a confidential launch answers all ones
unless its tenant has authorised the session (R371). -/
def State.jCmd (s : State) (rd rs1 rs2 : BitVec 5) (c : Nat) (x : Core) : State :=
  let w := (x.reg rs2.toNat).toNat
  if 5 ≤ w then s.coreRet c rd.toNat 3#64
  else match s.byTicketNo (s.coreGlade c) ((x.reg rs1.toNat).setWidth 32) with
    | none => s.coreRet c rd.toNat 1#64
    | some (l, y) =>
      if w = 3 ∧ !s.mayDebug y then s.coreRet c rd.toNat allOnes
      else
        let (st, s) := s.command l y w c
        s.coreRet c rd.toNat (BitVec.ofNat 64 st)

/-! ### JWAITW (R257) -/

/-- The glade whose page-request doorbell word stands at an address of a core: the core's own, or another (R321). -/
def State.doorAt (s : State) (c : Nat) (a : W64) : Option Nat :=
  if a = Config.doorbell (s.coreGlade c) then some (s.coreGlade c)
  else (List.range 24).find? fun g => decide (a = Config.doorbell g)

/-- The word that a core names: a doorbell word, or a word of its address space. -/
def State.waitKey (s : State) (c : Nat) (asid : BitVec 16) (a : W64) (take : Bool) : Option Nat :=
  match s.doorAt c a with
  | some g => some (doorKey g)
  | none => (s.fwKey asid (a.toNat % 2 ^ 48) take).map (·.1)

def State.jWaitw (s : State) (rd rs1 rs2 : BitVec 5) (c : Nat) (x : Core) : State :=
  let a := x.reg rs1.toNat
  let w := (x.reg rs2.toNat).toNat
  let take := decide (bitsOf w 63 63 = 1)
  if bitsOf w 62 48 ≠ 0 then s.coreRet c rd.toNat allOnes
  else if a.toNat % 8 ≠ 0 then s.coreTrap c causeMisaligned a
  else match s.waitKey c x.asid a take with
    | none => s.coreTrap c causeLoad a
    | some key =>
      if s.coreWordFull key then
        let (s, ws) := if take then s.coreTake key else (s, [])
        (s.coreRet c rd.toNat 1#64).wake ws
      else if barDepth ≤ s.barCount (edgeOfKey key) then s
      else
        let e : BarEnt := { edge := edgeOfKey key, owner := .core c, pa := key }
        let s : State := { s with barq := s.barq ++ [e] }
        s.setCore c { x with wait := some (.word rd.toNat a (bitsOf w 47 0) take (s.cycle (s.coreGlade c))) }

/-- Ends a core's wait for a word with a result. -/
def State.endWait (s : State) (c : Nat) (v : W64) : State :=
  match (s.core c).wait with
  | some (.word rd _ _ _ _) =>
    let s : State := { s with barq := s.barq.filter fun e => decide (e.owner ≠ .core c) }
    let k := s.core c
    s.setCore c ({ k.setReg rd v with wait := none, pc := k.pc + 4#64 })
  | _ => s

/-- JWAITW_TIMEOUT (R257): the bound has expired. -/
def State.waitTimeout (s : State) (c : Nat) : State :=
  match (s.core c).wait with
  | some (.word _ _ bound _ since) =>
    if bound ≠ 0 ∧ bound ≤ (s.cycle (s.coreGlade c) - since).toNat then s.endWait c 0#64 else s
  | _ => s

/-- INTERRUPT_TAKEN (R257): the wait retires with 2 and has no effect on its word; the interrupt is then taken, with the
cause that the outside gives (assumption 8). -/
def State.interrupt (s : State) (c : Nat) (cause : W64) : State :=
  match (s.core c).wait with
  | some (.word _ _ _ _ _) => (s.endWait c 2#64).coreTrap c cause 0#64
  | _ => s

/-! ### JCTXSAVE and JCTXLOAD (R258) -/

def State.jCtxsave (s : State) (rd rs1 rs2 : BitVec 5) (c : Nat) (x : Core) : State :=
  let dst := x.reg rs2.toNat
  match s.byTicketNo (s.coreGlade c) ((x.reg rs1.toNat).setWidth 32) with
  | none => s.coreRet c rd.toNat allOnes
  | some (l, _) =>
    if dst.toNat % 4096 ≠ 0 then s.coreRet c rd.toNat allOnes
    else State.coreAnswer c rd.toNat causeStore dst (s.ctxSave x.asid l (dst.toNat % 2 ^ 48))

def State.jCtxload (s : State) (rd rs1 rs2 : BitVec 5) (c : Nat) (x : Core) : State :=
  let a := x.reg rs1.toNat
  let r := s.ctxLoad c (s.coreGlade c) x.asid (a.toNat % 2 ^ 48) ((x.reg rs2.toNat).toNat % 16)
  State.coreAnswer c rd.toNat causeLoad a (r.1.map fun n => BitVec.ofNat 64 n, r.2)

/-! ### The instructions -/

/-- JLAUNCH (R253). -/
def execJlaunch (rd rs1 rs2 : BitVec 5) (s : State) : Res := borderDo s (s.jLaunch rd rs1 rs2)
/-- JFENCE (R254): the core's earlier accesses and custom instructions have each been performed before the next begins. -/
def execJfence (rd _rs1 _rs2 : BitVec 5) (s : State) : Res := borderDo s fun c _ => s.coreRet c rd.toNat 0#64
/-- JQUERY (R254). -/
def execJquery (rd rs1 rs2 : BitVec 5) (s : State) : Res := borderDo s (s.jQuery rd rs1 rs2)
/-- JINVR (R255). -/
def execJinvr (rd rs1 rs2 : BitVec 5) (s : State) : Res := borderDo s (s.jInvr rd rs1 rs2)
/-- JCMD_KILL (R256, R340). The five JCMD rows share one word: the command is rs2's. -/
def execJcmdKill (rd rs1 rs2 : BitVec 5) (s : State) : Res := borderDo s (s.jCmd rd rs1 rs2)
/-- JCMD_PRE (R256). -/
def execJcmdPre (rd rs1 rs2 : BitVec 5) (s : State) : Res := borderDo s (s.jCmd rd rs1 rs2)
/-- JCMD_SNAP (R256). -/
def execJcmdSnap (rd rs1 rs2 : BitVec 5) (s : State) : Res := borderDo s (s.jCmd rd rs1 rs2)
/-- JCMD_STOP (R256). -/
def execJcmdStop (rd rs1 rs2 : BitVec 5) (s : State) : Res := borderDo s (s.jCmd rd rs1 rs2)
/-- JCMD_RESUME (R256). -/
def execJcmdResume (rd rs1 rs2 : BitVec 5) (s : State) : Res := borderDo s (s.jCmd rd rs1 rs2)
/-- JWAITW (R257). -/
def execJwaitw (rd rs1 rs2 : BitVec 5) (s : State) : Res := borderDo s (s.jWaitw rd rs1 rs2)
/-- JCTXSAVE (R258). -/
def execJctxsave (rd rs1 rs2 : BitVec 5) (s : State) : Res := borderDo s (s.jCtxsave rd rs1 rs2)
/-- JCTXLOAD (R258). -/
def execJctxload (rd rs1 rs2 : BitVec 5) (s : State) : Res := borderDo s (s.jCtxload rd rs1 rs2)

/-! ### Calls and budgets (R312) -/

/-- Cycles of a budget period. -/
def budgetPeriod : Nat := 1100000

/-- The tenant of a plane's launch. -/
def State.planeTenant (s : State) (p : Plane) : Nat := ((p.launch.bind s.launch?).map (·.tenant)).getD 0

/-- Whether a core's column holds an unanswered call of a tenant; a core of a top edge block serves it. -/
def State.hasCall (s : State) (c t : Nat) : Bool :=
  decide (c % 2 = 0) && s.planes.any fun (k, p) => decide ((planeOfKey k).col = c / 2) && !p.ring.isEmpty && decide (s.planeTenant p = t)

/-- A tenant's budget on a core, the whole period where the Forester has set none, and whether it is spent. -/
def Core.budget (c : Core) (t : Nat) : Nat := Store.getD c.budgets t budgetPeriod
def Core.isSpent (c : Core) (t : Nat) : Bool := decide (c.budget t ≤ Store.getD c.spent t 0)

/-- The number after `t`, in rising order and around, among some. -/
def nextAround (t : Nat) (ts : List Nat) : Option Nat :=
  let least (l : List Nat) : Option Nat := l.foldl (fun b u => match b with | none => some u | some v => some (min u v)) none
  (least (ts.filter fun u => decide (t < u))).or (least ts)

/-- The call rings, named by their planes' keys, in which a core finds unanswered calls of a tenant. -/
def State.ringsWith (s : State) (c t : Nat) : List Nat :=
  (s.planes.filter fun (k, p) => decide (c % 2 = 0) && decide ((planeOfKey k).col = c / 2) && !p.ring.isEmpty
    && decide (s.planeTenant p = t)).map (·.1)

/-- The weight with which a ring is served: 1 where no call has set one (R357). -/
def State.ringWeight (s : State) (k : Nat) : Nat :=
  (s.glade? (s.gladeOf (planeOfKey k).col)).elim 1 fun g => Store.getD g.weights (planeOfKey k).plane 1

/-- Whether the ring whose turn it is keeps it: it holds a call, and the turn has fewer answers than its weight. -/
def State.keepsTurn (s : State) (c : Nat) : Bool :=
  let k := s.core c
  (s.ringsWith c k.slice).contains k.turn && decide (k.served < s.ringWeight k.turn)

/-- The ring that a core serves next: weighted round-robin over the rings of its tenant, in the order of their tiles and
planes (R312; the order is a DESIGN CHOICE, assumption 46). -/
def State.nextRing (s : State) (c : Nat) : Option Nat :=
  let k := s.core c
  if s.keepsTurn c then some k.turn else nextAround k.turn (s.ringsWith c k.slice)

/-- A store to the answer register of a ring: the value is the token on the iN of the oldest unanswered entry, which is
freed (R312). -/
def State.ringAnswer (s : State) (pl : PlaneId) (v : W64) : State :=
  let p := s.plane pl
  match p.ring with
  | e :: t => (s.setPlane pl { p with ring := t }).respond pl e.ch (.data ⟨.scalar, [v], .u64, 1#64⟩)
  | [] => s

/-- The firmware takes the oldest call of the next ring: it calls the routine of its service with a0 = x, a1 = n and a2 = the
caller's ticket, or answers all ones where the service table's entry is 0 (R329). -/
def State.callRoutine (s : State) (c : Nat) : State :=
  match s.nextRing c with
  | none => s
  | some q =>
    let pl := planeOfKey q
    let k : Core := { s.core c with turn := q, served := if s.keepsTurn c then (s.core c).served + 1 else 1 }
    match (s.plane pl).ring with
    | [] => s
    | e :: _ =>
      let routine := Store.getD k.svc e.n 0#64
      if routine = 0#64 then (s.setCore c k).ringAnswer pl allOnes
      else
        let ticket : W64 := (((s.plane pl).launch.bind s.launch?).elim 0#32 (·.ticket)).setWidth 64
        let k := (((k.setReg 1 k.pc).setReg 10 e.arg).setReg 11 (BitVec.ofNat 64 e.n)).setReg 12 ticket
        s.setCore c { k with serving := some (pl, k.pc), pc := routine }

/-- CALL_ANSWER (R312, R329), while the core runs the slice of a tenant whose budget is not spent. A core that runs no
routine takes the next call; one whose routine has returned stores a0 to the ring's answer register. -/
def State.callAnswer (s : State) (c : Nat) : State :=
  let k := s.core c
  if k.wait.isSome || k.isSpent k.slice || s.coreOff c then s
  else match k.serving with
    | none => s.callRoutine c
    | some (pl, ret) => if k.pc ≠ ret then s else (s.setCore c { k with serving := none }).ringAnswer pl (k.reg 10)

/-- Tenants with an unanswered call in a core's column. -/
def State.callers (s : State) (c : Nat) : List Nat :=
  s.planes.foldl (fun ts (k, p) =>
    if (planeOfKey k).col = c / 2 ∧ !p.ring.isEmpty ∧ !ts.contains (s.planeTenant p) then ts ++ [s.planeTenant p] else ts) []

/-- A core takes up another tenant's slice: what it keeps of that tenant's code comes back, and where it keeps nothing it stands
in the firmware, where a routine in progress was called from (assumption 46). -/
def Core.switch (k : Core) (t : Nat) : Core :=
  let rest := Store.set k.others k.slice
    { x := k.x, pc := k.pc, mode := k.mode, asid := k.asid, serving := k.serving }
  let k' : Core := { k with slice := t, others := rest }
  match Store.get? k.others t with
  | some r => { k' with x := r.x, pc := r.pc, mode := r.mode, asid := r.asid, serving := r.serving }
  | none => { k' with pc := k.serving.elim k.pc (·.2), serving := none }

/-- The timer switches a core to tenant `t`. A JWAITW in progress ends as before an interrupt (R257); a JINVR retires first. -/
def State.switchCore (s : State) (c t : Nat) : State :=
  if (s.core c).slice = t then s
  else match (s.core c).wait with
    | none => s.setCore c ((s.core c).switch t)
    | some (.word _ _ _ _ _) =>
      let s := s.endWait c 2#64
      s.setCore c ((s.core c).switch t)
    | some _ => s

/-- BUDGET_TIMER (R312): the core is switched to the next tenant when its tenant's budget is spent or it has no unanswered call.
Where no other tenant may be served the core runs the operator's code (R357). -/
def State.budgetTimer (s : State) (c : Nat) : State :=
  let k := s.core c
  if k.isSpent k.slice ∨ !s.hasCall c k.slice then
    let ts := (s.callers c).filter fun t => !k.isSpent t && (s.hasCall c t)
    s.switchCore c ((nextAround k.slice ts).getD 0)
  else s

/-- TENANT_BUDGET_PERIOD (R312): at the start of a period the budgets are whole again. -/
def State.budgetRenew (s : State) (c : Nat) : State :=
  let k := s.core c
  let n := (s.cycle (s.coreGlade c)).toNat / budgetPeriod
  if n = k.period then s else s.setCore c { k with period := n, spent := [] }

end Sys2Proof.Machine
end

