-- ==== Sys2Proof/Machine/Abi.lean ====
section
/-!
DEFINITION. The firmware ABI (22 R357, 20 R330): the calls of a border core to the Forester. The descriptor of a
collective reduction (R358).
-/
namespace Sys2Proof.Machine

/-! ### Calls -/

/-- The tenant for which a core calls: that of its slice; the operator may name another in a3 (R357). -/
def Core.caller (x : Core) : Nat := if x.slice ≠ 0 then x.slice else (x.reg 13).toNat % 4096

/-- A call with function code `code`: made by the acting core where a7 holds the code; it waits while the Forester is
down (R362). The result goes to a0 and every other register is kept. -/
def abiCall (code : Nat) (s : State) (k : Nat → Core → Nat → W64 × State) : Res :=
  let c := s.cur.core
  let x := s.core c
  if s.fo.st ≠ .up ∨ x.wait.isSome ∨ (x.reg 17).toNat ≠ code then .next s
  else
    let (v, s) := k c x x.caller
    .next (s.coreRet c 10 v)

/-- Whether a glade exists and is assigned to a tenant. -/
def State.ownsGlade (s : State) (t : Nat) (gl : Nat) : Bool := match s.glade? gl with | some g => decide (g.tenant = t) | none => false

/-- The key of an address on an IMM page of a tenant, in a core's address space. -/
def State.tenantImm (s : State) (t : Nat) (asid : BitVec 16) (va : Nat) (write : Bool) : Option Nat :=
  match Store.get? s.asids asid.toNat, s.fwKey asid va write with
  | some e, some (k, true) => if e.tenant = t then some k else none
  | _, _ => none

/-- The frames of a call. -/
def frameRange (a n : W64) : List Nat := (List.range n.toNat).map fun i => a.toNat / 2 ^ 16 + i

/-- Frames that a tenant owns. -/
def State.framesOf (s : State) (t : Nat) : Nat := (s.frames.filter fun (_, f) => decide (f.st = .owned) && decide (f.tenant = t)).length

/-- FRAME_CLAIM. Tenant 0 has no frame limit (assumption 24). -/
def State.frameClaim (s : State) (x : Core) (t : Nat) : W64 × State :=
  let a := x.reg 10
  let n := x.reg 11
  if dramFrames < a.toNat / 2 ^ 16 + n.toNat then (1#64, s)
  else
    let fs := frameRange a n
    if (fs.any fun f => decide ((s.frame f).st ≠ .free)) ∨ (t ≠ 0 ∧ (s.tenant t).limit < s.framesOf t + n.toNat) then (1#64, s)
    else (0#64, fs.foldl (fun s f => s.setFrame f { s.frame f with st := .owned, tenant := t }) s)

/-- FRAME_RETURN (R330; step 1 of R325). -/
def State.frameReturn (s : State) (x : Core) (t : Nat) : W64 × State :=
  let a := x.reg 10
  let n := x.reg 11
  if dramFrames < a.toNat / 2 ^ 16 + n.toNat then (1#64, s)
  else
    let fs := frameRange a n
    if fs.any fun f => decide ((s.frame f).st ≠ .owned) || decide ((s.frame f).tenant ≠ t) then (1#64, s)
    else (0#64, fs.foldl (fun s f => s.setFrame f { s.frame f with st := .scrubbing }) s)

/-- Whether a launch of an address space is queued or live (R357). -/
def State.asidBusy (s : State) (asid : BitVec 16) : Bool :=
  (s.launches.any fun (_, y) => decide (y.asid = asid) && (y.st.isLive || decide (y.st = .waiting)))
    || s.glades.any fun (_, g) => g.binds.any fun (q, _, a) => decide (a = asid) && !(Store.getD g.queues q []).isEmpty

/-- ASID_SET. -/
def State.asidSet (s : State) (x : Core) (t : Nat) : W64 × State :=
  let a := (x.reg 10).toNat % 2 ^ 16
  let root := (x.reg 11).toNat
  let other := match Store.get? s.asids a with | some e => decide (e.tenant ≠ t) | none => false
  if other then (1#64, s)
  else if root = 0 then
    if s.asidBusy (BitVec.ofNat 16 a) then (3#64, s) else (0#64, { s with asids := Store.del s.asids a })
  else
    let f := s.frame (root / 2 ^ 16)
    if root % 4096 ≠ 0 ∨ dramFrames ≤ root / 2 ^ 16 ∨ f.st ≠ .owned ∨ f.tenant ≠ t then (2#64, s)
    else (0#64, { s with asids := Store.set s.asids a ⟨root, t⟩ })

/-- QUEUE_BIND (R303). -/
def State.queueBind (s : State) (x : Core) (t : Nat) : W64 × State :=
  let gl := (x.reg 10).toNat
  let q := (x.reg 11).toNat
  let a := x.reg 12
  if !s.ownsGlade t gl ∨ 16 ≤ q then (1#64, s)
  else
    let e := Store.get? s.asids a.toNat
    if a ≠ allOnes ∧ (e.map (·.tenant)) ≠ some t then (2#64, s)
    else match s.glade? gl with
      | none => (1#64, s)
      | some g =>
        if !(Store.getD g.queues q []).isEmpty then (3#64, s)
        else
          let b := if a = allOnes then Store.del g.binds q else Store.set g.binds q (t, a.setWidth 16)
          (0#64, s.setGlade gl { g with binds := b })

/-- Bytes of a ring with LCAP n (R308). -/
def ringBytes (lcap : Nat) : Nat := 256 * (2 ^ (lcap + 4) + 1)
/-- QVER and LCAP of a ring, and whether the firmware accepts them (R308, R356). -/
def ringOk (h : List Byte) : Bool := decide (recBits h 3 0 = 1) && decide (recBits h 7 4 < 12)

/-- Writes the STATUS field of a ring: 0 RUNNING, 1 OVERRUN, 2 STOPPED (R308). -/
def State.ringStatus (s : State) (r : Ring) (h : List Byte) (st : Nat) : State :=
  let w := leNat (h.take 8)
  (s.fwWrite r.asid r.va.toNat (toLE 8 (w - bitsOf w 9 8 * 2 ^ 8 + st * 2 ^ 8))).2

/-- RING_REGISTER (R308, R309). -/
def State.ringRegister (s : State) (x : Core) (c t : Nat) : W64 × State :=
  let a := x.reg 10
  let gl := x.reg 11
  if gl = allOnes then
    (0#64, { s with host := { s.host with rings := s.host.rings.filter fun r => !(decide (r.va = a) && decide (r.asid = x.asid)) } })
  else
    match s.fwRead x.asid a.toNat 64 with
    | none => (2#64, s)
    | some h =>
      let n := if recBits h 7 4 < 12 then ringBytes (recBits h 7 4) else 64
      let pages := (List.range ((n + 65535 + a.toNat % 2 ^ 16) / 2 ^ 16)).map fun i => a.toNat / 2 ^ 16 * 2 ^ 16 + i * 2 ^ 16
      if a.toNat % 4096 ≠ 0 ∨ 2 ^ 48 ≤ a.toNat ∨ (pages.any fun p => (s.tenantImm t x.asid p true).isNone) then (2#64, s)
      else if (s.glade? gl.toNat).isNone ∨ 16 ≤ (s.host.rings.filter fun r => decide (r.glade = gl.toNat)).length then (3#64, s)
      else
        let r : Ring := { glade := gl.toNat, va := a, asid := x.asid, core := c, lcap := recBits h 7 4 }
        let s : State := { s with host := { s.host with rings := s.host.rings ++ [r] } }
        let ok := ringOk h
        (if ok then 0#64 else 1#64, s.ringStatus r h (if ok then 0 else 2))

/-- SVC_WEIGHT (R312). -/
def State.svcWeight (s : State) (x : Core) (t : Nat) : W64 × State :=
  let gl := (x.reg 10).toNat
  let p := (x.reg 11).toNat
  let w := (x.reg 12).toNat
  if 4 ≤ p ∨ w = 0 ∨ 16 ≤ w ∨ !s.ownsGlade t gl then (1#64, s)
  else (0#64, s.modGlade gl fun g => { g with weights := Store.set g.weights p w })

/-- HOST_RANGE (R352). -/
def State.hostRange (s : State) (x : Core) (t : Nat) : W64 × State :=
  let i := (x.reg 10).toNat
  let b := (x.reg 11).toNat
  let n := (x.reg 12).toNat
  let y := s.tenant t
  let others := Store.del y.hostRanges i
  if 16 ≤ i then (1#64, s)
  else if n = 0 then (0#64, s.setTenant t { y with hostRanges := others })
  else if b % 4096 ≠ 0 ∨ n % 4096 ≠ 0 ∨ 2 ^ 50 < b + n ∨ (others.any fun (_, c, m) => overlaps b n c m) then (1#64, s)
  else (0#64, s.setTenant t { y with hostRanges := Store.set y.hostRanges i (b, n) })

/-- NOTICE_WORD. -/
def State.noticeWordSet (s : State) (x : Core) (t : Nat) : W64 × State :=
  let a := x.reg 10
  let y := s.tenant t
  if a = 0#64 then (0#64, s.setTenant t { y with noticeWord := none })
  else if a.toNat % 8 ≠ 0 ∨ 2 ^ 48 ≤ a.toNat ∨ (s.tenantImm t x.asid a.toNat false).isNone then (1#64, s)
  else (0#64, s.setTenant t { y with noticeWord := some (x.asid, a) })

/-- NOTICE_READ. -/
def State.noticeTake (s : State) (t : Nat) : W64 × State :=
  let y := s.tenant t
  match y.notices with
  | [] => (0#64, s)
  | w :: r => (w, s.setTenant t { y with notices := r })

/-- PRQ_INFO (R321). -/
def State.prqInfo (s : State) (x : Core) (t : Nat) : W64 × State :=
  let gl := (x.reg 10).toNat
  let a := (x.reg 11).toNat
  if !s.ownsGlade t gl then (1#64, s)
  else if 2 ^ 48 ≤ a + 31 ∨ (s.tenantImm t x.asid a true).isNone ∨ (s.tenantImm t x.asid (a + 31) true).isNone then (2#64, s)
  else (0#64, (s.fwWrite x.asid a (bytesOfWords [Config.prqAddr, Config.prqAnswer, Config.prqStatus, Config.doorbell gl])).2)

/-! ### Collectives (R358) -/

/-- The link version to a peer: the least over the links of its route; 0 where one is down or there is no route. -/
def State.peerVersion (s : State) (peer : Nat) : Nat :=
  let mask := Store.getD s.fo.routes peer 0#18
  let ks := (List.range 18).filter fun k => mask.getLsbD k
  if ks.isEmpty then 0
  else ks.foldl (fun v k => let l := Store.getD s.links.ls k {}; min v (if l.up then l.link else 0)) 2

/-- Element type of a collective. -/
def collTy (c : Nat) : Option ETy :=
  match c with | 2 => some .i32 | 3 => some .i64 | 9 => some .bf16 | 10 => some .f32 | _ => none

/-- Whether n bytes at an address lie on IMM pages of a tenant. -/
def State.rangeImm (s : State) (t : Nat) (asid : BitVec 16) (va n : Nat) (write : Bool) : Bool :=
  decide (va + n ≤ 2 ^ 48) && (List.range ((va + n + 65535) / 2 ^ 16 - va / 2 ^ 16)).all fun i =>
    (s.tenantImm t asid (max va ((va / 2 ^ 16 + i) * 2 ^ 16)) write).isSome

/-- A descriptor as COLLECTIVE reads it; none where it is malformed. -/
def State.collOf (s : State) (x : Core) (c t : Nat) (a : W64) : Option Coll :=
  if a.toNat % 64 ≠ 0 ∨ 2 ^ 48 ≤ a.toNat then none
  else match s.fwRead x.asid a.toNat 64 with
    | none => none
    | some d =>
      match collTy (recBits d 9 6) with
      | none => none
      | some ty =>
        let asid := BitVec.ofNat 16 (recBits d 31 16)
        let n := recBits d 15 10 + 1
        let count := recBits d 367 320
        let bytes := count * (tyWidth ty / 8)
        let src := recBits d 111 64
        let dst := recBits d 175 128
        let donew := recBits d 303 256
        let reserved := recBits d 63 32 + recBits d 127 112 + recBits d 191 176 + recBits d 255 240 + recBits d 319 304 + recBits d 511 368
        match s.fwRead asid (recBits d 239 192) n with
        | none => none
        | some ls =>
          let list := ls.map (·.toNat)
          if recBits d 3 0 ≠ 1 ∨ recBits d 5 4 = 3 ∨ reserved ≠ 0 ∨ count = 0 ∨ src % 64 ≠ 0 ∨ dst % 64 ≠ 0 ∨ donew % 8 ≠ 0
              ∨ (list.filter fun p => decide (p = 255)).length ≠ 1 ∨ (list.any fun p => decide (64 ≤ p) && decide (p ≠ 255))
              ∨ !s.rangeImm t asid src bytes false ∨ !s.rangeImm t asid dst bytes true ∨ !s.rangeImm t asid donew 8 true then none
          else
            let q : Coll :=
              { tenant := t, core := c, desc := a, asid := asid, op := recBits d 5 4, ty := ty, src := BitVec.ofNat 64 src,
                dst := BitVec.ofNat 64 dst, list := list, donew := BitVec.ofNat 64 donew, count := count }
            some q

/-- COLLECTIVE: all ones under ABI version 1 (R357). -/
def State.collStart (s : State) (x : Core) (c t : Nat) : W64 × State :=
  if s.fo.abi = 1 then (allOnes, s)
  else match s.collOf x c t (x.reg 10) with
    | none => (2#64, s)
    | some q =>
      if q.list.any fun p => decide (p ≠ 255) && decide (s.peerVersion p < 2) then (1#64, s)
      else if 16 ≤ s.links.colls.length then (3#64, s)
      else (0#64, { s with links := { s.links with colls := s.links.colls ++ [q] } })

/-! ### The calls as steps -/

/-- FRAME_CLAIM (R357). -/
def execFrameClaim (s : State) : Res := abiCall 0x4643 s fun _ x t => s.frameClaim x t
/-- FRAME_RETURN (R330). -/
def execFrameReturn (s : State) : Res := abiCall 0x4652 s fun _ x t => s.frameReturn x t
/-- ASID_SET (R313, R357). -/
def execAsidSet (s : State) : Res := abiCall 0x4153 s fun _ x t => s.asidSet x t
/-- QUEUE_BIND (R303, R357). -/
def execQueueBind (s : State) : Res := abiCall 0x5142 s fun _ x t => s.queueBind x t
/-- RING_REGISTER (R308, R357). -/
def execRingRegister (s : State) : Res := abiCall 0x5247 s fun c x t => s.ringRegister x c t
/-- SVC_WEIGHT (R312, R357). -/
def execSvcWeight (s : State) : Res := abiCall 0x5357 s fun _ x t => s.svcWeight x t
/-- HOST_RANGE (R352, R357). -/
def execHostRange (s : State) : Res := abiCall 0x484D s fun _ x t => s.hostRange x t
/-- COLLECTIVE (R357, R358). -/
def execCollective (s : State) : Res := abiCall 0x434C s fun c x t => s.collStart x c t
/-- NOTICE_WORD (R357). -/
def execNoticeWord (s : State) : Res := abiCall 0x4E57 s fun _ x t => s.noticeWordSet x t
/-- NOTICE_READ (R357). -/
def execNoticeRead (s : State) : Res := abiCall 0x4E52 s fun _ _ t => s.noticeTake t
/-- PRQ_INFO (R321, R357). -/
def execPrqInfo (s : State) : Res := abiCall 0x5051 s fun _ x t => s.prqInfo x t

/-- The function codes of R357. -/
def abiCodes : List Nat := [0x4643, 0x4652, 0x4153, 0x5142, 0x5247, 0x5357, 0x484D, 0x434C, 0x4E57, 0x4E52, 0x5051]

/-- A call with a function code that the ABI does not have: all ones (R357). -/
def State.abiUnknown (s : State) (c : Nat) : State :=
  if s.fo.st ≠ .up then s else s.coreRet c 10 allOnes

end Sys2Proof.Machine
end

