-- ==== Sys2Proof/Machine/Ras.lean ====
section
/-!
DEFINITION. Patrol scrub (23 R374, R375) and the cleaning of a returned frame (19 R325).
-/
namespace Sys2Proof.Machine

/-! ### Patrol (R374, R375) -/

/-- PATROL_SCRUB (R374, R375) of a line of a frame: a correction, or an uncorrectable error. -/
def State.patrol (s : State) (f : Nat) (corr uncorr : Bool) : State :=
  if dramFrames ≤ f then s
  else
    let s := if corr then (s.modRas (chanOfFrame f) fun r => { r with pce := satAdd r.pce }).corrected f else s
    if uncorr then s.markFrame f else s

/-! ### Cleaning a frame (R325) -/

/-- The keys of a frame. -/
def inFrame (f key : Nat) : Bool := decide (key / 2 ^ 16 = f)

/-- FRAME_SCRUB (R325, steps 2 to 5): bank lines and committed entries of the frame are discarded; it stays SCRUBBING while
a launch holds entries for it; then every word is zero and empty, and the frame is FREE, or RETIRED if it is marked. -/
def State.scrub (s : State) (f : Nat) : State :=
  let fr := s.frame f
  if fr.st ≠ .scrubbing then s
  else
    let s : State :=
      { s with bank := s.bank.filter fun b => !inFrame f (b.line * 64),
               under := s.under.filter fun e => !(e.committed && inFrame f (e.eff.line * 64)) }
    if s.under.any fun e => inFrame f (e.eff.line * 64) then s
    else
      let s : State :=
        { s with mem := s.mem.filter fun c => !inFrame f c.1, side := s.side.filter fun (l, _) => !inFrame f (l * 64) }
      let free := s.setFrame f { fr with tenant := 0, st := .free }
      if fr.mark then
        match s.retireFrame f with
        | (true, s) => s.notice fr.tenant (frameNotice 2 f)
        | (false, s) => s.setFrame f { fr with tenant := 0, st := .free }
      else free

end Sys2Proof.Machine
end

