-- ==== Sys2Proof/Machine/HostPort.lean ====
section
/-!
DEFINITION. The host: submission rings (18 R308, R309), the apertures (22 R347 to R352), the host link (R346).
-/
namespace Sys2Proof.Machine

/-! ### Submission rings (R309) -/

/-- Ring k of a glade. -/
def State.ringOf (s : State) (gl k : Nat) : Option Ring := (s.host.rings.filter fun r => decide (r.glade = gl))[k]?

/-- The header of a ring as memory holds it. -/
def State.ringHead (s : State) (r : Ring) : Option (List Byte) := s.fwRead r.asid r.va.toNat 64

/-- The firmware's consuming wait on the word that holds TAIL and RST: whether it was full, and the state with it empty. -/
def State.ringTake (s : State) (r : Ring) : Bool × State :=
  match s.fwKey r.asid (r.va.toNat + 16) true with
  | none => (false, s)
  | some (k, _) =>
    if s.viewBit committedObs (k / 8) then (true, ((s.foldLine (k / 64)).setHomeBit (k / 8) false).wake [k / 8]) else (false, s)

/-- Updates the firmware's record of a ring. -/
def State.modRing (s : State) (r : Ring) (f : Ring → Ring) : State :=
  { s with host := { s.host with rings := s.host.rings.map fun q => if q = r then f q else q } }

/-- F_HOSTQ_OVERRUN: the ring goes to OVERRUN, and the token to the core that drains it (R309, R335). -/
def State.ringOverrun (s : State) (r : Ring) (h : List Byte) : State :=
  let (fid, s) := (s.ringStatus r h 1).raise .hostqOverrun s.seqNo none ⟨firstCol r.glade, 0, 0⟩ .other 0 false 0 0 0 0 0#64
  s.tell fid (some r.core)

/-- Takes entries from DIDX up to TAIL - 1, at most `n`: TAIL is what the firmware has loaded, LCAP what it read when the ring
was registered or reset. -/
def ringGo (r : Ring) : Nat → State → State
  | 0, s => s
  | n + 1, s =>
    match s.ringHead r with
    | none => s
    | some h =>
      let cap := 2 ^ (r.lcap + 4)
      let didx := recBits h 127 64
      if r.tail ≤ didx then s
      else
        let slot := r.va.toNat + 256 * (didx % cap + 1)
        match s.fwRead r.asid slot 256 with
        | none => s
        | some e =>
          if cap < r.tail - didx ∨ recBits e 1087 1024 ≠ didx then s.ringOverrun r h
          else
            match s.launchRecord r.glade (decide ((s.island r.glade).st = .active)) r.core r.asid (BitVec.ofNat 64 slot)
                (BitVec.ofNat 64 (recBits e 1091 1088)) with
            | (some 1, s) => s
            | (some _, s) => ringGo r n (s.fwWrite r.asid (r.va.toNat + 8) (toLE 8 (didx + 1))).2
            | (none, s) => s

/-- HOST_RING_DRAIN (R309): the firmware consumes the tail word if it is full, loads TAIL, and takes the ring's new entries;
entries left by a full queue are tried again. Of a ring that is not RUNNING the firmware ignores TAIL. -/
def State.ringDrain (s : State) (gl k : Nat) : State :=
  match (s.ringOf gl k).bind fun r => (s.ringHead r).map fun h => (r, h) with
  | none => s
  | some (r, h) =>
    if recBits h 191 191 = 1 then s
    else
      match s.ringTake r with
      | (took, s) =>
        if recBits h 9 8 ≠ 0 then s
        else
          let r' : Ring := if took then { r with tail := recBits h 190 128 } else r
          ringGo r' (2 ^ (r.lcap + 4) + 1) (s.modRing r fun _ => r')

/-- HOST_RING_RESET (R309): on a filled word with RST = 1, DIDX is 0, QVER and LCAP are read, STATUS is set. -/
def State.ringReset (s : State) (gl k : Nat) : State :=
  match (s.ringOf gl k).bind fun r => (s.ringHead r).map fun h => (r, h) with
  | none => s
  | some (r, h) =>
    if recBits h 191 191 = 0 then s
    else match s.ringTake r with
      | (false, s) => s
      | (true, s) =>
      let s := s.modRing r fun r => { r with lcap := recBits h 7 4, tail := 0 }
      (s.fwWrite r.asid (r.va.toNat + 8) (toLE 8 0)).2.ringStatus r h (if ringOk h then 0 else 2)

/-! ### Apertures (R348 to R352) -/

/-- Places of the fill and the probe aperture in BAR2. -/
def fillBase : Nat := 2 ^ 38
def probeBase : Nat := 2 ^ 39

/-- A window entry's fields. -/
def winV (e : W64) : Bool := e.getLsbD 0
def winW (e : W64) : Bool := e.getLsbD 1
def winP (e : W64) : Bool := e.getLsbD 2
def winBase (e : W64) : Nat := bitsOf e.toNat 47 30 * 2 ^ 30
def winAsid (e : W64) : BitVec 16 := BitVec.ofNat 16 (bitsOf e.toNat 63 48)

/-- Counts a failing access; HERR keeps the place of the first (R347). `off` is its offset in BAR2. -/
def State.hostFail (s : State) (off : Nat) : State :=
  let h := s.host
  { s with host := { h with herr := h.herr + 1#32,
                            herrOff := if h.herr = 0#32 then BitVec.ofNat 32 (off / 1024) else h.herrOff } }

/-- Whether a frame may not be reached from the host: a confidential tenant's, outside its shared set (R370). -/
def State.hostBarred (s : State) (key : Nat) : Bool :=
  let f := s.frame (key / 2 ^ 16)
  let t := s.tenant f.tenant
  decide (key < 2 ^ 52) && t.confidential && !(t.shared.any fun (b, n) => decide (b ≤ key) && decide (key < b + n))

/-- The bytes of a line as DRAM stores them (R370): encrypted in a frame OWNED by a confidential tenant, but in the clear in
its shared set; sideband bits are not encrypted. -/
def State.stored (s : State) (line : Nat) : List Byte :=
  let bs := Memory.readBytes s.mem (line * 64) 64
  let f := s.frame (line * 64 / 2 ^ 16)
  if f.st = .owned ∧ s.hostBarred (line * 64) = true then Config.xts f.tenant (line * 64) bs else bs

/-- The outcome of translating a host access: its key and class, a failure, or held by an invalidation (R319, R351). -/
inductive HostXl where
  | ok (key : Nat) (imm : Bool)
  | fail
  | held
  deriving DecidableEq, Repr

def State.hostXlate (s : State) (e : W64) (va : Nat) (write : Bool) : HostXl × State :=
  if !winV e then (.fail, s)
  else if s.invalHolds ioPort (winAsid e) va then (.held, s)
  else match s.xlate ioPort (winAsid e) va write with
    | (.ok key imm, s) => if isPeer key || s.hostBarred key || (write && !imm) then (.fail, s) else (.ok key imm, s)
    | (_, s) => (.fail, s)

/-- The window entry and address of an offset in the plain or fill aperture. -/
def State.hostWin (s : State) (o : Nat) : W64 × Nat :=
  let e := Store.getD s.host.wins (o / 2 ^ 30 % 256) 0#64
  (e, winBase e + o % 2 ^ 30)

/-- Completes a host read. -/
def State.hostAnswer (s : State) (a : HostAns) : State := { s with host := { s.host with answer := some a } }

/-- A read of n bytes through the plain or fill aperture (R349, R351); `base` is the aperture's place in BAR2, `corr` marks a
corrected error and `bad` uncorrectable data (R374). None while an invalidation holds it. -/
def State.hostRead (s : State) (base o n : Nat) (corr bad : Bool) : Option State :=
  if n = 0 ∨ 64 < n ∨ 64 < o % 64 + n ∨ 2 ^ 38 ≤ o then some (s.hostAnswer .unsupported)
  else
    let (e, va) := s.hostWin o
    match s.hostXlate e va false with
    | (.held, _) => none
    | (.fail, s) => some ((s.hostFail (base + o)).hostAnswer (.data (List.replicate n 0xFF#8)))
    | (.ok key _, s) =>
      some (if bad then (s.readError key true).hostAnswer .aborted
        else (if corr then s.readError key false else s).hostAnswer (.data (s.view committedObs key n)))

/-- Whether the words that a host write reaches may be written (R212). -/
def State.hostWordsOk (s : State) (key va n : Nat) : Bool := s.wordsOk .sts [{ va := va, key := key, imm := true, len := n }]

/-- A write through the plain aperture: as ST (R349, R351). -/
def State.plainWrite (s : State) (o : Nat) (bs : List Byte) : Option State :=
  let n := bs.length
  if n = 0 ∨ 64 < n ∨ 64 < o % 64 + n ∨ 2 ^ 38 ≤ o then some (s.hostFail o)
  else
    let (e, va) := s.hostWin o
    if winV e && !winW e then some (s.hostFail o)
    else match s.hostXlate e va true with
      | (.held, _) => none
      | (.fail, s) => some (s.hostFail o)
      | (.ok key _, s) => some (if s.hostWordsOk key va n then s.homeWrite key bs else s.hostFail o)

/-- A write through the fill aperture: each word acts as STS, which wakes the waiters of a word that becomes full (R280,
R349). -/
def State.fillWrite (s : State) (o : Nat) (bs : List Byte) : Option State :=
  let n := bs.length
  if n = 0 ∨ n % 8 ≠ 0 ∨ o % 8 ≠ 0 ∨ 64 < o % 64 + n ∨ 2 ^ 38 ≤ o then some (s.hostFail (fillBase + o))
  else
    let (e, va) := s.hostWin o
    if winV e && !winW e then some (s.hostFail (fillBase + o))
    else match s.hostXlate e va true with
      | (.held, _) => none
      | (.fail, s) => some (s.hostFail (fillBase + o))
      | (.ok key _, s) =>
        some (if isHost key || !s.hostWordsOk key va n then s.hostFail (fillBase + o)
          else
            let ws := (List.range (n / 8)).map fun i => key / 8 + i
            let s := s.catchUpAll
            let new := ws.filter fun w => !s.viewBit committedObs w
            let s := s.homeWrite key bs
            (ws.foldl (fun s w => s.homeFill (w * 8) true) s).wake new)

/-- A read of the probe aperture (R350): data word, status word or both. -/
def State.probeRead (s : State) (o n : Nat) (corr bad : Bool) : Option State :=
  if (n ≠ 8 ∧ n ≠ 16) ∨ o % n ≠ 0 ∨ 2 ^ 39 ≤ o then some (s.hostAnswer .unsupported)
  else
    let q := o / 16 * 8
    let (e, va) := s.hostWin q
    let give (s : State) (d st : Nat) : State :=
      s.hostAnswer (.data (if n = 16 then toLE 8 d ++ toLE 8 st else if o % 16 = 0 then toLE 8 d else toLE 8 st))
    if winV e && !winP e then some (give (s.hostFail (probeBase + o)) 0 0)
    else match s.hostXlate e va false with
      | (.held, _) => none
      | (.fail, s) => some (give (s.hostFail (probeBase + o)) 0 0)
      | (.ok key _, s) =>
        let full := if s.viewBit committedObs (key / 8) then 1 else 0
        some (if bad then give (s.readError key true) 0 (full + 2 + 4)
          else give (if corr then s.readError key false else s) (leNat (s.view committedObs key 8)) (full + 2))

/-- A host access by its kind; none while an invalidation holds it. -/
def State.hostDo (s : State) (a : HostAcc) : Option State :=
  match a.kind with
  | .plainRead => s.hostRead 0 a.off a.n a.corr a.bad
  | .fillRead => s.hostRead fillBase a.off a.n a.corr a.bad
  | .probeRead => s.probeRead a.off a.n a.corr a.bad
  | .plainWrite => s.plainWrite a.off a.bytes
  | .fillWrite => s.fillWrite a.off a.bytes

/-- A host access: the accesses of one requester are performed in the order in which they came, so one that meets an
invalidation holds those that come behind it (R280, R319). -/
def State.hostAccess (s : State) (a : HostAcc) : State :=
  let hold : State := { s with host := { s.host with held := s.host.held ++ [a] } }
  if s.host.held.any fun b => decide (b.who = a.who) then hold else (s.hostDo a).getD hold

/-- Once the I/O complex has acknowledged an invalidation the held accesses are translated again, in order (R319). -/
def State.hostRetry (s : State) (port : Nat) : State :=
  if port ≠ ioPort then s
  else s.host.held.foldl (fun s a => s.hostAccess a) { s with host := { s.host with held := [] } }

/-- REGISTER_WRITE (R347, R348): the window table and HERR; the other registers are not written by the driver. -/
def State.registerWrite (s : State) (o : Nat) (v : W64) : State :=
  if o < 0x800 ∧ o % 8 = 0 then
    { s with host := { s.host with wins := Store.set s.host.wins (o / 8) (v &&& ~~~0x3FFFFFF8#64) } }
  else if o = 0x1000 then { s with host := { s.host with herr := v.setWidth 32, herrOff := BitVec.ofNat 32 (v.toNat / 2 ^ 32) } }
  else s

/-- HOST_LINK_TRAINING (R346): the link trains at 16, 8 or 4 lanes. -/
def State.hostTrain (s : State) (n : Nat) : State :=
  if n = 16 ∨ n = 8 ∨ n = 4 then { s with host := { s.host with lanes := n } } else s

/-- FSTAT and FWABI as the host reads them (R347). -/
def State.fstat (s : State) : W64 := if s.fo.st = .up then 1#64 else 0#64
def State.fwabi (s : State) : W64 := BitVec.ofNat 64 s.fo.abi

end Sys2Proof.Machine
end

