-- ==== Sys2Proof/Machine/Twin.lean ====
section
/-!
DEFINITION. Twin runs (R372): what a twin launch may not store, the comparison of the two glades' requests, and the
commit of a pair. Also what a memory access meets on its way to a line: errors of the line (R374).
-/
namespace Sys2Proof.Machine

/-- What an access meets before it is performed: the twin run's bar, which raises F_PROT, and the errors of the line,
which the step's `flag` (corrected) and `flag2` (uncorrectable) give: uncorrectable data is never answered, the read
raises F_MEM_UNCORR and the launch takes rung 2 (R335, R374). -/
def State.guarded (l : Nat) (pl : PlaneId) (x : Launch) (r : Req) (k : State → List Part → State × List Nat) (s : State)
    (ps : List Part) : State × List Nat :=
  let onDram : List Part := ps.filter fun p => decide (p.key / 2 ^ 16 < dramFrames)
  if s.twinBars l x r ps then (s.reqFault pl r .prot 0 (vaInfo r.a), [])
  else match (if r.kind.loadLike then onDram.head? else none) with
    | none => k s ps
    | some p =>
      match s.demandRead p.key with
      | (true, s) => (s.reqFault pl r .memUncorr 0 0#64, [])
      | (false, s) => k s ps

/-! ### Comparison -/

/-- The retained requests of an actor copy of a launch. -/
def Twin.log (t : Twin) (l i j : Nat) : List (List Byte) :=
  match t.logs.find? fun (a, b, c, _) => decide (a = l) && decide (b = i) && decide (c = j) with
  | some (_, _, _, rs) => rs
  | none => []

/-- The digest of a group of requests: SHAKE256, 128 bits. -/
def groupDigest (rs : List (List Byte)) : List Byte := (shake256 rs.flatten).take 16

/-- The first ordinal at which two lists of requests differ. -/
def firstDiff : List (List Byte) → List (List Byte) → Nat
  | a :: as, b :: bs => if a = b then firstDiff as bs + 1 else 0
  | _, _ => 0

/-- The ordinal at which two request streams are found to differ: in a group of 64 that both hold whole, or, at DONE,
in the last partial group. -/
def diffAt (last : Bool) (a b : List (List Byte)) : Option Nat :=
  let n := min a.length b.length / 64
  let grp (k : Nat) (l : List (List Byte)) : List (List Byte) := (l.drop (64 * k)).take 64
  match (List.range n).find? fun k => decide (groupDigest (grp k a) ≠ groupDigest (grp k b)) with
  | some k => some (64 * k + firstDiff (grp k a) (grp k b))
  | none =>
    if last ∧ groupDigest (a.drop (64 * n)) ≠ groupDigest (b.drop (64 * n)) then
      some (64 * n + firstDiff (a.drop (64 * n)) (b.drop (64 * n)))
    else none

/-- Forgets a pair and what was retained for it. -/
def State.dropPair (s : State) (a b : Nat) : State :=
  { s with fo := { s.fo with twin := s.fo.twin.map fun t =>
      { t with pairs := t.pairs.filter fun q => decide (q ≠ (a, b)),
               logs := t.logs.filter fun (l, _) => decide (l ≠ a) && decide (l ≠ b) } } }

/-- The comparison of a pair. A mismatch raises F_TWIN_DIVERGE, whose report names actor, copy and ordinal, and both
launches take rung 4. -/
def State.twinCompare (s : State) (l : Nat) (last : Bool) : State :=
  match s.fo.twin, s.pairOf l with
  | some t, some (a, b) =>
    let found : Option (Nat × Nat × Nat) := ((s.launch? a).elim [] Launch.copies).findSome? fun (i, j) =>
      (diffAt last (t.log a i j) (t.log b i j)).map fun n => (i, j, n)
    match found with
    | none => s
    | some (i, j, n) =>
      let at_ : PlaneId := ((s.launch? a).bind fun x => x.planeOf i j).getD ⟨0, 1, 0⟩
      let info : W64 := BitVec.ofNat 64 (i + j * 2 ^ 16 + n * 2 ^ 32)
      let (fid, s) := s.raise .twinDiverge a none at_ (.launch a) 0 false 0 0 0 0 info
      ((s.tell fid ((s.launch? a).map (·.core))).askRung b 4 fid).dropPair a b
  | _, _ => s

/-! ### LAUNCH_COMMIT (R85, R88, R372) -/

/-- A secondary's entries are discarded; it is COMMITTED with its primary. -/
def State.commitTwin (s : State) (l : Nat) (x : Launch) : State :=
  ((s.discard l 0).modLaunch l fun y => { y with st := .committed, lastCut := none, cuts := [] }).modGlade x.glade fun g =>
    { g with commits := g.commits + 1 }

/-- LAUNCH_COMMIT of a launch: its group when every member may commit. A group of a twin run waits for its twins, is
compared to its end, and commits with them in one step; the step of a secondary does nothing. -/
def State.launchCommit (s : State) (l : Nat) : State :=
  match s.launch? l with
  | none => s
  | some x =>
    let ms := s.members x
    if !s.mayCommit ms then s
    else match s.pairOf l with
      | none => s.commitGroup ms
      | some (a, _) =>
        let twins := ms.filterMap fun (k, _) => (s.pairOf k).map (·.2)
        let sec := twins.filterMap fun k => (s.launch? k).map fun y => (k, y)
        let secMs := sec.head?.elim [] fun (_, y) => s.members y
        if a ≠ l ∨ !s.mayCommit secMs then s
        else
          let t := ms.foldl (fun t (k, _) => t.twinCompare k true) s
          if ms.any fun (k, _) => (t.pairOf k).isNone then t
          else
            let t := t.commitGroup ms
            let t := secMs.foldl (fun t (k, y) => t.commitTwin k y) t
            (ms.zip secMs).foldl (fun t (p, q) => t.dropPair p.1 q.1) t

end Sys2Proof.Machine
end

