-- ==== Sys2Proof/Machine/Links.lean ====
section
/-!
DEFINITION. Sahkitus links (22 R353 to R356): training, flits, link operations, retries; the end of a collective reduction
(R358). A link peer's memory is a part of the model's memory that only link operations reach.
-/
namespace Sys2Proof.Machine

def State.slink (s : State) (k : Nat) : SLink := Store.getD s.links.ls k {}
def State.setSlink (s : State) (k : Nat) (x : SLink) : State := { s with links := { s.links with ls := Store.set s.links.ls k x } }

/-- The links of a peer's route that are up. -/
def State.peerLinks (s : State) (peer : Nat) : List Nat :=
  (List.range 18).filter fun k => (Store.getD s.fo.routes peer 0#18).getLsbD k && (s.slink k).up
/-- The version of the link protocol on every link that is up to a peer. -/
def State.peerRuns2 (s : State) (peer : Nat) : Bool := (s.peerLinks peer).all fun k => decide ((s.slink k).link = 2)

/-! ### Training (R355) -/

/-- The versions that the 9600 supports of each interface, in the order of R356's table, as its capability flit says: bit v
is set for version v. The link protocol stands first. -/
def ownMasks : List (BitVec 16) := [6#16, 6#16, 2#16, 2#16, 2#16, 2#16, 2#16, 2#16, 2#16]

/-- The highest version that two masks share; 0 where they share none. -/
def commonVersion (a b : BitVec 16) : Nat := (List.range 16).foldl (fun v k => if (a &&& b).getLsbD k then k else v) 0

/-- LINK_TRAINING (R355): `masks` are the peer's, in R356's order. Each interface runs at the highest common version. A link
that is up keeps its versions; one whose link-protocol masks share no bit stays down and is reported to the Forester. -/
def State.linkTrain (s : State) (k : Nat) (masks : List (BitVec 16)) : State :=
  let x := s.slink k
  if 18 ≤ k ∨ x.up then s
  else
    let vers := ownMasks.zipIdx.map fun (m, i) => commonVersion m (masks.getD i 0#16)
    let v := vers.headD 0
    let s := s.setSlink k { x with up := decide (v ≠ 0), link := v, fails := 0, masks := masks, vers := vers }
    if v = 0 then { s with fo := { s.fo with badLinks := s.fo.badLinks ++ [k] } } else s

/-! ### A link that goes down (R353, R358) -/

/-- The peers that a link operation's words lie on; none of another request (R354). -/
def State.reqPeers (s : State) (pl : PlaneId) (r : Req) : List Nat :=
  match s.actorOf pl with
  | none => []
  | some (_, x, _) =>
    if !s.linkOp pl r then []
    else if r.kind.isStream then
      (x.streamOf r.handle).elim [] fun (_, st) => ((s.keyAt x.asid (streamVa st.sr (st.offset st.hwm))).toList.filter isPeer).map peerOf
    else ((s.peekKeys pl r).filter isPeer).map peerOf

/-- Whether a request is an outstanding link operation on a link. -/
def State.onLink (s : State) (pl : PlaneId) (r : Req) (k : Nat) : Bool :=
  (match r.st with | .waiting | .windowFull | .retryAt _ _ => true | _ => false)
    && (s.reqPeers pl r).any fun p => (Store.getD s.fo.routes p 0#18).getLsbD k

/-- A launch receives F_LINK; its glade counts it (R335, R374). -/
def State.linkFault (s : State) (l : Nat) : State :=
  match s.launch? l with
  | none => s
  | some x => ((s.raise .link l none ⟨0, 0, 0⟩ (.launch l) 0 false 0 0 0 0 0#64).2).modGlade x.glade fun g => { g with linkFs := g.linkFs + 1 }

/-- A reduction that fails posts a notice of kind 4 (R357, R358). -/
def State.collFail (s : State) (q : Coll) : State :=
  let s : State := { s with links := { s.links with colls := s.links.colls.erase q } }
  s.notice q.tenant (BitVec.ofNat 64 (4 + q.desc.toNat % 2 ^ 48 * 2 ^ 16))

/-- A link goes down: F_LINK, notices of kind 3, and reductions over it fail. -/
def State.linkDown (s : State) (k : Nat) : State :=
  let hit := s.launches.filter fun (l, _) => s.everyPlane.any fun (pl, p) =>
    decide (p.launch = some l) && p.rq.any fun r => (s.standing pl l).onLink pl r k
  let colls := s.links.colls.filter fun q => q.list.any fun p => decide (p ≠ 255) && (Store.getD s.fo.routes p 0#18).getLsbD k
  let s := s.setSlink k { s.slink k with up := false, link := 0, fails := 0 }
  let s := hit.foldl (fun s (l, _) => s.linkFault l) s
  let s := s.fo.tenants.foldl (fun s (t, _) => s.notice t (BitVec.ofNat 64 (3 + k * 2 ^ 8))) s
  colls.foldl (fun s q => s.collFail q) s

/-- FLIT_RECEIVE (R353): a flit that fails is replayed; the eighth replay that fails takes the link down. -/
def State.flit (s : State) (k : Nat) (ok : Bool) : State :=
  let x := s.slink k
  if 18 ≤ k ∨ !x.up then s
  else if ok then s.setSlink k { x with fails := 0 }
  else if 8 ≤ x.fails then s.linkDown k
  else s.setSlink k { x with fails := x.fails + 1 }

/-! ### Link operations (R354) -/

/-- A waiting form that finds its word in another state: no record is made, the engine retries (R71, R354). -/
def State.peerWait (s : State) (pl : PlaneId) (r : Req) (left : Nat) : State :=
  if r.budget = 0#8 then
    (if r.resp.isSome then s.finish pl r .null else s.reqFault pl r .parkBudget 0 (vaInfo r.a))
  else s.setReq pl r.rid (.retryAt (s.cycle (s.gladeOf pl.col) + 1024#64) left)

/-- Whether a link to some peer that the parts lie on is missing. -/
def State.peerGone (s : State) (ps : List Part) : Bool := ps.any fun p => isPeer p.key && (s.peerLinks (peerOf p.key)).isEmpty

/-- A link operation at the home units of its peers, and of its parts that lie on this device. -/
def State.peerParts (s : State) (pl : PlaneId) (lid : Nat) (x : Launch) (r : Req) (ps : List Part) : State × List Nat :=
  if !(ps.any fun p => isPeer p.key) then (s, [])
  else if !r.kind.peerOk || ps.any fun p => isPeer p.key && !p.imm then (s.reqFault pl r .prot 0 (vaInfo r.a), [])
  else if !s.wordsOk r.kind ps || (r.kind.writes && s.userDesc pl ps) then (s.reqFault pl r .prot 0 (vaInfo r.a), [])
  else if s.peerGone ps then (s.linkFault lid, [])
  else if r.kind.anchors && !x.irrev then (s.holdAnchor lid pl r ((partWords ps).map fun w => w * 8), [])
  else if r.kind.entries && !x.irrev && s.overQuota lid ((ps.filter fun p => !p.imm).map fun p => p.key / 64) then
    (s.overflow lid x pl r, [])
  else match r.kind, ps with
    | .upd op d, p :: _ => ((s.homeEff (.delta op d p.key r.b)).finish pl r .null, [])
    | _, _ =>
      if s.condHolds (actorObs s pl lid) r.kind ps then s.doAccess pl lid r ps
      else (s.peerWait pl r r.budget.toNat, [])

/-- A SWR or SWR.eos to a stream in a peer's memory: it runs at link version 2 alone, and the peer's link engine serves the
stream by the same rules, a full window parking the write there (R354). -/
def State.peerStream (s : State) (pl : PlaneId) (rid : Nat) : State :=
  match s.streamReady pl rid with
  | none => s
  | some (l, x, r, _, st) =>
    let va := streamVa st.sr (st.offset st.hwm)
    match r.kind, (if st.sr.isFifo then none else s.keyAt x.asid va) with
    | .swr eos, some key =>
      if !isPeer key then s
      else if (s.peerLinks (peerOf key)).isEmpty then s.linkFault l
      else if !s.peerRuns2 (peerOf key) then s.reqFault pl r .prot 0 (BitVec.ofNat 64 va)
      else if eos then s.streamClose pl rid true
      else s.streamWrite pl rid true
    | _, _ => s

/-- PEER_ACCESS (R354). -/
def State.peerAccess (s : State) (pl : PlaneId) (rid : Nat) : State :=
  match s.ready? pl rid with
  | none => s.peerStream pl rid
  | some (l, x, r) =>
    if r.kind.atAddress then
      let (s, ws) := s.access pl l x r (State.guarded l pl x r fun s ps => s.peerParts pl l x r ps)
      s.wake ws
    else s.peerStream pl rid

/-- PEER_RETRY (R354): every 1,024 cycles; each retry that fails is one round. -/
def State.peerRetry (s : State) (pl : PlaneId) (rid : Nat) : State :=
  match s.planeActs pl, s.req? pl rid with
  | some (l, x), some r =>
    match r.st with
    | .retryAt t left =>
      if s.cycle x.glade < t then s
      else match s.xlateFor l x (tilePort pl) (va48 r.a) r.bytes r.kind.writes with
        | (.ok qs, s) =>
          let ps := partsOf r.bytes qs
          if s.twinBars l x r ps then s.reqFault pl r .prot 0 (vaInfo r.a)
          else if s.peerGone ps then s.linkFault l
          else if s.condHolds (actorObs s pl l) r.kind ps then
            let (s, ws) := s.doAccess pl l r ps
            s.wake ws
          else if left = 255 then s.setReq pl rid (.retryAt (s.cycle x.glade + 1024#64) 255)
          else if left ≤ 1 then s.reqFault pl r .parkBudget 0 (vaInfo r.a)
          else s.setReq pl rid (.retryAt (s.cycle x.glade + 1024#64) (left - 1))
        | (_, s) => s.setReq pl rid .waiting
    | _ => s
  | _, _ => s

/-! ### Collective reductions (R358) -/

/-- The number policy of a reduction: RNE, subnormals kept, canonical NaN. -/
def collPol : W32 := 4#32

/-- One step of a reduction on two elements. -/
def collOp (op : Nat) (ty : ETy) (a b : W64) : W64 :=
  let r (c : LR) : W64 := match c with | .ok v => BitVec.ofNat 64 v | .arith => 0#64
  if tyInt ty then
    match op with
    | 0 => canon ty (intOf ty a + intOf ty b)
    | 1 => if intOf ty a ≤ intOf ty b then a else b
    | _ => if intOf ty b ≤ intOf ty a then a else b
  else
    match op with
    | 0 => r (addF collPol (fmtOf ty) (laneF collPol ty a) (laneF collPol ty b))
    | 1 => r (minmaxF collPol (fmtOf ty) false (lowBits (tyWidth ty) a) (lowBits (tyWidth ty) b))
    | _ => r (minmaxF collPol (fmtOf ty) true (lowBits (tyWidth ty) a) (lowBits (tyWidth ty) b))

/-- The elements of a list of bytes. -/
def elemsOf (w : Nat) : Nat → List Byte → List W64
  | 0, _ => []
  | n + 1, bs => le64 (bs.take w) :: elemsOf w n (bs.drop w)

/-- A contribution's element, with a canonical NaN (R358). -/
def collOwn (ty : ETy) (a : W64) : W64 :=
  if tyInt ty then a
  else match decodeF (fmtOf ty) (lowBits (tyWidth ty) a) with
    | .nan _ _ => BitVec.ofNat 64 (nanCode (fmtOf ty))
    | _ => a

/-- The reduction of contributions in the order of the peer list; a single one is itself, in canonical form for NaN. -/
def reduceAll (op : Nat) (ty : ETy) : List (List W64) → List W64
  | [] => []
  | c :: cs => cs.foldl (fun acc d => (acc.zip d).map fun (a, b) => collOp op ty a b) (c.map (collOwn ty))

/-- COLLECTIVE_COMPLETE of reduction k: `rows` are the peers' contributions in the order of the list (this device's own row
is read from SRC), `agree` says that their descriptors match. A link that is down fails it. -/
def State.collDone (s : State) (k : Nat) (rows : List (List W64)) (agree : Bool) : State :=
  match s.links.colls[k]? with
  | none => s
  | some q =>
    let w := tyWidth q.ty / 8
    let up := q.list.all fun p => decide (p = 255) || !(s.peerLinks p).isEmpty
    match s.fwRead q.asid q.src.toNat (q.count * w) with
    | none => s.collFail q
    | some bs =>
      let own := elemsOf w q.count bs
      let rs := q.list.zipIdx.map fun (p, i) => if p = 255 then own else rows.getD i []
      if !agree || !up || rs.any fun r => decide (r.length ≠ q.count) then s.collFail q
      else
        let out := ((reduceAll q.op q.ty rs).map fun v => toLE w v.toNat).flatten
        match s.fwWrite q.asid q.dst.toNat out, s.fwKey q.asid q.donew.toNat false with
        | (true, s), some (d, _) =>
          let s : State := { s with links := { s.links with colls := s.links.colls.erase q } }
          (s.homeFill d true).wake [d / 8]
        | _, _ => s.collFail q

end Sys2Proof.Machine
end

