-- ==== Sys2Proof/Machine/Forester.lean ====
section
/-!
DEFINITION. The Forester: boot (22 R359, R360), its reset (R362), layouts and their journal (23 R365 to R367), power
(R368), the management commands (R363, R364), SPDM (R373), sessions of tenants (R370, R371).
-/
namespace Sys2Proof.Machine

/-! ### Islands, glades and the layout journal (R365 to R367) -/

/-- Islands of the device. -/
def islands : Nat := 24

def State.setIsland (s : State) (i : Nat) (x : Island) : State := { s with fo := { s.fo with islands := Store.set s.fo.islands i x } }

/-- The record of an island or of a commit as 56 bytes, and with its CHECK (R366). -/
def JRec.body (r : JRec) : List Byte :=
  toLE 8 ((if r.commit then 2 else 1) + r.island * 2 ^ 8 + r.seq % 2 ^ 32 * 2 ^ 16 + r.first * 2 ^ 48
          + (r.nisl - 1) * 2 ^ 53 + (if r.disable then 2 ^ 58 else 0)) ++ toLE 48 (r.nprep % 32)
def JRec.bytes (r : JRec) : List Byte := r.body ++ (shake256 r.body).take 8

/-- Whether a layout number has a valid COMMIT that fits its PREPARE records (R367). -/
def layoutWhole (j : List JRec) (q : Nat) : Bool :=
  let preps := (j.filter fun r => !r.commit && r.ok && decide (r.seq = q)).length
  j.any fun r => r.commit && r.ok && decide (r.seq = q) && decide (r.nprep + 1 = preps)

/-- The highest layout number of a journal's valid records, and of its whole layouts (R367). -/
def topSeq (j : List JRec) : Nat := (j.filter (·.ok)).foldl (fun m r => max m r.seq) 0
def wholeTop (j : List JRec) : Nat := topSeq (j.filter fun r => layoutWhole j r.seq)

/-- A glade as a layout leaves it: queues empty, counters 0 (step 4 of R366). -/
def newGlade (n : Nat) : Glade := { nisl := n }

/-- The PREPARE records of a layout. -/
def prepsOf (j : List JRec) (q : Nat) : List JRec := j.filter fun r => !r.commit && r.ok && decide (r.seq = q)

/-- Applies a layout to the islands that are PENDING (steps 4 and 5 of R366). -/
def State.applyLayout (s : State) (rs : List JRec) : State :=
  let rs := rs.filter fun r => decide ((s.island r.island).st = .pending)
  let old := rs.map fun r => (s.island r.island).first
  let s : State := { s with glades := s.glades.filter fun (k, _) => !(old.contains k) }
  rs.foldl (fun s r =>
    let x := s.island r.island
    if r.disable then s.setIsland r.island { x with st := .disabled, first := r.island, nisl := 0 }
    else
      let s := s.setIsland r.island { x with st := .active, first := r.first, nisl := r.nisl }
      if r.island = r.first then s.setGlade r.first (newGlade r.nisl) else s) s

/-- What the committed layouts of a journal say of an island: its last PREPARE record among the whole ones. -/
def committedOf (j : List JRec) (i : Nat) : Option JRec :=
  (j.filter fun r => !r.commit && r.ok && decide (r.island = i) && layoutWhole j r.seq).foldl (fun (b : Option JRec) r =>
    match b with | some q => if q.seq ≤ r.seq then some r else some q | none => some r) none

/-- An island goes back to the layout of the last committed number (R367). -/
def State.rollIsland (s : State) (j : List JRec) (i : Nat) : State :=
  let x := s.island i
  if x.st ≠ .pending then s
  else match committedOf j i with
    | some r => s.setIsland i (if r.disable then { x with st := .disabled, first := i, nisl := 0 }
                               else { x with st := .active, first := r.first, nisl := r.nisl })
    | none => s.setIsland i { x with st := .quiesced, first := i, nisl := 0 }

/-- The journal without the records that are void: torn, or of a layout that is not whole (R367). -/
def liveJournal (j : List JRec) : List JRec := j.filter fun r => r.ok && layoutWhole j r.seq

/-- LAYOUT_RECOVERY (R367) at a restart: the journal's highest number is rolled forward, where it is whole and not yet applied; any
island that is then still PENDING goes back to the layout of the last committed number. -/
def State.layoutRecovery (s : State) : State :=
  let j := s.fo.journal
  let q := topSeq j
  let s := if layoutWhole j q ∧ s.fo.lastSeq < q then s.applyLayout (prepsOf j q) else s
  let s := (List.range islands).foldl (fun s i => s.rollIsland j i) s
  { s with fo := { s.fo with journal := liveJournal j, lastSeq := wholeTop j } }

/-- The layout at power-on (R367): every island is as the last committed layout that names it says. -/
def State.bootLayout (s : State) : State :=
  let j := s.fo.journal
  let rs := (List.range islands).filterMap (committedOf j)
  let s := rs.foldl (fun s r => s.setIsland r.island { s.island r.island with st := .pending }) s
  let s := s.applyLayout rs
  { s with fo := { s.fo with journal := liveJournal j, lastSeq := wholeTop j } }

/-- Whether a glade is idle (R366). -/
def State.gladeIdle (s : State) (gl : Nat) : Bool :=
  match s.glade? gl with
  | none => true
  | some g =>
    (s.launches.all fun (_, y) => decide (y.glade ≠ gl) || !(y.st.isLive || decide (y.st = .waiting)))
      && (g.queues.all fun (_, q) => q.isEmpty) && (s.prq.ents.all fun e => decide (e.glade ≠ gl))
      && s.under.all fun e => decide (e.glade ≠ gl) || decide ((s.frame (e.eff.line * 64 / 2 ^ 16)).st ≠ .scrubbing)

/-! ### Boot (R359, R360) -/

/-- Whether the boot ROM accepts a slot: the body's length, the fields, the digest and the signature. -/
def State.slotOk (s : State) (img : List Byte) : Bool :=
  let h := img.take 256
  let body := (img.drop 256).take (recBits h 127 64)
  decide (256 ≤ img.length) && decide (recBits h 31 0 = 0x4A465731) && decide (recBits h 35 32 = 1)
    && (decide (recBits h 39 36 = 1) || decide (recBits h 39 36 = 2)) && decide (recBits h 63 46 = 0) && decide (recBits h 2047 1552 = 0)
    && decide (s.fo.fuseSvn ≤ recBits h 45 40) && decide (body.length = recBits h 127 64)
    && decide (shake256 body = (h.drop 16).take 64) && decide (shake256 Config.ibnalKey = s.fo.fuseKey)
    && Config.ed448Ok Config.ibnalKey (h.take 80) ((h.drop 80).take 114)

/-- The measurement register after one more header (R360). -/
def extendM (m : List Byte) (header : List Byte) : List Byte := shake256 (m ++ header)

/-- The device identity key: an Ed448 key of 57 bytes that SHAKE256 derives from the fused secret (R361). -/
def State.identityKey (s : State) : List Byte := (shake256 s.fo.fuseSecret).take 57

/-- The key block at a boot (R361): the alias key comes from the secret and M, and the identity key signs its public key. -/
def State.deriveKeys (s : State) : State :=
  let k := Config.bootKey s.fo.fuseSecret s.fo.meas
  { s with fo := { s.fo with bootKey := k, bootCert := Config.ed448Public k ++ Config.ed448Sign s.identityKey (Config.ed448Public k) } }

/-- A message with its signature by the alias key over the SHA3-512 digest of the transcript (R361, R373). -/
def State.signed (s : State) (msg : List Byte) : List Byte :=
  msg ++ Config.ed448Sign s.fo.bootKey (sha3_512 (s.fo.transcript ++ msg))

/-- Starts the Forester with an image: SVN, ABI and the measurement register, which the border-core firmware and boot images
that the Forester loads extend, in load order (R360, assumption 47). -/
def State.startForester (s : State) (img : List Byte) : State :=
  let h := img.take 256
  let meas := s.fo.images.foldl (fun m i => extendM m (i.take 256)) (extendM (List.replicate 64 0#8) h)
  let s : State := { s with fo := { s.fo with st := .up, meas := meas, svn := recBits h 45 40, abi := recBits h 39 36 } }
  let s := s.fo.retired.foldl (fun s f => s.setFrame f { s.frame f with st := .retired }) s.deriveKeys
  s.bootLayout.releaseMarks

/-- POWER_ON_BOOT (R360, R367, R375). -/
def State.boot (s : State) : State :=
  if s.fo.st ≠ .off then s
  else if s.slotOk s.fo.flashA then s.startForester s.fo.flashA
  else if s.slotOk s.fo.flashB then s.startForester s.fo.flashB
  else { s with fo := { s.fo with st := .recovery } }

/-- FORESTER_RESET (R362): a running Forester goes down and its services wait; one that is down restarts, cleans every
SCRUBBING frame again, resolves a layout and makes the marks that were held. M is not changed. -/
def State.foresterReset (s : State) : State :=
  match s.fo.st with
  | .up => { s with fo := { s.fo with st := .down } }
  | .down =>
    let s := s.frames.foldl (fun s (f, x) => if x.st = .scrubbing then s.scrub f else s) s
    let s := s.layoutRecovery
    ({ s with fo := { s.fo with st := .up } } : State).releaseMarks
  | _ => s

/-! ### Power (R368) -/

/-- Ticks between two steps of an island's frequency. -/
def powerTicks : Nat := 110000

/-- THR of an island: it is at FMIN and its average still exceeds the cap (R368). -/
def Island.throttled (x : Island) : Bool := decide (x.fcur = x.fmin) && decide (x.capw < x.avg)

/-- POWER_STEP (R368): `avg` is the island's average over 1 ms, in units of 0.25 W. -/
def State.powerStep (s : State) (i avg : Nat) : State :=
  let x := { s.island i with avg := avg }
  if islands ≤ i ∨ (s.fo.ticks - x.stepAt).toNat < powerTicks then s
  else
    let k := if x.capw < avg then (if x.fmin < x.fcur then x.fcur - 1 else x.fcur)
             else if avg * 10 < x.capw * 9 then min 16 (x.fcur + 1) else x.fcur
    let y : Island := { x with fcur := k, stepAt := s.fo.ticks }
    s.setIsland i { y with thr := y.throttled }

/-- The step at which the islands of a glade run: the lowest of any of them (R368). -/
def State.gladeStep (s : State) (gl : Nat) : Nat :=
  (List.range islands).foldl (fun m i => if (s.island i).first = gl ∧ (s.island i).st = .active then min m (s.island i).fcur else m) 16

/-! ### The frame table (R310) -/

def tabWeight (e : W32) (p : Nat) : Nat := bitsOf e.toNat (5 * p + 4) (5 * p)

/-- FRAME_TABLE_STEP (R310): after 64 ticks the next entry; a table that was loaded takes its place at a pass's start. -/
def State.tableStep (s : State) : State :=
  if s.fo.tabCyc < 64 then s
  else
    let ix := (s.fo.tabIx + 1) % 16
    let fo := { s.fo with tabIx := ix, tabCyc := s.fo.tabCyc - 64 }
    match ix, fo.pendTable with
    | 0, some t => { s with fo := { fo with table := t, pendTable := none } }
    | _, _ => { s with fo := fo }

/-! ### Management commands (R363, R364) -/

/-- The outcome of a command: its status, its result words, the state. -/
structure MRes where
  status : Nat
  words : List W64 := []
  st : State
  deriving DecidableEq, Repr

/-- The header that a response repeats, reserved bits and all. -/
def mgmtHeader (code : Nat) (r : MgmtReq) (status : Nat) : W64 :=
  BitVec.ofNat 64 (code + r.mver.toNat * 2 ^ 8 + status * 2 ^ 16 + r.len % 2 ^ 16 * 2 ^ 32 + r.tag.toNat * 2 ^ 48)
    ||| (r.reserved &&& 0xFF00F000#64)

/-- A CODE that names no command, where a message has one (R364). -/
def MgmtReq.unknown (r : MgmtReq) : Option Nat := (r.code.map BitVec.toNat).filter fun c => decide (c = 0 ∨ 0x0F < c)

/-- Whether a command comes inside a secured session whose requester has authenticated with the operator certificate, which
the message says (R363). -/
def State.operatorSession (s : State) (r : MgmtReq) : Bool :=
  r.authenticated && s.fo.cert.isSome && decide (s.fo.spdm = .session) && decide (s.fo.peer = 0)

/-- Serves a command with code `code`, `fits` whose argument count is right: a session, the version, the code, the length and the
reserved fields are checked first; a status other than OK changes nothing. A message with a CODE that names no command is
answered by whichever command's step it comes as (assumption 12). -/
def mgmt (code : Nat) (fits : Nat → Bool) (s : State) (run : List Nat → State → MRes) : Res :=
  let r := s.cur.mreq
  if s.fo.st ≠ .up then .next s
  else
    let out : MRes :=
      if !s.operatorSession r then ⟨3, [], s⟩
      else if r.mver ≠ 1#4 then ⟨4, [], s⟩
      else if r.unknown.isSome ∨ r.len ≠ 8 * r.args.length ∨ !fits r.args.length then ⟨5, [], s⟩
      else if r.reserved ≠ 0#64 then ⟨2, [], s⟩
      else run (r.args.map BitVec.toNat) s
    let t := if out.status = 0 then out.st else s
    let ans : List W64 := mgmtHeader (r.unknown.getD code) r out.status :: (if out.status = 0 then out.words else [])
    .next { t with fo := { t.fo with answer := if t.fo.st = .up then some ans else none } }

/-- Whether a layout is PENDING. -/
def State.pending (s : State) : Bool := (List.range islands).any fun i => decide ((s.island i).st = .pending)

def mOkay (s : State) (ws : List W64 := []) : MRes := ⟨0, ws, s⟩
def mErr (s : State) (n : Nat) : MRes := ⟨n, [], s⟩

/-- The islands of a layout word, and whether it disables them. -/
def wordIslands (w : Nat) : List Nat := (List.range (bitsOf w 9 5 + 1)).map fun i => bitsOf w 4 0 + i

/-- The PREPARE records of a request for the islands whose glade changes. -/
def State.changes (s : State) (ws : List Nat) (seq : Nat) : List JRec :=
  (ws.map fun w =>
    let dis := decide (bitsOf w 10 10 = 1)
    let n := bitsOf w 9 5 + 1
    (wordIslands w).filterMap fun i =>
      let x := s.island i
      let same := if dis then decide (x.st = .disabled)
                  else decide (x.st = .active) && decide (x.first = bitsOf w 4 0) && decide (x.nisl = n)
      if same then none
      else some ({ commit := false, island := i, seq := seq, first := bitsOf w 4 0, nisl := n, disable := dis } : JRec)).flatten

/-- Whether layout words are in range: within the device, apart from one another, and not cutting a glade in two
(assumption 25). -/
def State.layoutRange (s : State) (ws : List Nat) : Bool :=
  let all := (ws.map wordIslands).flatten
  (ws.all fun w => decide (w < 2 ^ 11) && decide (bitsOf w 4 0 + bitsOf w 9 5 < islands))
    && decide (all.length = (all.foldl (fun l i => if l.contains i then l else i :: l) []).length)
    && all.all fun i => (List.range islands).all fun j =>
        decide ((s.island i).st ≠ .active) || decide ((s.island j).st ≠ .active) || decide ((s.island i).first ≠ (s.island j).first)
          || all.contains j

/-- LAYOUT (R366). `strike` is the number of journal records after which a reset of the Forester strikes, if one does, and
`torn` whether the next record is torn. -/
def State.layout (s : State) (ws : List Nat) (strike : Option Nat) (torn : Bool) : MRes :=
  if !s.layoutRange ws then mErr s 2
  else if s.pending then mErr s 1
  else
    let seq := s.fo.lastSeq + 1
    let preps := s.changes ws seq
    if preps.any fun r => !(decide ((s.island r.island).st ≠ .active) || s.gladeIdle (s.island r.island).first) then mErr s 1
    else if preps.isEmpty then mOkay s
    else
      let recs := preps ++ [({ commit := true, seq := seq, nprep := preps.length - 1 } : JRec)]
      let s := preps.foldl (fun s r => s.setIsland r.island { s.island r.island with st := .pending }) s
      match strike with
      | some k =>
        let kept := recs.take k ++ (if torn then ((recs.drop k).take 1).map fun r => { r with ok := false } else [])
        mOkay { s with fo := { s.fo with journal := s.fo.journal ++ kept, st := .down } }
      | none =>
        let s : State := { s with fo := { s.fo with journal := s.fo.journal ++ recs, lastSeq := seq } }
        mOkay (s.applyLayout preps)

/-- LAYOUT_READ. -/
def islandWord (s : State) (i : Nat) : W64 :=
  let x := s.island i
  let st := match x.st with | .active => 0 | .quiesced => 1 | .pending => 2 | .disabled => 3
  BitVec.ofNat 64 (st + x.first * 2 ^ 2 + ((s.glade? x.first).elim 0 (·.tenant)) % 2 ^ 12 * 2 ^ 16)
def State.layoutRead (s : State) : MRes :=
  mOkay s ((List.range islands).map (islandWord s) ++ [BitVec.ofNat 64 s.fo.lastSeq])

/-- POWER (R368). An island whose step is below a new FMIN goes up to it. -/
def State.power (s : State) (i v : Nat) : MRes :=
  let cap := bitsOf v 9 0
  let fm := bitsOf v 14 10
  if islands ≤ i ∨ cap < 80 ∨ 360 < cap ∨ fm < 8 ∨ 16 < fm ∨ bitsOf v 63 21 ≠ 0 then mErr s 2
  else if (s.island i).st = .pending then mErr s 1
  else
    let sum := (List.range islands).foldl (fun n j =>
      if (s.island j).st = .disabled then n else n + (if j = i then cap else (s.island j).capw)) 0
    if 6288 < sum then mErr s 6
    else
      let y : Island := { s.island i with capw := cap, fmin := fm, fcur := max fm (s.island i).fcur }
      mOkay (s.setIsland i { y with thr := y.throttled })

/-- FRAME_TABLE (R310). -/
def State.frameTable (s : State) (es : List Nat) : MRes :=
  let ws := es.map fun e => BitVec.ofNat 32 e
  let bad := es.any fun e => decide (2 ^ 20 ≤ e)
  let sums := ws.any fun e => decide (tabWeight e 0 + tabWeight e 1 + tabWeight e 2 + tabWeight e 3 ≠ 16)
  let none_ := (List.range 4).any fun p => ws.all fun e => decide (tabWeight e p = 0)
  if bad || sums || none_ then mErr s 2 else mOkay { s with fo := { s.fo with pendTable := some ws } }

/-- GLADE_PARAMS. -/
def State.gladeParams (s : State) (gl pool spill park quick share : Nat) : MRes :=
  match s.glade? gl with
  | none => mErr s 2
  | some g =>
    if pool < 12 ∨ 20 < pool ∨ spill < 64 ∨ 65536 < spill ∨ 160 < share then mErr s 2
    else if !s.gladeIdle gl || decide ((s.island gl).st = .pending) then mErr s 1
    else mOkay (s.setGlade gl { g with poolLog := pool, spillSize := spill, parkTimeout := if park = 0 then 1100000 else park,
                                       quick := if quick = 0 then 110000 else quick, shareCap := share })

/-- TENANT: creates a tenant or updates its limit and key. -/
def State.tenantSet (s : State) (t flags limit : Nat) (key : List W64) : MRes :=
  let conf := decide (flags % 2 = 1)
  if t = 0 ∨ 4096 ≤ t ∨ 2 ≤ flags then mErr s 2
  else if conf ≠ decide (key.length = 7) then mErr s 5
  else match Store.get? s.fo.tenants t with
    | some x => if x.confidential ≠ conf then mErr s 2 else mOkay (s.setTenant t { x with limit := limit, key := key })
    | none => mOkay (s.setTenant t { confidential := conf, limit := limit, key := key })

/-- Whether a tenant exists; tenant 0 is the operator. -/
def State.isTenant (s : State) (t : Nat) : Bool := decide (t = 0) || (Store.get? s.fo.tenants t).isSome

/-- GLADE_ASSIGN: with another tenant the queue bindings go, and the weights of its call rings are 1 again (R357). -/
def State.gladeAssign (s : State) (gl t : Nat) : MRes :=
  match s.glade? gl with
  | none => mErr s 2
  | some g =>
    if !s.isTenant t then mErr s 2
    else if !s.gladeIdle gl || decide ((s.island gl).st = .pending) then mErr s 1
    else if g.tenant = t then mOkay s
    else mOkay (s.setGlade gl { g with tenant := t, binds := [], weights := [] })

/-- SVC_BUDGET (R312). -/
def State.svcBudget (s : State) (c t n : Nat) : MRes :=
  let cs := if c = 2 ^ 64 - 1 then List.range 192 else [c]
  if (192 ≤ c ∧ c ≠ 2 ^ 64 - 1) ∨ !s.isTenant t then mErr s 2
  else if cs.any fun c => decide (budgetPeriod < n + (Store.del (s.core c).budgets t).foldl (fun m (_, b) => m + b) 0) then mErr s 6
  else mOkay (cs.foldl (fun s c => s.setCore c { s.core c with budgets := Store.set (s.core c).budgets t n }) s)

/-- L2_QUOTA (R369). -/
def State.l2Quota (s : State) (t n : Nat) : MRes :=
  if !s.isTenant t ∨ 16384 < n then mErr s 2 else mOkay (s.setTenant t { s.tenant t with quota := n })

/-- TWIN (R372): starts a twin run, or ends it. -/
def State.twinSet (s : State) (p q k : Nat) : MRes :=
  if p = 2 ^ 64 - 1 ∧ q = 2 ^ 64 - 1 then
    match s.fo.twin with
    | none => mOkay s
    | some t => if !s.gladeIdle t.prim || !s.gladeIdle t.sec then mErr s 1 else mOkay { s with fo := { s.fo with twin := none } }
  else match s.glade? p, s.glade? q with
    | some a, some b =>
      if a.nisl ≠ b.nisl ∨ a.tenant ≠ b.tenant ∨ q ≤ p ∨ 16 ≤ k then mErr s 2
      else if !s.gladeIdle p || !s.gladeIdle q || decide ((s.island p).st = .pending ∨ (s.island q).st = .pending) then mErr s 1
      else mOkay { s with fo := { s.fo with twin := some { prim := p, sec := q, queue := k } } }
    | _, _ => mErr s 2

/-- PEER_ROUTE (R353). -/
def State.peerRoute (s : State) (p m : Nat) : MRes :=
  if 64 ≤ p ∨ 2 ^ 18 ≤ m then mErr s 2
  else
    let r := if m = 0 then Store.del s.fo.routes p else Store.set s.fo.routes p (BitVec.ofNat 18 m)
    mOkay { s with fo := { s.fo with routes := r } }

/-- SVN_RAISE (R360). -/
def State.svnRaise (s : State) (n : Nat) : MRes :=
  if n < s.fo.fuseSvn ∨ s.fo.svn < n then mErr s 2 else mOkay { s with fo := { s.fo with fuseSvn := n } }

/-- The words of a channel record (R374). -/
def Ras.words (r : Ras) : List W64 :=
  [BitVec.ofNat 64 (r.ce.toNat + r.ue.toNat * 2 ^ 32 + r.ret.toNat * 2 ^ 48), BitVec.ofNat 64 r.pce.toNat, 0#64, 0#64]

/-- RAS_READ and RAS_CLEAR (R374). -/
def State.rasRead (s : State) (c : Nat) : MRes := if 1536 ≤ c then mErr s 2 else mOkay s (Ras.words (Store.getD s.fo.ras c {}))
def State.rasClear (s : State) (c : Nat) : MRes :=
  if c = 2 ^ 64 - 1 then mOkay { s with fo := { s.fo with ras := [] } }
  else if 1536 ≤ c then mErr s 2
  else mOkay { s with fo := { s.fo with ras := Store.del s.fo.ras c } }

/-- GLADE_COUNTERS (R371, R374): committed, aborted, failed, cycles busy, F_SOFT, F_LINK, rollbacks. -/
def State.gladeCounters (s : State) (gl : Nat) : MRes :=
  match s.glade? gl with
  | none => mErr s 2
  | some g => mOkay s ([g.commits, g.aborts, g.fails, g.busy, g.softs, g.linkFs, g.rollbacks].map (BitVec.ofNat 64))

/-- The argument at a place. -/
def argAt (as : List Nat) (i : Nat) : Nat := as.getD i 0

/-- LAYOUT (R364, R366): `flag` for a reset that strikes after `k` journal records, `flag2` for a torn record. -/
def execLayout (s : State) : Res :=
  mgmt 0x01 (fun n => decide (n ≠ 0)) s fun as s => s.layout as (if s.cur.flag then some s.cur.k else none) s.cur.flag2
/-- LAYOUT_READ (R364). -/
def execLayoutRead (s : State) : Res := mgmt 0x02 (fun n => decide (n = 0)) s fun _ s => s.layoutRead
/-- POWER (R368). -/
def execPower (s : State) : Res := mgmt 0x03 (fun n => decide (n = 2)) s fun as s => s.power (argAt as 0) (argAt as 1)
/-- FRAME_TABLE (R310, R364). -/
def execFrameTable (s : State) : Res := mgmt 0x04 (fun n => decide (n = 16)) s fun as s => s.frameTable as
/-- GLADE_PARAMS (R364). -/
def execGladeParams (s : State) : Res :=
  mgmt 0x05 (fun n => decide (n = 6)) s fun as s =>
    s.gladeParams (argAt as 0) (argAt as 1) (argAt as 2) (argAt as 3) (argAt as 4) (argAt as 5)
/-- TENANT (R364, R370). -/
def execTenant (s : State) : Res :=
  mgmt 0x06 (fun n => decide (n = 3) || decide (n = 10)) s fun as s =>
    s.tenantSet (argAt as 0) (argAt as 1) (argAt as 2) ((as.drop 3).map (BitVec.ofNat 64))
/-- GLADE_ASSIGN (R364). -/
def execGladeAssign (s : State) : Res := mgmt 0x07 (fun n => decide (n = 2)) s fun as s => s.gladeAssign (argAt as 0) (argAt as 1)
/-- SVC_BUDGET (R312, R364). -/
def execSvcBudget (s : State) : Res :=
  mgmt 0x08 (fun n => decide (n = 3)) s fun as s => s.svcBudget (argAt as 0) (argAt as 1) (argAt as 2)
/-- L2_QUOTA (R369). -/
def execL2Quota (s : State) : Res := mgmt 0x09 (fun n => decide (n = 2)) s fun as s => s.l2Quota (argAt as 0) (argAt as 1)
/-- TWIN (R372). -/
def execTwin (s : State) : Res :=
  mgmt 0x0A (fun n => decide (n = 3)) s fun as s => s.twinSet (argAt as 0) (argAt as 1) (argAt as 2)
/-- PEER_ROUTE (R353, R364). -/
def execPeerRoute (s : State) : Res := mgmt 0x0B (fun n => decide (n = 2)) s fun as s => s.peerRoute (argAt as 0) (argAt as 1)
/-- SVN_RAISE (R360, R364). -/
def execSvnRaise (s : State) : Res := mgmt 0x0C (fun n => decide (n = 1)) s fun as s => s.svnRaise (argAt as 0)
/-- RAS_READ (R374). -/
def execRasRead (s : State) : Res := mgmt 0x0D (fun n => decide (n = 1)) s fun as s => s.rasRead (argAt as 0)
/-- RAS_CLEAR (R364, R374). -/
def execRasClear (s : State) : Res := mgmt 0x0E (fun n => decide (n = 1)) s fun as s => s.rasClear (argAt as 0)
/-- GLADE_COUNTERS (R371, R374). -/
def execGladeCounters (s : State) : Res := mgmt 0x0F (fun n => decide (n = 1)) s fun as s => s.gladeCounters (argAt as 0)

/-! ### SPDM (R373) -/

/-- The tenant whose own session is open, if it is a confidential one (R370, R371, R373). -/
def State.ownSession (s : State) (t : Nat) : Bool :=
  decide (s.fo.spdm = .session) && decide (s.fo.peer = t) && (s.tenant t).confidential

/-- The value of a measurement block; block 4 is given only in the session of a confidential tenant. -/
def State.measBlock (s : State) (ix : Nat) : List Byte :=
  match ix with
  | 1 => s.fo.meas
  | 2 => [BitVec.ofNat 8 s.fo.svn, BitVec.ofNat 8 s.fo.fuseSvn]
  | 3 => shake256 ((s.fo.journal.filter fun r => r.ok && decide (r.seq = s.fo.lastSeq)).map JRec.bytes).flatten
  | 4 => if s.ownSession s.fo.peer then (s.tenant s.fo.peer).loads else []
  | _ => []

/-- Answers a request: the transcript takes its bytes; `from_` are the phases that accept it and `nextSt` the phase after it.
A request out of order is answered with SPDM's error code 0x7F and starts nothing (assumption 12). -/
def spdm (code : Nat) (from_ : List SpdmSt) (nextSt : SpdmSt → SpdmSt) (s : State) (body : State → List Byte)
    (peer : Nat := s.fo.peer) : Res :=
  if s.fo.st ≠ .up then .next s
  else if !from_.contains s.fo.spdm then .next { s with fo := { s.fo with spdmAnswer := some (0x7F, []) } }
  else
    let tr := (if code = 0x84 then [] else s.fo.transcript) ++ s.cur.bytes
    let t : State := { s with fo := { s.fo with transcript := tr, spdm := nextSt s.fo.spdm, peer := peer } }
    let bs := body t
    .next { t with fo := { t.fo with transcript := tr ++ bs, spdmAnswer := some (code % 128, bs) } }

/-- Phases after the algorithms are settled. -/
def spdmReady : List SpdmSt := [.negotiated, .exchanging, .session]

/-- GET_VERSION (R373): starts an exchange. -/
def execGetVersion (s : State) : Res :=
  spdm 0x84 [.start, .version, .caps, .negotiated, .exchanging, .session] (fun _ => .version) s fun t => Config.spdmBytes 0x84 t.fo.transcript
/-- GET_CAPABILITIES (R373). -/
def execGetCapabilities (s : State) : Res := spdm 0xE1 [.version] (fun _ => .caps) s fun t => Config.spdmBytes 0xE1 t.fo.transcript
/-- NEGOTIATE_ALGORITHMS (R373): Ed448 and SHA3-512. -/
def execNegotiateAlgorithms (s : State) : Res := spdm 0xE3 [.caps] (fun _ => .negotiated) s fun t => Config.spdmBytes 0xE3 t.fo.transcript
/-- The certificates of slot 0: the identity chain, and the alias key as the identity key signs it (R361, R373). -/
def State.slotChain (s : State) : List Byte := s.fo.chain ++ s.fo.bootCert

/-- GET_DIGESTS (R373): the digest of slot 0. -/
def execGetDigests (s : State) : Res :=
  spdm 0x81 spdmReady id s fun t => Config.spdmBytes 0x81 t.fo.transcript ++ sha3_512 t.slotChain
/-- GET_CERTIFICATE (R373): slot 0. -/
def execGetCertificate (s : State) : Res :=
  spdm 0x82 spdmReady id s fun t => Config.spdmBytes 0x82 t.fo.transcript ++ t.slotChain
/-- CHALLENGE (R361, R373): the answer is signed by the alias key. -/
def execChallenge (s : State) : Res :=
  spdm 0x83 spdmReady id s fun t => t.signed (Config.spdmBytes 0x83 t.fo.transcript ++ sha3_512 t.slotChain)
/-- GET_MEASUREMENTS (R361, R373): the blocks, signed by the alias key. -/
def execGetMeasurements (s : State) : Res :=
  spdm 0xE0 spdmReady id s fun t =>
    t.signed (Config.spdmBytes 0xE0 t.fo.transcript ++ ((List.range 4).map fun i => t.measBlock (i + 1)).flatten)
/-- KEY_EXCHANGE (R361, R373): the answer is signed by the alias key. -/
def execKeyExchange (s : State) : Res :=
  spdm 0xE4 [.negotiated] (fun _ => .exchanging) s fun t => t.signed (Config.spdmBytes 0xE4 t.fo.transcript)
/-- FINISH (R373): the secured session is open; `n` is the tenant that its requester has shown itself to be, 0 for any other
(assumption 12). -/
def execFinish (s : State) : Res :=
  spdm 0xE5 [.exchanging] (fun _ => .session) s (fun t => Config.spdmBytes 0xE5 t.fo.transcript) s.cur.n

/-! ### What a session may set (R363, R370, R371) -/

/-- OPERATOR_CERTIFICATE_INSTALL (R363): the first session installs it, later only one that the current one authenticated
(`flag`). -/
def State.certInstall (s : State) : State :=
  if s.fo.st = .up ∧ s.fo.spdm = .session ∧ (s.fo.cert.isNone ∨ s.cur.flag) then { s with fo := { s.fo with cert := some s.cur.bytes } } else s

/-- SHARED_SET_DECLARATION (R370): a range of a confidential tenant's shared set, at most 256, through its own session. -/
def State.shareRange (s : State) (t base len : Nat) : State :=
  let x := s.tenant t
  if s.fo.st = .up ∧ s.ownSession t ∧ x.shared.length < 256 then
    s.setTenant t { x with shared := x.shared ++ [(base, len)] }
  else s

/-- DEBUG_AUTHORISATION (R371): a confidential tenant authorises a debugging session through its own session, or ends it. -/
def State.debugAuth (s : State) (t : Nat) (on : Bool) : State :=
  let x := s.tenant t
  if s.fo.st = .up ∧ s.ownSession t then s.setTenant t { x with debugOk := on } else s

end Sys2Proof.Machine
end

