-- ==== Sys2Proof/Machine/Tick.lean ====
section
/-!
DEFINITION. The passing of time: one tick of the glade cycle counters (R162), and the island cycles that it completes at
the islands' steps (R94, R98, R250, R368). Assumption 14.
-/
namespace Sys2Proof.Machine

/-- Adds one to a counter that stops at all ones (R94). -/
def bump (c : BitVec 40) (on : Bool) : BitVec 40 := if on then satAdd c else c

/-- The counters of an endpoint after a cycle (R94): CFULL counts where every slot and every entry of the channel's FIFO
extension was occupied, and `ext` says that of the extension. -/
def Endpoint.pass (ext : Bool) (e : Endpoint) : Endpoint :=
  { e with cfull := bump e.cfull (ext && decide (4 ≤ e.slots.length)), cempty := bump e.cempty e.slots.isEmpty, cmove := bump e.cmove e.moved,
           moved := false }

/-- The column of the element that a channel ends at. -/
def Launch.endCol (x : Launch) (r : ChanRec) (j : Nat) : Nat :=
  match r.ckind with
  | 0 => (x.planeOf r.cons j).elim 0 (·.col)
  | 1 => firstCol x.glade + (x.img.nodes[r.cons]?).elim 0 (·.col)
  | _ => firstCol x.glade + (x.img.regions[r.cons]?).elim 0 (·.col)

/-- Counts a cycle at the endpoints of a live launch in an island (R94). -/
def State.passLaunch (s : State) (i l : Nat) : State :=
  match s.launch? l with
  | none => s
  | some x =>
    if !x.onFabric then s
    else x.img.chans.zipIdx.foldl (fun s (r, ci) =>
      (List.range (x.consCopies r)).foldl (fun s j =>
        if x.endCol r j / 4 = i then
          s.modEp l x r j (Endpoint.pass (decide (r.fifo ≤ slotCount (Store.getD (Store.getD x.chans ci {}).flight j []))))
        else s) s) s

/-- Counts a cycle on the event counters of a tile (R250): the cycle, one with a ready task while another plane issued,
one with no ready task. No instruction causes these events: a sample of theirs names the block that the plane runs, or 0,
and slot 0: DESIGN CHOICE (assumption 42). -/
def State.countCycle (s : State) (col row : Nat) (was : Option Issue) : State :=
  (List.range 4).foldl (fun s q =>
    let pl : PlaneId := ⟨col, row, q⟩
    let p := s.plane pl
    if !p.own.getLsbD 3 then s
    else
      let blk : BitVec 16 := p.firing.elim 0#16 (·.block)
      let ready := s.planeReady pl
      let s := s.count pl 1 blk 0
      if ready then (match was with
        | some g => if g.plane ≠ q then s.count pl 10 blk 0 else s
        | none => s)
      else s.count pl 11 blk 0) s

/-- What the next cycle is after one of a tile (R98). -/
def Freeze.step : Freeze → Freeze
  | .next | .both => .now
  | _ => .no

/-- One island cycle of a tile: the cycle is counted, the samples of its overflows are taken, and the issue group ends
(R14, R98). -/
def State.tileCycle (s : State) (ix : Nat) : State :=
  let t := s.tile ix
  let s := if t.perf.isEmpty then s else s.countCycle (ix % 96) (ix / 96) t.issue
  let s := (List.range 4).foldl (fun s n => s.takeSample ix n) s
  let t := s.tile ix
  s.setTile ix { t with issue := none, frozen := t.frozen.step,
                        perf := Store.mapV (fun _ (c : PerfCtr) => { c with grp := none }) t.perf }

/-- One cycle of an island. -/
def State.islandCycle (s : State) (i : Nat) : State :=
  let s := s.launches.foldl (fun s (l, _) => s.passLaunch i l) s
  (s.tiles.filter fun (ix, _) => decide (ix % 96 / 4 = i)).foldl (fun s (ix, _) => s.tileCycle ix) s

/-- An active island takes its share of a tick: sixteenths of a cycle at its glade's step (R368). -/
def State.islandTick (s : State) (i : Nat) : State :=
  let x := s.island i
  if x.st ≠ .active then s
  else
    let n := x.phase + s.gladeStep x.first
    let s := s.setIsland i { x with phase := n % 16 }
    if 16 ≤ n then s.islandCycle i else s

/-- A stream counts the ticks in which a write is parked on its full window (R62), and those in which it waits only because the
slot that it needs has not finished recycling (R59): DESIGN CHOICE (assumption 42). -/
def State.stallTick (s : State) (l : Nat) (x : Launch) : State :=
  if !x.goesOn then s
  else x.streams.zipIdx.foldl (fun s (st, i) =>
    match s.parkedWrite l st.sr.handle with
    | some _ => s.setStream l i { st with stallCnt := st.stallCnt + 1 }
    | none => s) s

/-- Park records that have become able to be performed without a change of their words, because their page has been mapped
again, are scanned (R74, R77). -/
def State.wakeRipe (s : State) : State :=
  let ws := s.ripe fun _ => true
  if ws.isEmpty then s else s.wake ws

/-- One tick: the glades' cycle counters and what counts with them, the islands, the end of a trail walk's window, and the
records whose page has come back. -/
def State.tick (s : State) : State :=
  let s : State := { s with fo := { s.fo with ticks := s.fo.ticks + 1#64, tabCyc := s.fo.tabCyc + 1 } }
  let busy (g : Nat) : Bool := s.launches.any fun (_, x) => decide (x.glade = g) && x.st.isLive
  let s : State := { s with glades := Store.mapV (fun k (g : Glade) =>
    { g with cycle := g.cycle + 1#64, busy := g.busy + (if busy k then 1 else 0) }) s.glades }
  let s := s.launches.foldl (fun s (l, x) => s.stallTick l x) s
  let s : State := { s with cores := Store.mapV (fun c (k : Core) =>
    if s.hasCall c k.slice then { k with spent := Store.set k.spent k.slice (Store.getD k.spent k.slice 0 + 1) } else k) s.cores }
  ((List.range islands).foldl State.islandTick s).trailTick.wakeRipe

end Sys2Proof.Machine
end

