-- ==== Sys2Proof/Machine/Events.lean ====
section
/-!
DEFINITION. The meanings of the steps without a word that are one operation of the machine: each reads its operands from
`State.cur` (assumption 1) and does nothing where the operation finds nothing to do. The steps of the request stream that
reach memory come first; they act where the request stands, on its plane or scanned out (R323).
-/
namespace Sys2Proof.Machine

/-- HOME_ACCESS (R67 to R75, R200, R272 to R276, R372) of the acting plane's request `rid`: a load, store or full/empty
form, or a fence, SPOS, PREF or WBACK that the request stream performs. -/
def execHomeAccess (s : State) : Res :=
  .next (s.onReq s.cur.pl s.cur.rid fun s => match s.ready? s.cur.pl s.cur.rid with
    | none => s
    | some (l, x, r) =>
      let mem : State :=
        let (t, ws) := s.access s.cur.pl l x r (State.guarded l s.cur.pl x r fun t ps => t.accessParts s.cur.pl l x r ps)
        (t.wake ws).twinCompare l false
      match r.kind with
      | .ld | .ldw | .ldc | .st | .stf | .sts | .fempty | .feq => mem
      | .fence _ | .sbar | .xfence _ _ => s.fenceStep s.cur.pl r
      | .spos => s.streamSpos s.cur.pl s.cur.rid
      | .pref _ => s.prefStep s.cur.pl x r
      | .wback => s.wbackStep s.cur.pl x r
      | _ => s)

/-- ATOMIC_PERFORM (R205) of the acting plane's request `rid`. -/
def execAtomicPerform (s : State) : Res :=
  .next (s.onReq s.cur.pl s.cur.rid fun s => match s.ready? s.cur.pl s.cur.rid with
    | none => s
    | some (l, x, r) =>
      match r.kind with
      | .atom op d =>
        let (t, ws) := s.access s.cur.pl l x r (State.guarded l s.cur.pl x r (State.atomParts op d s.cur.pl l x r))
        (t.wake ws).twinCompare l false
      | _ => s)

/-- UPDATE_PERFORM (R78, R206) of the acting plane's request `rid`. -/
def execUpdatePerform (s : State) : Res :=
  .next (s.onReq s.cur.pl s.cur.rid fun s => match s.ready? s.cur.pl s.cur.rid with
    | none => s
    | some (l, x, r) =>
      match r.kind with
      | .upd op d =>
        let (t, ws) := s.access s.cur.pl l x r (State.guarded l s.cur.pl x r (State.updParts op d s.cur.pl l x r))
        (t.wake ws).twinCompare l false
      | _ => s)

/-- F_SOFT (R335): a soft error that the hardware found in a tile of a launch. It goes to the launch unit, which takes
rung 2, and the glade counts it (R374). -/
def execFSoft (s : State) : Res :=
  .next (match s.launch? s.cur.l with
    | none => s
    | some x =>
      if x.st.isLive then
        ((s.raise .soft s.cur.l none s.cur.pl (.launch s.cur.l) 0 false 0 0 0 0 0#64).2).modGlade x.glade fun g =>
          { g with softs := g.softs + 1 }
      else s)

/-- TASK_FIRING (R21, R22) on the acting plane. -/
def execTaskFiring (s : State) : Res := .next (s.taskFiring s.cur.pl)

/-- CONTROL_STEP (R25) on the acting plane. -/
def execControlStep (s : State) : Res := .next (s.controlStep s.cur.pl)

/-- BLOCK_COMMIT (R132) on the acting plane. -/
def execBlockCommit (s : State) : Res := .next (s.blockCommit s.cur.pl)

/-- WAVE_ADMISSION (R130) of a slot. -/
def execWaveAdmission (s : State) : Res := .next (s.waveAdmit s.cur.pl s.cur.slot)

/-- PYIELD_RELEASE (R160) on the acting plane. -/
def execPyieldRelease (s : State) : Res := .next (s.yieldRelease s.cur.pl)

/-- TOKEN_DELIVERY (R18, R19, R94) from channel `n` to consumer copy `k`. -/
def execTokenDelivery (s : State) : Res := .next (s.deliver s.cur.l s.cur.n s.cur.k)

/-- SteerNode step of node `n` (R32). -/
def execSteerNode (s : State) : Res := .next (s.steerStep s.cur.l s.cur.n)

/-- MergeNode step of node `n` (R33). -/
def execMergeNode (s : State) : Res := .next (s.mergeStep s.cur.l s.cur.n)

/-- FilterNode step of node `n` (R34). -/
def execFilterNode (s : State) : Res := .next (s.filterStep s.cur.l s.cur.n)

/-- IntersectNode step of node `n` (R35). -/
def execIntersectNode (s : State) : Res := .next (s.intersectStep s.cur.l s.cur.n)

/-- DelayNode step of node `n` (R36). -/
def execDelayNode (s : State) : Res := .next (s.delayStep s.cur.l s.cur.n)

/-- GRAPH_COMPLETION (R28). -/
def execGraphCompletion (s : State) : Res := .next (s.complete s.cur.l)

/-- RESPONSE_DELIVERY (R24) on response channel `n`. -/
def execResponseDelivery (s : State) : Res := .next (s.respDeliver s.cur.pl s.cur.n)

/-- TIMER_DUE (R163, R248) of the `k`-th timer. -/
def execTimerDue (s : State) : Res := .next (s.timerDue s.cur.pl s.cur.k)

/-- STREAM_WRITE (R53). -/
def execStreamWrite (s : State) : Res := .next ((s.onReq s.cur.pl s.cur.rid fun s => s.streamWrite s.cur.pl s.cur.rid).wake [])

/-- STREAM_CLOSE (R54). -/
def execStreamClose (s : State) : Res := .next ((s.onReq s.cur.pl s.cur.rid fun s => s.streamClose s.cur.pl s.cur.rid).wake [])

/-- STREAM_READ (R55). -/
def execStreamRead (s : State) : Res := .next ((s.onReq s.cur.pl s.cur.rid fun s => s.streamRead s.cur.pl s.cur.rid).wake [])

/-- STREAM_RELEASE (R58). -/
def execStreamRelease (s : State) : Res := .next ((s.onReq s.cur.pl s.cur.rid fun s => s.streamRelease s.cur.pl s.cur.rid).wake [])

/-- STREAM_REWIND (R60). -/
def execStreamRewind (s : State) : Res := .next ((s.onReq s.cur.pl s.cur.rid fun s => s.streamRewind s.cur.pl s.cur.rid).wake [])

/-- FORCED_RELEASE (R63). -/
def execForcedRelease (s : State) : Res := .next ((s.onReq s.cur.pl s.cur.rid fun s => s.forcedRelease s.cur.pl s.cur.rid).wake [])

/-- FRAME_RECYCLE (R59): frames below TAIL are emptied; after a rollback elements that the log holds are supplied (R64). -/
def execFrameRecycle (s : State) : Res := .next (((s.frameRecycle s.cur.l s.cur.n).supply s.cur.l s.cur.n).wake [])

/-- STREAM_STALL (R62). -/
def execStreamStall (s : State) : Res := .next (s.streamStall s.cur.l s.cur.n)

/-- HOST_HWM_PUBLISH (R64). -/
def execHostHwmPublish (s : State) : Res := .next ((s.hwmPublish s.cur.l s.cur.n).wake [])

/-- HOST_READER_RELEASE (R64) of reader `k`. -/
def execHostReaderRelease (s : State) : Res := .next ((s.hostRelease s.cur.l s.cur.n s.cur.k).wake [])

/-- PARK_TIMEOUT_CHECK (R74) of a glade. -/
def execParkTimeoutCheck (s : State) : Res := .next (s.parkTimeouts s.cur.g)

/-- UPDATE_LINE_MERGE (R79): line `n` leaves the bank of glade `g`, as the bank may have it do at any time; what is dirty in it
goes home (R79, R272). -/
def execUpdateLineMerge (s : State) : Res := .next (s.evictLine s.cur.g s.cur.n)

/-- ANCHOR_RELEASE (R83, R87). -/
def execAnchorRelease (s : State) : Res := .next (s.anchorRelease s.cur.l)

/-- LAUNCH_COMMIT (R85, R88, R372). -/
def execLaunchCommit (s : State) : Res := .next (s.launchCommit s.cur.l)

/-- FOLD (R85) of line `n`. -/
def execFold (s : State) : Res := .next (s.foldLine s.cur.n)

/-- OLDEST_ONLY_START (R90, R93). -/
def execOldestOnlyStart (s : State) : Res := .next (s.oldestStart s.cur.l)

/-- RECOVERY_RUNG (R338); a launch that was scanned out or that waits to resume takes a plane again (R323, R342). -/
def execRecoveryRung (s : State) : Res := .next (((s.recover s.cur.l).reload s.cur.l).resumeTry s.cur.l)

/-- BLAZE_ARRIVAL (R342) at an element. -/
def execBlazeArrival (s : State) : Res := .next (s.blazeArrive s.cur.l s.cur.elem s.cur.cut)

/-- SNAP_CADENCE (R306). -/
def execSnapCadence (s : State) : Res := .next (s.snapCadence s.cur.l)

/-- EVENT_COUNTER_OVERFLOW (R98) of counter `k` of tile `n`; with `flag` the debugger drains the ring of glade `g` (R100). -/
def execEventCounterOverflow (s : State) : Res :=
  .next (if s.cur.flag then s.drainSamples s.cur.g else s.takeSample s.cur.n s.cur.k)

/-- TRAIL_WALK (R99) in launch `l` from an element, or from the acting plane with `flag2`. -/
def execTrailWalk (s : State) : Res :=
  .next (s.trailWalk s.cur.l (if s.cur.flag2 then .actor s.cur.pl else s.cur.elem) s.cur.flag s.cur.n)

/-- MATRIX_RECORD_ACCEPT (R224 to R227). -/
def execMatrixRecordAccept (s : State) : Res := .next ((s.onReq s.cur.pl s.cur.rid fun s => s.mAccept s.cur.pl s.cur.rid).wake [])

/-- SEQUENCER_DISPATCH (R227) of the `k`-th record. -/
def execSequencerDispatch (s : State) : Res := .next ((s.seqDispatch s.cur.g s.cur.k).wake [])

/-- MM_CHUNK (R229, R230) in region `n`. -/
def execMmChunk (s : State) : Res := .next ((s.mmChunk s.cur.g s.cur.n).wake [])

/-- COMMAND_COMPLETION (R230) of record `n`. -/
def execCommandCompletion (s : State) : Res := .next ((s.mCompletion s.cur.g s.cur.n).wake [])

/-- DRAIN_TILE (R232) in region `n`. -/
def execDrainTile (s : State) : Res := .next (s.drainTile s.cur.g s.cur.n)

/-- COPY_ACCEPT (R215, R217). -/
def execCopyAccept (s : State) : Res := .next ((s.onReq s.cur.pl s.cur.rid fun s => s.copyAccept s.cur.pl s.cur.rid).wake [])

/-- COPY_LINE_WRITE (R217) of copy `n`. -/
def execCopyLineWrite (s : State) : Res := .next ((s.copyLine s.cur.n).wake [])

/-- PROMISE_MISSED (R217) of copy `n`. -/
def execPromiseMissed (s : State) : Res := .next (s.promiseMiss s.cur.n)

/-- BARRIER_PERFORM (R212 to R214). -/
def execBarrierPerform (s : State) : Res := .next ((s.onReq s.cur.pl s.cur.rid fun s => s.barPerform s.cur.pl s.cur.rid).wake [])

/-- BARRIER_WAIT_QUEUE_TIMEOUT (R214) of the `k`-th entry of edge block `n`. -/
def execBarrierWaitQueueTimeout (s : State) : Res := .next (s.barTimeout s.cur.n s.cur.k)

/-- HELD_STREAM_READ_TIMEOUT (R284). -/
def execHeldStreamReadTimeout (s : State) : Res := .next (s.onReq s.cur.pl s.cur.rid fun s => s.heldReadTimeout s.cur.pl s.cur.rid)

/-- CALL_ANSWER (R312, R329) of the acting core. -/
def execCallAnswer (s : State) : Res := .next (s.callAnswer s.cur.core)

/-- BUDGET_TIMER (R312). -/
def execBudgetTimer (s : State) : Res := .next (s.budgetTimer s.cur.core)

/-- TENANT_BUDGET_PERIOD (R312). -/
def execTenantBudgetPeriod (s : State) : Res := .next (s.budgetRenew s.cur.core)

/-- JWAITW_TIMEOUT (R257). -/
def execJwaitwTimeout (s : State) : Res := .next (s.waitTimeout s.cur.core)

/-- INTERRUPT_TAKEN (R257). -/
def execInterruptTaken (s : State) : Res := .next (s.interrupt s.cur.core s.cur.val)

/-- LAUNCH_HEAD_CHECK (R301, R302) of queue `n`. -/
def execLaunchHeadCheck (s : State) : Res := .next (s.headCheck s.cur.g s.cur.n)

/-- LAUNCH_START (R304) from queue `n`. -/
def execLaunchStart (s : State) : Res := .next (s.launchStart s.cur.g s.cur.n)

/-- HOST_RING_DRAIN (R309) of a glade's `k`-th ring. -/
def execHostRingDrain (s : State) : Res := .next (s.ringDrain s.cur.g s.cur.k)

/-- HOST_RING_RESET (R309) of a glade's `k`-th ring. -/
def execHostRingReset (s : State) : Res := .next (s.ringReset s.cur.g s.cur.k)

/-- FRAME_TABLE_STEP (R310). -/
def execFrameTableStep (s : State) : Res := .next (s.tableStep)

/-- RUN_AHEAD_FETCH (R318) at port `n`. -/
def execRunAheadFetch (s : State) : Res := .next (s.runAhead s.cur.n s.cur.asid s.cur.va.toNat s.cur.val.toNat)

/-- PORT_INVALIDATION (R319) of invalidation `k` at port `n`. -/
def execPortInvalidation (s : State) : Res := .next (s.portInval s.cur.k s.cur.n)

/-- PORT_ACKNOWLEDGE (R319) of invalidation `k` from port `n`; host accesses that it held go on. -/
def execPortAcknowledge (s : State) : Res := .next ((s.portAck s.cur.k s.cur.n).hostRetry s.cur.n)

/-- QUICK_SERVICE_SCAN_OUT (R323) for entry `k`. -/
def execQuickServiceScanOut (s : State) : Res := .next (s.scanOut s.cur.k)

/-- PRQ_ANSWER RESUME (R322, R324). -/
def execPrqAnswerResume (s : State) : Res := .next ((s.answerResume s.cur.val).wake [])

/-- PRQ_ANSWER FAULT (R322, R324). -/
def execPrqAnswerFault (s : State) : Res := .next ((s.answerFault s.cur.val).wake [])

/-- PRQ_ANSWER ABORT (R322, R324). -/
def execPrqAnswerAbort (s : State) : Res := .next ((s.answerAbort s.cur.val).wake [])

/-- PRQ_ANSWER REFUSED (R322, R324). -/
def execPrqAnswerRefused (s : State) : Res := .next ((s.answerRefused s.cur.val).wake [])

/-- FRAME_SCRUB (R325) of frame `n`, while the Forester is up: else its writes of the owner table are held (R362). -/
def execFrameScrub (s : State) : Res := .next (if s.fo.st = .up then s.scrub s.cur.n else s)

/-- PAGE_OUT (R77), from frame `n` where the page's entry has been cleared (R326). -/
def execPageOut (s : State) : Res := .next (s.pageOut s.cur.asid s.cur.va.toNat s.cur.n)

/-- PAGE_IN (R77) into frame `n`. -/
def execPageIn (s : State) : Res := .next (s.pageIn s.cur.asid s.cur.va.toNat s.cur.n)

/-- FAULT_DELIVERY (R334) of a glade. -/
def execFaultDelivery (s : State) : Res := .next (s.faultDeliver s.cur.g)

/-- The host access of the step, of a kind: offset `n`, `k` bytes or the bytes of a write, requester `rid`; `flag` where an error
of the data is corrected, `flag2` where it is uncorrectable. -/
def Ctx.hostAcc (x : Ctx) (kind : HostKind) : HostAcc :=
  { who := x.rid, kind := kind, off := x.n, n := x.k, bytes := x.bytes, corr := x.flag, bad := x.flag2 }

/-- Plain aperture read (R349, R351). -/
def execPlainApertureRead (s : State) : Res := .next (s.hostAccess (s.cur.hostAcc .plainRead))

/-- Plain aperture write (R349). -/
def execPlainApertureWrite (s : State) : Res := .next (s.hostAccess (s.cur.hostAcc .plainWrite))

/-- Fill aperture read (R349). -/
def execFillApertureRead (s : State) : Res := .next (s.hostAccess (s.cur.hostAcc .fillRead))

/-- Fill aperture write (R349). -/
def execFillApertureWrite (s : State) : Res := .next (s.hostAccess (s.cur.hostAcc .fillWrite))

/-- Probe aperture read (R349, R350). -/
def execProbeApertureRead (s : State) : Res := .next (s.hostAccess (s.cur.hostAcc .probeRead))

/-- A write to the probe aperture is discarded and counted (R349). -/
def execProbeApertureWrite (s : State) : Res := .next (s.hostFail (probeBase + s.cur.n))

/-- A host write to a register of the aperture (R347, R348). -/
def execRegisterWrite (s : State) : Res := .next (s.registerWrite s.cur.n s.cur.val)

/-- The host link trains to `n` lanes (R346). -/
def execHostLinkTraining (s : State) : Res := .next (s.hostTrain s.cur.n)

/-- LINK_TRAINING (R355) of link `k`. -/
def execLinkTraining (s : State) : Res := .next (s.linkTrain s.cur.k s.cur.masks)

/-- FLIT_RECEIVE (R353) on link `k`. -/
def execFlitReceive (s : State) : Res := .next (s.flit s.cur.k s.cur.flag)

/-- PEER_ACCESS (R354). -/
def execPeerAccess (s : State) : Res := .next ((s.onReq s.cur.pl s.cur.rid fun s => s.peerAccess s.cur.pl s.cur.rid).wake [])

/-- PEER_RETRY (R354). -/
def execPeerRetry (s : State) : Res := .next ((s.onReq s.cur.pl s.cur.rid fun s => s.peerRetry s.cur.pl s.cur.rid).wake [])

/-- COLLECTIVE_COMPLETE (R358) of the `k`-th collective. -/
def execCollectiveComplete (s : State) : Res := .next (s.collDone s.cur.k s.cur.rows s.cur.flag)

/-- POWER_ON_BOOT (R360). -/
def execPowerOnBoot (s : State) : Res := .next (s.boot)

/-- FORESTER_RESET (R362). -/
def execForesterReset (s : State) : Res := .next (s.foresterReset)

/-- POWER_STEP (R368) of island `n`. -/
def execPowerStep (s : State) : Res := .next (s.powerStep s.cur.n s.cur.k)

/-- PATROL_SCRUB (R374) in frame `n`. -/
def execPatrolScrub (s : State) : Res := .next (s.patrol s.cur.n s.cur.flag s.cur.flag2)

/-- BREAKPOINT_COMPARATOR_ARM (R96). -/
def execBreakpointComparatorArm (s : State) : Res := .next (s.arm s.cur.ep (s.cur.val.setWidth 48) s.cur.flag)

/-- OPERATOR_CERTIFICATE_INSTALL (R363). -/
def execOperatorCertificateInstall (s : State) : Res := .next (s.certInstall)

/-- SHARED_SET_DECLARATION (R370). -/
def execSharedSetDeclaration (s : State) : Res := .next (s.shareRange s.cur.n s.cur.k s.cur.rid)

/-- DEBUG_AUTHORISATION (R371). -/
def execDebugAuthorisation (s : State) : Res := .next (s.debugAuth s.cur.n s.cur.flag)

end Sys2Proof.Machine
end

