-- ==== Sys2Proof/Machine/Dispatch.lean ====
section
/-! DEFINITION. The meaning of every instruction: one arm per constructor of Instr, each one direct call of its meaning. -/
namespace Sys2Proof.Machine

def exec (i : Instr) (s : State) : Host.Outcome State Fault Refusal :=
  match i with
  | .nop a0 => Sys2Proof.Machine.execNop a0 s
  | .movi a0 a1 a2 => Sys2Proof.Machine.execMovi a0 a1 a2 s
  | .const a0 a1 a2 => Sys2Proof.Machine.execConst a0 a1 a2 s
  | .mov a0 a1 a2 => Sys2Proof.Machine.execMov a0 a1 a2 s
  | .get a0 a1 a2 a3 => Sys2Proof.Machine.execGet a0 a1 a2 a3 s
  | .put a0 a1 => Sys2Proof.Machine.execPut a0 a1 s
  | .getv a0 a1 a2 a3 => Sys2Proof.Machine.execGetv a0 a1 a2 a3 s
  | .putv a0 a1 a2 => Sys2Proof.Machine.execPutv a0 a1 a2 s
  | .getm a0 a1 a2 => Sys2Proof.Machine.execGetm a0 a1 a2 s
  | .putm a0 a1 => Sys2Proof.Machine.execPutm a0 a1 s
  | .recv a0 a1 a2 a3 => Sys2Proof.Machine.execRecv a0 a1 a2 a3 s
  | .send a0 a1 => Sys2Proof.Machine.execSend a0 a1 s
  | .sendc a0 a1 a2 => Sys2Proof.Machine.execSendc a0 a1 a2 s
  | .null a0 a1 a2 => Sys2Proof.Machine.execNull a0 a1 a2 s
  | .tst a0 a1 a2 a3 a4 => Sys2Proof.Machine.execTst a0 a1 a2 a3 a4 s
  | .sel a0 a1 a2 => Sys2Proof.Machine.execSel a0 a1 a2 s
  | .br a0 a1 => Sys2Proof.Machine.execBr a0 a1 s
  | .bri a0 => Sys2Proof.Machine.execBri a0 s
  | .call a0 a1 => Sys2Proof.Machine.execCall a0 a1 s
  | .ret a0 => Sys2Proof.Machine.execRet a0 s
  | .tend a0 => Sys2Proof.Machine.execTend a0 s
  | .timer a0 a1 a2 => Sys2Proof.Machine.execTimer a0 a1 a2 s
  | .rdcyc a0 a1 a2 => Sys2Proof.Machine.execRdcyc a0 a1 a2 s
  | .rdid a0 a1 a2 => Sys2Proof.Machine.execRdid a0 a1 a2 s
  | .pyield a0 a1 => Sys2Proof.Machine.execPyield a0 a1 s
  | .add a0 a1 a2 a3 => Sys2Proof.Machine.execAdd a0 a1 a2 a3 s
  | .sub a0 a1 a2 a3 => Sys2Proof.Machine.execSub a0 a1 a2 a3 s
  | .addi a0 a1 a2 => Sys2Proof.Machine.execAddi a0 a1 a2 s
  | .mul a0 a1 a2 a3 => Sys2Proof.Machine.execMul a0 a1 a2 a3 s
  | .mulh a0 a1 a2 a3 => Sys2Proof.Machine.execMulh a0 a1 a2 a3 s
  | .mulhu a0 a1 a2 a3 => Sys2Proof.Machine.execMulhu a0 a1 a2 a3 s
  | .div a0 a1 a2 a3 => Sys2Proof.Machine.execDiv a0 a1 a2 a3 s
  | .divu a0 a1 a2 a3 => Sys2Proof.Machine.execDivu a0 a1 a2 a3 s
  | .rem a0 a1 a2 a3 => Sys2Proof.Machine.execRem a0 a1 a2 a3 s
  | .remu a0 a1 a2 a3 => Sys2Proof.Machine.execRemu a0 a1 a2 a3 s
  | .madd a0 a1 a2 a3 => Sys2Proof.Machine.execMadd a0 a1 a2 a3 s
  | .lea a0 a1 a2 a3 => Sys2Proof.Machine.execLea a0 a1 a2 a3 s
  | .addc a0 a1 a2 a3 => Sys2Proof.Machine.execAddc a0 a1 a2 a3 s
  | .subb a0 a1 a2 a3 => Sys2Proof.Machine.execSubb a0 a1 a2 a3 s
  | .neg a0 a1 a2 a3 => Sys2Proof.Machine.execNeg a0 a1 a2 a3 s
  | .abs a0 a1 a2 a3 => Sys2Proof.Machine.execAbs a0 a1 a2 a3 s
  | .and a0 a1 a2 a3 => Sys2Proof.Machine.execAnd a0 a1 a2 a3 s
  | .or a0 a1 a2 a3 => Sys2Proof.Machine.execOr a0 a1 a2 a3 s
  | .xor a0 a1 a2 a3 => Sys2Proof.Machine.execXor a0 a1 a2 a3 s
  | .andn a0 a1 a2 a3 => Sys2Proof.Machine.execAndn a0 a1 a2 a3 s
  | .not a0 a1 a2 a3 => Sys2Proof.Machine.execNot a0 a1 a2 a3 s
  | .shl a0 a1 a2 a3 => Sys2Proof.Machine.execShl a0 a1 a2 a3 s
  | .shr a0 a1 a2 a3 => Sys2Proof.Machine.execShr a0 a1 a2 a3 s
  | .sra a0 a1 a2 a3 => Sys2Proof.Machine.execSra a0 a1 a2 a3 s
  | .rotl a0 a1 a2 a3 => Sys2Proof.Machine.execRotl a0 a1 a2 a3 s
  | .rotr a0 a1 a2 a3 => Sys2Proof.Machine.execRotr a0 a1 a2 a3 s
  | .shli a0 a1 a2 => Sys2Proof.Machine.execShli a0 a1 a2 s
  | .shri a0 a1 a2 => Sys2Proof.Machine.execShri a0 a1 a2 s
  | .srai a0 a1 a2 => Sys2Proof.Machine.execSrai a0 a1 a2 s
  | .andi a0 a1 a2 => Sys2Proof.Machine.execAndi a0 a1 a2 s
  | .ori a0 a1 a2 => Sys2Proof.Machine.execOri a0 a1 a2 s
  | .xori a0 a1 a2 => Sys2Proof.Machine.execXori a0 a1 a2 s
  | .clz a0 a1 a2 a3 => Sys2Proof.Machine.execClz a0 a1 a2 a3 s
  | .ctz a0 a1 a2 a3 => Sys2Proof.Machine.execCtz a0 a1 a2 a3 s
  | .popc a0 a1 a2 a3 => Sys2Proof.Machine.execPopc a0 a1 a2 a3 s
  | .brev a0 a1 a2 a3 => Sys2Proof.Machine.execBrev a0 a1 a2 a3 s
  | .bswap a0 a1 a2 a3 => Sys2Proof.Machine.execBswap a0 a1 a2 a3 s
  | .bfx a0 a1 a2 a3 => Sys2Proof.Machine.execBfx a0 a1 a2 a3 s
  | .bfi a0 a1 a2 => Sys2Proof.Machine.execBfi a0 a1 a2 s
  | .min a0 a1 a2 a3 => Sys2Proof.Machine.execMin a0 a1 a2 a3 s
  | .max a0 a1 a2 a3 => Sys2Proof.Machine.execMax a0 a1 a2 a3 s
  | .minu a0 a1 a2 a3 => Sys2Proof.Machine.execMinu a0 a1 a2 a3 s
  | .maxu a0 a1 a2 a3 => Sys2Proof.Machine.execMaxu a0 a1 a2 a3 s
  | .exts a0 a1 a2 a3 => Sys2Proof.Machine.execExts a0 a1 a2 a3 s
  | .extz a0 a1 a2 a3 => Sys2Proof.Machine.execExtz a0 a1 a2 a3 s
  | .vadd a0 a1 a2 a3 => Sys2Proof.Machine.execVadd a0 a1 a2 a3 s
  | .vsub a0 a1 a2 a3 => Sys2Proof.Machine.execVsub a0 a1 a2 a3 s
  | .vmul a0 a1 a2 a3 => Sys2Proof.Machine.execVmul a0 a1 a2 a3 s
  | .vfma a0 a1 a2 a3 => Sys2Proof.Machine.execVfma a0 a1 a2 a3 s
  | .vfms a0 a1 a2 a3 => Sys2Proof.Machine.execVfms a0 a1 a2 a3 s
  | .vmin a0 a1 a2 a3 => Sys2Proof.Machine.execVmin a0 a1 a2 a3 s
  | .vmax a0 a1 a2 a3 => Sys2Proof.Machine.execVmax a0 a1 a2 a3 s
  | .vabs a0 a1 a2 a3 => Sys2Proof.Machine.execVabs a0 a1 a2 a3 s
  | .vneg a0 a1 a2 a3 => Sys2Proof.Machine.execVneg a0 a1 a2 a3 s
  | .vdiv a0 a1 a2 a3 => Sys2Proof.Machine.execVdiv a0 a1 a2 a3 s
  | .vsqrt a0 a1 a2 a3 => Sys2Proof.Machine.execVsqrt a0 a1 a2 a3 s
  | .vrcp a0 a1 a2 a3 => Sys2Proof.Machine.execVrcp a0 a1 a2 a3 s
  | .vrsq a0 a1 a2 a3 => Sys2Proof.Machine.execVrsq a0 a1 a2 a3 s
  | .vexp2 a0 a1 a2 a3 => Sys2Proof.Machine.execVexp2 a0 a1 a2 a3 s
  | .vlog2 a0 a1 a2 a3 => Sys2Proof.Machine.execVlog2 a0 a1 a2 a3 s
  | .vsin a0 a1 a2 a3 => Sys2Proof.Machine.execVsin a0 a1 a2 a3 s
  | .vcos a0 a1 a2 a3 => Sys2Proof.Machine.execVcos a0 a1 a2 a3 s
  | .vtanh a0 a1 a2 a3 => Sys2Proof.Machine.execVtanh a0 a1 a2 a3 s
  | .vsigm a0 a1 a2 a3 => Sys2Proof.Machine.execVsigm a0 a1 a2 a3 s
  | .vmulh a0 a1 a2 a3 => Sys2Proof.Machine.execVmulh a0 a1 a2 a3 s
  | .vand a0 a1 a2 a3 => Sys2Proof.Machine.execVand a0 a1 a2 a3 s
  | .vor a0 a1 a2 a3 => Sys2Proof.Machine.execVor a0 a1 a2 a3 s
  | .vxor a0 a1 a2 a3 => Sys2Proof.Machine.execVxor a0 a1 a2 a3 s
  | .vshl a0 a1 a2 a3 => Sys2Proof.Machine.execVshl a0 a1 a2 a3 s
  | .vshr a0 a1 a2 a3 => Sys2Proof.Machine.execVshr a0 a1 a2 a3 s
  | .vsra a0 a1 a2 a3 => Sys2Proof.Machine.execVsra a0 a1 a2 a3 s
  | .vclz a0 a1 a2 a3 => Sys2Proof.Machine.execVclz a0 a1 a2 a3 s
  | .vpopc a0 a1 a2 a3 => Sys2Proof.Machine.execVpopc a0 a1 a2 a3 s
  | .vceq a0 a1 a2 a3 => Sys2Proof.Machine.execVceq a0 a1 a2 a3 s
  | .vcne a0 a1 a2 a3 => Sys2Proof.Machine.execVcne a0 a1 a2 a3 s
  | .vclt a0 a1 a2 a3 => Sys2Proof.Machine.execVclt a0 a1 a2 a3 s
  | .vcle a0 a1 a2 a3 => Sys2Proof.Machine.execVcle a0 a1 a2 a3 s
  | .vsel a0 a1 a2 a3 => Sys2Proof.Machine.execVsel a0 a1 a2 a3 s
  | .vbcast a0 a1 a2 a3 => Sys2Proof.Machine.execVbcast a0 a1 a2 a3 s
  | .vext a0 a1 a2 a3 => Sys2Proof.Machine.execVext a0 a1 a2 a3 s
  | .vins a0 a1 a2 a3 => Sys2Proof.Machine.execVins a0 a1 a2 a3 s
  | .vshuf a0 a1 a2 a3 => Sys2Proof.Machine.execVshuf a0 a1 a2 a3 s
  | .vrot a0 a1 a2 a3 => Sys2Proof.Machine.execVrot a0 a1 a2 a3 s
  | .vrsum a0 a1 a2 a3 => Sys2Proof.Machine.execVrsum a0 a1 a2 a3 s
  | .vrmin a0 a1 a2 a3 => Sys2Proof.Machine.execVrmin a0 a1 a2 a3 s
  | .vrmax a0 a1 a2 a3 => Sys2Proof.Machine.execVrmax a0 a1 a2 a3 s
  | .vscan a0 a1 a2 a3 => Sys2Proof.Machine.execVscan a0 a1 a2 a3 s
  | .vcvt a0 a1 a2 a3 => Sys2Proof.Machine.execVcvt a0 a1 a2 a3 s
  | .mand a0 a1 a2 => Sys2Proof.Machine.execMand a0 a1 a2 s
  | .mor a0 a1 a2 => Sys2Proof.Machine.execMor a0 a1 a2 s
  | .mnot a0 a1 a2 => Sys2Proof.Machine.execMnot a0 a1 a2 s
  | .mpopc a0 a1 a2 => Sys2Proof.Machine.execMpopc a0 a1 a2 s
  | .vfilt a0 a1 a2 a3 => Sys2Proof.Machine.execVfilt a0 a1 a2 a3 s
  | .vexpd a0 a1 a2 a3 => Sys2Proof.Machine.execVexpd a0 a1 a2 a3 s
  | .viota a0 a1 a2 a3 => Sys2Proof.Machine.execViota a0 a1 a2 a3 s
  | .vclamp a0 a1 a2 a3 => Sys2Proof.Machine.execVclamp a0 a1 a2 a3 s
  | .vmrg a0 a1 a2 a3 => Sys2Proof.Machine.execVmrg a0 a1 a2 a3 s
  | .visx a0 a1 a2 a3 => Sys2Proof.Machine.execVisx a0 a1 a2 a3 s
  | .vdedup a0 a1 a2 a3 => Sys2Proof.Machine.execVdedup a0 a1 a2 a3 s
  | .sacc a0 a1 => Sys2Proof.Machine.execSacc a0 a1 s
  | .saccf a0 a1 a2 => Sys2Proof.Machine.execSaccf a0 a1 a2 s
  | .saccz a0 => Sys2Proof.Machine.execSaccz a0 s
  | .rngx a0 a1 a2 => Sys2Proof.Machine.execRngx a0 a1 a2 s
  | .ldl a0 a1 a2 a3 => Sys2Proof.Machine.execLdl a0 a1 a2 a3 s
  | .stl a0 a1 a2 => Sys2Proof.Machine.execStl a0 a1 a2 s
  | .ldn a0 a1 a2 a3 => Sys2Proof.Machine.execLdn a0 a1 a2 a3 s
  | .stn a0 a1 a2 => Sys2Proof.Machine.execStn a0 a1 a2 s
  | .ld a0 a1 a2 a3 => Sys2Proof.Machine.execLd a0 a1 a2 a3 s
  | .st a0 a1 a2 => Sys2Proof.Machine.execSt a0 a1 a2 s
  | .ldw a0 a1 a2 a3 => Sys2Proof.Machine.execLdw a0 a1 a2 a3 s
  | .ldc a0 a1 a2 a3 => Sys2Proof.Machine.execLdc a0 a1 a2 a3 s
  | .stf a0 a1 a2 => Sys2Proof.Machine.execStf a0 a1 a2 s
  | .sts a0 a1 a2 => Sys2Proof.Machine.execSts a0 a1 a2 s
  | .fempty a0 a1 a2 => Sys2Proof.Machine.execFempty a0 a1 a2 s
  | .feq a0 a1 a2 a3 => Sys2Proof.Machine.execFeq a0 a1 a2 a3 s
  | .aadd a0 a1 a2 a3 => Sys2Proof.Machine.execAadd a0 a1 a2 a3 s
  | .aand a0 a1 a2 a3 => Sys2Proof.Machine.execAand a0 a1 a2 a3 s
  | .aor a0 a1 a2 a3 => Sys2Proof.Machine.execAor a0 a1 a2 a3 s
  | .axor a0 a1 a2 a3 => Sys2Proof.Machine.execAxor a0 a1 a2 a3 s
  | .amin a0 a1 a2 a3 => Sys2Proof.Machine.execAmin a0 a1 a2 a3 s
  | .amax a0 a1 a2 a3 => Sys2Proof.Machine.execAmax a0 a1 a2 a3 s
  | .aswap a0 a1 a2 a3 => Sys2Proof.Machine.execAswap a0 a1 a2 a3 s
  | .cas a0 a1 a2 a3 => Sys2Proof.Machine.execCas a0 a1 a2 a3 s
  | .uadd a0 a1 a2 => Sys2Proof.Machine.execUadd a0 a1 a2 s
  | .uand a0 a1 a2 => Sys2Proof.Machine.execUand a0 a1 a2 s
  | .uor a0 a1 a2 => Sys2Proof.Machine.execUor a0 a1 a2 s
  | .uxor a0 a1 a2 => Sys2Proof.Machine.execUxor a0 a1 a2 s
  | .umin a0 a1 a2 => Sys2Proof.Machine.execUmin a0 a1 a2 s
  | .umax a0 a1 a2 => Sys2Proof.Machine.execUmax a0 a1 a2 s
  | .ufadd a0 a1 => Sys2Proof.Machine.execUfadd a0 a1 s
  | .srd a0 a1 a2 a3 => Sys2Proof.Machine.execSrd a0 a1 a2 a3 s
  | .swr a0 a1 a2 => Sys2Proof.Machine.execSwr a0 a1 a2 s
  | .swrEos a0 a1 a2 => Sys2Proof.Machine.execSwrEos a0 a1 a2 s
  | .srel a0 a1 => Sys2Proof.Machine.execSrel a0 a1 s
  | .srelFrc a0 a1 => Sys2Proof.Machine.execSrelFrc a0 a1 s
  | .srew a0 a1 => Sys2Proof.Machine.execSrew a0 a1 s
  | .spos a0 a1 a2 => Sys2Proof.Machine.execSpos a0 a1 a2 s
  | .fence a0 a1 a2 => Sys2Proof.Machine.execFence a0 a1 a2 s
  | .sbar a0 a1 => Sys2Proof.Machine.execSbar a0 a1 s
  | .xfence a0 a1 a2 a3 => Sys2Proof.Machine.execXfence a0 a1 a2 a3 s
  | .barinit a0 a1 => Sys2Proof.Machine.execBarinit a0 a1 s
  | .bararv a0 a1 => Sys2Proof.Machine.execBararv a0 a1 s
  | .barexp a0 a1 => Sys2Proof.Machine.execBarexp a0 a1 s
  | .barwt a0 a1 a2 => Sys2Proof.Machine.execBarwt a0 a1 a2 s
  | .copy a0 a1 a2 => Sys2Proof.Machine.execCopy a0 a1 a2 s
  | .pref a0 a1 a2 => Sys2Proof.Machine.execPref a0 a1 a2 s
  | .wback a0 a1 => Sys2Proof.Machine.execWback a0 a1 s
  | .setbud a0 a1 => Sys2Proof.Machine.execSetbud a0 a1 s
  | .mmpost a0 a1 => Sys2Proof.Machine.execMmpost a0 a1 s
  | .vamax a0 a1 a2 a3 => Sys2Proof.Machine.execVamax a0 a1 a2 a3 s
  | .vqnt a0 a1 a2 a3 => Sys2Proof.Machine.execVqnt a0 a1 a2 a3 s
  | .vdqnt a0 a1 a2 => Sys2Proof.Machine.execVdqnt a0 a1 a2 s
  | .vcbq a0 a1 a2 a3 => Sys2Proof.Machine.execVcbq a0 a1 a2 a3 s
  | .cbset a0 => Sys2Proof.Machine.execCbset a0 s
  | .trap a0 a1 => Sys2Proof.Machine.execTrap a0 a1 s
  | .fread a0 a1 a2 a3 => Sys2Proof.Machine.execFread a0 a1 a2 a3 s
  | .repair a0 => Sys2Proof.Machine.execRepair a0 s
  | .blaze a0 a1 => Sys2Proof.Machine.execBlaze a0 a1 s
  | .brkt a0 a1 => Sys2Proof.Machine.execBrkt a0 a1 s
  | .svc a0 a1 a2 => Sys2Proof.Machine.execSvc a0 a1 a2 s
  | .rdperf a0 a1 a2 => Sys2Proof.Machine.execRdperf a0 a1 a2 s
  | .wrperf a0 a1 a2 => Sys2Proof.Machine.execWrperf a0 a1 a2 s
  | .hresume a0 => Sys2Proof.Machine.execHresume a0 s
  | .habort a0 => Sys2Proof.Machine.execHabort a0 s
  | .jlaunch a0 a1 a2 => Sys2Proof.Machine.execJlaunch a0 a1 a2 s
  | .jfence a0 a1 a2 => Sys2Proof.Machine.execJfence a0 a1 a2 s
  | .jquery a0 a1 a2 => Sys2Proof.Machine.execJquery a0 a1 a2 s
  | .jinvr a0 a1 a2 => Sys2Proof.Machine.execJinvr a0 a1 a2 s
  | .jcmdKill a0 a1 a2 => Sys2Proof.Machine.execJcmdKill a0 a1 a2 s
  | .jcmdPre a0 a1 a2 => Sys2Proof.Machine.execJcmdPre a0 a1 a2 s
  | .jcmdSnap a0 a1 a2 => Sys2Proof.Machine.execJcmdSnap a0 a1 a2 s
  | .jcmdStop a0 a1 a2 => Sys2Proof.Machine.execJcmdStop a0 a1 a2 s
  | .jcmdResume a0 a1 a2 => Sys2Proof.Machine.execJcmdResume a0 a1 a2 s
  | .jwaitw a0 a1 a2 => Sys2Proof.Machine.execJwaitw a0 a1 a2 s
  | .jctxsave a0 a1 a2 => Sys2Proof.Machine.execJctxsave a0 a1 a2 s
  | .jctxload a0 a1 a2 => Sys2Proof.Machine.execJctxload a0 a1 a2 s
  | .taskFiring => Sys2Proof.Machine.execTaskFiring s
  | .controlStep => Sys2Proof.Machine.execControlStep s
  | .blockCommit => Sys2Proof.Machine.execBlockCommit s
  | .waveAdmission => Sys2Proof.Machine.execWaveAdmission s
  | .pyieldRelease => Sys2Proof.Machine.execPyieldRelease s
  | .tokenDelivery => Sys2Proof.Machine.execTokenDelivery s
  | .steerNode => Sys2Proof.Machine.execSteerNode s
  | .mergeNode => Sys2Proof.Machine.execMergeNode s
  | .filterNode => Sys2Proof.Machine.execFilterNode s
  | .intersectNode => Sys2Proof.Machine.execIntersectNode s
  | .delayNode => Sys2Proof.Machine.execDelayNode s
  | .graphCompletion => Sys2Proof.Machine.execGraphCompletion s
  | .responseDelivery => Sys2Proof.Machine.execResponseDelivery s
  | .timerDue => Sys2Proof.Machine.execTimerDue s
  | .streamWrite => Sys2Proof.Machine.execStreamWrite s
  | .streamClose => Sys2Proof.Machine.execStreamClose s
  | .streamRead => Sys2Proof.Machine.execStreamRead s
  | .streamRelease => Sys2Proof.Machine.execStreamRelease s
  | .streamRewind => Sys2Proof.Machine.execStreamRewind s
  | .forcedRelease => Sys2Proof.Machine.execForcedRelease s
  | .frameRecycle => Sys2Proof.Machine.execFrameRecycle s
  | .streamStall => Sys2Proof.Machine.execStreamStall s
  | .hostHwmPublish => Sys2Proof.Machine.execHostHwmPublish s
  | .hostReaderRelease => Sys2Proof.Machine.execHostReaderRelease s
  | .homeAccess => Sys2Proof.Machine.execHomeAccess s
  | .parkTimeoutCheck => Sys2Proof.Machine.execParkTimeoutCheck s
  | .atomicPerform => Sys2Proof.Machine.execAtomicPerform s
  | .updatePerform => Sys2Proof.Machine.execUpdatePerform s
  | .updateLineMerge => Sys2Proof.Machine.execUpdateLineMerge s
  | .anchorRelease => Sys2Proof.Machine.execAnchorRelease s
  | .launchCommit => Sys2Proof.Machine.execLaunchCommit s
  | .fold => Sys2Proof.Machine.execFold s
  | .oldestOnlyStart => Sys2Proof.Machine.execOldestOnlyStart s
  | .recoveryRung => Sys2Proof.Machine.execRecoveryRung s
  | .blazeArrival => Sys2Proof.Machine.execBlazeArrival s
  | .snapCadence => Sys2Proof.Machine.execSnapCadence s
  | .eventCounterOverflow => Sys2Proof.Machine.execEventCounterOverflow s
  | .trailWalk => Sys2Proof.Machine.execTrailWalk s
  | .matrixRecordAccept => Sys2Proof.Machine.execMatrixRecordAccept s
  | .sequencerDispatch => Sys2Proof.Machine.execSequencerDispatch s
  | .mmChunk => Sys2Proof.Machine.execMmChunk s
  | .commandCompletion => Sys2Proof.Machine.execCommandCompletion s
  | .drainTile => Sys2Proof.Machine.execDrainTile s
  | .copyAccept => Sys2Proof.Machine.execCopyAccept s
  | .copyLineWrite => Sys2Proof.Machine.execCopyLineWrite s
  | .promiseMissed => Sys2Proof.Machine.execPromiseMissed s
  | .barrierPerform => Sys2Proof.Machine.execBarrierPerform s
  | .callAnswer => Sys2Proof.Machine.execCallAnswer s
  | .budgetTimer => Sys2Proof.Machine.execBudgetTimer s
  | .launchHeadCheck => Sys2Proof.Machine.execLaunchHeadCheck s
  | .launchStart => Sys2Proof.Machine.execLaunchStart s
  | .hostRingDrain => Sys2Proof.Machine.execHostRingDrain s
  | .hostRingReset => Sys2Proof.Machine.execHostRingReset s
  | .frameTableStep => Sys2Proof.Machine.execFrameTableStep s
  | .runAheadFetch => Sys2Proof.Machine.execRunAheadFetch s
  | .portInvalidation => Sys2Proof.Machine.execPortInvalidation s
  | .portAcknowledge => Sys2Proof.Machine.execPortAcknowledge s
  | .quickServiceScanOut => Sys2Proof.Machine.execQuickServiceScanOut s
  | .prqAnswerResume => Sys2Proof.Machine.execPrqAnswerResume s
  | .prqAnswerFault => Sys2Proof.Machine.execPrqAnswerFault s
  | .prqAnswerAbort => Sys2Proof.Machine.execPrqAnswerAbort s
  | .prqAnswerRefused => Sys2Proof.Machine.execPrqAnswerRefused s
  | .frameScrub => Sys2Proof.Machine.execFrameScrub s
  | .pageOut => Sys2Proof.Machine.execPageOut s
  | .pageIn => Sys2Proof.Machine.execPageIn s
  | .faultDelivery => Sys2Proof.Machine.execFaultDelivery s
  | .plainApertureRead => Sys2Proof.Machine.execPlainApertureRead s
  | .plainApertureWrite => Sys2Proof.Machine.execPlainApertureWrite s
  | .fillApertureRead => Sys2Proof.Machine.execFillApertureRead s
  | .fillApertureWrite => Sys2Proof.Machine.execFillApertureWrite s
  | .probeApertureRead => Sys2Proof.Machine.execProbeApertureRead s
  | .probeApertureWrite => Sys2Proof.Machine.execProbeApertureWrite s
  | .registerWrite => Sys2Proof.Machine.execRegisterWrite s
  | .linkTraining => Sys2Proof.Machine.execLinkTraining s
  | .flitReceive => Sys2Proof.Machine.execFlitReceive s
  | .peerAccess => Sys2Proof.Machine.execPeerAccess s
  | .peerRetry => Sys2Proof.Machine.execPeerRetry s
  | .collectiveComplete => Sys2Proof.Machine.execCollectiveComplete s
  | .frameClaim => Sys2Proof.Machine.execFrameClaim s
  | .frameReturn => Sys2Proof.Machine.execFrameReturn s
  | .asidSet => Sys2Proof.Machine.execAsidSet s
  | .queueBind => Sys2Proof.Machine.execQueueBind s
  | .ringRegister => Sys2Proof.Machine.execRingRegister s
  | .svcWeight => Sys2Proof.Machine.execSvcWeight s
  | .hostRange => Sys2Proof.Machine.execHostRange s
  | .collective => Sys2Proof.Machine.execCollective s
  | .noticeWord => Sys2Proof.Machine.execNoticeWord s
  | .noticeRead => Sys2Proof.Machine.execNoticeRead s
  | .prqInfo => Sys2Proof.Machine.execPrqInfo s
  | .powerOnBoot => Sys2Proof.Machine.execPowerOnBoot s
  | .foresterReset => Sys2Proof.Machine.execForesterReset s
  | .powerStep => Sys2Proof.Machine.execPowerStep s
  | .patrolScrub => Sys2Proof.Machine.execPatrolScrub s
  | .layout => Sys2Proof.Machine.execLayout s
  | .layoutRead => Sys2Proof.Machine.execLayoutRead s
  | .power => Sys2Proof.Machine.execPower s
  | .frameTable => Sys2Proof.Machine.execFrameTable s
  | .gladeParams => Sys2Proof.Machine.execGladeParams s
  | .tenant => Sys2Proof.Machine.execTenant s
  | .gladeAssign => Sys2Proof.Machine.execGladeAssign s
  | .svcBudget => Sys2Proof.Machine.execSvcBudget s
  | .l2Quota => Sys2Proof.Machine.execL2Quota s
  | .twin => Sys2Proof.Machine.execTwin s
  | .peerRoute => Sys2Proof.Machine.execPeerRoute s
  | .svnRaise => Sys2Proof.Machine.execSvnRaise s
  | .rasRead => Sys2Proof.Machine.execRasRead s
  | .rasClear => Sys2Proof.Machine.execRasClear s
  | .gladeCounters => Sys2Proof.Machine.execGladeCounters s
  | .getVersion => Sys2Proof.Machine.execGetVersion s
  | .getCapabilities => Sys2Proof.Machine.execGetCapabilities s
  | .negotiateAlgorithms => Sys2Proof.Machine.execNegotiateAlgorithms s
  | .getDigests => Sys2Proof.Machine.execGetDigests s
  | .getCertificate => Sys2Proof.Machine.execGetCertificate s
  | .challenge => Sys2Proof.Machine.execChallenge s
  | .getMeasurements => Sys2Proof.Machine.execGetMeasurements s
  | .keyExchange => Sys2Proof.Machine.execKeyExchange s
  | .finish => Sys2Proof.Machine.execFinish s
  | .jwaitwTimeout => Sys2Proof.Machine.execJwaitwTimeout s
  | .fSoft => Sys2Proof.Machine.execFSoft s
  | .barrierWaitQueueTimeout => Sys2Proof.Machine.execBarrierWaitQueueTimeout s
  | .heldStreamReadTimeout => Sys2Proof.Machine.execHeldStreamReadTimeout s
  | .tenantBudgetPeriod => Sys2Proof.Machine.execTenantBudgetPeriod s
  | .interruptTaken => Sys2Proof.Machine.execInterruptTaken s
  | .hostLinkTraining => Sys2Proof.Machine.execHostLinkTraining s
  | .breakpointComparatorArm => Sys2Proof.Machine.execBreakpointComparatorArm s
  | .operatorCertificateInstall => Sys2Proof.Machine.execOperatorCertificateInstall s
  | .sharedSetDeclaration => Sys2Proof.Machine.execSharedSetDeclaration s
  | .debugAuthorisation => Sys2Proof.Machine.execDebugAuthorisation s

end Sys2Proof.Machine
end

