-- ==== Sys2Proof/Machine/CoreMem.lean ====
section
/-!
DEFINITION. A border core's own loads and stores (assumption 46). Loads reach the page-request queue, its registers and the
doorbell words (19 R321, 20 R331), the counter records and the sample ring of its glade (05 R94, R95, R98), drop counters
(19 R318), its service table (20 R329) and memory; doubleword stores reach the answer register of the queue (19 R324), its
status word, the doorbell words, the service table and memory.
-/
namespace Sys2Proof.Machine

/-- Causes of RISC-V exceptions: load access fault, misaligned store. -/
def causeLoadAccess : W64 := 5#64
def causeMisalignedStore : W64 := 6#64

/-! ### What the service address space maps -/

/-- The entry of its service table that an address of a core names; entry n stands 8n bytes after the first. -/
def svcEntry (c : Nat) (a : W64) : Option Nat :=
  let d := (a - Config.serviceTable c).toNat
  if d < 128 * 8 then some (d / 8) else none

/-- The counter record that an address names: its endpoint's glade, launch and counters, and the word of it. -/
def State.counterRecord (s : State) (a : W64) : Option (Nat × Option Launch × Endpoint × Nat) :=
  match Config.tileCounter a, Config.nodeCounter a, Config.steerCounter a with
  | some (k, ch, w), _, _ =>
    let pl := planeOfKey k
    some (s.gladeOf pl.col, (s.plane pl).launch.bind s.launch?, (s.plane pl).inp ch, w)
  | none, some (col, row, slot, ix, w), _ =>
    s.launches.findSome? fun (_, x) =>
      if x.plane.isSome then
        x.img.nodes.zipIdx.findSome? fun (r, n) =>
          if firstCol x.glade + r.col = col ∧ r.row = row ∧ r.slot = slot then
            some (x.glade, some x, (Store.getD x.nodes n {}).inp ix, w)
          else none
      else none
  | none, none, some (col, row, w) =>
    s.glades.findSome? fun (g, y) =>
      (y.regions.find? fun q => decide (firstCol g + q.rr.col = col) && decide (q.rr.row = row)).map fun q =>
        (g, s.launch? q.lid, q.steer, w)
  | none, none, none => none

/-- Word `w` of a 256-bit record. -/
def recordWord (b : BitVec 256) (w : Nat) : W64 := b.extractLsb' (64 * w) 64

/-- What a core reads at entry `ix` of the page-request queue: all ones where it is a confidential launch's that may not be
watched, but in its own tenant's slice (R371; assumption 46). -/
def State.prqEntry (s : State) (c ix : Nat) : BitVec 256 :=
  let own (e : PrqEnt) : Bool := (s.launch? e.lid).all fun x => s.mayDebug x || decide ((s.core c).slice = x.tenant)
  if s.prq.ents.all fun e => decide (e.ix ≠ ix) || own e then s.prq.read ix else BitVec.allOnes 256

/-- Word `w` of entry `i` of a glade's sample ring, whose entries are the samples not yet drained (R98, R371). -/
def State.sampleWord (s : State) (g i w : Nat) : W64 :=
  match s.glade? g with
  | none => 0#64
  | some y =>
    if (s.tenant y.tenant).confidential && !(s.tenant y.tenant).debugOk then allOnes
    else ((y.samples[i]?).elim [] Sample.words).getD w 0#64

/-- The words outside memory that a core reads at an address: an entry of the page-request queue, its status word, a doorbell
word, a counter record or a sample of its glade, all ones of another's or of a launch that may not be watched (R371), a drop
counter, its service table. -/
def State.coreRegister (s : State) (c : Nat) (a : W64) : Option W64 :=
  let d := (a - Config.prqAddr).toNat
  if a = Config.prqStatus then some s.prq.status
  else if d < 256 * 32 then some (recordWord (s.prqEntry c (d / 32)) (d % 32 / 8))
  else match s.doorAt c a, svcEntry c a, s.counterRecord a with
    | some g, _, _ => some ((s.glade? g).elim 0#64 (·.doorWord))
    | none, some n, _ => some (Store.getD (s.core c).svc n 0#64)
    | none, none, some (gl, x, e, w) =>
      some (if gl = s.coreGlade c && x.all s.mayDebug then recordWord e.record w else allOnes)
    | none, none, none =>
      match Config.dropCounter a, Config.sampleRing a with
      | some p, _ => some ((s.port p).drops.setWidth 64)
      | none, some (g, i, w) => some (if g = s.coreGlade c then s.sampleWord g i w else allOnes)
      | none, none => none

/-! ### Loads and stores -/

/-- The n low bytes of a doubleword from byte k on, extended. -/
def coreExtend (n k : Nat) (sx : Bool) (v : W64) : W64 :=
  let w : BitVec (8 * n) := (v >>> (8 * k)).setWidth (8 * n)
  if sx then w.signExtend 64 else w.setWidth 64

/-- A load of n bytes: a register of the service address space, or memory as it stands committed (R331), which meets the errors
that the step's flags give (R374): an uncorrectable one raises the load access fault (assumption 46). What the answer register
reads as is free. -/
def State.coreLoad (s : State) (c rd : Nat) (a : W64) (n : Nat := 8) (sx : Bool := true) : State :=
  let base := a &&& ~~~7#64
  let k := a.toNat % 8
  if a.toNat % n ≠ 0 then s.coreTrap c causeMisaligned a
  else if base = Config.prqAnswer then
    let (i, s) := s.freeIx
    s.coreRet c rd (coreExtend n k sx (Config.answerRead i))
  else match s.coreRegister c base with
    | some v => s.coreRet c rd (coreExtend n k sx v)
    | none =>
      match s.fwKey (s.core c).asid (a.toNat % 2 ^ 48) false with
      | none => s.coreTrap c causeLoad a
      | some (key, _) =>
        match s.demandRead key with
        | (true, s) => s.coreTrap c causeLoadAccess a
        | (false, s) => s.coreRet c rd (coreExtend n 0 sx (le64 (s.view committedObs key n)))

/-- A store to the answer register of the page-request queue (R324). -/
def State.prqAnswer (s : State) (v : W64) : State :=
  match answerAct v with
  | 0 => s.answerResume v
  | 1 => s.answerFault v
  | 2 => s.answerAbort v
  | _ => s.answerRefused v

/-- A core goes on to the next word. -/
def State.coreNext (s : State) (c : Nat) : State := s.setCore c { s.core c with pc := (s.core c).pc + 4#64 }

/-- A store of n bytes: a doubleword to the answer register, the status word, a doorbell word or an entry of the service table;
else memory. A stored word keeps its bit (R280). -/
def State.coreStore (s : State) (c : Nat) (a v : W64) (n : Nat := 8) : State :=
  if a.toNat % n ≠ 0 then s.coreTrap c causeMisalignedStore a
  else if n = 8 ∧ a = Config.prqAnswer then ((s.prqAnswer v).wake []).coreNext c
  else if n = 8 ∧ a = Config.prqStatus then ({ s with prq := { s.prq with refused := v.setWidth 32 } } : State).coreNext c
  else match (if n = 8 then s.doorAt c a else none), (if n = 8 then svcEntry c a else none) with
    | some g, _ => (s.modGlade g fun y => { y with doorWord := v }).coreNext c
    | none, some i => (s.setCore c { s.core c with svc := Store.set (s.core c).svc i v }).coreNext c
    | none, none =>
      match s.fwWrite (s.core c).asid (a.toNat % 2 ^ 48) (toLE n v.toNat) with
      | (true, s) => s.coreNext c
      | (false, s) => s.coreTrap c causeStore a

end Sys2Proof.Machine
end

