-- ==== Sys2Proof/Machine/Riscv.lean ====
section
/-!
DEFINITION. The base instructions of a border core (PRESUMED: R251 says that the cores are RV64GC, and the spec does not describe
that architecture; assumption 34): RV64I, the integer multiplication and division of M, MRET, and the machine-mode registers of
an exception. Compressed, atomic and floating-point words are not modelled.
-/
namespace Sys2Proof.Machine

/-! ### Fields and immediates -/

def rvOp (w : W32) : Nat := (w.extractLsb' 0 7).toNat
def rvRd (w : W32) : Nat := (w.extractLsb' 7 5).toNat
def rvF3 (w : W32) : Nat := (w.extractLsb' 12 3).toNat
def rvRs1 (w : W32) : Nat := (w.extractLsb' 15 5).toNat
def rvRs2 (w : W32) : Nat := (w.extractLsb' 20 5).toNat
def rvF7 (w : W32) : Nat := (w.extractLsb' 25 7).toNat
def rvImmI (w : W32) : W64 := (w.extractLsb' 20 12).signExtend 64
def rvImmS (w : W32) : W64 := (w.extractLsb' 25 7 ++ w.extractLsb' 7 5).signExtend 64
def rvImmB (w : W32) : W64 :=
  (w.extractLsb' 31 1 ++ w.extractLsb' 7 1 ++ w.extractLsb' 25 6 ++ w.extractLsb' 8 4 ++ 0#1).signExtend 64
def rvImmU (w : W32) : W64 := (w.extractLsb' 12 20 ++ 0#12).signExtend 64
def rvImmJ (w : W32) : W64 :=
  (w.extractLsb' 31 1 ++ w.extractLsb' 12 8 ++ w.extractLsb' 20 1 ++ w.extractLsb' 21 10 ++ 0#1).signExtend 64

/-! ### Results -/

/-- The operations of OP and OP-IMM on n-bit registers; `alt` is bit 30 of the word. -/
def rvAlu (n : Nat) (f3 : Nat) (alt : Bool) (a b : BitVec n) (sh : Nat) : BitVec n :=
  match f3 with
  | 0 => if alt then a - b else a + b
  | 1 => a <<< sh
  | 2 => if a.slt b then 1 else 0
  | 3 => if a.ult b then 1 else 0
  | 4 => a ^^^ b
  | 5 => if alt then a.sshiftRight sh else a >>> sh
  | 6 => a ||| b
  | _ => a &&& b

/-- Division and remainder: by 0 the quotient is all ones and the remainder the dividend; the one signed overflow gives the
dividend and 0. -/
def rvDiv (n : Nat) (f3 : Nat) (a b : BitVec n) : BitVec n :=
  match f3 with
  | 4 => if b = 0 then BitVec.allOnes n else a.sdiv b
  | 5 => if b = 0 then BitVec.allOnes n else a / b
  | 6 => if b = 0 then a else a.srem b
  | _ => if b = 0 then a else a % b

/-- The operations of M on doublewords. -/
def rvMul (f3 : Nat) (a b : W64) : W64 :=
  match f3 with
  | 0 => a * b
  | 1 => BitVec.ofInt 64 (a.toInt * b.toInt / 2 ^ 64)
  | 2 => BitVec.ofInt 64 (a.toInt * (b.toNat : Int) / 2 ^ 64)
  | 3 => BitVec.ofNat 64 (a.toNat * b.toNat / 2 ^ 64)
  | k => rvDiv 64 k a b

/-- Whether a branch is taken; none where the word is no branch. -/
def rvTaken (f3 : Nat) (a b : W64) : Option Bool :=
  match f3 with
  | 0 => some (decide (a = b))
  | 1 => some (decide (a ≠ b))
  | 4 => some (a.slt b)
  | 5 => some (!a.slt b)
  | 6 => some (a.ult b)
  | 7 => some (!a.ult b)
  | _ => none

/-- The result of an integer computation, if the word is one. -/
def rvCompute (w : W32) (pc a b : W64) : Option W64 :=
  let f3 := rvF3 w
  let alt := w.getLsbD 30
  let narrow (v : BitVec 32) : W64 := v.signExtend 64
  match rvOp w with
  | 0x37 => some (rvImmU w)
  | 0x17 => some (pc + rvImmU w)
  | 0x13 =>
    let sh := (w.extractLsb' 20 6).toNat
    let top := (w.extractLsb' 26 6).toNat
    if f3 = 1 ∧ top ≠ 0 ∨ f3 = 5 ∧ top ≠ 0 ∧ top ≠ 16 then none
    else some (rvAlu 64 f3 (decide (f3 = 5) && alt) a (rvImmI w) sh)
  | 0x1B =>
    let ok : Bool := decide (f3 = 0) || (decide (f3 = 1) && decide (rvF7 w = 0)) || (decide (f3 = 5) && (decide (rvF7 w = 0) || decide (rvF7 w = 32)))
    if ok then some (narrow (rvAlu 32 f3 (decide (f3 = 5) && alt) (a.setWidth 32) ((rvImmI w).setWidth 32) (rvRs2 w))) else none
  | 0x33 =>
    if rvF7 w = 1 then some (rvMul f3 a b)
    else if rvF7 w = 0 ∨ (rvF7 w = 32 ∧ (f3 = 0 ∨ f3 = 5)) then some (rvAlu 64 f3 alt a b (b.toNat % 64))
    else none
  | 0x3B =>
    let a' : W32 := a.setWidth 32
    let b' : W32 := b.setWidth 32
    if rvF7 w = 1 then
      (if f3 = 0 then some (narrow (a' * b')) else if 4 ≤ f3 then some (narrow (rvDiv 32 f3 a' b')) else none)
    else if (rvF7 w = 0 ∧ (f3 = 0 ∨ f3 = 1 ∨ f3 = 5)) ∨ (rvF7 w = 32 ∧ (f3 = 0 ∨ f3 = 5)) then
      some (narrow (rvAlu 32 f3 alt a' b' (b'.toNat % 32)))
    else none
  | _ => none

/-! ### The machine-mode registers of an exception -/

/-- The register that a CSR number names, if the model holds it. -/
def Core.csr (k : Core) (n : Nat) : Option W64 :=
  match n with
  | 0x300 => some k.mstatus
  | 0x305 => some k.mtvec
  | 0x341 => some k.mepc
  | 0x342 => some k.mcause
  | 0x343 => some k.mtval
  | _ => none
def Core.setCsr (k : Core) (n : Nat) (v : W64) : Core :=
  match n with
  | 0x300 => { k with mstatus := v }
  | 0x305 => { k with mtvec := v }
  | 0x341 => { k with mepc := v &&& ~~~1#64 }
  | 0x342 => { k with mcause := v }
  | 0x343 => { k with mtval := v }
  | _ => k

/-- CSRRW, CSRRS, CSRRC and their immediate forms: the old value goes to rd. Below machine mode they are illegal. -/
def State.rvCsr (s : State) (c : Nat) (w : W32) : Option State :=
  let k := s.core c
  let n := (w.extractLsb' 20 12).toNat
  let src : W64 := if 4 ≤ rvF3 w then BitVec.ofNat 64 (rvRs1 w) else k.reg (rvRs1 w)
  match k.csr n with
  | none => none
  | some old =>
    if k.mode ≠ .m then some (s.coreTrap c causeIllegal (w.setWidth 64))
    else
      let new : W64 := match rvF3 w % 4 with | 1 => src | 2 => old ||| src | _ => old &&& ~~~src
      let k := if rvF3 w % 4 ≠ 1 ∧ rvRs1 w = 0 then k else k.setCsr n new
      some ((s.setCore c k).coreRet c (rvRd w) old)

/-- Cause of a breakpoint exception. -/
def causeBreakpoint : W64 := 3#64

/-- One base instruction of a core, if the word is one that the model runs. -/
def State.baseWord (s : State) (c : Nat) (w : W32) : Option State :=
  let k := s.core c
  let a := k.reg (rvRs1 w)
  let b := k.reg (rvRs2 w)
  let go (rd : Nat) (t : W64) : State := s.setCore c { k.setReg rd (k.pc + 4#64) with pc := t }
  match rvOp w with
  | 0x6F => some (go (rvRd w) (k.pc + rvImmJ w))
  | 0x67 => if rvF3 w = 0 then some (go (rvRd w) ((a + rvImmI w) &&& ~~~1#64)) else none
  | 0x63 => (rvTaken (rvF3 w) a b).map fun t => if t then s.setCore c { k with pc := k.pc + rvImmB w } else s.coreNext c
  | 0x03 => if rvF3 w = 7 then none else some (s.coreLoad c (rvRd w) (a + rvImmI w) (2 ^ (rvF3 w % 4)) (decide (rvF3 w < 4)))
  | 0x23 => if 4 ≤ rvF3 w then none else some (s.coreStore c (a + rvImmS w) b (2 ^ rvF3 w))
  | 0x0F => some (s.coreNext c)
  | 0x73 =>
    if w = 0x00100073#32 then some (s.coreTrap c causeBreakpoint k.pc)
    else if w = 0x30200073#32 then
      some (if k.mode = .m then s.setCore c k.mret else s.coreTrap c causeIllegal (w.setWidth 64))
    else if w = 0x10500073#32 then some (s.coreNext c)
    else if rvF3 w % 4 = 0 then none
    else s.rvCsr c w
  | _ => (rvCompute w k.pc a b).map fun v => s.coreRet c (rvRd w) v

end Sys2Proof.Machine
end

