-- ==== Sys2Proof/Machine/Moves.lean ====
section
/-!
DEFINITION. Which agent acts next (assumption 1): the moves, the moves that an empty agenda tries, the fetch of a border
core's word, the firmware call of an ECALL, and the placement of one instruction where the next step runs it.
-/
namespace Sys2Proof.Machine

/-! ### One move -/

/-- Runs the instruction of a slot of the block that a plane has mapped; nothing where no block is mapped there. -/
def State.fireSlot (s : State) (pl : PlaneId) (slot : Nat) : Res :=
  match (s.plane pl).firing.bind fun f => f.run.bind fun r => r.words[slot]? with
  | none => .next s
  | some w =>
    match decodeTile w with
    | .ok i => exec i { s with cur := { s.cur with pl := pl, slot := slot } }
    | .error _ => .fault .undecodedSlot

/-- The four bytes at a border core's pc. -/
def State.coreBytes (s : State) (c : Nat) : List Byte := Memory.readBytes s.mem (coreKey c (s.core c).pc.toNat) 4

/-- ECALL, the word by which service code calls the firmware ABI (R357). -/
def ecallWord : W32 := 0x00000073#32

/-- The call that a7 names. -/
def abiInstr (code : Nat) : Option Instr :=
  match code with
  | 0x4643 => some .frameClaim
  | 0x4652 => some .frameReturn
  | 0x4153 => some .asidSet
  | 0x5142 => some .queueBind
  | 0x5247 => some .ringRegister
  | 0x5357 => some .svcWeight
  | 0x484D => some .hostRange
  | 0x434C => some .collective
  | 0x4E57 => some .noticeWord
  | 0x4E52 => some .noticeRead
  | 0x5051 => some .prqInfo
  | _ => none

/-- The word at a border core's pc. -/
def State.coreW (s : State) (c : Nat) : W32 := BitVec.ofNat 32 (leNat (s.coreBytes c))

/-- Runs the word at a border core's pc: a custom-0 instruction, an ECALL, or a base instruction (R251, R357, assumption 34). A
custom-0 word that is no instruction takes the illegal-instruction exception (R251, assumption 8). A core that waits, or that is
powered down, does not step. `corr` and `unc` say what a read of memory meets (R374). -/
def State.coreWord (s : State) (c : Nat) (corr unc : Bool := false) : Res :=
  let s := { s with cur := { s.cur with core := c, flag := corr, flag2 := unc, tear := false } }
  if (s.core c).wait.isSome || s.coreOff c then .next s
  else
    let w := s.coreW c
    match decodeBorderBytes (s.coreBytes c) with
    | .ok (i, _) => exec i s
    | .error _ =>
      if w = ecallWord then
        match abiInstr ((s.core c).reg 17).toNat with
        | some i => exec i s
        | none => .next (s.abiUnknown c)
      else if w.extractLsb' 0 7 = 0b0001011#7 then .next (s.coreTrap c causeIllegal 0#64)
      else match s.baseWord c w with
        | some t => .next t
        | none => .refused .baseRiscv

/-- Runs a move. -/
def State.move (s : State) : Move → Res
  | .fire pl slot => s.fireSlot pl slot
  | .core c => s.coreWord c
  | .coreErr c unc => s.coreWord c (!unc) unc
  | .event i x => if i.hasWord then .next s else exec i { s with cur := x }
  | .tick => .next s.tick

/-! ### The moves that an empty agenda tries -/

/-- The step that performs a request. -/
def ReqKind.event : ReqKind → Instr
  | .swr eos => if eos then .streamClose else .streamWrite
  | .srd => .streamRead
  | .srel => .streamRelease
  | .srelFrc => .forcedRelease
  | .srew => .streamRewind
  | .barinit | .bararv | .barexp | .barwt => .barrierPerform
  | .copy => .copyAccept
  | .mmpost => .matrixRecordAccept
  | .atom _ _ => .atomicPerform
  | .upd _ _ => .updatePerform
  | _ => .homeAccess

/-- The moves of a plane's requests, which go on while its launch is scanned out too (R323). -/
def reqMoves (pl : PlaneId) (p : Plane) : List Move :=
  (p.rq.map fun r =>
    let y : Ctx := { pl := pl, rid := r.rid }
    [Move.event r.kind.event y, .event .peerAccess y, .event .peerRetry y, .event .heldStreamReadTimeout y]).flatten

/-- The moves of a plane. -/
def planeMoves (pl : PlaneId) (p : Plane) : List Move :=
  let x : Ctx := { pl := pl }
  let at_ (is : List Instr) : List Move := is.map fun i => .event i x
  let run : List Move := match p.firing.bind (·.run) with
    | some r => (List.range r.words.length).map (.fire pl) ++ r.pend.map fun w => .event .waveAdmission { x with slot := w.slot }
    | none => []
  at_ [.taskFiring, .controlStep, .blockCommit, .pyieldRelease] ++ run ++ reqMoves pl p
    ++ ((List.range 16).map fun c => Move.event .responseDelivery { x with n := c })
    ++ ((List.range p.timers.length).map fun k => Move.event .timerDue { x with k := k })

/-- The node step of a kind of node (R32 to R36). -/
def nodeEvent (k : Nat) : Instr :=
  match k with
  | 0 => .steerNode
  | 1 => .mergeNode
  | 2 => .filterNode
  | 3 => .intersectNode
  | _ => .delayNode

/-- The recycling of a launch's streams, tried before other moves: a frame that TAIL has crossed recycles (R59). -/
def recycleMoves (l : Nat) (x : Launch) : List Move :=
  (List.range x.streams.length).map fun i => .event .frameRecycle { l := l, n := i }

/-- The other moves of a launch. -/
def launchMoves (l : Nat) (x : Launch) : List Move :=
  let c : Ctx := { l := l }
  let toks : List Move := (x.chans.map fun (ci, ch) => ch.flight.map fun (j, _) => Move.event .tokenDelivery { c with n := ci, k := j }).flatten
  let nds : List Move := x.img.nodes.zipIdx.map fun (r, n) => .event (nodeEvent r.nkind) { c with n := n }
  let elems : List Elem := x.planes.map Elem.actor ++ (List.range x.img.nodes.length).map Elem.node
  let cuts : List Move := (elems.map fun e => [CutKind.snap, .pre, .stop].map fun k =>
    Move.event .blazeArrival { c with elem := e, cut := k }).flatten
  let strs : List Move := ((List.range x.streams.length).map fun i =>
    let y : Ctx := { c with n := i }
    [Move.event .streamStall y, .event .hostHwmPublish y]
      ++ (List.range 4).map fun j => Move.event .hostReaderRelease { y with k := j }).flatten
  toks ++ nds ++ cuts ++ strs
    ++ [Instr.graphCompletion, .launchCommit, .anchorRelease, .recoveryRung, .oldestOnlyStart, .snapCadence].map fun i => .event i c

/-- The moves of a glade. -/
def gladeMoves (g : Nat) (x : Glade) (rings : Nat) : List Move :=
  let c : Ctx := { g := g }
  let qs : List Move := (x.queues.map fun (q, _) =>
    [Move.event .launchHeadCheck { c with n := q }, .event .launchStart { c with n := q }]).flatten
  let regs : List Move := ((List.range x.regions.length).map fun r =>
    [Move.event .mmChunk { c with n := r }, .event .drainTile { c with n := r }]).flatten
  let recs : List Move := (x.seqr.zipIdx.map fun (m, k) =>
    [Move.event .sequencerDispatch { c with k := k }, .event .commandCompletion { c with n := m.mid }]).flatten
  [.event .faultDelivery c, .event .parkTimeoutCheck c] ++ qs ++ regs ++ recs
    ++ (List.range rings).map fun k => .event .hostRingDrain { c with k := k }

/-- Whether the model runs the word at a border core's pc. -/
def State.runsWord (s : State) (c : Nat) : Bool :=
  let w := s.coreW c
  decide (w = ecallWord) || decide (w.extractLsb' 0 7 = 0b0001011#7) || (s.baseWord c w).isSome

/-- The moves of the border cores whose next word the model runs, of their firmware and of their timers. -/
def State.coreMoves (s : State) : List Move :=
  let called := (s.planes.filter fun (_, p) => !p.ring.isEmpty).map fun (k, _) => 2 * (planeOfKey k).col
  ((s.cores.map (·.1) ++ called).eraseDups.map fun c =>
    let x : Ctx := { core := c }
    [Move.event .callAnswer x] ++ (if s.runsWord c then [Move.core c] else [])
      ++ [.event .budgetTimer x, .event .tenantBudgetPeriod x, .event .jwaitwTimeout x]).flatten

/-- Steps of the machine that need nothing from outside, in a fixed order. -/
def State.candidates (s : State) : List Move :=
  let ev (i : Instr) (x : Ctx) : Move := .event i x
  [ev .powerOnBoot {}, ev .frameTableStep {}]
    ++ (s.launches.map fun (l, x) => recycleMoves l x).flatten
    ++ (s.planes.map fun (k, p) => planeMoves (planeOfKey k) p).flatten
    ++ (s.slots.map fun (_, pl, p) => reqMoves pl p).flatten
    ++ (s.launches.map fun (l, x) => launchMoves l x).flatten
    ++ (s.glades.map fun (g, x) => gladeMoves g x (s.host.rings.filter fun r => decide (r.glade = g)).length).flatten
    ++ (s.copies.map fun c => [ev .copyLineWrite { n := c.cid }, ev .promiseMissed { n := c.cid }]).flatten
    ++ (s.invals.map fun v => (v.todo.map fun p => ev .portInvalidation { k := v.iid, n := p })
          ++ v.active.map fun p => ev .portAcknowledge { k := v.iid, n := p }).flatten
    ++ (s.prq.ents.map fun e => ev .quickServiceScanOut { k := e.ix })
    ++ ((s.under.filter (·.committed)).map fun e => ev .fold { n := e.eff.line })
    ++ ((s.frames.filter fun (_, f) => decide (f.st = .scrubbing)).map fun (f, _) => ev .frameScrub { n := f })
    ++ (s.barq.map fun b => (List.range s.barq.length).map fun k => ev .barrierWaitQueueTimeout { n := b.edge, k := k }).flatten
    ++ s.coreMoves

/-- Whether a move has an effect: it stops, or its next state differs in more than the operands of the step. -/
def State.moves (s : State) (m : Move) : Bool :=
  match s.move m with
  | .next t => decide ({ t with cur := s.cur } ≠ s)
  | _ => true

/-- The move that an empty agenda makes: the first candidate that has an effect; time passes where none has. -/
def State.default (s : State) : Move := (s.candidates.find? s.moves).getD .tick

/-! ### Placing one instruction -/

/-- A value for an operand slot of a word that is placed: zero, in the kind that the word's unit works on. -/
def placedVal (i : Instr) (w : W32) : Val :=
  match issueOf i with
  | .vec => .dat ⟨.vector, mkLanes fun _ => 0#64, (tyOf (fTY w)).getD .u64, allOnes⟩
  | _ => .dat ⟨.scalar, [0#64], .u64, 1#64⟩

/-- A mapped block of one word: its operands are there, and its predicate agrees. -/
def placedRun (i : Instr) (w : W32) : BlockRun :=
  let v : Val := placedVal i w
  { words := [w], consts := List.replicate 15 0#64, len := 8,
    opA := [(0, v)], opB := [(0, v)], opC := [(0, v)],
    pred := [(0, scalarVal (if prOf i = .onTrue then 1#64 else 0#64) .u64)],
    waves := if (linkOf i).isSome then List.replicate 32 .opened else [] }

/-- A tile word stands in slot 0 of the block that plane 0 of tile (0, 1) has mapped, and that slot is next. -/
def State.placeTile (s : State) (w : W32) (i : Instr) : State :=
  let pl : PlaneId := ⟨0, 1, 0⟩
  let f : Firing := { task := 0, kind := .aligned, block := 0#16, run := some (placedRun i w) }
  let s := s.modPlane pl fun p => { p with level := .handler, firing := some f }
  { s with mem := Memory.writeBytes s.mem (localKey (tileIx 0 1) 4) (bytesOfWord w), agenda := .fire pl 0 :: s.agenda }

/-- A border word stands at the pc of core 0, which steps next. -/
def State.placeCore (s : State) (w : W32) : State :=
  { s with mem := Memory.writeBytes s.mem (coreKey 0 (s.core 0).pc.toNat) (bytesOfWord w), agenda := .core 0 :: s.agenda }

/-- Places the instruction that a table word decodes to; a word that does not decode changes nothing. -/
def State.place (s : State) (nbits n : Nat) : State :=
  let w : W32 := BitVec.ofNat 32 n
  match decodeTableWord nbits n with
  | none => s
  | some i => if isBorderWord w then s.placeCore w else s.placeTile w i

end Sys2Proof.Machine
end

