-- ==== Sys2Proof/Machine/Step.lean ====
section
/-!
DEFINITION. One step of the machine: the next move of the agenda, or, where the agenda is empty, the first move that has
an effect. What a move does, and how the instruction it runs is fetched, is in Moves.lean.
-/
namespace Sys2Proof.Machine

/-- One step. -/
def step (s : State) : Host.Outcome State Fault Refusal :=
  match s.agenda with
  | m :: rest => ({ s with agenda := rest } : State).move m
  | [] => s.move s.default

/-- The state with an instruction placed where the next step runs it. -/
def State.withFetchWord (s : State) (nbits w : Nat) : State := s.place nbits w

end Sys2Proof.Machine
end

