-- ==== Sys2Proof/Safety.lean ====
section
/-!
DEFINITION. The terms of the statements: when an instruction of a block fires and what its results leave, what stays the
same, and the invariant that every step keeps.
-/
namespace Sys2Proof.Machine

/-- Instruction `i` fires in the step of slot `cur.slot` of plane `cur.pl`, and `x` is what it sees: the plane's firing
runs a block in which the slot has not fired, its predicate and operands are there and none is null (R43, R44, R127), the
tile's issue group has a place for it (R14), and the plane's level may run it (R136). -/
structure Fires (i : Instr) (s : State) (x : FX) : Prop where
  pl : x.pl = s.cur.pl
  slot : x.slot = s.cur.slot
  firing : (s.plane s.cur.pl).firing = some x.f
  running : x.f.st = .running
  run : x.f.run = some x.r
  fresh : x.r.done.contains s.cur.slot = false
  operands : x.r.fit i s.cur.slot = .go x.a x.b x.c
  place : s.takePlace s.cur.pl i x.f.block s.cur.slot = some x.s
  plane : x.p = x.s.plane s.cur.pl
  level : (needsHandler i && decide ((s.plane s.cur.pl).level = .user)) = false

/-- The targets of some results are free (R43). -/
def FX.free (x : FX) (outs : List (Tgt × Val)) : Prop := ((x.r.mark x.slot).putAll outs).isSome = true

/-- The state that values at their targets and effects for commit leave. -/
def FX.out (x : FX) (outs : List (Tgt × Val)) (effs : List Eff) : State :=
  match (x.r.mark x.slot).putAll outs with
  | some r => x.s.setRun x.pl { r with effs := r.effs ++ effs.map fun e => (x.slot, e) }
  | none => x.s

/-- The state that an effect for commit leaves. -/
def FX.effect (x : FX) (e : Eff) : State :=
  x.s.setRun x.pl { x.r.mark x.slot with effs := x.r.effs ++ [(x.slot, e)] }

/-- The state that an exit leaves: the block will end so (R157). -/
def FX.leave (x : FX) (e : ExitKind) (effs : List Eff) : State :=
  x.s.setRun x.pl { x.r.mark x.slot with exits := [e], effs := x.r.effs ++ effs.map fun e => (x.slot, e) }

/-- The state in which a format M instruction waits for admission (R130). -/
def FX.await (x : FX) (w : Wave) : State := x.s.setRun x.pl { x.r.mark x.slot with pend := x.r.pend ++ [w] }

/-- What a format M instruction does when it fires: it waits for admission, or raises F_BLOCK_ILLEGAL where its place in the
wave order has been skipped before (R130). -/
def FX.waits (x : FX) (i : Instr) (s : State) (w : Wave) : Prop :=
  Fires i s x →
    (x.r.waves.getD w.lk.seq.toNat .opened ≠ .skipped → exec i s = .next (x.await w)) ∧
    (x.r.waves.getD w.lk.seq.toNat .opened = .skipped → exec i s = .next (x.s.blockFault x.pl .blockIllegal 0 x.slot 0#64))

/-- What an instruction leaves unchanged while its block runs: memory and its sideband, the understory and banks, every
register of every plane, every core, every port, the host's registers and the Forester. -/
structure SameArch (s t : State) : Prop where
  mem : t.mem = s.mem
  side : t.side = s.side
  under : t.under = s.under
  bank : t.bank = s.bank
  sreg : ∀ pl n, (t.plane pl).sreg n = (s.plane pl).sreg n
  vreg : ∀ pl n, (t.plane pl).vreg n = (s.plane pl).vreg n
  mreg : ∀ pl n, (t.plane pl).mreg n = (s.plane pl).mreg n
  requests : ∀ pl, (t.plane pl).rq = (s.plane pl).rq
  outputs : ∀ pl, (t.plane pl).outs = (s.plane pl).outs
  cores : t.cores = s.cores
  ports : t.ports = s.ports
  frames : t.frames = s.frames
  host : t.host = s.host
  fo : t.fo = s.fo

/-- The instructions of the border cores; every other instruction with a word is a tile's. -/
def isBorder : Instr → Bool
  | .jlaunch .. | .jfence .. | .jquery .. | .jinvr .. | .jcmdKill .. | .jcmdPre .. | .jcmdSnap .. | .jcmdStop .. | .jcmdResume ..
  | .jwaitw .. | .jctxsave .. | .jctxload .. => true
  | _ => false

/-- The instruction that the decoder reads from an instruction's word: its own, but that the five commands of JCMD share
one word, whose command stands in a register (R256). -/
def readAs : Instr → Instr
  | .jcmdPre rd rs1 rs2 => .jcmdKill rd rs1 rs2
  | .jcmdSnap rd rs1 rs2 => .jcmdKill rd rs1 rs2
  | .jcmdStop rd rs1 rs2 => .jcmdKill rd rs1 rs2
  | .jcmdResume rd rs1 rs2 => .jcmdKill rd rs1 rs2
  | i => i

/-- The invariant that every step keeps: memory stands in its canonical form. -/
def State.Inv (s : State) : Prop := Memory.wf s.mem = true

end Sys2Proof.Machine
end

