-- ==== Sys2Proof/Laws/Encode.lean ====
section
/-!
SUPPORT. The fields of an encoded word read back as they were written: one lemma per field reader.
-/
namespace Sys2Proof

theorem wordOfBytes_bytes (w : W32) :
    wordOfBytes (w.extractLsb' 0 8) (w.extractLsb' 8 8) (w.extractLsb' 16 8) (w.extractLsb' 24 8) = w := by
  show w.extractLsb' 24 8 ++ w.extractLsb' 16 8 ++ w.extractLsb' 8 8 ++ w.extractLsb' 0 8 = w
  rw [BitVec.extractLsb'_append_extractLsb'_eq_extractLsb' (start₁ := 16) (len₁ := 8) (by decide),
    BitVec.extractLsb'_append_extractLsb'_eq_extractLsb' (start₁ := 8) (len₁ := 8) (by decide),
    BitVec.extractLsb'_append_extractLsb'_eq_extractLsb' (start₁ := 0) (len₁ := 8) (by decide)]
  exact BitVec.extractLsb'_eq_self

/-- The table word of a tile instruction decodes as its word does. -/
theorem tile_word {w : W32} {i : Instr} (h : isBorderWord w = false) (hd : decodeTile w = .ok i) :
    decodeTableWord 32 w.toNat = some i := by
  simp only [decodeTableWord, BitVec.ofNat_toNat, BitVec.setWidth_eq, h, bytesOfWord, decodeTileBytes, wordOfBytes_bytes, hd]
  rfl

/-- The table word of a border instruction decodes as its word does. -/
theorem border_word {w : W32} {i : Instr} (h : isBorderWord w = true) (hd : decodeBorder w = .ok i) :
    decodeTableWord 32 w.toNat = some i := by
  simp only [decodeTableWord, BitVec.ofNat_toNat, BitVec.setWidth_eq, h, bytesOfWord, decodeBorderBytes, wordOfBytes_bytes, hd]
  rfl

@[simp] theorem rdPR_wrPR (p : PR) : rdPR (wrPR p) = .ok p := by cases p <;> rfl
@[simp] theorem rdTgt_wrTgt (t : Tgt) : rdTgt (wrTgt t) = .ok t := by
  cases t with
  | none => rfl
  | _ => simp (disch := decide) only [rdTgt, wrTgt, BitVec.extractLsb'_append_eq_of_add_le, BitVec.extractLsb'_append_eq_of_le]; simp
@[simp] theorem tyOf_tyCode (t : ETy) : tyOf (tyCode t) = some t := by cases t <;> rfl
@[simp] theorem widOf_widCode (wd : Width) : widOf (widCode wd) = some wd := by cases wd <;> rfl
@[simp] theorem clsOf_clsCode (c : AClass) : clsOf (clsCode c) = some c := by cases c <;> rfl
@[simp] theorem cond3_condCode (c : Cond) : cond3 (condCode c) = c := by cases c <;> rfl
@[simp] theorem rdAuxTag_wrAuxTag (t : Option ETy) : rdAuxTag (wrAuxTag t) = .ok t := by
  cases t with
  | none => rfl
  | some t => cases t <;> rfl

/-! Fields of `packG2`. -/

@[simp] theorem packG2_x28_4 (op pr ty tb ta) : BitVec.extractLsb' 28 4 (packG2 op pr ty tb ta) = BitVec.extractLsb' 4 4 op := by
  unfold packG2
  simp (disch := decide) only [BitVec.extractLsb'_append_eq_of_add_le, BitVec.extractLsb'_append_eq_of_le, Nat.reduceSub, BitVec.extractLsb'_eq_self]
@[simp] theorem packG2_x24_4 (op pr ty tb ta) : BitVec.extractLsb' 24 4 (packG2 op pr ty tb ta) = BitVec.extractLsb' 0 4 op := by
  unfold packG2
  simp (disch := decide) only [BitVec.extractLsb'_append_eq_of_add_le, BitVec.extractLsb'_append_eq_of_le, Nat.reduceSub, BitVec.extractLsb'_eq_self]
@[simp] theorem packG2_x25_7 (op pr ty tb ta) : BitVec.extractLsb' 25 7 (packG2 op pr ty tb ta) = BitVec.extractLsb' 1 7 op := by
  unfold packG2
  simp (disch := decide) only [BitVec.extractLsb'_append_eq_of_add_le, BitVec.extractLsb'_append_eq_of_le, Nat.reduceSub, BitVec.extractLsb'_eq_self]
@[simp] theorem packG2_x22_2 (op pr ty tb ta) : BitVec.extractLsb' 22 2 (packG2 op pr ty tb ta) = pr := by
  unfold packG2
  simp (disch := decide) only [BitVec.extractLsb'_append_eq_of_add_le, BitVec.extractLsb'_append_eq_of_le, Nat.reduceSub, BitVec.extractLsb'_eq_self]
@[simp] theorem packG2_x18_3 (op pr ty tb ta) : BitVec.extractLsb' 18 3 (packG2 op pr ty tb ta) = BitVec.extractLsb' 0 3 ty := by
  unfold packG2
  simp (disch := decide) only [BitVec.extractLsb'_append_eq_of_add_le, BitVec.extractLsb'_append_eq_of_le, Nat.reduceSub, BitVec.extractLsb'_eq_self]
@[simp] theorem packG2_x20_2 (op pr ty tb ta) : BitVec.extractLsb' 20 2 (packG2 op pr ty tb ta) = BitVec.extractLsb' 2 2 ty := by
  unfold packG2
  simp (disch := decide) only [BitVec.extractLsb'_append_eq_of_add_le, BitVec.extractLsb'_append_eq_of_le, Nat.reduceSub, BitVec.extractLsb'_eq_self]
@[simp] theorem packG2_x18_2 (op pr ty tb ta) : BitVec.extractLsb' 18 2 (packG2 op pr ty tb ta) = BitVec.extractLsb' 0 2 ty := by
  unfold packG2
  simp (disch := decide) only [BitVec.extractLsb'_append_eq_of_add_le, BitVec.extractLsb'_append_eq_of_le, Nat.reduceSub, BitVec.extractLsb'_eq_self]
@[simp] theorem packG2_fTY (op pr ty tb ta) : fTY (packG2 op pr ty tb ta) = ty := by
  unfold packG2 fTY
  simp (disch := decide) only [BitVec.extractLsb'_append_eq_of_add_le, BitVec.extractLsb'_append_eq_of_le, Nat.reduceSub, BitVec.extractLsb'_eq_self]
@[simp] theorem packG2_fTB (op pr ty tb ta) : fTB (packG2 op pr ty tb ta) = tb := by
  unfold packG2 fTB
  simp (disch := decide) only [BitVec.extractLsb'_append_eq_of_add_le, BitVec.extractLsb'_append_eq_of_le, Nat.reduceSub, BitVec.extractLsb'_eq_self]
@[simp] theorem packG2_fTA (op pr ty tb ta) : fTA (packG2 op pr ty tb ta) = ta := by
  unfold packG2 fTA
  simp (disch := decide) only [BitVec.extractLsb'_append_eq_of_add_le, BitVec.extractLsb'_append_eq_of_le, Nat.reduceSub, BitVec.extractLsb'_eq_self]
/-! Fields of `packGI`. -/

@[simp] theorem packGI_x28_4 (op pr imm ta) : BitVec.extractLsb' 28 4 (packGI op pr imm ta) = BitVec.extractLsb' 4 4 op := by
  unfold packGI
  simp (disch := decide) only [BitVec.extractLsb'_append_eq_of_add_le, BitVec.extractLsb'_append_eq_of_le, Nat.reduceSub, BitVec.extractLsb'_eq_self]
@[simp] theorem packGI_x24_4 (op pr imm ta) : BitVec.extractLsb' 24 4 (packGI op pr imm ta) = BitVec.extractLsb' 0 4 op := by
  unfold packGI
  simp (disch := decide) only [BitVec.extractLsb'_append_eq_of_add_le, BitVec.extractLsb'_append_eq_of_le, Nat.reduceSub, BitVec.extractLsb'_eq_self]
@[simp] theorem packGI_x25_7 (op pr imm ta) : BitVec.extractLsb' 25 7 (packGI op pr imm ta) = BitVec.extractLsb' 1 7 op := by
  unfold packGI
  simp (disch := decide) only [BitVec.extractLsb'_append_eq_of_add_le, BitVec.extractLsb'_append_eq_of_le, Nat.reduceSub, BitVec.extractLsb'_eq_self]
@[simp] theorem packGI_x22_2 (op pr imm ta) : BitVec.extractLsb' 22 2 (packGI op pr imm ta) = pr := by
  unfold packGI
  simp (disch := decide) only [BitVec.extractLsb'_append_eq_of_add_le, BitVec.extractLsb'_append_eq_of_le, Nat.reduceSub, BitVec.extractLsb'_eq_self]
@[simp] theorem packGI_x13_9 (op pr imm ta) : BitVec.extractLsb' 13 9 (packGI op pr imm ta) = BitVec.extractLsb' 4 9 imm := by
  unfold packGI
  simp (disch := decide) only [BitVec.extractLsb'_append_eq_of_add_le, BitVec.extractLsb'_append_eq_of_le, Nat.reduceSub, BitVec.extractLsb'_eq_self]
@[simp] theorem packGI_x9_4 (op pr imm ta) : BitVec.extractLsb' 9 4 (packGI op pr imm ta) = BitVec.extractLsb' 0 4 imm := by
  unfold packGI
  simp (disch := decide) only [BitVec.extractLsb'_append_eq_of_add_le, BitVec.extractLsb'_append_eq_of_le, Nat.reduceSub, BitVec.extractLsb'_eq_self]
@[simp] theorem packGI_x21_1 (op pr imm ta) : BitVec.extractLsb' 21 1 (packGI op pr imm ta) = BitVec.extractLsb' 12 1 imm := by
  unfold packGI
  simp (disch := decide) only [BitVec.extractLsb'_append_eq_of_add_le, BitVec.extractLsb'_append_eq_of_le, Nat.reduceSub, BitVec.extractLsb'_eq_self]
@[simp] theorem packGI_x9_12 (op pr imm ta) : BitVec.extractLsb' 9 12 (packGI op pr imm ta) = BitVec.extractLsb' 0 12 imm := by
  unfold packGI
  simp (disch := decide) only [BitVec.extractLsb'_append_eq_of_add_le, BitVec.extractLsb'_append_eq_of_le, Nat.reduceSub, BitVec.extractLsb'_eq_self]
@[simp] theorem packGI_fImm (op pr imm ta) : fImm (packGI op pr imm ta) = imm := by
  unfold packGI fImm
  simp (disch := decide) only [BitVec.extractLsb'_append_eq_of_add_le, BitVec.extractLsb'_append_eq_of_le, Nat.reduceSub, BitVec.extractLsb'_eq_self]
@[simp] theorem packGI_fTA (op pr imm ta) : fTA (packGI op pr imm ta) = ta := by
  unfold packGI fTA
  simp (disch := decide) only [BitVec.extractLsb'_append_eq_of_add_le, BitVec.extractLsb'_append_eq_of_le, Nat.reduceSub, BitVec.extractLsb'_eq_self]
/-! Fields of `packC`. -/

@[simp] theorem packC_x28_4 (op pr hnd aux ta) : BitVec.extractLsb' 28 4 (packC op pr hnd aux ta) = BitVec.extractLsb' 4 4 op := by
  unfold packC
  simp (disch := decide) only [BitVec.extractLsb'_append_eq_of_add_le, BitVec.extractLsb'_append_eq_of_le, Nat.reduceSub, BitVec.extractLsb'_eq_self]
@[simp] theorem packC_x24_4 (op pr hnd aux ta) : BitVec.extractLsb' 24 4 (packC op pr hnd aux ta) = BitVec.extractLsb' 0 4 op := by
  unfold packC
  simp (disch := decide) only [BitVec.extractLsb'_append_eq_of_add_le, BitVec.extractLsb'_append_eq_of_le, Nat.reduceSub, BitVec.extractLsb'_eq_self]
@[simp] theorem packC_x25_7 (op pr hnd aux ta) : BitVec.extractLsb' 25 7 (packC op pr hnd aux ta) = BitVec.extractLsb' 1 7 op := by
  unfold packC
  simp (disch := decide) only [BitVec.extractLsb'_append_eq_of_add_le, BitVec.extractLsb'_append_eq_of_le, Nat.reduceSub, BitVec.extractLsb'_eq_self]
@[simp] theorem packC_x22_2 (op pr hnd aux ta) : BitVec.extractLsb' 22 2 (packC op pr hnd aux ta) = pr := by
  unfold packC
  simp (disch := decide) only [BitVec.extractLsb'_append_eq_of_add_le, BitVec.extractLsb'_append_eq_of_le, Nat.reduceSub, BitVec.extractLsb'_eq_self]
@[simp] theorem packC_x20_2 (op pr hnd aux ta) : BitVec.extractLsb' 20 2 (packC op pr hnd aux ta) = BitVec.extractLsb' 4 2 hnd := by
  unfold packC
  simp (disch := decide) only [BitVec.extractLsb'_append_eq_of_add_le, BitVec.extractLsb'_append_eq_of_le, Nat.reduceSub, BitVec.extractLsb'_eq_self]
@[simp] theorem packC_x16_4 (op pr hnd aux ta) : BitVec.extractLsb' 16 4 (packC op pr hnd aux ta) = BitVec.extractLsb' 0 4 hnd := by
  unfold packC
  simp (disch := decide) only [BitVec.extractLsb'_append_eq_of_add_le, BitVec.extractLsb'_append_eq_of_le, Nat.reduceSub, BitVec.extractLsb'_eq_self]
@[simp] theorem packC_x19_3 (op pr hnd aux ta) : BitVec.extractLsb' 19 3 (packC op pr hnd aux ta) = BitVec.extractLsb' 3 3 hnd := by
  unfold packC
  simp (disch := decide) only [BitVec.extractLsb'_append_eq_of_add_le, BitVec.extractLsb'_append_eq_of_le, Nat.reduceSub, BitVec.extractLsb'_eq_self]
@[simp] theorem packC_x16_3 (op pr hnd aux ta) : BitVec.extractLsb' 16 3 (packC op pr hnd aux ta) = BitVec.extractLsb' 0 3 hnd := by
  unfold packC
  simp (disch := decide) only [BitVec.extractLsb'_append_eq_of_add_le, BitVec.extractLsb'_append_eq_of_le, Nat.reduceSub, BitVec.extractLsb'_eq_self]
@[simp] theorem packC_x18_4 (op pr hnd aux ta) : BitVec.extractLsb' 18 4 (packC op pr hnd aux ta) = BitVec.extractLsb' 2 4 hnd := by
  unfold packC
  simp (disch := decide) only [BitVec.extractLsb'_append_eq_of_add_le, BitVec.extractLsb'_append_eq_of_le, Nat.reduceSub, BitVec.extractLsb'_eq_self]
@[simp] theorem packC_x16_2 (op pr hnd aux ta) : BitVec.extractLsb' 16 2 (packC op pr hnd aux ta) = BitVec.extractLsb' 0 2 hnd := by
  unfold packC
  simp (disch := decide) only [BitVec.extractLsb'_append_eq_of_add_le, BitVec.extractLsb'_append_eq_of_le, Nat.reduceSub, BitVec.extractLsb'_eq_self]
@[simp] theorem packC_x11_5 (op pr hnd aux ta) : BitVec.extractLsb' 11 5 (packC op pr hnd aux ta) = BitVec.extractLsb' 2 5 aux := by
  unfold packC
  simp (disch := decide) only [BitVec.extractLsb'_append_eq_of_add_le, BitVec.extractLsb'_append_eq_of_le, Nat.reduceSub, BitVec.extractLsb'_eq_self]
@[simp] theorem packC_x9_2 (op pr hnd aux ta) : BitVec.extractLsb' 9 2 (packC op pr hnd aux ta) = BitVec.extractLsb' 0 2 aux := by
  unfold packC
  simp (disch := decide) only [BitVec.extractLsb'_append_eq_of_add_le, BitVec.extractLsb'_append_eq_of_le, Nat.reduceSub, BitVec.extractLsb'_eq_self]
@[simp] theorem packC_x13_3 (op pr hnd aux ta) : BitVec.extractLsb' 13 3 (packC op pr hnd aux ta) = BitVec.extractLsb' 4 3 aux := by
  unfold packC
  simp (disch := decide) only [BitVec.extractLsb'_append_eq_of_add_le, BitVec.extractLsb'_append_eq_of_le, Nat.reduceSub, BitVec.extractLsb'_eq_self]
@[simp] theorem packC_x9_4 (op pr hnd aux ta) : BitVec.extractLsb' 9 4 (packC op pr hnd aux ta) = BitVec.extractLsb' 0 4 aux := by
  unfold packC
  simp (disch := decide) only [BitVec.extractLsb'_append_eq_of_add_le, BitVec.extractLsb'_append_eq_of_le, Nat.reduceSub, BitVec.extractLsb'_eq_self]
@[simp] theorem packC_x14_2 (op pr hnd aux ta) : BitVec.extractLsb' 14 2 (packC op pr hnd aux ta) = BitVec.extractLsb' 5 2 aux := by
  unfold packC
  simp (disch := decide) only [BitVec.extractLsb'_append_eq_of_add_le, BitVec.extractLsb'_append_eq_of_le, Nat.reduceSub, BitVec.extractLsb'_eq_self]
@[simp] theorem packC_x11_3 (op pr hnd aux ta) : BitVec.extractLsb' 11 3 (packC op pr hnd aux ta) = BitVec.extractLsb' 2 3 aux := by
  unfold packC
  simp (disch := decide) only [BitVec.extractLsb'_append_eq_of_add_le, BitVec.extractLsb'_append_eq_of_le, Nat.reduceSub, BitVec.extractLsb'_eq_self]
@[simp] theorem packC_x9_5 (op pr hnd aux ta) : BitVec.extractLsb' 9 5 (packC op pr hnd aux ta) = BitVec.extractLsb' 0 5 aux := by
  unfold packC
  simp (disch := decide) only [BitVec.extractLsb'_append_eq_of_add_le, BitVec.extractLsb'_append_eq_of_le, Nat.reduceSub, BitVec.extractLsb'_eq_self]
@[simp] theorem packC_fHnd (op pr hnd aux ta) : fHnd (packC op pr hnd aux ta) = hnd := by
  unfold packC fHnd
  simp (disch := decide) only [BitVec.extractLsb'_append_eq_of_add_le, BitVec.extractLsb'_append_eq_of_le, Nat.reduceSub, BitVec.extractLsb'_eq_self]
@[simp] theorem packC_fAux (op pr hnd aux ta) : fAux (packC op pr hnd aux ta) = aux := by
  unfold packC fAux
  simp (disch := decide) only [BitVec.extractLsb'_append_eq_of_add_le, BitVec.extractLsb'_append_eq_of_le, Nat.reduceSub, BitVec.extractLsb'_eq_self]
@[simp] theorem packC_fTA (op pr hnd aux ta) : fTA (packC op pr hnd aux ta) = ta := by
  unfold packC fTA
  simp (disch := decide) only [BitVec.extractLsb'_append_eq_of_add_le, BitVec.extractLsb'_append_eq_of_le, Nat.reduceSub, BitVec.extractLsb'_eq_self]
/-! Fields of `packM`. -/

@[simp] theorem packM_x28_4 (op pr seq pdl sdl wd rsp) : BitVec.extractLsb' 28 4 (packM op pr seq pdl sdl wd rsp) = BitVec.extractLsb' 4 4 op := by
  unfold packM
  simp (disch := decide) only [BitVec.extractLsb'_append_eq_of_add_le, BitVec.extractLsb'_append_eq_of_le, Nat.reduceSub, BitVec.extractLsb'_eq_self]
@[simp] theorem packM_x24_4 (op pr seq pdl sdl wd rsp) : BitVec.extractLsb' 24 4 (packM op pr seq pdl sdl wd rsp) = BitVec.extractLsb' 0 4 op := by
  unfold packM
  simp (disch := decide) only [BitVec.extractLsb'_append_eq_of_add_le, BitVec.extractLsb'_append_eq_of_le, Nat.reduceSub, BitVec.extractLsb'_eq_self]
@[simp] theorem packM_x25_7 (op pr seq pdl sdl wd rsp) : BitVec.extractLsb' 25 7 (packM op pr seq pdl sdl wd rsp) = BitVec.extractLsb' 1 7 op := by
  unfold packM
  simp (disch := decide) only [BitVec.extractLsb'_append_eq_of_add_le, BitVec.extractLsb'_append_eq_of_le, Nat.reduceSub, BitVec.extractLsb'_eq_self]
@[simp] theorem packM_x22_2 (op pr seq pdl sdl wd rsp) : BitVec.extractLsb' 22 2 (packM op pr seq pdl sdl wd rsp) = pr := by
  unfold packM
  simp (disch := decide) only [BitVec.extractLsb'_append_eq_of_add_le, BitVec.extractLsb'_append_eq_of_le, Nat.reduceSub, BitVec.extractLsb'_eq_self]
@[simp] theorem packM_x4_2 (op pr seq pdl sdl wd rsp) : BitVec.extractLsb' 4 2 (packM op pr seq pdl sdl wd rsp) = BitVec.extractLsb' 4 2 rsp := by
  unfold packM
  simp (disch := decide) only [BitVec.extractLsb'_append_eq_of_add_le, BitVec.extractLsb'_append_eq_of_le, Nat.reduceSub, BitVec.extractLsb'_eq_self]
@[simp] theorem packM_x0_4 (op pr seq pdl sdl wd rsp) : BitVec.extractLsb' 0 4 (packM op pr seq pdl sdl wd rsp) = BitVec.extractLsb' 0 4 rsp := by
  unfold packM
  simp (disch := decide) only [BitVec.extractLsb'_append_eq_of_add_le, BitVec.extractLsb'_append_eq_of_le, Nat.reduceSub, BitVec.extractLsb'_eq_self]
@[simp] theorem packM_x0_3 (op pr seq pdl sdl wd rsp) : BitVec.extractLsb' 0 3 (packM op pr seq pdl sdl wd rsp) = BitVec.extractLsb' 0 3 rsp := by
  unfold packM
  simp (disch := decide) only [BitVec.extractLsb'_append_eq_of_add_le, BitVec.extractLsb'_append_eq_of_le, Nat.reduceSub, BitVec.extractLsb'_eq_self]
@[simp] theorem packM_x3_3 (op pr seq pdl sdl wd rsp) : BitVec.extractLsb' 3 3 (packM op pr seq pdl sdl wd rsp) = BitVec.extractLsb' 3 3 rsp := by
  unfold packM
  simp (disch := decide) only [BitVec.extractLsb'_append_eq_of_add_le, BitVec.extractLsb'_append_eq_of_le, Nat.reduceSub, BitVec.extractLsb'_eq_self]
@[simp] theorem packM_fWd (op pr seq pdl sdl wd rsp) : fWd (packM op pr seq pdl sdl wd rsp) = wd := by
  unfold packM fWd
  simp (disch := decide) only [BitVec.extractLsb'_append_eq_of_add_le, BitVec.extractLsb'_append_eq_of_le, Nat.reduceSub, BitVec.extractLsb'_eq_self]
@[simp] theorem packM_fRsp (op pr seq pdl sdl wd rsp) : fRsp (packM op pr seq pdl sdl wd rsp) = rsp := by
  unfold packM fRsp
  simp (disch := decide) only [BitVec.extractLsb'_append_eq_of_add_le, BitVec.extractLsb'_append_eq_of_le, Nat.reduceSub, BitVec.extractLsb'_eq_self]
/-! Fields of `packJ`. -/

@[simp] theorem packJ_x7_5 (rs2 rs1 f3 rd) : BitVec.extractLsb' 7 5 (packJ rs2 rs1 f3 rd) = rd := by
  unfold packJ
  simp (disch := decide) only [BitVec.extractLsb'_append_eq_of_add_le, BitVec.extractLsb'_append_eq_of_le, Nat.reduceSub, BitVec.extractLsb'_eq_self]
@[simp] theorem packJ_x15_5 (rs2 rs1 f3 rd) : BitVec.extractLsb' 15 5 (packJ rs2 rs1 f3 rd) = rs1 := by
  unfold packJ
  simp (disch := decide) only [BitVec.extractLsb'_append_eq_of_add_le, BitVec.extractLsb'_append_eq_of_le, Nat.reduceSub, BitVec.extractLsb'_eq_self]
@[simp] theorem packJ_x20_5 (rs2 rs1 f3 rd) : BitVec.extractLsb' 20 5 (packJ rs2 rs1 f3 rd) = rs2 := by
  unfold packJ
  simp (disch := decide) only [BitVec.extractLsb'_append_eq_of_add_le, BitVec.extractLsb'_append_eq_of_le, Nat.reduceSub, BitVec.extractLsb'_eq_self]
@[simp] theorem packJ_x12_3 (rs2 rs1 f3 rd) : BitVec.extractLsb' 12 3 (packJ rs2 rs1 f3 rd) = f3 := by
  unfold packJ
  simp (disch := decide) only [BitVec.extractLsb'_append_eq_of_add_le, BitVec.extractLsb'_append_eq_of_le, Nat.reduceSub, BitVec.extractLsb'_eq_self]
@[simp] theorem packM_rdLink (op pr seq pdl sdl wd rsp) : rdLink (packM op pr seq pdl sdl wd rsp) = ⟨seq, pdl, sdl⟩ := by
  unfold packM rdLink
  simp (disch := decide) only [BitVec.extractLsb'_append_eq_of_add_le, BitVec.extractLsb'_append_eq_of_le, Nat.reduceSub, BitVec.extractLsb'_eq_self]
@[simp] theorem packJ_op (rs2 rs1 f3 rd) : BitVec.extractLsb' 0 7 (packJ rs2 rs1 f3 rd) = 0b0001011#7 := by
  unfold packJ
  simp (disch := decide) only [BitVec.extractLsb'_append_eq_of_add_le, BitVec.extractLsb'_eq_self]
@[simp] theorem packJ_f7 (rs2 rs1 f3 rd) : BitVec.extractLsb' 25 7 (packJ rs2 rs1 f3 rd) = 0#7 := by
  unfold packJ
  simp (disch := decide) only [BitVec.extractLsb'_append_eq_of_le, Nat.reduceSub, BitVec.extractLsb'_eq_self]
theorem packG2_low (op pr) : BitVec.extractLsb' 0 22 (packG2 op pr 0#4 0#9 0#9) = 0#22 := by
  have h : packG2 op pr 0#4 0#9 0#9 = (op ++ pr) ++ 0#22 := by
    unfold packG2; rw [BitVec.append_assoc, BitVec.append_assoc]; rfl
  rw [h]
  simp (disch := decide) only [BitVec.extractLsb'_append_eq_of_add_le, BitVec.extractLsb'_eq_self]
theorem packG2_low7 (op pr) : BitVec.extractLsb' 0 7 (packG2 op pr 0#4 0#9 0#9) = 0#7 := by
  unfold packG2
  simp (disch := decide) only [BitVec.extractLsb'_append_eq_of_add_le]; rfl
theorem packG2_tab (op pr ty) : BitVec.extractLsb' 0 18 (packG2 op pr ty 0#9 0#9) = 0#18 := by
  have h : packG2 op pr ty 0#9 0#9 = (op ++ pr ++ ty) ++ 0#18 := by
    unfold packG2; rw [BitVec.append_assoc]; rfl
  rw [h]
  simp (disch := decide) only [BitVec.extractLsb'_append_eq_of_add_le, BitVec.extractLsb'_eq_self]
@[simp] theorem packG2_b21 (op pr ty tb ta) : (packG2 op pr ty tb ta).getLsbD 21 = ty.getLsbD 3 := by
  have h : (packG2 op pr ty tb ta).getLsbD 21 = (fTY (packG2 op pr ty tb ta)).getLsbD 3 := by
    simp only [fTY, BitVec.getLsbD_extractLsb']; rfl
  rw [h, packG2_fTY]

/-- A word decodes as its opcode's row, where its predicate mode is one. -/
theorem decode_tile {w : W32} {p : PR} {i : Instr} (hp : w.extractLsb' 22 2 = wrPR p)
    (h : decodeOp (w.extractLsb' 28 4).toNat (w.extractLsb' 24 4).toNat p w = .ok i) : decodeTile w = .ok i := by
  rw [decodeTile, hp, rdPR_wrPR]; exact h

/-- A word whose opcode is at least 2 is no border word. -/
theorem packG2_tile {op : BitVec 8} (h : op.extractLsb' 1 7 ≠ 0#7) (pr ty tb ta) : isBorderWord (packG2 op pr ty tb ta) = false := by
  simp only [isBorderWord, packG2_x25_7, h, decide_false, Bool.and_false]
theorem packGI_tile {op : BitVec 8} (h : op.extractLsb' 1 7 ≠ 0#7) (pr imm ta) : isBorderWord (packGI op pr imm ta) = false := by
  simp only [isBorderWord, packGI_x25_7, h, decide_false, Bool.and_false]
theorem packC_tile {op : BitVec 8} (h : op.extractLsb' 1 7 ≠ 0#7) (pr hnd aux ta) : isBorderWord (packC op pr hnd aux ta) = false := by
  simp only [isBorderWord, packC_x25_7, h, decide_false, Bool.and_false]
theorem packM_tile {op : BitVec 8} (h : op.extractLsb' 1 7 ≠ 0#7) (pr seq pdl sdl wd rsp) :
    isBorderWord (packM op pr seq pdl sdl wd rsp) = false := by
  simp only [isBorderWord, packM_x25_7, h, decide_false, Bool.and_false]
/-- NOP's word is no border word. -/
theorem packG2_nop (op pr) : isBorderWord (packG2 op pr 0#4 0#9 0#9) = false := by
  rw [isBorderWord, packG2_low7]; rfl
theorem packJ_border (rs2 rs1 f3 rd) : isBorderWord (packJ rs2 rs1 f3 rd) = true := by
  simp only [isBorderWord, packJ_op, packJ_f7]; rfl

end Sys2Proof
end

