-- ==== Sys2Proof/Laws/PerInstr.lean ====
section
/-!
SUPPORT. The encoder and the decoder agree: one lemma per instruction.
-/
namespace Sys2Proof.Laws.RoundTrip
open Sys2Proof.Machine

set_option Elab.async false
set_option linter.unusedSimpArgs false

/-- The word of a well-formed instruction decodes to the instruction (to the first of the five commands of JCMD, which share
one word). A step without a word has none. -/
def Statement (i : Instr) : Prop := i.hasWord = true → i.wf = true → decodeTableWord 32 (encode i).toNat = some (readAs i)

theorem eventStep {i : Instr} (h : i.hasWord = false) : Statement i := fun hw => by simp [h] at hw

theorem nop (pr) : Statement (.nop pr) := by
  intro _ hw; refine tile_word (packG2_nop ..) (decode_tile (p := pr) (by simp only [encode, packG2_x22_2]) ?_)
  rw [show (BitVec.extractLsb' 28 4 (encode (.nop pr))).toNat = 0 by simp only [encode, packG2_x28_4]; rfl,
    show (BitVec.extractLsb' 24 4 (encode (.nop pr))).toNat = 1 by simp only [encode, packG2_x24_4]; rfl]
  simp (disch := decide) only [encode, decodeOp, decode0, packG2_low, z22, packG2_x18_3, packG2_x20_2, packG2_x18_2, packG2_fTY, packG2_fTB, packG2_fTA, packG2_b21, ↓reduceIte, Nat.reduceSub, BitVec.extractLsb'_eq_self, rdTgt_wrTgt, bind, Except.bind, pure, Except.pure, BitVec.extractLsb'_append_eq_of_add_le, BitVec.extractLsb'_append_eq_of_le, Instr.wf, readAs] at hw ⊢
theorem movi (pr imm ta) : Statement (.movi pr imm ta) := by
  intro _ hw; refine tile_word (packGI_tile (by decide) ..) (decode_tile (p := pr) (by simp only [encode, packGI_x22_2]) ?_)
  rw [show (BitVec.extractLsb' 28 4 (encode (.movi pr imm ta))).toNat = 0 by simp only [encode, packGI_x28_4]; rfl,
    show (BitVec.extractLsb' 24 4 (encode (.movi pr imm ta))).toNat = 2 by simp only [encode, packGI_x24_4]; rfl]
  simp (disch := decide) only [encode, decodeOp, decode0, packGI_x13_9, packGI_x9_4, packGI_x21_1, packGI_x9_12, packGI_fImm, packGI_fTA, ↓reduceIte, Nat.reduceSub, BitVec.extractLsb'_eq_self, rdTgt_wrTgt, bind, Except.bind, pure, Except.pure, BitVec.extractLsb'_append_eq_of_add_le, BitVec.extractLsb'_append_eq_of_le, Instr.wf, readAs] at hw ⊢
theorem const (pr k ta) : Statement (.const pr k ta) := by
  intro _ hw; refine tile_word (packGI_tile (by decide) ..) (decode_tile (p := pr) (by simp only [encode, packGI_x22_2]) ?_)
  rw [show (BitVec.extractLsb' 28 4 (encode (.const pr k ta))).toNat = 0 by simp only [encode, packGI_x28_4]; rfl,
    show (BitVec.extractLsb' 24 4 (encode (.const pr k ta))).toNat = 3 by simp only [encode, packGI_x24_4]; rfl]
  simp (disch := decide) only [encode, decodeOp, decode0, rdConst, packGI_x13_9, packGI_x9_4, packGI_x21_1, packGI_x9_12, packGI_fImm, packGI_fTA, ↓reduceIte, Nat.reduceSub, BitVec.extractLsb'_eq_self, rdTgt_wrTgt, bind, Except.bind, pure, Except.pure, BitVec.extractLsb'_append_eq_of_add_le, BitVec.extractLsb'_append_eq_of_le, Instr.wf, readAs] at hw ⊢
theorem mov (pr tb ta) : Statement (.mov pr tb ta) := by
  intro _ hw; refine tile_word (packG2_tile (by decide) ..) (decode_tile (p := pr) (by simp only [encode, packG2_x22_2]) ?_)
  rw [show (BitVec.extractLsb' 28 4 (encode (.mov pr tb ta))).toNat = 0 by simp only [encode, packG2_x28_4]; rfl,
    show (BitVec.extractLsb' 24 4 (encode (.mov pr tb ta))).toNat = 4 by simp only [encode, packG2_x24_4]; rfl]
  simp (disch := decide) only [encode, decodeOp, decode0, ty0, packG2_x18_3, packG2_x20_2, packG2_x18_2, packG2_fTY, packG2_fTB, packG2_fTA, packG2_b21, ↓reduceIte, Nat.reduceSub, BitVec.extractLsb'_eq_self, rdTgt_wrTgt, bind, Except.bind, pure, Except.pure, BitVec.extractLsb'_append_eq_of_add_le, BitVec.extractLsb'_append_eq_of_le, Instr.wf, readAs] at hw ⊢
theorem get (pr h tag ta) : Statement (.get pr h tag ta) := by
  intro _ hw; refine tile_word (packC_tile (by decide) ..) (decode_tile (p := pr) (by simp only [encode, packC_x22_2]) ?_)
  rw [show (BitVec.extractLsb' 28 4 (encode (.get pr h tag ta))).toNat = 0 by simp only [encode, packC_x28_4]; rfl,
    show (BitVec.extractLsb' 24 4 (encode (.get pr h tag ta))).toNat = 5 by simp only [encode, packC_x24_4]; rfl]
  simp (disch := decide) only [encode, decodeOp, decode0, rdAuxTag_wrAuxTag, packC_x20_2, packC_x16_4, packC_x19_3, packC_x16_3, packC_x18_4, packC_x16_2, packC_x11_5, packC_x9_2, packC_x13_3, packC_x9_4, packC_x14_2, packC_x11_3, packC_x9_5, packC_fHnd, packC_fAux, packC_fTA, ↓reduceIte, Nat.reduceSub, BitVec.extractLsb'_eq_self, rdTgt_wrTgt, bind, Except.bind, pure, Except.pure, BitVec.extractLsb'_append_eq_of_add_le, BitVec.extractLsb'_append_eq_of_le, Instr.wf, readAs] at hw ⊢
theorem put (pr h) : Statement (.put pr h) := by
  intro _ hw; refine tile_word (packC_tile (by decide) ..) (decode_tile (p := pr) (by simp only [encode, packC_x22_2]) ?_)
  rw [show (BitVec.extractLsb' 28 4 (encode (.put pr h))).toNat = 0 by simp only [encode, packC_x28_4]; rfl,
    show (BitVec.extractLsb' 24 4 (encode (.put pr h))).toNat = 6 by simp only [encode, packC_x24_4]; rfl]
  simp (disch := decide) only [encode, decodeOp, decode0, aux0, ta0, packC_x20_2, packC_x16_4, packC_x19_3, packC_x16_3, packC_x18_4, packC_x16_2, packC_x11_5, packC_x9_2, packC_x13_3, packC_x9_4, packC_x14_2, packC_x11_3, packC_x9_5, packC_fHnd, packC_fAux, packC_fTA, ↓reduceIte, Nat.reduceSub, BitVec.extractLsb'_eq_self, rdTgt_wrTgt, bind, Except.bind, pure, Except.pure, BitVec.extractLsb'_append_eq_of_add_le, BitVec.extractLsb'_append_eq_of_le, Instr.wf, readAs] at hw ⊢
theorem getv (pr h tag ta) : Statement (.getv pr h tag ta) := by
  intro _ hw; refine tile_word (packC_tile (by decide) ..) (decode_tile (p := pr) (by simp only [encode, packC_x22_2]) ?_)
  rw [show (BitVec.extractLsb' 28 4 (encode (.getv pr h tag ta))).toNat = 0 by simp only [encode, packC_x28_4]; rfl,
    show (BitVec.extractLsb' 24 4 (encode (.getv pr h tag ta))).toNat = 7 by simp only [encode, packC_x24_4]; rfl]
  simp (disch := decide) only [encode, decodeOp, decode0, rdH4, rdAuxTag_wrAuxTag, packC_x20_2, packC_x16_4, packC_x19_3, packC_x16_3, packC_x18_4, packC_x16_2, packC_x11_5, packC_x9_2, packC_x13_3, packC_x9_4, packC_x14_2, packC_x11_3, packC_x9_5, packC_fHnd, packC_fAux, packC_fTA, ↓reduceIte, Nat.reduceSub, BitVec.extractLsb'_eq_self, rdTgt_wrTgt, bind, Except.bind, pure, Except.pure, BitVec.extractLsb'_append_eq_of_add_le, BitVec.extractLsb'_append_eq_of_le, Instr.wf, readAs] at hw ⊢
theorem putv (pr h m) : Statement (.putv pr h m) := by
  intro _ hw; refine tile_word (packC_tile (by decide) ..) (decode_tile (p := pr) (by simp only [encode, packC_x22_2]) ?_)
  rw [show (BitVec.extractLsb' 28 4 (encode (.putv pr h m))).toNat = 0 by simp only [encode, packC_x28_4]; rfl,
    show (BitVec.extractLsb' 24 4 (encode (.putv pr h m))).toNat = 8 by simp only [encode, packC_x24_4]; rfl]
  cases m <;> simp (disch := decide) only [encode, decodeOp, decode0, ta0, rdH4, rdAuxBit, wrBit7, packC_x20_2, packC_x16_4, packC_x19_3, packC_x16_3, packC_x18_4, packC_x16_2, packC_x11_5, packC_x9_2, packC_x13_3, packC_x9_4, packC_x14_2, packC_x11_3, packC_x9_5, packC_fHnd, packC_fAux, packC_fTA, ↓reduceIte, Nat.reduceSub, BitVec.extractLsb'_eq_self, rdTgt_wrTgt, bind, Except.bind, pure, Except.pure, BitVec.extractLsb'_append_eq_of_add_le, BitVec.extractLsb'_append_eq_of_le, Instr.wf, readAs] at hw ⊢ <;> rfl
theorem getm (pr h ta) : Statement (.getm pr h ta) := by
  intro _ hw; refine tile_word (packC_tile (by decide) ..) (decode_tile (p := pr) (by simp only [encode, packC_x22_2]) ?_)
  rw [show (BitVec.extractLsb' 28 4 (encode (.getm pr h ta))).toNat = 0 by simp only [encode, packC_x28_4]; rfl,
    show (BitVec.extractLsb' 24 4 (encode (.getm pr h ta))).toNat = 9 by simp only [encode, packC_x24_4]; rfl]
  simp (disch := decide) only [encode, decodeOp, decode0, aux0, rdH3, packC_x20_2, packC_x16_4, packC_x19_3, packC_x16_3, packC_x18_4, packC_x16_2, packC_x11_5, packC_x9_2, packC_x13_3, packC_x9_4, packC_x14_2, packC_x11_3, packC_x9_5, packC_fHnd, packC_fAux, packC_fTA, ↓reduceIte, Nat.reduceSub, BitVec.extractLsb'_eq_self, rdTgt_wrTgt, bind, Except.bind, pure, Except.pure, BitVec.extractLsb'_append_eq_of_add_le, BitVec.extractLsb'_append_eq_of_le, Instr.wf, readAs] at hw ⊢
theorem putm (pr h) : Statement (.putm pr h) := by
  intro _ hw; refine tile_word (packC_tile (by decide) ..) (decode_tile (p := pr) (by simp only [encode, packC_x22_2]) ?_)
  rw [show (BitVec.extractLsb' 28 4 (encode (.putm pr h))).toNat = 0 by simp only [encode, packC_x28_4]; rfl,
    show (BitVec.extractLsb' 24 4 (encode (.putm pr h))).toNat = 10 by simp only [encode, packC_x24_4]; rfl]
  simp (disch := decide) only [encode, decodeOp, decode0, aux0, ta0, rdH3, packC_x20_2, packC_x16_4, packC_x19_3, packC_x16_3, packC_x18_4, packC_x16_2, packC_x11_5, packC_x9_2, packC_x13_3, packC_x9_4, packC_x14_2, packC_x11_3, packC_x9_5, packC_fHnd, packC_fAux, packC_fTA, ↓reduceIte, Nat.reduceSub, BitVec.extractLsb'_eq_self, rdTgt_wrTgt, bind, Except.bind, pure, Except.pure, BitVec.extractLsb'_append_eq_of_add_le, BitVec.extractLsb'_append_eq_of_le, Instr.wf, readAs] at hw ⊢
theorem recv (pr c n ta) : Statement (.recv pr c n ta) := by
  intro _ hw; refine tile_word (packC_tile (by decide) ..) (decode_tile (p := pr) (by simp only [encode, packC_x22_2]) ?_)
  rw [show (BitVec.extractLsb' 28 4 (encode (.recv pr c n ta))).toNat = 0 by simp only [encode, packC_x28_4]; rfl,
    show (BitVec.extractLsb' 24 4 (encode (.recv pr c n ta))).toNat = 11 by simp only [encode, packC_x24_4]; rfl]
  simp (disch := decide) only [encode, decodeOp, decode0, rdH4, rdAux2, packC_x20_2, packC_x16_4, packC_x19_3, packC_x16_3, packC_x18_4, packC_x16_2, packC_x11_5, packC_x9_2, packC_x13_3, packC_x9_4, packC_x14_2, packC_x11_3, packC_x9_5, packC_fHnd, packC_fAux, packC_fTA, ↓reduceIte, Nat.reduceSub, BitVec.extractLsb'_eq_self, rdTgt_wrTgt, bind, Except.bind, pure, Except.pure, BitVec.extractLsb'_append_eq_of_add_le, BitVec.extractLsb'_append_eq_of_le, Instr.wf, readAs] at hw ⊢
theorem send (pr c) : Statement (.send pr c) := by
  intro _ hw; refine tile_word (packC_tile (by decide) ..) (decode_tile (p := pr) (by simp only [encode, packC_x22_2]) ?_)
  rw [show (BitVec.extractLsb' 28 4 (encode (.send pr c))).toNat = 0 by simp only [encode, packC_x28_4]; rfl,
    show (BitVec.extractLsb' 24 4 (encode (.send pr c))).toNat = 12 by simp only [encode, packC_x24_4]; rfl]
  simp (disch := decide) only [encode, decodeOp, decode0, aux0, ta0, rdH4, packC_x20_2, packC_x16_4, packC_x19_3, packC_x16_3, packC_x18_4, packC_x16_2, packC_x11_5, packC_x9_2, packC_x13_3, packC_x9_4, packC_x14_2, packC_x11_3, packC_x9_5, packC_fHnd, packC_fAux, packC_fTA, ↓reduceIte, Nat.reduceSub, BitVec.extractLsb'_eq_self, rdTgt_wrTgt, bind, Except.bind, pure, Except.pure, BitVec.extractLsb'_append_eq_of_add_le, BitVec.extractLsb'_append_eq_of_le, Instr.wf, readAs] at hw ⊢
theorem sendc (pr c k) : Statement (.sendc pr c k) := by
  intro _ hw; refine tile_word (packC_tile (by decide) ..) (decode_tile (p := pr) (by simp only [encode, packC_x22_2]) ?_)
  rw [show (BitVec.extractLsb' 28 4 (encode (.sendc pr c k))).toNat = 0 by simp only [encode, packC_x28_4]; rfl,
    show (BitVec.extractLsb' 24 4 (encode (.sendc pr c k))).toNat = 13 by simp only [encode, packC_x24_4]; rfl]
  simp (disch := decide) only [encode, decodeOp, decode0, ta0, rdH4, rdAux4, packC_x20_2, packC_x16_4, packC_x19_3, packC_x16_3, packC_x18_4, packC_x16_2, packC_x11_5, packC_x9_2, packC_x13_3, packC_x9_4, packC_x14_2, packC_x11_3, packC_x9_5, packC_fHnd, packC_fAux, packC_fTA, ↓reduceIte, Nat.reduceSub, BitVec.extractLsb'_eq_self, rdTgt_wrTgt, bind, Except.bind, pure, Except.pure, BitVec.extractLsb'_append_eq_of_add_le, BitVec.extractLsb'_append_eq_of_le, Instr.wf, readAs] at hw ⊢
theorem null (pr tb ta) : Statement (.null pr tb ta) := by
  intro _ hw; refine tile_word (packG2_tile (by decide) ..) (decode_tile (p := pr) (by simp only [encode, packG2_x22_2]) ?_)
  rw [show (BitVec.extractLsb' 28 4 (encode (.null pr tb ta))).toNat = 0 by simp only [encode, packG2_x28_4]; rfl,
    show (BitVec.extractLsb' 24 4 (encode (.null pr tb ta))).toNat = 14 by simp only [encode, packG2_x24_4]; rfl]
  simp (disch := decide) only [encode, decodeOp, decode0, ty0, packG2_x18_3, packG2_x20_2, packG2_x18_2, packG2_fTY, packG2_fTB, packG2_fTA, packG2_b21, ↓reduceIte, Nat.reduceSub, BitVec.extractLsb'_eq_self, rdTgt_wrTgt, bind, Except.bind, pure, Except.pure, BitVec.extractLsb'_append_eq_of_add_le, BitVec.extractLsb'_append_eq_of_le, Instr.wf, readAs] at hw ⊢
theorem tst (pr cond w32 tb ta) : Statement (.tst pr cond w32 tb ta) := by
  intro _ hw; refine tile_word (packG2_tile (by decide) ..) (decode_tile (p := pr) (by simp only [encode, packG2_x22_2]) ?_)
  rw [show (BitVec.extractLsb' 28 4 (encode (.tst pr cond w32 tb ta))).toNat = 0 by simp only [encode, packG2_x28_4]; rfl,
    show (BitVec.extractLsb' 24 4 (encode (.tst pr cond w32 tb ta))).toNat = 15 by simp only [encode, packG2_x24_4]; rfl]
  cases w32 <;> simp (disch := decide) only [encode, decodeOp, decode0, cond3_condCode, wrTst, packG2_x18_3, packG2_x20_2, packG2_x18_2, packG2_fTY, packG2_fTB, packG2_fTA, packG2_b21, ↓reduceIte, Nat.reduceSub, BitVec.extractLsb'_eq_self, rdTgt_wrTgt, bind, Except.bind, pure, Except.pure, BitVec.extractLsb'_append_eq_of_add_le, BitVec.extractLsb'_append_eq_of_le, Instr.wf, readAs] at hw ⊢ <;> cases cond <;> rfl
theorem sel (pr tb ta) : Statement (.sel pr tb ta) := by
  intro _ hw; refine tile_word (packG2_tile (by decide) ..) (decode_tile (p := pr) (by simp only [encode, packG2_x22_2]) ?_)
  rw [show (BitVec.extractLsb' 28 4 (encode (.sel pr tb ta))).toNat = 1 by simp only [encode, packG2_x28_4]; rfl,
    show (BitVec.extractLsb' 24 4 (encode (.sel pr tb ta))).toNat = 0 by simp only [encode, packG2_x24_4]; rfl]
  simp (disch := decide) only [encode, decodeOp, decode1, ty0, packG2_x18_3, packG2_x20_2, packG2_x18_2, packG2_fTY, packG2_fTB, packG2_fTA, packG2_b21, ↓reduceIte, Nat.reduceSub, BitVec.extractLsb'_eq_self, rdTgt_wrTgt, bind, Except.bind, pure, Except.pure, BitVec.extractLsb'_append_eq_of_add_le, BitVec.extractLsb'_append_eq_of_le, Instr.wf, readAs] at hw ⊢
theorem br (pr imm) : Statement (.br pr imm) := by
  intro _ hw; refine tile_word (packGI_tile (by decide) ..) (decode_tile (p := pr) (by simp only [encode, packGI_x22_2]) ?_)
  rw [show (BitVec.extractLsb' 28 4 (encode (.br pr imm))).toNat = 1 by simp only [encode, packGI_x28_4]; rfl,
    show (BitVec.extractLsb' 24 4 (encode (.br pr imm))).toNat = 1 by simp only [encode, packGI_x24_4]; rfl]
  simp (disch := decide) only [encode, decodeOp, decode1, ta0, packGI_x13_9, packGI_x9_4, packGI_x21_1, packGI_x9_12, packGI_fImm, packGI_fTA, ↓reduceIte, Nat.reduceSub, BitVec.extractLsb'_eq_self, rdTgt_wrTgt, bind, Except.bind, pure, Except.pure, BitVec.extractLsb'_append_eq_of_add_le, BitVec.extractLsb'_append_eq_of_le, Instr.wf, readAs] at hw ⊢
theorem bri (pr) : Statement (.bri pr) := by
  intro _ hw; refine tile_word (packG2_tile (by decide) ..) (decode_tile (p := pr) (by simp only [encode, packG2_x22_2]) ?_)
  rw [show (BitVec.extractLsb' 28 4 (encode (.bri pr))).toNat = 1 by simp only [encode, packG2_x28_4]; rfl,
    show (BitVec.extractLsb' 24 4 (encode (.bri pr))).toNat = 2 by simp only [encode, packG2_x24_4]; rfl]
  simp (disch := decide) only [encode, decodeOp, decode1, packG2_low, z22, packG2_x18_3, packG2_x20_2, packG2_x18_2, packG2_fTY, packG2_fTB, packG2_fTA, packG2_b21, ↓reduceIte, Nat.reduceSub, BitVec.extractLsb'_eq_self, rdTgt_wrTgt, bind, Except.bind, pure, Except.pure, BitVec.extractLsb'_append_eq_of_add_le, BitVec.extractLsb'_append_eq_of_le, Instr.wf, readAs] at hw ⊢
theorem call (pr imm) : Statement (.call pr imm) := by
  intro _ hw; refine tile_word (packGI_tile (by decide) ..) (decode_tile (p := pr) (by simp only [encode, packGI_x22_2]) ?_)
  rw [show (BitVec.extractLsb' 28 4 (encode (.call pr imm))).toNat = 1 by simp only [encode, packGI_x28_4]; rfl,
    show (BitVec.extractLsb' 24 4 (encode (.call pr imm))).toNat = 3 by simp only [encode, packGI_x24_4]; rfl]
  simp (disch := decide) only [encode, decodeOp, decode1, ta0, packGI_x13_9, packGI_x9_4, packGI_x21_1, packGI_x9_12, packGI_fImm, packGI_fTA, ↓reduceIte, Nat.reduceSub, BitVec.extractLsb'_eq_self, rdTgt_wrTgt, bind, Except.bind, pure, Except.pure, BitVec.extractLsb'_append_eq_of_add_le, BitVec.extractLsb'_append_eq_of_le, Instr.wf, readAs] at hw ⊢
theorem ret (pr) : Statement (.ret pr) := by
  intro _ hw; refine tile_word (packG2_tile (by decide) ..) (decode_tile (p := pr) (by simp only [encode, packG2_x22_2]) ?_)
  rw [show (BitVec.extractLsb' 28 4 (encode (.ret pr))).toNat = 1 by simp only [encode, packG2_x28_4]; rfl,
    show (BitVec.extractLsb' 24 4 (encode (.ret pr))).toNat = 4 by simp only [encode, packG2_x24_4]; rfl]
  simp (disch := decide) only [encode, decodeOp, decode1, packG2_low, z22, packG2_x18_3, packG2_x20_2, packG2_x18_2, packG2_fTY, packG2_fTB, packG2_fTA, packG2_b21, ↓reduceIte, Nat.reduceSub, BitVec.extractLsb'_eq_self, rdTgt_wrTgt, bind, Except.bind, pure, Except.pure, BitVec.extractLsb'_append_eq_of_add_le, BitVec.extractLsb'_append_eq_of_le, Instr.wf, readAs] at hw ⊢
theorem tend (pr) : Statement (.tend pr) := by
  intro _ hw; refine tile_word (packG2_tile (by decide) ..) (decode_tile (p := pr) (by simp only [encode, packG2_x22_2]) ?_)
  rw [show (BitVec.extractLsb' 28 4 (encode (.tend pr))).toNat = 1 by simp only [encode, packG2_x28_4]; rfl,
    show (BitVec.extractLsb' 24 4 (encode (.tend pr))).toNat = 5 by simp only [encode, packG2_x24_4]; rfl]
  simp (disch := decide) only [encode, decodeOp, decode1, packG2_low, z22, packG2_x18_3, packG2_x20_2, packG2_x18_2, packG2_fTY, packG2_fTB, packG2_fTA, packG2_b21, ↓reduceIte, Nat.reduceSub, BitVec.extractLsb'_eq_self, rdTgt_wrTgt, bind, Except.bind, pure, Except.pure, BitVec.extractLsb'_append_eq_of_add_le, BitVec.extractLsb'_append_eq_of_le, Instr.wf, readAs] at hw ⊢
theorem timer (pr c rel) : Statement (.timer pr c rel) := by
  intro _ hw; refine tile_word (packC_tile (by decide) ..) (decode_tile (p := pr) (by simp only [encode, packC_x22_2]) ?_)
  rw [show (BitVec.extractLsb' 28 4 (encode (.timer pr c rel))).toNat = 1 by simp only [encode, packC_x28_4]; rfl,
    show (BitVec.extractLsb' 24 4 (encode (.timer pr c rel))).toNat = 6 by simp only [encode, packC_x24_4]; rfl]
  cases rel <;> simp (disch := decide) only [encode, decodeOp, decode1, ta0, rdH4, rdAuxBit, wrBit7, packC_x20_2, packC_x16_4, packC_x19_3, packC_x16_3, packC_x18_4, packC_x16_2, packC_x11_5, packC_x9_2, packC_x13_3, packC_x9_4, packC_x14_2, packC_x11_3, packC_x9_5, packC_fHnd, packC_fAux, packC_fTA, ↓reduceIte, Nat.reduceSub, BitVec.extractLsb'_eq_self, rdTgt_wrTgt, bind, Except.bind, pure, Except.pure, BitVec.extractLsb'_append_eq_of_add_le, BitVec.extractLsb'_append_eq_of_le, Instr.wf, readAs] at hw ⊢ <;> rfl
theorem rdcyc (pr tb ta) : Statement (.rdcyc pr tb ta) := by
  intro _ hw; refine tile_word (packG2_tile (by decide) ..) (decode_tile (p := pr) (by simp only [encode, packG2_x22_2]) ?_)
  rw [show (BitVec.extractLsb' 28 4 (encode (.rdcyc pr tb ta))).toNat = 1 by simp only [encode, packG2_x28_4]; rfl,
    show (BitVec.extractLsb' 24 4 (encode (.rdcyc pr tb ta))).toNat = 7 by simp only [encode, packG2_x24_4]; rfl]
  simp (disch := decide) only [encode, decodeOp, decode1, ty0, packG2_x18_3, packG2_x20_2, packG2_x18_2, packG2_fTY, packG2_fTB, packG2_fTA, packG2_b21, ↓reduceIte, Nat.reduceSub, BitVec.extractLsb'_eq_self, rdTgt_wrTgt, bind, Except.bind, pure, Except.pure, BitVec.extractLsb'_append_eq_of_add_le, BitVec.extractLsb'_append_eq_of_le, Instr.wf, readAs] at hw ⊢
theorem rdid (pr k ta) : Statement (.rdid pr k ta) := by
  intro _ hw; refine tile_word (packGI_tile (by decide) ..) (decode_tile (p := pr) (by simp only [encode, packGI_x22_2]) ?_)
  rw [show (BitVec.extractLsb' 28 4 (encode (.rdid pr k ta))).toNat = 1 by simp only [encode, packGI_x28_4]; rfl,
    show (BitVec.extractLsb' 24 4 (encode (.rdid pr k ta))).toNat = 8 by simp only [encode, packGI_x24_4]; rfl]
  simp (disch := decide) only [encode, decodeOp, decode1, rdRdid, packGI_x13_9, packGI_x9_4, packGI_x21_1, packGI_x9_12, packGI_fImm, packGI_fTA, ↓reduceIte, Nat.reduceSub, BitVec.extractLsb'_eq_self, rdTgt_wrTgt, bind, Except.bind, pure, Except.pure, BitVec.extractLsb'_append_eq_of_add_le, BitVec.extractLsb'_append_eq_of_le, Instr.wf, readAs] at hw ⊢
  simp_all
theorem pyield (pr imm) : Statement (.pyield pr imm) := by
  intro _ hw; refine tile_word (packGI_tile (by decide) ..) (decode_tile (p := pr) (by simp only [encode, packGI_x22_2]) ?_)
  rw [show (BitVec.extractLsb' 28 4 (encode (.pyield pr imm))).toNat = 1 by simp only [encode, packGI_x28_4]; rfl,
    show (BitVec.extractLsb' 24 4 (encode (.pyield pr imm))).toNat = 9 by simp only [encode, packGI_x24_4]; rfl]
  simp (disch := decide) only [encode, decodeOp, decode1, ta0, packGI_x13_9, packGI_x9_4, packGI_x21_1, packGI_x9_12, packGI_fImm, packGI_fTA, ↓reduceIte, Nat.reduceSub, BitVec.extractLsb'_eq_self, rdTgt_wrTgt, bind, Except.bind, pure, Except.pure, BitVec.extractLsb'_append_eq_of_add_le, BitVec.extractLsb'_append_eq_of_le, Instr.wf, readAs] at hw ⊢
theorem add (pr sw tb ta) : Statement (.add pr sw tb ta) := by
  intro _ hw; refine tile_word (packG2_tile (by decide) ..) (decode_tile (p := pr) (by simp only [encode, packG2_x22_2]) ?_)
  rw [show (BitVec.extractLsb' 28 4 (encode (.add pr sw tb ta))).toNat = 2 by simp only [encode, packG2_x28_4]; rfl,
    show (BitVec.extractLsb' 24 4 (encode (.add pr sw tb ta))).toNat = 0 by simp only [encode, packG2_x24_4]; rfl]
  cases sw <;> simp (disch := decide) only [encode, decodeOp, decode2, rdSW, wrSW, packG2_x18_3, packG2_x20_2, packG2_x18_2, packG2_fTY, packG2_fTB, packG2_fTA, packG2_b21, ↓reduceIte, Nat.reduceSub, BitVec.extractLsb'_eq_self, rdTgt_wrTgt, bind, Except.bind, pure, Except.pure, BitVec.extractLsb'_append_eq_of_add_le, BitVec.extractLsb'_append_eq_of_le, Instr.wf, readAs] at hw ⊢ <;> rfl
theorem sub (pr sw tb ta) : Statement (.sub pr sw tb ta) := by
  intro _ hw; refine tile_word (packG2_tile (by decide) ..) (decode_tile (p := pr) (by simp only [encode, packG2_x22_2]) ?_)
  rw [show (BitVec.extractLsb' 28 4 (encode (.sub pr sw tb ta))).toNat = 2 by simp only [encode, packG2_x28_4]; rfl,
    show (BitVec.extractLsb' 24 4 (encode (.sub pr sw tb ta))).toNat = 1 by simp only [encode, packG2_x24_4]; rfl]
  cases sw <;> simp (disch := decide) only [encode, decodeOp, decode2, rdSW, wrSW, packG2_x18_3, packG2_x20_2, packG2_x18_2, packG2_fTY, packG2_fTB, packG2_fTA, packG2_b21, ↓reduceIte, Nat.reduceSub, BitVec.extractLsb'_eq_self, rdTgt_wrTgt, bind, Except.bind, pure, Except.pure, BitVec.extractLsb'_append_eq_of_add_le, BitVec.extractLsb'_append_eq_of_le, Instr.wf, readAs] at hw ⊢ <;> rfl
theorem addi (pr imm ta) : Statement (.addi pr imm ta) := by
  intro _ hw; refine tile_word (packGI_tile (by decide) ..) (decode_tile (p := pr) (by simp only [encode, packGI_x22_2]) ?_)
  rw [show (BitVec.extractLsb' 28 4 (encode (.addi pr imm ta))).toNat = 2 by simp only [encode, packGI_x28_4]; rfl,
    show (BitVec.extractLsb' 24 4 (encode (.addi pr imm ta))).toNat = 2 by simp only [encode, packGI_x24_4]; rfl]
  simp (disch := decide) only [encode, decodeOp, decode2, packGI_x13_9, packGI_x9_4, packGI_x21_1, packGI_x9_12, packGI_fImm, packGI_fTA, ↓reduceIte, Nat.reduceSub, BitVec.extractLsb'_eq_self, rdTgt_wrTgt, bind, Except.bind, pure, Except.pure, BitVec.extractLsb'_append_eq_of_add_le, BitVec.extractLsb'_append_eq_of_le, Instr.wf, readAs] at hw ⊢
theorem mul (pr sw tb ta) : Statement (.mul pr sw tb ta) := by
  intro _ hw; refine tile_word (packG2_tile (by decide) ..) (decode_tile (p := pr) (by simp only [encode, packG2_x22_2]) ?_)
  rw [show (BitVec.extractLsb' 28 4 (encode (.mul pr sw tb ta))).toNat = 2 by simp only [encode, packG2_x28_4]; rfl,
    show (BitVec.extractLsb' 24 4 (encode (.mul pr sw tb ta))).toNat = 3 by simp only [encode, packG2_x24_4]; rfl]
  cases sw <;> simp (disch := decide) only [encode, decodeOp, decode2, rdSW, wrSW, packG2_x18_3, packG2_x20_2, packG2_x18_2, packG2_fTY, packG2_fTB, packG2_fTA, packG2_b21, ↓reduceIte, Nat.reduceSub, BitVec.extractLsb'_eq_self, rdTgt_wrTgt, bind, Except.bind, pure, Except.pure, BitVec.extractLsb'_append_eq_of_add_le, BitVec.extractLsb'_append_eq_of_le, Instr.wf, readAs] at hw ⊢ <;> rfl
theorem mulh (pr sw tb ta) : Statement (.mulh pr sw tb ta) := by
  intro _ hw; refine tile_word (packG2_tile (by decide) ..) (decode_tile (p := pr) (by simp only [encode, packG2_x22_2]) ?_)
  rw [show (BitVec.extractLsb' 28 4 (encode (.mulh pr sw tb ta))).toNat = 2 by simp only [encode, packG2_x28_4]; rfl,
    show (BitVec.extractLsb' 24 4 (encode (.mulh pr sw tb ta))).toNat = 4 by simp only [encode, packG2_x24_4]; rfl]
  cases sw <;> simp (disch := decide) only [encode, decodeOp, decode2, rdSW, wrSW, packG2_x18_3, packG2_x20_2, packG2_x18_2, packG2_fTY, packG2_fTB, packG2_fTA, packG2_b21, ↓reduceIte, Nat.reduceSub, BitVec.extractLsb'_eq_self, rdTgt_wrTgt, bind, Except.bind, pure, Except.pure, BitVec.extractLsb'_append_eq_of_add_le, BitVec.extractLsb'_append_eq_of_le, Instr.wf, readAs] at hw ⊢ <;> rfl
theorem mulhu (pr sw tb ta) : Statement (.mulhu pr sw tb ta) := by
  intro _ hw; refine tile_word (packG2_tile (by decide) ..) (decode_tile (p := pr) (by simp only [encode, packG2_x22_2]) ?_)
  rw [show (BitVec.extractLsb' 28 4 (encode (.mulhu pr sw tb ta))).toNat = 2 by simp only [encode, packG2_x28_4]; rfl,
    show (BitVec.extractLsb' 24 4 (encode (.mulhu pr sw tb ta))).toNat = 5 by simp only [encode, packG2_x24_4]; rfl]
  cases sw <;> simp (disch := decide) only [encode, decodeOp, decode2, rdSW, wrSW, packG2_x18_3, packG2_x20_2, packG2_x18_2, packG2_fTY, packG2_fTB, packG2_fTA, packG2_b21, ↓reduceIte, Nat.reduceSub, BitVec.extractLsb'_eq_self, rdTgt_wrTgt, bind, Except.bind, pure, Except.pure, BitVec.extractLsb'_append_eq_of_add_le, BitVec.extractLsb'_append_eq_of_le, Instr.wf, readAs] at hw ⊢ <;> rfl
theorem div (pr sw tb ta) : Statement (.div pr sw tb ta) := by
  intro _ hw; refine tile_word (packG2_tile (by decide) ..) (decode_tile (p := pr) (by simp only [encode, packG2_x22_2]) ?_)
  rw [show (BitVec.extractLsb' 28 4 (encode (.div pr sw tb ta))).toNat = 2 by simp only [encode, packG2_x28_4]; rfl,
    show (BitVec.extractLsb' 24 4 (encode (.div pr sw tb ta))).toNat = 6 by simp only [encode, packG2_x24_4]; rfl]
  cases sw <;> simp (disch := decide) only [encode, decodeOp, decode2, rdSW, wrSW, packG2_x18_3, packG2_x20_2, packG2_x18_2, packG2_fTY, packG2_fTB, packG2_fTA, packG2_b21, ↓reduceIte, Nat.reduceSub, BitVec.extractLsb'_eq_self, rdTgt_wrTgt, bind, Except.bind, pure, Except.pure, BitVec.extractLsb'_append_eq_of_add_le, BitVec.extractLsb'_append_eq_of_le, Instr.wf, readAs] at hw ⊢ <;> rfl
theorem divu (pr sw tb ta) : Statement (.divu pr sw tb ta) := by
  intro _ hw; refine tile_word (packG2_tile (by decide) ..) (decode_tile (p := pr) (by simp only [encode, packG2_x22_2]) ?_)
  rw [show (BitVec.extractLsb' 28 4 (encode (.divu pr sw tb ta))).toNat = 2 by simp only [encode, packG2_x28_4]; rfl,
    show (BitVec.extractLsb' 24 4 (encode (.divu pr sw tb ta))).toNat = 7 by simp only [encode, packG2_x24_4]; rfl]
  cases sw <;> simp (disch := decide) only [encode, decodeOp, decode2, rdSW, wrSW, packG2_x18_3, packG2_x20_2, packG2_x18_2, packG2_fTY, packG2_fTB, packG2_fTA, packG2_b21, ↓reduceIte, Nat.reduceSub, BitVec.extractLsb'_eq_self, rdTgt_wrTgt, bind, Except.bind, pure, Except.pure, BitVec.extractLsb'_append_eq_of_add_le, BitVec.extractLsb'_append_eq_of_le, Instr.wf, readAs] at hw ⊢ <;> rfl
theorem rem (pr sw tb ta) : Statement (.rem pr sw tb ta) := by
  intro _ hw; refine tile_word (packG2_tile (by decide) ..) (decode_tile (p := pr) (by simp only [encode, packG2_x22_2]) ?_)
  rw [show (BitVec.extractLsb' 28 4 (encode (.rem pr sw tb ta))).toNat = 2 by simp only [encode, packG2_x28_4]; rfl,
    show (BitVec.extractLsb' 24 4 (encode (.rem pr sw tb ta))).toNat = 8 by simp only [encode, packG2_x24_4]; rfl]
  cases sw <;> simp (disch := decide) only [encode, decodeOp, decode2, rdSW, wrSW, packG2_x18_3, packG2_x20_2, packG2_x18_2, packG2_fTY, packG2_fTB, packG2_fTA, packG2_b21, ↓reduceIte, Nat.reduceSub, BitVec.extractLsb'_eq_self, rdTgt_wrTgt, bind, Except.bind, pure, Except.pure, BitVec.extractLsb'_append_eq_of_add_le, BitVec.extractLsb'_append_eq_of_le, Instr.wf, readAs] at hw ⊢ <;> rfl
theorem remu (pr sw tb ta) : Statement (.remu pr sw tb ta) := by
  intro _ hw; refine tile_word (packG2_tile (by decide) ..) (decode_tile (p := pr) (by simp only [encode, packG2_x22_2]) ?_)
  rw [show (BitVec.extractLsb' 28 4 (encode (.remu pr sw tb ta))).toNat = 2 by simp only [encode, packG2_x28_4]; rfl,
    show (BitVec.extractLsb' 24 4 (encode (.remu pr sw tb ta))).toNat = 9 by simp only [encode, packG2_x24_4]; rfl]
  cases sw <;> simp (disch := decide) only [encode, decodeOp, decode2, rdSW, wrSW, packG2_x18_3, packG2_x20_2, packG2_x18_2, packG2_fTY, packG2_fTB, packG2_fTA, packG2_b21, ↓reduceIte, Nat.reduceSub, BitVec.extractLsb'_eq_self, rdTgt_wrTgt, bind, Except.bind, pure, Except.pure, BitVec.extractLsb'_append_eq_of_add_le, BitVec.extractLsb'_append_eq_of_le, Instr.wf, readAs] at hw ⊢ <;> rfl
theorem madd (pr sw tb ta) : Statement (.madd pr sw tb ta) := by
  intro _ hw; refine tile_word (packG2_tile (by decide) ..) (decode_tile (p := pr) (by simp only [encode, packG2_x22_2]) ?_)
  rw [show (BitVec.extractLsb' 28 4 (encode (.madd pr sw tb ta))).toNat = 2 by simp only [encode, packG2_x28_4]; rfl,
    show (BitVec.extractLsb' 24 4 (encode (.madd pr sw tb ta))).toNat = 10 by simp only [encode, packG2_x24_4]; rfl]
  cases sw <;> simp (disch := decide) only [encode, decodeOp, decode2, rdSW, wrSW, packG2_x18_3, packG2_x20_2, packG2_x18_2, packG2_fTY, packG2_fTB, packG2_fTA, packG2_b21, ↓reduceIte, Nat.reduceSub, BitVec.extractLsb'_eq_self, rdTgt_wrTgt, bind, Except.bind, pure, Except.pure, BitVec.extractLsb'_append_eq_of_add_le, BitVec.extractLsb'_append_eq_of_le, Instr.wf, readAs] at hw ⊢ <;> rfl
theorem lea (pr s tb ta) : Statement (.lea pr s tb ta) := by
  intro _ hw; refine tile_word (packG2_tile (by decide) ..) (decode_tile (p := pr) (by simp only [encode, packG2_x22_2]) ?_)
  rw [show (BitVec.extractLsb' 28 4 (encode (.lea pr s tb ta))).toNat = 2 by simp only [encode, packG2_x28_4]; rfl,
    show (BitVec.extractLsb' 24 4 (encode (.lea pr s tb ta))).toNat = 11 by simp only [encode, packG2_x24_4]; rfl]
  simp (disch := decide) only [encode, decodeOp, decode2, rdLea, packG2_x18_3, packG2_x20_2, packG2_x18_2, packG2_fTY, packG2_fTB, packG2_fTA, packG2_b21, ↓reduceIte, Nat.reduceSub, BitVec.extractLsb'_eq_self, rdTgt_wrTgt, bind, Except.bind, pure, Except.pure, BitVec.extractLsb'_append_eq_of_add_le, BitVec.extractLsb'_append_eq_of_le, Instr.wf, readAs] at hw ⊢
theorem addc (pr sw tb ta) : Statement (.addc pr sw tb ta) := by
  intro _ hw; refine tile_word (packG2_tile (by decide) ..) (decode_tile (p := pr) (by simp only [encode, packG2_x22_2]) ?_)
  rw [show (BitVec.extractLsb' 28 4 (encode (.addc pr sw tb ta))).toNat = 2 by simp only [encode, packG2_x28_4]; rfl,
    show (BitVec.extractLsb' 24 4 (encode (.addc pr sw tb ta))).toNat = 12 by simp only [encode, packG2_x24_4]; rfl]
  cases sw <;> simp (disch := decide) only [encode, decodeOp, decode2, rdSW, wrSW, packG2_x18_3, packG2_x20_2, packG2_x18_2, packG2_fTY, packG2_fTB, packG2_fTA, packG2_b21, ↓reduceIte, Nat.reduceSub, BitVec.extractLsb'_eq_self, rdTgt_wrTgt, bind, Except.bind, pure, Except.pure, BitVec.extractLsb'_append_eq_of_add_le, BitVec.extractLsb'_append_eq_of_le, Instr.wf, readAs] at hw ⊢ <;> rfl
theorem subb (pr sw tb ta) : Statement (.subb pr sw tb ta) := by
  intro _ hw; refine tile_word (packG2_tile (by decide) ..) (decode_tile (p := pr) (by simp only [encode, packG2_x22_2]) ?_)
  rw [show (BitVec.extractLsb' 28 4 (encode (.subb pr sw tb ta))).toNat = 2 by simp only [encode, packG2_x28_4]; rfl,
    show (BitVec.extractLsb' 24 4 (encode (.subb pr sw tb ta))).toNat = 13 by simp only [encode, packG2_x24_4]; rfl]
  cases sw <;> simp (disch := decide) only [encode, decodeOp, decode2, rdSW, wrSW, packG2_x18_3, packG2_x20_2, packG2_x18_2, packG2_fTY, packG2_fTB, packG2_fTA, packG2_b21, ↓reduceIte, Nat.reduceSub, BitVec.extractLsb'_eq_self, rdTgt_wrTgt, bind, Except.bind, pure, Except.pure, BitVec.extractLsb'_append_eq_of_add_le, BitVec.extractLsb'_append_eq_of_le, Instr.wf, readAs] at hw ⊢ <;> rfl
theorem neg (pr sw tb ta) : Statement (.neg pr sw tb ta) := by
  intro _ hw; refine tile_word (packG2_tile (by decide) ..) (decode_tile (p := pr) (by simp only [encode, packG2_x22_2]) ?_)
  rw [show (BitVec.extractLsb' 28 4 (encode (.neg pr sw tb ta))).toNat = 2 by simp only [encode, packG2_x28_4]; rfl,
    show (BitVec.extractLsb' 24 4 (encode (.neg pr sw tb ta))).toNat = 14 by simp only [encode, packG2_x24_4]; rfl]
  cases sw <;> simp (disch := decide) only [encode, decodeOp, decode2, rdSW, wrSW, packG2_x18_3, packG2_x20_2, packG2_x18_2, packG2_fTY, packG2_fTB, packG2_fTA, packG2_b21, ↓reduceIte, Nat.reduceSub, BitVec.extractLsb'_eq_self, rdTgt_wrTgt, bind, Except.bind, pure, Except.pure, BitVec.extractLsb'_append_eq_of_add_le, BitVec.extractLsb'_append_eq_of_le, Instr.wf, readAs] at hw ⊢ <;> rfl
theorem abs (pr sw tb ta) : Statement (.abs pr sw tb ta) := by
  intro _ hw; refine tile_word (packG2_tile (by decide) ..) (decode_tile (p := pr) (by simp only [encode, packG2_x22_2]) ?_)
  rw [show (BitVec.extractLsb' 28 4 (encode (.abs pr sw tb ta))).toNat = 2 by simp only [encode, packG2_x28_4]; rfl,
    show (BitVec.extractLsb' 24 4 (encode (.abs pr sw tb ta))).toNat = 15 by simp only [encode, packG2_x24_4]; rfl]
  cases sw <;> simp (disch := decide) only [encode, decodeOp, decode2, rdSW, wrSW, packG2_x18_3, packG2_x20_2, packG2_x18_2, packG2_fTY, packG2_fTB, packG2_fTA, packG2_b21, ↓reduceIte, Nat.reduceSub, BitVec.extractLsb'_eq_self, rdTgt_wrTgt, bind, Except.bind, pure, Except.pure, BitVec.extractLsb'_append_eq_of_add_le, BitVec.extractLsb'_append_eq_of_le, Instr.wf, readAs] at hw ⊢ <;> rfl
theorem and (pr sw tb ta) : Statement (.and pr sw tb ta) := by
  intro _ hw; refine tile_word (packG2_tile (by decide) ..) (decode_tile (p := pr) (by simp only [encode, packG2_x22_2]) ?_)
  rw [show (BitVec.extractLsb' 28 4 (encode (.and pr sw tb ta))).toNat = 3 by simp only [encode, packG2_x28_4]; rfl,
    show (BitVec.extractLsb' 24 4 (encode (.and pr sw tb ta))).toNat = 0 by simp only [encode, packG2_x24_4]; rfl]
  cases sw <;> simp (disch := decide) only [encode, decodeOp, decode3, rdSW, wrSW, packG2_x18_3, packG2_x20_2, packG2_x18_2, packG2_fTY, packG2_fTB, packG2_fTA, packG2_b21, ↓reduceIte, Nat.reduceSub, BitVec.extractLsb'_eq_self, rdTgt_wrTgt, bind, Except.bind, pure, Except.pure, BitVec.extractLsb'_append_eq_of_add_le, BitVec.extractLsb'_append_eq_of_le, Instr.wf, readAs] at hw ⊢ <;> rfl
theorem or (pr sw tb ta) : Statement (.or pr sw tb ta) := by
  intro _ hw; refine tile_word (packG2_tile (by decide) ..) (decode_tile (p := pr) (by simp only [encode, packG2_x22_2]) ?_)
  rw [show (BitVec.extractLsb' 28 4 (encode (.or pr sw tb ta))).toNat = 3 by simp only [encode, packG2_x28_4]; rfl,
    show (BitVec.extractLsb' 24 4 (encode (.or pr sw tb ta))).toNat = 1 by simp only [encode, packG2_x24_4]; rfl]
  cases sw <;> simp (disch := decide) only [encode, decodeOp, decode3, rdSW, wrSW, packG2_x18_3, packG2_x20_2, packG2_x18_2, packG2_fTY, packG2_fTB, packG2_fTA, packG2_b21, ↓reduceIte, Nat.reduceSub, BitVec.extractLsb'_eq_self, rdTgt_wrTgt, bind, Except.bind, pure, Except.pure, BitVec.extractLsb'_append_eq_of_add_le, BitVec.extractLsb'_append_eq_of_le, Instr.wf, readAs] at hw ⊢ <;> rfl
theorem xor (pr sw tb ta) : Statement (.xor pr sw tb ta) := by
  intro _ hw; refine tile_word (packG2_tile (by decide) ..) (decode_tile (p := pr) (by simp only [encode, packG2_x22_2]) ?_)
  rw [show (BitVec.extractLsb' 28 4 (encode (.xor pr sw tb ta))).toNat = 3 by simp only [encode, packG2_x28_4]; rfl,
    show (BitVec.extractLsb' 24 4 (encode (.xor pr sw tb ta))).toNat = 2 by simp only [encode, packG2_x24_4]; rfl]
  cases sw <;> simp (disch := decide) only [encode, decodeOp, decode3, rdSW, wrSW, packG2_x18_3, packG2_x20_2, packG2_x18_2, packG2_fTY, packG2_fTB, packG2_fTA, packG2_b21, ↓reduceIte, Nat.reduceSub, BitVec.extractLsb'_eq_self, rdTgt_wrTgt, bind, Except.bind, pure, Except.pure, BitVec.extractLsb'_append_eq_of_add_le, BitVec.extractLsb'_append_eq_of_le, Instr.wf, readAs] at hw ⊢ <;> rfl
theorem andn (pr sw tb ta) : Statement (.andn pr sw tb ta) := by
  intro _ hw; refine tile_word (packG2_tile (by decide) ..) (decode_tile (p := pr) (by simp only [encode, packG2_x22_2]) ?_)
  rw [show (BitVec.extractLsb' 28 4 (encode (.andn pr sw tb ta))).toNat = 3 by simp only [encode, packG2_x28_4]; rfl,
    show (BitVec.extractLsb' 24 4 (encode (.andn pr sw tb ta))).toNat = 3 by simp only [encode, packG2_x24_4]; rfl]
  cases sw <;> simp (disch := decide) only [encode, decodeOp, decode3, rdSW, wrSW, packG2_x18_3, packG2_x20_2, packG2_x18_2, packG2_fTY, packG2_fTB, packG2_fTA, packG2_b21, ↓reduceIte, Nat.reduceSub, BitVec.extractLsb'_eq_self, rdTgt_wrTgt, bind, Except.bind, pure, Except.pure, BitVec.extractLsb'_append_eq_of_add_le, BitVec.extractLsb'_append_eq_of_le, Instr.wf, readAs] at hw ⊢ <;> rfl
theorem not (pr sw tb ta) : Statement (.not pr sw tb ta) := by
  intro _ hw; refine tile_word (packG2_tile (by decide) ..) (decode_tile (p := pr) (by simp only [encode, packG2_x22_2]) ?_)
  rw [show (BitVec.extractLsb' 28 4 (encode (.not pr sw tb ta))).toNat = 3 by simp only [encode, packG2_x28_4]; rfl,
    show (BitVec.extractLsb' 24 4 (encode (.not pr sw tb ta))).toNat = 4 by simp only [encode, packG2_x24_4]; rfl]
  cases sw <;> simp (disch := decide) only [encode, decodeOp, decode3, rdSW, wrSW, packG2_x18_3, packG2_x20_2, packG2_x18_2, packG2_fTY, packG2_fTB, packG2_fTA, packG2_b21, ↓reduceIte, Nat.reduceSub, BitVec.extractLsb'_eq_self, rdTgt_wrTgt, bind, Except.bind, pure, Except.pure, BitVec.extractLsb'_append_eq_of_add_le, BitVec.extractLsb'_append_eq_of_le, Instr.wf, readAs] at hw ⊢ <;> rfl
theorem shl (pr sw tb ta) : Statement (.shl pr sw tb ta) := by
  intro _ hw; refine tile_word (packG2_tile (by decide) ..) (decode_tile (p := pr) (by simp only [encode, packG2_x22_2]) ?_)
  rw [show (BitVec.extractLsb' 28 4 (encode (.shl pr sw tb ta))).toNat = 3 by simp only [encode, packG2_x28_4]; rfl,
    show (BitVec.extractLsb' 24 4 (encode (.shl pr sw tb ta))).toNat = 5 by simp only [encode, packG2_x24_4]; rfl]
  cases sw <;> simp (disch := decide) only [encode, decodeOp, decode3, rdSW, wrSW, packG2_x18_3, packG2_x20_2, packG2_x18_2, packG2_fTY, packG2_fTB, packG2_fTA, packG2_b21, ↓reduceIte, Nat.reduceSub, BitVec.extractLsb'_eq_self, rdTgt_wrTgt, bind, Except.bind, pure, Except.pure, BitVec.extractLsb'_append_eq_of_add_le, BitVec.extractLsb'_append_eq_of_le, Instr.wf, readAs] at hw ⊢ <;> rfl
theorem shr (pr sw tb ta) : Statement (.shr pr sw tb ta) := by
  intro _ hw; refine tile_word (packG2_tile (by decide) ..) (decode_tile (p := pr) (by simp only [encode, packG2_x22_2]) ?_)
  rw [show (BitVec.extractLsb' 28 4 (encode (.shr pr sw tb ta))).toNat = 3 by simp only [encode, packG2_x28_4]; rfl,
    show (BitVec.extractLsb' 24 4 (encode (.shr pr sw tb ta))).toNat = 6 by simp only [encode, packG2_x24_4]; rfl]
  cases sw <;> simp (disch := decide) only [encode, decodeOp, decode3, rdSW, wrSW, packG2_x18_3, packG2_x20_2, packG2_x18_2, packG2_fTY, packG2_fTB, packG2_fTA, packG2_b21, ↓reduceIte, Nat.reduceSub, BitVec.extractLsb'_eq_self, rdTgt_wrTgt, bind, Except.bind, pure, Except.pure, BitVec.extractLsb'_append_eq_of_add_le, BitVec.extractLsb'_append_eq_of_le, Instr.wf, readAs] at hw ⊢ <;> rfl
theorem sra (pr sw tb ta) : Statement (.sra pr sw tb ta) := by
  intro _ hw; refine tile_word (packG2_tile (by decide) ..) (decode_tile (p := pr) (by simp only [encode, packG2_x22_2]) ?_)
  rw [show (BitVec.extractLsb' 28 4 (encode (.sra pr sw tb ta))).toNat = 3 by simp only [encode, packG2_x28_4]; rfl,
    show (BitVec.extractLsb' 24 4 (encode (.sra pr sw tb ta))).toNat = 7 by simp only [encode, packG2_x24_4]; rfl]
  cases sw <;> simp (disch := decide) only [encode, decodeOp, decode3, rdSW, wrSW, packG2_x18_3, packG2_x20_2, packG2_x18_2, packG2_fTY, packG2_fTB, packG2_fTA, packG2_b21, ↓reduceIte, Nat.reduceSub, BitVec.extractLsb'_eq_self, rdTgt_wrTgt, bind, Except.bind, pure, Except.pure, BitVec.extractLsb'_append_eq_of_add_le, BitVec.extractLsb'_append_eq_of_le, Instr.wf, readAs] at hw ⊢ <;> rfl
theorem rotl (pr sw tb ta) : Statement (.rotl pr sw tb ta) := by
  intro _ hw; refine tile_word (packG2_tile (by decide) ..) (decode_tile (p := pr) (by simp only [encode, packG2_x22_2]) ?_)
  rw [show (BitVec.extractLsb' 28 4 (encode (.rotl pr sw tb ta))).toNat = 3 by simp only [encode, packG2_x28_4]; rfl,
    show (BitVec.extractLsb' 24 4 (encode (.rotl pr sw tb ta))).toNat = 8 by simp only [encode, packG2_x24_4]; rfl]
  cases sw <;> simp (disch := decide) only [encode, decodeOp, decode3, rdSW, wrSW, packG2_x18_3, packG2_x20_2, packG2_x18_2, packG2_fTY, packG2_fTB, packG2_fTA, packG2_b21, ↓reduceIte, Nat.reduceSub, BitVec.extractLsb'_eq_self, rdTgt_wrTgt, bind, Except.bind, pure, Except.pure, BitVec.extractLsb'_append_eq_of_add_le, BitVec.extractLsb'_append_eq_of_le, Instr.wf, readAs] at hw ⊢ <;> rfl
theorem rotr (pr sw tb ta) : Statement (.rotr pr sw tb ta) := by
  intro _ hw; refine tile_word (packG2_tile (by decide) ..) (decode_tile (p := pr) (by simp only [encode, packG2_x22_2]) ?_)
  rw [show (BitVec.extractLsb' 28 4 (encode (.rotr pr sw tb ta))).toNat = 3 by simp only [encode, packG2_x28_4]; rfl,
    show (BitVec.extractLsb' 24 4 (encode (.rotr pr sw tb ta))).toNat = 9 by simp only [encode, packG2_x24_4]; rfl]
  cases sw <;> simp (disch := decide) only [encode, decodeOp, decode3, rdSW, wrSW, packG2_x18_3, packG2_x20_2, packG2_x18_2, packG2_fTY, packG2_fTB, packG2_fTA, packG2_b21, ↓reduceIte, Nat.reduceSub, BitVec.extractLsb'_eq_self, rdTgt_wrTgt, bind, Except.bind, pure, Except.pure, BitVec.extractLsb'_append_eq_of_add_le, BitVec.extractLsb'_append_eq_of_le, Instr.wf, readAs] at hw ⊢ <;> rfl
theorem shli (pr imm ta) : Statement (.shli pr imm ta) := by
  intro _ hw; refine tile_word (packGI_tile (by decide) ..) (decode_tile (p := pr) (by simp only [encode, packGI_x22_2]) ?_)
  rw [show (BitVec.extractLsb' 28 4 (encode (.shli pr imm ta))).toNat = 3 by simp only [encode, packGI_x28_4]; rfl,
    show (BitVec.extractLsb' 24 4 (encode (.shli pr imm ta))).toNat = 10 by simp only [encode, packGI_x24_4]; rfl]
  simp (disch := decide) only [encode, decodeOp, decode3, packGI_x13_9, packGI_x9_4, packGI_x21_1, packGI_x9_12, packGI_fImm, packGI_fTA, ↓reduceIte, Nat.reduceSub, BitVec.extractLsb'_eq_self, rdTgt_wrTgt, bind, Except.bind, pure, Except.pure, BitVec.extractLsb'_append_eq_of_add_le, BitVec.extractLsb'_append_eq_of_le, Instr.wf, readAs] at hw ⊢
theorem shri (pr imm ta) : Statement (.shri pr imm ta) := by
  intro _ hw; refine tile_word (packGI_tile (by decide) ..) (decode_tile (p := pr) (by simp only [encode, packGI_x22_2]) ?_)
  rw [show (BitVec.extractLsb' 28 4 (encode (.shri pr imm ta))).toNat = 3 by simp only [encode, packGI_x28_4]; rfl,
    show (BitVec.extractLsb' 24 4 (encode (.shri pr imm ta))).toNat = 11 by simp only [encode, packGI_x24_4]; rfl]
  simp (disch := decide) only [encode, decodeOp, decode3, packGI_x13_9, packGI_x9_4, packGI_x21_1, packGI_x9_12, packGI_fImm, packGI_fTA, ↓reduceIte, Nat.reduceSub, BitVec.extractLsb'_eq_self, rdTgt_wrTgt, bind, Except.bind, pure, Except.pure, BitVec.extractLsb'_append_eq_of_add_le, BitVec.extractLsb'_append_eq_of_le, Instr.wf, readAs] at hw ⊢
theorem srai (pr imm ta) : Statement (.srai pr imm ta) := by
  intro _ hw; refine tile_word (packGI_tile (by decide) ..) (decode_tile (p := pr) (by simp only [encode, packGI_x22_2]) ?_)
  rw [show (BitVec.extractLsb' 28 4 (encode (.srai pr imm ta))).toNat = 3 by simp only [encode, packGI_x28_4]; rfl,
    show (BitVec.extractLsb' 24 4 (encode (.srai pr imm ta))).toNat = 12 by simp only [encode, packGI_x24_4]; rfl]
  simp (disch := decide) only [encode, decodeOp, decode3, packGI_x13_9, packGI_x9_4, packGI_x21_1, packGI_x9_12, packGI_fImm, packGI_fTA, ↓reduceIte, Nat.reduceSub, BitVec.extractLsb'_eq_self, rdTgt_wrTgt, bind, Except.bind, pure, Except.pure, BitVec.extractLsb'_append_eq_of_add_le, BitVec.extractLsb'_append_eq_of_le, Instr.wf, readAs] at hw ⊢
theorem andi (pr imm ta) : Statement (.andi pr imm ta) := by
  intro _ hw; refine tile_word (packGI_tile (by decide) ..) (decode_tile (p := pr) (by simp only [encode, packGI_x22_2]) ?_)
  rw [show (BitVec.extractLsb' 28 4 (encode (.andi pr imm ta))).toNat = 3 by simp only [encode, packGI_x28_4]; rfl,
    show (BitVec.extractLsb' 24 4 (encode (.andi pr imm ta))).toNat = 13 by simp only [encode, packGI_x24_4]; rfl]
  simp (disch := decide) only [encode, decodeOp, decode3, packGI_x13_9, packGI_x9_4, packGI_x21_1, packGI_x9_12, packGI_fImm, packGI_fTA, ↓reduceIte, Nat.reduceSub, BitVec.extractLsb'_eq_self, rdTgt_wrTgt, bind, Except.bind, pure, Except.pure, BitVec.extractLsb'_append_eq_of_add_le, BitVec.extractLsb'_append_eq_of_le, Instr.wf, readAs] at hw ⊢
theorem ori (pr imm ta) : Statement (.ori pr imm ta) := by
  intro _ hw; refine tile_word (packGI_tile (by decide) ..) (decode_tile (p := pr) (by simp only [encode, packGI_x22_2]) ?_)
  rw [show (BitVec.extractLsb' 28 4 (encode (.ori pr imm ta))).toNat = 3 by simp only [encode, packGI_x28_4]; rfl,
    show (BitVec.extractLsb' 24 4 (encode (.ori pr imm ta))).toNat = 14 by simp only [encode, packGI_x24_4]; rfl]
  simp (disch := decide) only [encode, decodeOp, decode3, packGI_x13_9, packGI_x9_4, packGI_x21_1, packGI_x9_12, packGI_fImm, packGI_fTA, ↓reduceIte, Nat.reduceSub, BitVec.extractLsb'_eq_self, rdTgt_wrTgt, bind, Except.bind, pure, Except.pure, BitVec.extractLsb'_append_eq_of_add_le, BitVec.extractLsb'_append_eq_of_le, Instr.wf, readAs] at hw ⊢
theorem xori (pr imm ta) : Statement (.xori pr imm ta) := by
  intro _ hw; refine tile_word (packGI_tile (by decide) ..) (decode_tile (p := pr) (by simp only [encode, packGI_x22_2]) ?_)
  rw [show (BitVec.extractLsb' 28 4 (encode (.xori pr imm ta))).toNat = 3 by simp only [encode, packGI_x28_4]; rfl,
    show (BitVec.extractLsb' 24 4 (encode (.xori pr imm ta))).toNat = 15 by simp only [encode, packGI_x24_4]; rfl]
  simp (disch := decide) only [encode, decodeOp, decode3, packGI_x13_9, packGI_x9_4, packGI_x21_1, packGI_x9_12, packGI_fImm, packGI_fTA, ↓reduceIte, Nat.reduceSub, BitVec.extractLsb'_eq_self, rdTgt_wrTgt, bind, Except.bind, pure, Except.pure, BitVec.extractLsb'_append_eq_of_add_le, BitVec.extractLsb'_append_eq_of_le, Instr.wf, readAs] at hw ⊢
theorem clz (pr sw tb ta) : Statement (.clz pr sw tb ta) := by
  intro _ hw; refine tile_word (packG2_tile (by decide) ..) (decode_tile (p := pr) (by simp only [encode, packG2_x22_2]) ?_)
  rw [show (BitVec.extractLsb' 28 4 (encode (.clz pr sw tb ta))).toNat = 4 by simp only [encode, packG2_x28_4]; rfl,
    show (BitVec.extractLsb' 24 4 (encode (.clz pr sw tb ta))).toNat = 0 by simp only [encode, packG2_x24_4]; rfl]
  cases sw <;> simp (disch := decide) only [encode, decodeOp, decode4, rdSW, wrSW, packG2_x18_3, packG2_x20_2, packG2_x18_2, packG2_fTY, packG2_fTB, packG2_fTA, packG2_b21, ↓reduceIte, Nat.reduceSub, BitVec.extractLsb'_eq_self, rdTgt_wrTgt, bind, Except.bind, pure, Except.pure, BitVec.extractLsb'_append_eq_of_add_le, BitVec.extractLsb'_append_eq_of_le, Instr.wf, readAs] at hw ⊢ <;> rfl
theorem ctz (pr sw tb ta) : Statement (.ctz pr sw tb ta) := by
  intro _ hw; refine tile_word (packG2_tile (by decide) ..) (decode_tile (p := pr) (by simp only [encode, packG2_x22_2]) ?_)
  rw [show (BitVec.extractLsb' 28 4 (encode (.ctz pr sw tb ta))).toNat = 4 by simp only [encode, packG2_x28_4]; rfl,
    show (BitVec.extractLsb' 24 4 (encode (.ctz pr sw tb ta))).toNat = 1 by simp only [encode, packG2_x24_4]; rfl]
  cases sw <;> simp (disch := decide) only [encode, decodeOp, decode4, rdSW, wrSW, packG2_x18_3, packG2_x20_2, packG2_x18_2, packG2_fTY, packG2_fTB, packG2_fTA, packG2_b21, ↓reduceIte, Nat.reduceSub, BitVec.extractLsb'_eq_self, rdTgt_wrTgt, bind, Except.bind, pure, Except.pure, BitVec.extractLsb'_append_eq_of_add_le, BitVec.extractLsb'_append_eq_of_le, Instr.wf, readAs] at hw ⊢ <;> rfl
theorem popc (pr sw tb ta) : Statement (.popc pr sw tb ta) := by
  intro _ hw; refine tile_word (packG2_tile (by decide) ..) (decode_tile (p := pr) (by simp only [encode, packG2_x22_2]) ?_)
  rw [show (BitVec.extractLsb' 28 4 (encode (.popc pr sw tb ta))).toNat = 4 by simp only [encode, packG2_x28_4]; rfl,
    show (BitVec.extractLsb' 24 4 (encode (.popc pr sw tb ta))).toNat = 2 by simp only [encode, packG2_x24_4]; rfl]
  cases sw <;> simp (disch := decide) only [encode, decodeOp, decode4, rdSW, wrSW, packG2_x18_3, packG2_x20_2, packG2_x18_2, packG2_fTY, packG2_fTB, packG2_fTA, packG2_b21, ↓reduceIte, Nat.reduceSub, BitVec.extractLsb'_eq_self, rdTgt_wrTgt, bind, Except.bind, pure, Except.pure, BitVec.extractLsb'_append_eq_of_add_le, BitVec.extractLsb'_append_eq_of_le, Instr.wf, readAs] at hw ⊢ <;> rfl
theorem brev (pr sw tb ta) : Statement (.brev pr sw tb ta) := by
  intro _ hw; refine tile_word (packG2_tile (by decide) ..) (decode_tile (p := pr) (by simp only [encode, packG2_x22_2]) ?_)
  rw [show (BitVec.extractLsb' 28 4 (encode (.brev pr sw tb ta))).toNat = 4 by simp only [encode, packG2_x28_4]; rfl,
    show (BitVec.extractLsb' 24 4 (encode (.brev pr sw tb ta))).toNat = 3 by simp only [encode, packG2_x24_4]; rfl]
  cases sw <;> simp (disch := decide) only [encode, decodeOp, decode4, rdSW, wrSW, packG2_x18_3, packG2_x20_2, packG2_x18_2, packG2_fTY, packG2_fTB, packG2_fTA, packG2_b21, ↓reduceIte, Nat.reduceSub, BitVec.extractLsb'_eq_self, rdTgt_wrTgt, bind, Except.bind, pure, Except.pure, BitVec.extractLsb'_append_eq_of_add_le, BitVec.extractLsb'_append_eq_of_le, Instr.wf, readAs] at hw ⊢ <;> rfl
theorem bswap (pr sw tb ta) : Statement (.bswap pr sw tb ta) := by
  intro _ hw; refine tile_word (packG2_tile (by decide) ..) (decode_tile (p := pr) (by simp only [encode, packG2_x22_2]) ?_)
  rw [show (BitVec.extractLsb' 28 4 (encode (.bswap pr sw tb ta))).toNat = 4 by simp only [encode, packG2_x28_4]; rfl,
    show (BitVec.extractLsb' 24 4 (encode (.bswap pr sw tb ta))).toNat = 4 by simp only [encode, packG2_x24_4]; rfl]
  cases sw <;> simp (disch := decide) only [encode, decodeOp, decode4, rdSW, wrSW, packG2_x18_3, packG2_x20_2, packG2_x18_2, packG2_fTY, packG2_fTB, packG2_fTA, packG2_b21, ↓reduceIte, Nat.reduceSub, BitVec.extractLsb'_eq_self, rdTgt_wrTgt, bind, Except.bind, pure, Except.pure, BitVec.extractLsb'_append_eq_of_add_le, BitVec.extractLsb'_append_eq_of_le, Instr.wf, readAs] at hw ⊢ <;> rfl
theorem bfx (pr sx tb ta) : Statement (.bfx pr sx tb ta) := by
  intro _ hw; refine tile_word (packG2_tile (by decide) ..) (decode_tile (p := pr) (by simp only [encode, packG2_x22_2]) ?_)
  rw [show (BitVec.extractLsb' 28 4 (encode (.bfx pr sx tb ta))).toNat = 4 by simp only [encode, packG2_x28_4]; rfl,
    show (BitVec.extractLsb' 24 4 (encode (.bfx pr sx tb ta))).toNat = 5 by simp only [encode, packG2_x24_4]; rfl]
  cases sx <;> simp (disch := decide) only [encode, decodeOp, decode4, rdBfx, packG2_x18_3, packG2_x20_2, packG2_x18_2, packG2_fTY, packG2_fTB, packG2_fTA, packG2_b21, ↓reduceIte, Nat.reduceSub, BitVec.extractLsb'_eq_self, rdTgt_wrTgt, bind, Except.bind, pure, Except.pure, BitVec.extractLsb'_append_eq_of_add_le, BitVec.extractLsb'_append_eq_of_le, Instr.wf, readAs] at hw ⊢ <;> rfl
theorem bfi (pr tb ta) : Statement (.bfi pr tb ta) := by
  intro _ hw; refine tile_word (packG2_tile (by decide) ..) (decode_tile (p := pr) (by simp only [encode, packG2_x22_2]) ?_)
  rw [show (BitVec.extractLsb' 28 4 (encode (.bfi pr tb ta))).toNat = 4 by simp only [encode, packG2_x28_4]; rfl,
    show (BitVec.extractLsb' 24 4 (encode (.bfi pr tb ta))).toNat = 6 by simp only [encode, packG2_x24_4]; rfl]
  simp (disch := decide) only [encode, decodeOp, decode4, ty0, packG2_x18_3, packG2_x20_2, packG2_x18_2, packG2_fTY, packG2_fTB, packG2_fTA, packG2_b21, ↓reduceIte, Nat.reduceSub, BitVec.extractLsb'_eq_self, rdTgt_wrTgt, bind, Except.bind, pure, Except.pure, BitVec.extractLsb'_append_eq_of_add_le, BitVec.extractLsb'_append_eq_of_le, Instr.wf, readAs] at hw ⊢
theorem min (pr sw tb ta) : Statement (.min pr sw tb ta) := by
  intro _ hw; refine tile_word (packG2_tile (by decide) ..) (decode_tile (p := pr) (by simp only [encode, packG2_x22_2]) ?_)
  rw [show (BitVec.extractLsb' 28 4 (encode (.min pr sw tb ta))).toNat = 4 by simp only [encode, packG2_x28_4]; rfl,
    show (BitVec.extractLsb' 24 4 (encode (.min pr sw tb ta))).toNat = 7 by simp only [encode, packG2_x24_4]; rfl]
  cases sw <;> simp (disch := decide) only [encode, decodeOp, decode4, rdSW, wrSW, packG2_x18_3, packG2_x20_2, packG2_x18_2, packG2_fTY, packG2_fTB, packG2_fTA, packG2_b21, ↓reduceIte, Nat.reduceSub, BitVec.extractLsb'_eq_self, rdTgt_wrTgt, bind, Except.bind, pure, Except.pure, BitVec.extractLsb'_append_eq_of_add_le, BitVec.extractLsb'_append_eq_of_le, Instr.wf, readAs] at hw ⊢ <;> rfl
theorem max (pr sw tb ta) : Statement (.max pr sw tb ta) := by
  intro _ hw; refine tile_word (packG2_tile (by decide) ..) (decode_tile (p := pr) (by simp only [encode, packG2_x22_2]) ?_)
  rw [show (BitVec.extractLsb' 28 4 (encode (.max pr sw tb ta))).toNat = 4 by simp only [encode, packG2_x28_4]; rfl,
    show (BitVec.extractLsb' 24 4 (encode (.max pr sw tb ta))).toNat = 8 by simp only [encode, packG2_x24_4]; rfl]
  cases sw <;> simp (disch := decide) only [encode, decodeOp, decode4, rdSW, wrSW, packG2_x18_3, packG2_x20_2, packG2_x18_2, packG2_fTY, packG2_fTB, packG2_fTA, packG2_b21, ↓reduceIte, Nat.reduceSub, BitVec.extractLsb'_eq_self, rdTgt_wrTgt, bind, Except.bind, pure, Except.pure, BitVec.extractLsb'_append_eq_of_add_le, BitVec.extractLsb'_append_eq_of_le, Instr.wf, readAs] at hw ⊢ <;> rfl
theorem minu (pr sw tb ta) : Statement (.minu pr sw tb ta) := by
  intro _ hw; refine tile_word (packG2_tile (by decide) ..) (decode_tile (p := pr) (by simp only [encode, packG2_x22_2]) ?_)
  rw [show (BitVec.extractLsb' 28 4 (encode (.minu pr sw tb ta))).toNat = 4 by simp only [encode, packG2_x28_4]; rfl,
    show (BitVec.extractLsb' 24 4 (encode (.minu pr sw tb ta))).toNat = 9 by simp only [encode, packG2_x24_4]; rfl]
  cases sw <;> simp (disch := decide) only [encode, decodeOp, decode4, rdSW, wrSW, packG2_x18_3, packG2_x20_2, packG2_x18_2, packG2_fTY, packG2_fTB, packG2_fTA, packG2_b21, ↓reduceIte, Nat.reduceSub, BitVec.extractLsb'_eq_self, rdTgt_wrTgt, bind, Except.bind, pure, Except.pure, BitVec.extractLsb'_append_eq_of_add_le, BitVec.extractLsb'_append_eq_of_le, Instr.wf, readAs] at hw ⊢ <;> rfl
theorem maxu (pr sw tb ta) : Statement (.maxu pr sw tb ta) := by
  intro _ hw; refine tile_word (packG2_tile (by decide) ..) (decode_tile (p := pr) (by simp only [encode, packG2_x22_2]) ?_)
  rw [show (BitVec.extractLsb' 28 4 (encode (.maxu pr sw tb ta))).toNat = 4 by simp only [encode, packG2_x28_4]; rfl,
    show (BitVec.extractLsb' 24 4 (encode (.maxu pr sw tb ta))).toNat = 10 by simp only [encode, packG2_x24_4]; rfl]
  cases sw <;> simp (disch := decide) only [encode, decodeOp, decode4, rdSW, wrSW, packG2_x18_3, packG2_x20_2, packG2_x18_2, packG2_fTY, packG2_fTB, packG2_fTA, packG2_b21, ↓reduceIte, Nat.reduceSub, BitVec.extractLsb'_eq_self, rdTgt_wrTgt, bind, Except.bind, pure, Except.pure, BitVec.extractLsb'_append_eq_of_add_le, BitVec.extractLsb'_append_eq_of_le, Instr.wf, readAs] at hw ⊢ <;> rfl
theorem exts (pr x tb ta) : Statement (.exts pr x tb ta) := by
  intro _ hw; refine tile_word (packG2_tile (by decide) ..) (decode_tile (p := pr) (by simp only [encode, packG2_x22_2]) ?_)
  rw [show (BitVec.extractLsb' 28 4 (encode (.exts pr x tb ta))).toNat = 4 by simp only [encode, packG2_x28_4]; rfl,
    show (BitVec.extractLsb' 24 4 (encode (.exts pr x tb ta))).toNat = 11 by simp only [encode, packG2_x24_4]; rfl]
  cases x <;> simp (disch := decide) only [encode, decodeOp, decode4, rdXW, wrXW, packG2_x18_3, packG2_x20_2, packG2_x18_2, packG2_fTY, packG2_fTB, packG2_fTA, packG2_b21, ↓reduceIte, Nat.reduceSub, BitVec.extractLsb'_eq_self, rdTgt_wrTgt, bind, Except.bind, pure, Except.pure, BitVec.extractLsb'_append_eq_of_add_le, BitVec.extractLsb'_append_eq_of_le, Instr.wf, readAs] at hw ⊢ <;> rfl
theorem extz (pr x tb ta) : Statement (.extz pr x tb ta) := by
  intro _ hw; refine tile_word (packG2_tile (by decide) ..) (decode_tile (p := pr) (by simp only [encode, packG2_x22_2]) ?_)
  rw [show (BitVec.extractLsb' 28 4 (encode (.extz pr x tb ta))).toNat = 4 by simp only [encode, packG2_x28_4]; rfl,
    show (BitVec.extractLsb' 24 4 (encode (.extz pr x tb ta))).toNat = 12 by simp only [encode, packG2_x24_4]; rfl]
  cases x <;> simp (disch := decide) only [encode, decodeOp, decode4, rdXW, wrXW, packG2_x18_3, packG2_x20_2, packG2_x18_2, packG2_fTY, packG2_fTB, packG2_fTA, packG2_b21, ↓reduceIte, Nat.reduceSub, BitVec.extractLsb'_eq_self, rdTgt_wrTgt, bind, Except.bind, pure, Except.pure, BitVec.extractLsb'_append_eq_of_add_le, BitVec.extractLsb'_append_eq_of_le, Instr.wf, readAs] at hw ⊢ <;> rfl
theorem vadd (pr ty tb ta) : Statement (.vadd pr ty tb ta) := by
  intro _ hw; refine tile_word (packG2_tile (by decide) ..) (decode_tile (p := pr) (by simp only [encode, packG2_x22_2]) ?_)
  rw [show (BitVec.extractLsb' 28 4 (encode (.vadd pr ty tb ta))).toNat = 6 by simp only [encode, packG2_x28_4]; rfl,
    show (BitVec.extractLsb' 24 4 (encode (.vadd pr ty tb ta))).toNat = 0 by simp only [encode, packG2_x24_4]; rfl]
  simp (disch := decide) only [encode, decodeOp, decode6, tyOf_tyCode, rdTy, packG2_x18_3, packG2_x20_2, packG2_x18_2, packG2_fTY, packG2_fTB, packG2_fTA, packG2_b21, ↓reduceIte, Nat.reduceSub, BitVec.extractLsb'_eq_self, rdTgt_wrTgt, bind, Except.bind, pure, Except.pure, BitVec.extractLsb'_append_eq_of_add_le, BitVec.extractLsb'_append_eq_of_le, Instr.wf, readAs] at hw ⊢
  simp_all
theorem vsub (pr ty tb ta) : Statement (.vsub pr ty tb ta) := by
  intro _ hw; refine tile_word (packG2_tile (by decide) ..) (decode_tile (p := pr) (by simp only [encode, packG2_x22_2]) ?_)
  rw [show (BitVec.extractLsb' 28 4 (encode (.vsub pr ty tb ta))).toNat = 6 by simp only [encode, packG2_x28_4]; rfl,
    show (BitVec.extractLsb' 24 4 (encode (.vsub pr ty tb ta))).toNat = 1 by simp only [encode, packG2_x24_4]; rfl]
  simp (disch := decide) only [encode, decodeOp, decode6, tyOf_tyCode, rdTy, packG2_x18_3, packG2_x20_2, packG2_x18_2, packG2_fTY, packG2_fTB, packG2_fTA, packG2_b21, ↓reduceIte, Nat.reduceSub, BitVec.extractLsb'_eq_self, rdTgt_wrTgt, bind, Except.bind, pure, Except.pure, BitVec.extractLsb'_append_eq_of_add_le, BitVec.extractLsb'_append_eq_of_le, Instr.wf, readAs] at hw ⊢
  simp_all
theorem vmul (pr ty tb ta) : Statement (.vmul pr ty tb ta) := by
  intro _ hw; refine tile_word (packG2_tile (by decide) ..) (decode_tile (p := pr) (by simp only [encode, packG2_x22_2]) ?_)
  rw [show (BitVec.extractLsb' 28 4 (encode (.vmul pr ty tb ta))).toNat = 6 by simp only [encode, packG2_x28_4]; rfl,
    show (BitVec.extractLsb' 24 4 (encode (.vmul pr ty tb ta))).toNat = 2 by simp only [encode, packG2_x24_4]; rfl]
  simp (disch := decide) only [encode, decodeOp, decode6, tyOf_tyCode, rdTy, packG2_x18_3, packG2_x20_2, packG2_x18_2, packG2_fTY, packG2_fTB, packG2_fTA, packG2_b21, ↓reduceIte, Nat.reduceSub, BitVec.extractLsb'_eq_self, rdTgt_wrTgt, bind, Except.bind, pure, Except.pure, BitVec.extractLsb'_append_eq_of_add_le, BitVec.extractLsb'_append_eq_of_le, Instr.wf, readAs] at hw ⊢
  simp_all
theorem vfma (pr ty tb ta) : Statement (.vfma pr ty tb ta) := by
  intro _ hw; refine tile_word (packG2_tile (by decide) ..) (decode_tile (p := pr) (by simp only [encode, packG2_x22_2]) ?_)
  rw [show (BitVec.extractLsb' 28 4 (encode (.vfma pr ty tb ta))).toNat = 6 by simp only [encode, packG2_x28_4]; rfl,
    show (BitVec.extractLsb' 24 4 (encode (.vfma pr ty tb ta))).toNat = 3 by simp only [encode, packG2_x24_4]; rfl]
  simp (disch := decide) only [encode, decodeOp, decode6, tyOf_tyCode, rdTy, packG2_x18_3, packG2_x20_2, packG2_x18_2, packG2_fTY, packG2_fTB, packG2_fTA, packG2_b21, ↓reduceIte, Nat.reduceSub, BitVec.extractLsb'_eq_self, rdTgt_wrTgt, bind, Except.bind, pure, Except.pure, BitVec.extractLsb'_append_eq_of_add_le, BitVec.extractLsb'_append_eq_of_le, Instr.wf, readAs] at hw ⊢
  simp_all
theorem vfms (pr ty tb ta) : Statement (.vfms pr ty tb ta) := by
  intro _ hw; refine tile_word (packG2_tile (by decide) ..) (decode_tile (p := pr) (by simp only [encode, packG2_x22_2]) ?_)
  rw [show (BitVec.extractLsb' 28 4 (encode (.vfms pr ty tb ta))).toNat = 6 by simp only [encode, packG2_x28_4]; rfl,
    show (BitVec.extractLsb' 24 4 (encode (.vfms pr ty tb ta))).toNat = 4 by simp only [encode, packG2_x24_4]; rfl]
  simp (disch := decide) only [encode, decodeOp, decode6, tyOf_tyCode, rdTy, packG2_x18_3, packG2_x20_2, packG2_x18_2, packG2_fTY, packG2_fTB, packG2_fTA, packG2_b21, ↓reduceIte, Nat.reduceSub, BitVec.extractLsb'_eq_self, rdTgt_wrTgt, bind, Except.bind, pure, Except.pure, BitVec.extractLsb'_append_eq_of_add_le, BitVec.extractLsb'_append_eq_of_le, Instr.wf, readAs] at hw ⊢
  simp_all
theorem vmin (pr ty tb ta) : Statement (.vmin pr ty tb ta) := by
  intro _ hw; refine tile_word (packG2_tile (by decide) ..) (decode_tile (p := pr) (by simp only [encode, packG2_x22_2]) ?_)
  rw [show (BitVec.extractLsb' 28 4 (encode (.vmin pr ty tb ta))).toNat = 6 by simp only [encode, packG2_x28_4]; rfl,
    show (BitVec.extractLsb' 24 4 (encode (.vmin pr ty tb ta))).toNat = 5 by simp only [encode, packG2_x24_4]; rfl]
  simp (disch := decide) only [encode, decodeOp, decode6, tyOf_tyCode, rdTy, packG2_x18_3, packG2_x20_2, packG2_x18_2, packG2_fTY, packG2_fTB, packG2_fTA, packG2_b21, ↓reduceIte, Nat.reduceSub, BitVec.extractLsb'_eq_self, rdTgt_wrTgt, bind, Except.bind, pure, Except.pure, BitVec.extractLsb'_append_eq_of_add_le, BitVec.extractLsb'_append_eq_of_le, Instr.wf, readAs] at hw ⊢
  simp_all
theorem vmax (pr ty tb ta) : Statement (.vmax pr ty tb ta) := by
  intro _ hw; refine tile_word (packG2_tile (by decide) ..) (decode_tile (p := pr) (by simp only [encode, packG2_x22_2]) ?_)
  rw [show (BitVec.extractLsb' 28 4 (encode (.vmax pr ty tb ta))).toNat = 6 by simp only [encode, packG2_x28_4]; rfl,
    show (BitVec.extractLsb' 24 4 (encode (.vmax pr ty tb ta))).toNat = 6 by simp only [encode, packG2_x24_4]; rfl]
  simp (disch := decide) only [encode, decodeOp, decode6, tyOf_tyCode, rdTy, packG2_x18_3, packG2_x20_2, packG2_x18_2, packG2_fTY, packG2_fTB, packG2_fTA, packG2_b21, ↓reduceIte, Nat.reduceSub, BitVec.extractLsb'_eq_self, rdTgt_wrTgt, bind, Except.bind, pure, Except.pure, BitVec.extractLsb'_append_eq_of_add_le, BitVec.extractLsb'_append_eq_of_le, Instr.wf, readAs] at hw ⊢
  simp_all
theorem vabs (pr ty tb ta) : Statement (.vabs pr ty tb ta) := by
  intro _ hw; refine tile_word (packG2_tile (by decide) ..) (decode_tile (p := pr) (by simp only [encode, packG2_x22_2]) ?_)
  rw [show (BitVec.extractLsb' 28 4 (encode (.vabs pr ty tb ta))).toNat = 6 by simp only [encode, packG2_x28_4]; rfl,
    show (BitVec.extractLsb' 24 4 (encode (.vabs pr ty tb ta))).toNat = 7 by simp only [encode, packG2_x24_4]; rfl]
  simp (disch := decide) only [encode, decodeOp, decode6, tyOf_tyCode, rdTy, packG2_x18_3, packG2_x20_2, packG2_x18_2, packG2_fTY, packG2_fTB, packG2_fTA, packG2_b21, ↓reduceIte, Nat.reduceSub, BitVec.extractLsb'_eq_self, rdTgt_wrTgt, bind, Except.bind, pure, Except.pure, BitVec.extractLsb'_append_eq_of_add_le, BitVec.extractLsb'_append_eq_of_le, Instr.wf, readAs] at hw ⊢
  simp_all
theorem vneg (pr ty tb ta) : Statement (.vneg pr ty tb ta) := by
  intro _ hw; refine tile_word (packG2_tile (by decide) ..) (decode_tile (p := pr) (by simp only [encode, packG2_x22_2]) ?_)
  rw [show (BitVec.extractLsb' 28 4 (encode (.vneg pr ty tb ta))).toNat = 6 by simp only [encode, packG2_x28_4]; rfl,
    show (BitVec.extractLsb' 24 4 (encode (.vneg pr ty tb ta))).toNat = 8 by simp only [encode, packG2_x24_4]; rfl]
  simp (disch := decide) only [encode, decodeOp, decode6, tyOf_tyCode, rdTy, packG2_x18_3, packG2_x20_2, packG2_x18_2, packG2_fTY, packG2_fTB, packG2_fTA, packG2_b21, ↓reduceIte, Nat.reduceSub, BitVec.extractLsb'_eq_self, rdTgt_wrTgt, bind, Except.bind, pure, Except.pure, BitVec.extractLsb'_append_eq_of_add_le, BitVec.extractLsb'_append_eq_of_le, Instr.wf, readAs] at hw ⊢
  simp_all
theorem vdiv (pr ty tb ta) : Statement (.vdiv pr ty tb ta) := by
  intro _ hw; refine tile_word (packG2_tile (by decide) ..) (decode_tile (p := pr) (by simp only [encode, packG2_x22_2]) ?_)
  rw [show (BitVec.extractLsb' 28 4 (encode (.vdiv pr ty tb ta))).toNat = 6 by simp only [encode, packG2_x28_4]; rfl,
    show (BitVec.extractLsb' 24 4 (encode (.vdiv pr ty tb ta))).toNat = 9 by simp only [encode, packG2_x24_4]; rfl]
  simp (disch := decide) only [encode, decodeOp, decode6, tyOf_tyCode, rdTy, packG2_x18_3, packG2_x20_2, packG2_x18_2, packG2_fTY, packG2_fTB, packG2_fTA, packG2_b21, ↓reduceIte, Nat.reduceSub, BitVec.extractLsb'_eq_self, rdTgt_wrTgt, bind, Except.bind, pure, Except.pure, BitVec.extractLsb'_append_eq_of_add_le, BitVec.extractLsb'_append_eq_of_le, Instr.wf, readAs] at hw ⊢
  simp_all
theorem vsqrt (pr ty tb ta) : Statement (.vsqrt pr ty tb ta) := by
  intro _ hw; refine tile_word (packG2_tile (by decide) ..) (decode_tile (p := pr) (by simp only [encode, packG2_x22_2]) ?_)
  rw [show (BitVec.extractLsb' 28 4 (encode (.vsqrt pr ty tb ta))).toNat = 6 by simp only [encode, packG2_x28_4]; rfl,
    show (BitVec.extractLsb' 24 4 (encode (.vsqrt pr ty tb ta))).toNat = 10 by simp only [encode, packG2_x24_4]; rfl]
  simp (disch := decide) only [encode, decodeOp, decode6, tyOf_tyCode, rdTy, packG2_x18_3, packG2_x20_2, packG2_x18_2, packG2_fTY, packG2_fTB, packG2_fTA, packG2_b21, ↓reduceIte, Nat.reduceSub, BitVec.extractLsb'_eq_self, rdTgt_wrTgt, bind, Except.bind, pure, Except.pure, BitVec.extractLsb'_append_eq_of_add_le, BitVec.extractLsb'_append_eq_of_le, Instr.wf, readAs] at hw ⊢
  simp_all
theorem vrcp (pr ty tb ta) : Statement (.vrcp pr ty tb ta) := by
  intro _ hw; refine tile_word (packG2_tile (by decide) ..) (decode_tile (p := pr) (by simp only [encode, packG2_x22_2]) ?_)
  rw [show (BitVec.extractLsb' 28 4 (encode (.vrcp pr ty tb ta))).toNat = 6 by simp only [encode, packG2_x28_4]; rfl,
    show (BitVec.extractLsb' 24 4 (encode (.vrcp pr ty tb ta))).toNat = 11 by simp only [encode, packG2_x24_4]; rfl]
  simp (disch := decide) only [encode, decodeOp, decode6, tyOf_tyCode, rdTy, packG2_x18_3, packG2_x20_2, packG2_x18_2, packG2_fTY, packG2_fTB, packG2_fTA, packG2_b21, ↓reduceIte, Nat.reduceSub, BitVec.extractLsb'_eq_self, rdTgt_wrTgt, bind, Except.bind, pure, Except.pure, BitVec.extractLsb'_append_eq_of_add_le, BitVec.extractLsb'_append_eq_of_le, Instr.wf, readAs] at hw ⊢
  simp_all
theorem vrsq (pr ty tb ta) : Statement (.vrsq pr ty tb ta) := by
  intro _ hw; refine tile_word (packG2_tile (by decide) ..) (decode_tile (p := pr) (by simp only [encode, packG2_x22_2]) ?_)
  rw [show (BitVec.extractLsb' 28 4 (encode (.vrsq pr ty tb ta))).toNat = 6 by simp only [encode, packG2_x28_4]; rfl,
    show (BitVec.extractLsb' 24 4 (encode (.vrsq pr ty tb ta))).toNat = 12 by simp only [encode, packG2_x24_4]; rfl]
  simp (disch := decide) only [encode, decodeOp, decode6, tyOf_tyCode, rdTy, packG2_x18_3, packG2_x20_2, packG2_x18_2, packG2_fTY, packG2_fTB, packG2_fTA, packG2_b21, ↓reduceIte, Nat.reduceSub, BitVec.extractLsb'_eq_self, rdTgt_wrTgt, bind, Except.bind, pure, Except.pure, BitVec.extractLsb'_append_eq_of_add_le, BitVec.extractLsb'_append_eq_of_le, Instr.wf, readAs] at hw ⊢
  simp_all
theorem vexp2 (pr ty tb ta) : Statement (.vexp2 pr ty tb ta) := by
  intro _ hw; refine tile_word (packG2_tile (by decide) ..) (decode_tile (p := pr) (by simp only [encode, packG2_x22_2]) ?_)
  rw [show (BitVec.extractLsb' 28 4 (encode (.vexp2 pr ty tb ta))).toNat = 6 by simp only [encode, packG2_x28_4]; rfl,
    show (BitVec.extractLsb' 24 4 (encode (.vexp2 pr ty tb ta))).toNat = 13 by simp only [encode, packG2_x24_4]; rfl]
  simp (disch := decide) only [encode, decodeOp, decode6, tyOf_tyCode, rdTy, packG2_x18_3, packG2_x20_2, packG2_x18_2, packG2_fTY, packG2_fTB, packG2_fTA, packG2_b21, ↓reduceIte, Nat.reduceSub, BitVec.extractLsb'_eq_self, rdTgt_wrTgt, bind, Except.bind, pure, Except.pure, BitVec.extractLsb'_append_eq_of_add_le, BitVec.extractLsb'_append_eq_of_le, Instr.wf, readAs] at hw ⊢
  simp_all
theorem vlog2 (pr ty tb ta) : Statement (.vlog2 pr ty tb ta) := by
  intro _ hw; refine tile_word (packG2_tile (by decide) ..) (decode_tile (p := pr) (by simp only [encode, packG2_x22_2]) ?_)
  rw [show (BitVec.extractLsb' 28 4 (encode (.vlog2 pr ty tb ta))).toNat = 6 by simp only [encode, packG2_x28_4]; rfl,
    show (BitVec.extractLsb' 24 4 (encode (.vlog2 pr ty tb ta))).toNat = 14 by simp only [encode, packG2_x24_4]; rfl]
  simp (disch := decide) only [encode, decodeOp, decode6, tyOf_tyCode, rdTy, packG2_x18_3, packG2_x20_2, packG2_x18_2, packG2_fTY, packG2_fTB, packG2_fTA, packG2_b21, ↓reduceIte, Nat.reduceSub, BitVec.extractLsb'_eq_self, rdTgt_wrTgt, bind, Except.bind, pure, Except.pure, BitVec.extractLsb'_append_eq_of_add_le, BitVec.extractLsb'_append_eq_of_le, Instr.wf, readAs] at hw ⊢
  simp_all
theorem vsin (pr ty tb ta) : Statement (.vsin pr ty tb ta) := by
  intro _ hw; refine tile_word (packG2_tile (by decide) ..) (decode_tile (p := pr) (by simp only [encode, packG2_x22_2]) ?_)
  rw [show (BitVec.extractLsb' 28 4 (encode (.vsin pr ty tb ta))).toNat = 6 by simp only [encode, packG2_x28_4]; rfl,
    show (BitVec.extractLsb' 24 4 (encode (.vsin pr ty tb ta))).toNat = 15 by simp only [encode, packG2_x24_4]; rfl]
  simp (disch := decide) only [encode, decodeOp, decode6, tyOf_tyCode, rdTy, packG2_x18_3, packG2_x20_2, packG2_x18_2, packG2_fTY, packG2_fTB, packG2_fTA, packG2_b21, ↓reduceIte, Nat.reduceSub, BitVec.extractLsb'_eq_self, rdTgt_wrTgt, bind, Except.bind, pure, Except.pure, BitVec.extractLsb'_append_eq_of_add_le, BitVec.extractLsb'_append_eq_of_le, Instr.wf, readAs] at hw ⊢
  simp_all
theorem vcos (pr ty tb ta) : Statement (.vcos pr ty tb ta) := by
  intro _ hw; refine tile_word (packG2_tile (by decide) ..) (decode_tile (p := pr) (by simp only [encode, packG2_x22_2]) ?_)
  rw [show (BitVec.extractLsb' 28 4 (encode (.vcos pr ty tb ta))).toNat = 7 by simp only [encode, packG2_x28_4]; rfl,
    show (BitVec.extractLsb' 24 4 (encode (.vcos pr ty tb ta))).toNat = 0 by simp only [encode, packG2_x24_4]; rfl]
  simp (disch := decide) only [encode, decodeOp, decode7, tyOf_tyCode, rdTy, packG2_x18_3, packG2_x20_2, packG2_x18_2, packG2_fTY, packG2_fTB, packG2_fTA, packG2_b21, ↓reduceIte, Nat.reduceSub, BitVec.extractLsb'_eq_self, rdTgt_wrTgt, bind, Except.bind, pure, Except.pure, BitVec.extractLsb'_append_eq_of_add_le, BitVec.extractLsb'_append_eq_of_le, Instr.wf, readAs] at hw ⊢
  simp_all
theorem vtanh (pr ty tb ta) : Statement (.vtanh pr ty tb ta) := by
  intro _ hw; refine tile_word (packG2_tile (by decide) ..) (decode_tile (p := pr) (by simp only [encode, packG2_x22_2]) ?_)
  rw [show (BitVec.extractLsb' 28 4 (encode (.vtanh pr ty tb ta))).toNat = 7 by simp only [encode, packG2_x28_4]; rfl,
    show (BitVec.extractLsb' 24 4 (encode (.vtanh pr ty tb ta))).toNat = 1 by simp only [encode, packG2_x24_4]; rfl]
  simp (disch := decide) only [encode, decodeOp, decode7, tyOf_tyCode, rdTy, packG2_x18_3, packG2_x20_2, packG2_x18_2, packG2_fTY, packG2_fTB, packG2_fTA, packG2_b21, ↓reduceIte, Nat.reduceSub, BitVec.extractLsb'_eq_self, rdTgt_wrTgt, bind, Except.bind, pure, Except.pure, BitVec.extractLsb'_append_eq_of_add_le, BitVec.extractLsb'_append_eq_of_le, Instr.wf, readAs] at hw ⊢
  simp_all
theorem vsigm (pr ty tb ta) : Statement (.vsigm pr ty tb ta) := by
  intro _ hw; refine tile_word (packG2_tile (by decide) ..) (decode_tile (p := pr) (by simp only [encode, packG2_x22_2]) ?_)
  rw [show (BitVec.extractLsb' 28 4 (encode (.vsigm pr ty tb ta))).toNat = 7 by simp only [encode, packG2_x28_4]; rfl,
    show (BitVec.extractLsb' 24 4 (encode (.vsigm pr ty tb ta))).toNat = 2 by simp only [encode, packG2_x24_4]; rfl]
  simp (disch := decide) only [encode, decodeOp, decode7, tyOf_tyCode, rdTy, packG2_x18_3, packG2_x20_2, packG2_x18_2, packG2_fTY, packG2_fTB, packG2_fTA, packG2_b21, ↓reduceIte, Nat.reduceSub, BitVec.extractLsb'_eq_self, rdTgt_wrTgt, bind, Except.bind, pure, Except.pure, BitVec.extractLsb'_append_eq_of_add_le, BitVec.extractLsb'_append_eq_of_le, Instr.wf, readAs] at hw ⊢
  simp_all
theorem vmulh (pr ty tb ta) : Statement (.vmulh pr ty tb ta) := by
  intro _ hw; refine tile_word (packG2_tile (by decide) ..) (decode_tile (p := pr) (by simp only [encode, packG2_x22_2]) ?_)
  rw [show (BitVec.extractLsb' 28 4 (encode (.vmulh pr ty tb ta))).toNat = 7 by simp only [encode, packG2_x28_4]; rfl,
    show (BitVec.extractLsb' 24 4 (encode (.vmulh pr ty tb ta))).toNat = 3 by simp only [encode, packG2_x24_4]; rfl]
  simp (disch := decide) only [encode, decodeOp, decode7, tyOf_tyCode, rdTy, packG2_x18_3, packG2_x20_2, packG2_x18_2, packG2_fTY, packG2_fTB, packG2_fTA, packG2_b21, ↓reduceIte, Nat.reduceSub, BitVec.extractLsb'_eq_self, rdTgt_wrTgt, bind, Except.bind, pure, Except.pure, BitVec.extractLsb'_append_eq_of_add_le, BitVec.extractLsb'_append_eq_of_le, Instr.wf, readAs] at hw ⊢
  simp_all
theorem vand (pr ty tb ta) : Statement (.vand pr ty tb ta) := by
  intro _ hw; refine tile_word (packG2_tile (by decide) ..) (decode_tile (p := pr) (by simp only [encode, packG2_x22_2]) ?_)
  rw [show (BitVec.extractLsb' 28 4 (encode (.vand pr ty tb ta))).toNat = 7 by simp only [encode, packG2_x28_4]; rfl,
    show (BitVec.extractLsb' 24 4 (encode (.vand pr ty tb ta))).toNat = 4 by simp only [encode, packG2_x24_4]; rfl]
  simp (disch := decide) only [encode, decodeOp, decode7, tyOf_tyCode, rdTy, packG2_x18_3, packG2_x20_2, packG2_x18_2, packG2_fTY, packG2_fTB, packG2_fTA, packG2_b21, ↓reduceIte, Nat.reduceSub, BitVec.extractLsb'_eq_self, rdTgt_wrTgt, bind, Except.bind, pure, Except.pure, BitVec.extractLsb'_append_eq_of_add_le, BitVec.extractLsb'_append_eq_of_le, Instr.wf, readAs] at hw ⊢
  simp_all
theorem vor (pr ty tb ta) : Statement (.vor pr ty tb ta) := by
  intro _ hw; refine tile_word (packG2_tile (by decide) ..) (decode_tile (p := pr) (by simp only [encode, packG2_x22_2]) ?_)
  rw [show (BitVec.extractLsb' 28 4 (encode (.vor pr ty tb ta))).toNat = 7 by simp only [encode, packG2_x28_4]; rfl,
    show (BitVec.extractLsb' 24 4 (encode (.vor pr ty tb ta))).toNat = 5 by simp only [encode, packG2_x24_4]; rfl]
  simp (disch := decide) only [encode, decodeOp, decode7, tyOf_tyCode, rdTy, packG2_x18_3, packG2_x20_2, packG2_x18_2, packG2_fTY, packG2_fTB, packG2_fTA, packG2_b21, ↓reduceIte, Nat.reduceSub, BitVec.extractLsb'_eq_self, rdTgt_wrTgt, bind, Except.bind, pure, Except.pure, BitVec.extractLsb'_append_eq_of_add_le, BitVec.extractLsb'_append_eq_of_le, Instr.wf, readAs] at hw ⊢
  simp_all
theorem vxor (pr ty tb ta) : Statement (.vxor pr ty tb ta) := by
  intro _ hw; refine tile_word (packG2_tile (by decide) ..) (decode_tile (p := pr) (by simp only [encode, packG2_x22_2]) ?_)
  rw [show (BitVec.extractLsb' 28 4 (encode (.vxor pr ty tb ta))).toNat = 7 by simp only [encode, packG2_x28_4]; rfl,
    show (BitVec.extractLsb' 24 4 (encode (.vxor pr ty tb ta))).toNat = 6 by simp only [encode, packG2_x24_4]; rfl]
  simp (disch := decide) only [encode, decodeOp, decode7, tyOf_tyCode, rdTy, packG2_x18_3, packG2_x20_2, packG2_x18_2, packG2_fTY, packG2_fTB, packG2_fTA, packG2_b21, ↓reduceIte, Nat.reduceSub, BitVec.extractLsb'_eq_self, rdTgt_wrTgt, bind, Except.bind, pure, Except.pure, BitVec.extractLsb'_append_eq_of_add_le, BitVec.extractLsb'_append_eq_of_le, Instr.wf, readAs] at hw ⊢
  simp_all
theorem vshl (pr ty tb ta) : Statement (.vshl pr ty tb ta) := by
  intro _ hw; refine tile_word (packG2_tile (by decide) ..) (decode_tile (p := pr) (by simp only [encode, packG2_x22_2]) ?_)
  rw [show (BitVec.extractLsb' 28 4 (encode (.vshl pr ty tb ta))).toNat = 7 by simp only [encode, packG2_x28_4]; rfl,
    show (BitVec.extractLsb' 24 4 (encode (.vshl pr ty tb ta))).toNat = 7 by simp only [encode, packG2_x24_4]; rfl]
  simp (disch := decide) only [encode, decodeOp, decode7, tyOf_tyCode, rdTy, packG2_x18_3, packG2_x20_2, packG2_x18_2, packG2_fTY, packG2_fTB, packG2_fTA, packG2_b21, ↓reduceIte, Nat.reduceSub, BitVec.extractLsb'_eq_self, rdTgt_wrTgt, bind, Except.bind, pure, Except.pure, BitVec.extractLsb'_append_eq_of_add_le, BitVec.extractLsb'_append_eq_of_le, Instr.wf, readAs] at hw ⊢
  simp_all
theorem vshr (pr ty tb ta) : Statement (.vshr pr ty tb ta) := by
  intro _ hw; refine tile_word (packG2_tile (by decide) ..) (decode_tile (p := pr) (by simp only [encode, packG2_x22_2]) ?_)
  rw [show (BitVec.extractLsb' 28 4 (encode (.vshr pr ty tb ta))).toNat = 7 by simp only [encode, packG2_x28_4]; rfl,
    show (BitVec.extractLsb' 24 4 (encode (.vshr pr ty tb ta))).toNat = 8 by simp only [encode, packG2_x24_4]; rfl]
  simp (disch := decide) only [encode, decodeOp, decode7, tyOf_tyCode, rdTy, packG2_x18_3, packG2_x20_2, packG2_x18_2, packG2_fTY, packG2_fTB, packG2_fTA, packG2_b21, ↓reduceIte, Nat.reduceSub, BitVec.extractLsb'_eq_self, rdTgt_wrTgt, bind, Except.bind, pure, Except.pure, BitVec.extractLsb'_append_eq_of_add_le, BitVec.extractLsb'_append_eq_of_le, Instr.wf, readAs] at hw ⊢
  simp_all
theorem vsra (pr ty tb ta) : Statement (.vsra pr ty tb ta) := by
  intro _ hw; refine tile_word (packG2_tile (by decide) ..) (decode_tile (p := pr) (by simp only [encode, packG2_x22_2]) ?_)
  rw [show (BitVec.extractLsb' 28 4 (encode (.vsra pr ty tb ta))).toNat = 7 by simp only [encode, packG2_x28_4]; rfl,
    show (BitVec.extractLsb' 24 4 (encode (.vsra pr ty tb ta))).toNat = 9 by simp only [encode, packG2_x24_4]; rfl]
  simp (disch := decide) only [encode, decodeOp, decode7, tyOf_tyCode, rdTy, packG2_x18_3, packG2_x20_2, packG2_x18_2, packG2_fTY, packG2_fTB, packG2_fTA, packG2_b21, ↓reduceIte, Nat.reduceSub, BitVec.extractLsb'_eq_self, rdTgt_wrTgt, bind, Except.bind, pure, Except.pure, BitVec.extractLsb'_append_eq_of_add_le, BitVec.extractLsb'_append_eq_of_le, Instr.wf, readAs] at hw ⊢
  simp_all
theorem vclz (pr ty tb ta) : Statement (.vclz pr ty tb ta) := by
  intro _ hw; refine tile_word (packG2_tile (by decide) ..) (decode_tile (p := pr) (by simp only [encode, packG2_x22_2]) ?_)
  rw [show (BitVec.extractLsb' 28 4 (encode (.vclz pr ty tb ta))).toNat = 7 by simp only [encode, packG2_x28_4]; rfl,
    show (BitVec.extractLsb' 24 4 (encode (.vclz pr ty tb ta))).toNat = 10 by simp only [encode, packG2_x24_4]; rfl]
  simp (disch := decide) only [encode, decodeOp, decode7, tyOf_tyCode, rdTy, packG2_x18_3, packG2_x20_2, packG2_x18_2, packG2_fTY, packG2_fTB, packG2_fTA, packG2_b21, ↓reduceIte, Nat.reduceSub, BitVec.extractLsb'_eq_self, rdTgt_wrTgt, bind, Except.bind, pure, Except.pure, BitVec.extractLsb'_append_eq_of_add_le, BitVec.extractLsb'_append_eq_of_le, Instr.wf, readAs] at hw ⊢
  simp_all
theorem vpopc (pr ty tb ta) : Statement (.vpopc pr ty tb ta) := by
  intro _ hw; refine tile_word (packG2_tile (by decide) ..) (decode_tile (p := pr) (by simp only [encode, packG2_x22_2]) ?_)
  rw [show (BitVec.extractLsb' 28 4 (encode (.vpopc pr ty tb ta))).toNat = 7 by simp only [encode, packG2_x28_4]; rfl,
    show (BitVec.extractLsb' 24 4 (encode (.vpopc pr ty tb ta))).toNat = 11 by simp only [encode, packG2_x24_4]; rfl]
  simp (disch := decide) only [encode, decodeOp, decode7, tyOf_tyCode, rdTy, packG2_x18_3, packG2_x20_2, packG2_x18_2, packG2_fTY, packG2_fTB, packG2_fTA, packG2_b21, ↓reduceIte, Nat.reduceSub, BitVec.extractLsb'_eq_self, rdTgt_wrTgt, bind, Except.bind, pure, Except.pure, BitVec.extractLsb'_append_eq_of_add_le, BitVec.extractLsb'_append_eq_of_le, Instr.wf, readAs] at hw ⊢
  simp_all
theorem vceq (pr ty tb ta) : Statement (.vceq pr ty tb ta) := by
  intro _ hw; refine tile_word (packG2_tile (by decide) ..) (decode_tile (p := pr) (by simp only [encode, packG2_x22_2]) ?_)
  rw [show (BitVec.extractLsb' 28 4 (encode (.vceq pr ty tb ta))).toNat = 7 by simp only [encode, packG2_x28_4]; rfl,
    show (BitVec.extractLsb' 24 4 (encode (.vceq pr ty tb ta))).toNat = 12 by simp only [encode, packG2_x24_4]; rfl]
  simp (disch := decide) only [encode, decodeOp, decode7, tyOf_tyCode, rdTy, packG2_x18_3, packG2_x20_2, packG2_x18_2, packG2_fTY, packG2_fTB, packG2_fTA, packG2_b21, ↓reduceIte, Nat.reduceSub, BitVec.extractLsb'_eq_self, rdTgt_wrTgt, bind, Except.bind, pure, Except.pure, BitVec.extractLsb'_append_eq_of_add_le, BitVec.extractLsb'_append_eq_of_le, Instr.wf, readAs] at hw ⊢
  simp_all
theorem vcne (pr ty tb ta) : Statement (.vcne pr ty tb ta) := by
  intro _ hw; refine tile_word (packG2_tile (by decide) ..) (decode_tile (p := pr) (by simp only [encode, packG2_x22_2]) ?_)
  rw [show (BitVec.extractLsb' 28 4 (encode (.vcne pr ty tb ta))).toNat = 7 by simp only [encode, packG2_x28_4]; rfl,
    show (BitVec.extractLsb' 24 4 (encode (.vcne pr ty tb ta))).toNat = 13 by simp only [encode, packG2_x24_4]; rfl]
  simp (disch := decide) only [encode, decodeOp, decode7, tyOf_tyCode, rdTy, packG2_x18_3, packG2_x20_2, packG2_x18_2, packG2_fTY, packG2_fTB, packG2_fTA, packG2_b21, ↓reduceIte, Nat.reduceSub, BitVec.extractLsb'_eq_self, rdTgt_wrTgt, bind, Except.bind, pure, Except.pure, BitVec.extractLsb'_append_eq_of_add_le, BitVec.extractLsb'_append_eq_of_le, Instr.wf, readAs] at hw ⊢
  simp_all
theorem vclt (pr ty tb ta) : Statement (.vclt pr ty tb ta) := by
  intro _ hw; refine tile_word (packG2_tile (by decide) ..) (decode_tile (p := pr) (by simp only [encode, packG2_x22_2]) ?_)
  rw [show (BitVec.extractLsb' 28 4 (encode (.vclt pr ty tb ta))).toNat = 7 by simp only [encode, packG2_x28_4]; rfl,
    show (BitVec.extractLsb' 24 4 (encode (.vclt pr ty tb ta))).toNat = 14 by simp only [encode, packG2_x24_4]; rfl]
  simp (disch := decide) only [encode, decodeOp, decode7, tyOf_tyCode, rdTy, packG2_x18_3, packG2_x20_2, packG2_x18_2, packG2_fTY, packG2_fTB, packG2_fTA, packG2_b21, ↓reduceIte, Nat.reduceSub, BitVec.extractLsb'_eq_self, rdTgt_wrTgt, bind, Except.bind, pure, Except.pure, BitVec.extractLsb'_append_eq_of_add_le, BitVec.extractLsb'_append_eq_of_le, Instr.wf, readAs] at hw ⊢
  simp_all
theorem vcle (pr ty tb ta) : Statement (.vcle pr ty tb ta) := by
  intro _ hw; refine tile_word (packG2_tile (by decide) ..) (decode_tile (p := pr) (by simp only [encode, packG2_x22_2]) ?_)
  rw [show (BitVec.extractLsb' 28 4 (encode (.vcle pr ty tb ta))).toNat = 7 by simp only [encode, packG2_x28_4]; rfl,
    show (BitVec.extractLsb' 24 4 (encode (.vcle pr ty tb ta))).toNat = 15 by simp only [encode, packG2_x24_4]; rfl]
  simp (disch := decide) only [encode, decodeOp, decode7, tyOf_tyCode, rdTy, packG2_x18_3, packG2_x20_2, packG2_x18_2, packG2_fTY, packG2_fTB, packG2_fTA, packG2_b21, ↓reduceIte, Nat.reduceSub, BitVec.extractLsb'_eq_self, rdTgt_wrTgt, bind, Except.bind, pure, Except.pure, BitVec.extractLsb'_append_eq_of_add_le, BitVec.extractLsb'_append_eq_of_le, Instr.wf, readAs] at hw ⊢
  simp_all
theorem vsel (pr ty tb ta) : Statement (.vsel pr ty tb ta) := by
  intro _ hw; refine tile_word (packG2_tile (by decide) ..) (decode_tile (p := pr) (by simp only [encode, packG2_x22_2]) ?_)
  rw [show (BitVec.extractLsb' 28 4 (encode (.vsel pr ty tb ta))).toNat = 8 by simp only [encode, packG2_x28_4]; rfl,
    show (BitVec.extractLsb' 24 4 (encode (.vsel pr ty tb ta))).toNat = 0 by simp only [encode, packG2_x24_4]; rfl]
  simp (disch := decide) only [encode, decodeOp, decode8, tyOf_tyCode, rdTy, packG2_x18_3, packG2_x20_2, packG2_x18_2, packG2_fTY, packG2_fTB, packG2_fTA, packG2_b21, ↓reduceIte, Nat.reduceSub, BitVec.extractLsb'_eq_self, rdTgt_wrTgt, bind, Except.bind, pure, Except.pure, BitVec.extractLsb'_append_eq_of_add_le, BitVec.extractLsb'_append_eq_of_le, Instr.wf, readAs] at hw ⊢
  simp_all
theorem vbcast (pr ty tb ta) : Statement (.vbcast pr ty tb ta) := by
  intro _ hw; refine tile_word (packG2_tile (by decide) ..) (decode_tile (p := pr) (by simp only [encode, packG2_x22_2]) ?_)
  rw [show (BitVec.extractLsb' 28 4 (encode (.vbcast pr ty tb ta))).toNat = 8 by simp only [encode, packG2_x28_4]; rfl,
    show (BitVec.extractLsb' 24 4 (encode (.vbcast pr ty tb ta))).toNat = 1 by simp only [encode, packG2_x24_4]; rfl]
  simp (disch := decide) only [encode, decodeOp, decode8, tyOf_tyCode, rdTy, packG2_x18_3, packG2_x20_2, packG2_x18_2, packG2_fTY, packG2_fTB, packG2_fTA, packG2_b21, ↓reduceIte, Nat.reduceSub, BitVec.extractLsb'_eq_self, rdTgt_wrTgt, bind, Except.bind, pure, Except.pure, BitVec.extractLsb'_append_eq_of_add_le, BitVec.extractLsb'_append_eq_of_le, Instr.wf, readAs] at hw ⊢
  simp_all
theorem vext (pr ty tb ta) : Statement (.vext pr ty tb ta) := by
  intro _ hw; refine tile_word (packG2_tile (by decide) ..) (decode_tile (p := pr) (by simp only [encode, packG2_x22_2]) ?_)
  rw [show (BitVec.extractLsb' 28 4 (encode (.vext pr ty tb ta))).toNat = 8 by simp only [encode, packG2_x28_4]; rfl,
    show (BitVec.extractLsb' 24 4 (encode (.vext pr ty tb ta))).toNat = 2 by simp only [encode, packG2_x24_4]; rfl]
  simp (disch := decide) only [encode, decodeOp, decode8, tyOf_tyCode, rdTy, packG2_x18_3, packG2_x20_2, packG2_x18_2, packG2_fTY, packG2_fTB, packG2_fTA, packG2_b21, ↓reduceIte, Nat.reduceSub, BitVec.extractLsb'_eq_self, rdTgt_wrTgt, bind, Except.bind, pure, Except.pure, BitVec.extractLsb'_append_eq_of_add_le, BitVec.extractLsb'_append_eq_of_le, Instr.wf, readAs] at hw ⊢
  simp_all
theorem vins (pr ty tb ta) : Statement (.vins pr ty tb ta) := by
  intro _ hw; refine tile_word (packG2_tile (by decide) ..) (decode_tile (p := pr) (by simp only [encode, packG2_x22_2]) ?_)
  rw [show (BitVec.extractLsb' 28 4 (encode (.vins pr ty tb ta))).toNat = 8 by simp only [encode, packG2_x28_4]; rfl,
    show (BitVec.extractLsb' 24 4 (encode (.vins pr ty tb ta))).toNat = 3 by simp only [encode, packG2_x24_4]; rfl]
  simp (disch := decide) only [encode, decodeOp, decode8, tyOf_tyCode, rdTy, packG2_x18_3, packG2_x20_2, packG2_x18_2, packG2_fTY, packG2_fTB, packG2_fTA, packG2_b21, ↓reduceIte, Nat.reduceSub, BitVec.extractLsb'_eq_self, rdTgt_wrTgt, bind, Except.bind, pure, Except.pure, BitVec.extractLsb'_append_eq_of_add_le, BitVec.extractLsb'_append_eq_of_le, Instr.wf, readAs] at hw ⊢
  simp_all
theorem vshuf (pr ty tb ta) : Statement (.vshuf pr ty tb ta) := by
  intro _ hw; refine tile_word (packG2_tile (by decide) ..) (decode_tile (p := pr) (by simp only [encode, packG2_x22_2]) ?_)
  rw [show (BitVec.extractLsb' 28 4 (encode (.vshuf pr ty tb ta))).toNat = 8 by simp only [encode, packG2_x28_4]; rfl,
    show (BitVec.extractLsb' 24 4 (encode (.vshuf pr ty tb ta))).toNat = 4 by simp only [encode, packG2_x24_4]; rfl]
  simp (disch := decide) only [encode, decodeOp, decode8, tyOf_tyCode, rdTy, packG2_x18_3, packG2_x20_2, packG2_x18_2, packG2_fTY, packG2_fTB, packG2_fTA, packG2_b21, ↓reduceIte, Nat.reduceSub, BitVec.extractLsb'_eq_self, rdTgt_wrTgt, bind, Except.bind, pure, Except.pure, BitVec.extractLsb'_append_eq_of_add_le, BitVec.extractLsb'_append_eq_of_le, Instr.wf, readAs] at hw ⊢
  simp_all
theorem vrot (pr ty tb ta) : Statement (.vrot pr ty tb ta) := by
  intro _ hw; refine tile_word (packG2_tile (by decide) ..) (decode_tile (p := pr) (by simp only [encode, packG2_x22_2]) ?_)
  rw [show (BitVec.extractLsb' 28 4 (encode (.vrot pr ty tb ta))).toNat = 8 by simp only [encode, packG2_x28_4]; rfl,
    show (BitVec.extractLsb' 24 4 (encode (.vrot pr ty tb ta))).toNat = 5 by simp only [encode, packG2_x24_4]; rfl]
  simp (disch := decide) only [encode, decodeOp, decode8, tyOf_tyCode, rdTy, packG2_x18_3, packG2_x20_2, packG2_x18_2, packG2_fTY, packG2_fTB, packG2_fTA, packG2_b21, ↓reduceIte, Nat.reduceSub, BitVec.extractLsb'_eq_self, rdTgt_wrTgt, bind, Except.bind, pure, Except.pure, BitVec.extractLsb'_append_eq_of_add_le, BitVec.extractLsb'_append_eq_of_le, Instr.wf, readAs] at hw ⊢
  simp_all
theorem vrsum (pr ty tb ta) : Statement (.vrsum pr ty tb ta) := by
  intro _ hw; refine tile_word (packG2_tile (by decide) ..) (decode_tile (p := pr) (by simp only [encode, packG2_x22_2]) ?_)
  rw [show (BitVec.extractLsb' 28 4 (encode (.vrsum pr ty tb ta))).toNat = 8 by simp only [encode, packG2_x28_4]; rfl,
    show (BitVec.extractLsb' 24 4 (encode (.vrsum pr ty tb ta))).toNat = 6 by simp only [encode, packG2_x24_4]; rfl]
  simp (disch := decide) only [encode, decodeOp, decode8, tyOf_tyCode, rdTy, packG2_x18_3, packG2_x20_2, packG2_x18_2, packG2_fTY, packG2_fTB, packG2_fTA, packG2_b21, ↓reduceIte, Nat.reduceSub, BitVec.extractLsb'_eq_self, rdTgt_wrTgt, bind, Except.bind, pure, Except.pure, BitVec.extractLsb'_append_eq_of_add_le, BitVec.extractLsb'_append_eq_of_le, Instr.wf, readAs] at hw ⊢
  simp_all
theorem vrmin (pr ty tb ta) : Statement (.vrmin pr ty tb ta) := by
  intro _ hw; refine tile_word (packG2_tile (by decide) ..) (decode_tile (p := pr) (by simp only [encode, packG2_x22_2]) ?_)
  rw [show (BitVec.extractLsb' 28 4 (encode (.vrmin pr ty tb ta))).toNat = 8 by simp only [encode, packG2_x28_4]; rfl,
    show (BitVec.extractLsb' 24 4 (encode (.vrmin pr ty tb ta))).toNat = 7 by simp only [encode, packG2_x24_4]; rfl]
  simp (disch := decide) only [encode, decodeOp, decode8, tyOf_tyCode, rdTy, packG2_x18_3, packG2_x20_2, packG2_x18_2, packG2_fTY, packG2_fTB, packG2_fTA, packG2_b21, ↓reduceIte, Nat.reduceSub, BitVec.extractLsb'_eq_self, rdTgt_wrTgt, bind, Except.bind, pure, Except.pure, BitVec.extractLsb'_append_eq_of_add_le, BitVec.extractLsb'_append_eq_of_le, Instr.wf, readAs] at hw ⊢
  simp_all
theorem vrmax (pr ty tb ta) : Statement (.vrmax pr ty tb ta) := by
  intro _ hw; refine tile_word (packG2_tile (by decide) ..) (decode_tile (p := pr) (by simp only [encode, packG2_x22_2]) ?_)
  rw [show (BitVec.extractLsb' 28 4 (encode (.vrmax pr ty tb ta))).toNat = 8 by simp only [encode, packG2_x28_4]; rfl,
    show (BitVec.extractLsb' 24 4 (encode (.vrmax pr ty tb ta))).toNat = 8 by simp only [encode, packG2_x24_4]; rfl]
  simp (disch := decide) only [encode, decodeOp, decode8, tyOf_tyCode, rdTy, packG2_x18_3, packG2_x20_2, packG2_x18_2, packG2_fTY, packG2_fTB, packG2_fTA, packG2_b21, ↓reduceIte, Nat.reduceSub, BitVec.extractLsb'_eq_self, rdTgt_wrTgt, bind, Except.bind, pure, Except.pure, BitVec.extractLsb'_append_eq_of_add_le, BitVec.extractLsb'_append_eq_of_le, Instr.wf, readAs] at hw ⊢
  simp_all
theorem vscan (pr ty tb ta) : Statement (.vscan pr ty tb ta) := by
  intro _ hw; refine tile_word (packG2_tile (by decide) ..) (decode_tile (p := pr) (by simp only [encode, packG2_x22_2]) ?_)
  rw [show (BitVec.extractLsb' 28 4 (encode (.vscan pr ty tb ta))).toNat = 8 by simp only [encode, packG2_x28_4]; rfl,
    show (BitVec.extractLsb' 24 4 (encode (.vscan pr ty tb ta))).toNat = 9 by simp only [encode, packG2_x24_4]; rfl]
  simp (disch := decide) only [encode, decodeOp, decode8, tyOf_tyCode, rdTy, packG2_x18_3, packG2_x20_2, packG2_x18_2, packG2_fTY, packG2_fTB, packG2_fTA, packG2_b21, ↓reduceIte, Nat.reduceSub, BitVec.extractLsb'_eq_self, rdTgt_wrTgt, bind, Except.bind, pure, Except.pure, BitVec.extractLsb'_append_eq_of_add_le, BitVec.extractLsb'_append_eq_of_le, Instr.wf, readAs] at hw ⊢
  simp_all
theorem vcvt (pr ty tb ta) : Statement (.vcvt pr ty tb ta) := by
  intro _ hw; refine tile_word (packG2_tile (by decide) ..) (decode_tile (p := pr) (by simp only [encode, packG2_x22_2]) ?_)
  rw [show (BitVec.extractLsb' 28 4 (encode (.vcvt pr ty tb ta))).toNat = 8 by simp only [encode, packG2_x28_4]; rfl,
    show (BitVec.extractLsb' 24 4 (encode (.vcvt pr ty tb ta))).toNat = 10 by simp only [encode, packG2_x24_4]; rfl]
  simp (disch := decide) only [encode, decodeOp, decode8, tyOf_tyCode, rdTy, packG2_x18_3, packG2_x20_2, packG2_x18_2, packG2_fTY, packG2_fTB, packG2_fTA, packG2_b21, ↓reduceIte, Nat.reduceSub, BitVec.extractLsb'_eq_self, rdTgt_wrTgt, bind, Except.bind, pure, Except.pure, BitVec.extractLsb'_append_eq_of_add_le, BitVec.extractLsb'_append_eq_of_le, Instr.wf, readAs] at hw ⊢
  simp_all
theorem mand (pr tb ta) : Statement (.mand pr tb ta) := by
  intro _ hw; refine tile_word (packG2_tile (by decide) ..) (decode_tile (p := pr) (by simp only [encode, packG2_x22_2]) ?_)
  rw [show (BitVec.extractLsb' 28 4 (encode (.mand pr tb ta))).toNat = 8 by simp only [encode, packG2_x28_4]; rfl,
    show (BitVec.extractLsb' 24 4 (encode (.mand pr tb ta))).toNat = 11 by simp only [encode, packG2_x24_4]; rfl]
  simp (disch := decide) only [encode, decodeOp, decode8, ty0, packG2_x18_3, packG2_x20_2, packG2_x18_2, packG2_fTY, packG2_fTB, packG2_fTA, packG2_b21, ↓reduceIte, Nat.reduceSub, BitVec.extractLsb'_eq_self, rdTgt_wrTgt, bind, Except.bind, pure, Except.pure, BitVec.extractLsb'_append_eq_of_add_le, BitVec.extractLsb'_append_eq_of_le, Instr.wf, readAs] at hw ⊢
theorem mor (pr tb ta) : Statement (.mor pr tb ta) := by
  intro _ hw; refine tile_word (packG2_tile (by decide) ..) (decode_tile (p := pr) (by simp only [encode, packG2_x22_2]) ?_)
  rw [show (BitVec.extractLsb' 28 4 (encode (.mor pr tb ta))).toNat = 8 by simp only [encode, packG2_x28_4]; rfl,
    show (BitVec.extractLsb' 24 4 (encode (.mor pr tb ta))).toNat = 12 by simp only [encode, packG2_x24_4]; rfl]
  simp (disch := decide) only [encode, decodeOp, decode8, ty0, packG2_x18_3, packG2_x20_2, packG2_x18_2, packG2_fTY, packG2_fTB, packG2_fTA, packG2_b21, ↓reduceIte, Nat.reduceSub, BitVec.extractLsb'_eq_self, rdTgt_wrTgt, bind, Except.bind, pure, Except.pure, BitVec.extractLsb'_append_eq_of_add_le, BitVec.extractLsb'_append_eq_of_le, Instr.wf, readAs] at hw ⊢
theorem mnot (pr tb ta) : Statement (.mnot pr tb ta) := by
  intro _ hw; refine tile_word (packG2_tile (by decide) ..) (decode_tile (p := pr) (by simp only [encode, packG2_x22_2]) ?_)
  rw [show (BitVec.extractLsb' 28 4 (encode (.mnot pr tb ta))).toNat = 8 by simp only [encode, packG2_x28_4]; rfl,
    show (BitVec.extractLsb' 24 4 (encode (.mnot pr tb ta))).toNat = 13 by simp only [encode, packG2_x24_4]; rfl]
  simp (disch := decide) only [encode, decodeOp, decode8, ty0, packG2_x18_3, packG2_x20_2, packG2_x18_2, packG2_fTY, packG2_fTB, packG2_fTA, packG2_b21, ↓reduceIte, Nat.reduceSub, BitVec.extractLsb'_eq_self, rdTgt_wrTgt, bind, Except.bind, pure, Except.pure, BitVec.extractLsb'_append_eq_of_add_le, BitVec.extractLsb'_append_eq_of_le, Instr.wf, readAs] at hw ⊢
theorem mpopc (pr tb ta) : Statement (.mpopc pr tb ta) := by
  intro _ hw; refine tile_word (packG2_tile (by decide) ..) (decode_tile (p := pr) (by simp only [encode, packG2_x22_2]) ?_)
  rw [show (BitVec.extractLsb' 28 4 (encode (.mpopc pr tb ta))).toNat = 8 by simp only [encode, packG2_x28_4]; rfl,
    show (BitVec.extractLsb' 24 4 (encode (.mpopc pr tb ta))).toNat = 14 by simp only [encode, packG2_x24_4]; rfl]
  simp (disch := decide) only [encode, decodeOp, decode8, ty0, packG2_x18_3, packG2_x20_2, packG2_x18_2, packG2_fTY, packG2_fTB, packG2_fTA, packG2_b21, ↓reduceIte, Nat.reduceSub, BitVec.extractLsb'_eq_self, rdTgt_wrTgt, bind, Except.bind, pure, Except.pure, BitVec.extractLsb'_append_eq_of_add_le, BitVec.extractLsb'_append_eq_of_le, Instr.wf, readAs] at hw ⊢
theorem vfilt (pr ty tb ta) : Statement (.vfilt pr ty tb ta) := by
  intro _ hw; refine tile_word (packG2_tile (by decide) ..) (decode_tile (p := pr) (by simp only [encode, packG2_x22_2]) ?_)
  rw [show (BitVec.extractLsb' 28 4 (encode (.vfilt pr ty tb ta))).toNat = 8 by simp only [encode, packG2_x28_4]; rfl,
    show (BitVec.extractLsb' 24 4 (encode (.vfilt pr ty tb ta))).toNat = 15 by simp only [encode, packG2_x24_4]; rfl]
  simp (disch := decide) only [encode, decodeOp, decode8, tyOf_tyCode, rdTy, packG2_x18_3, packG2_x20_2, packG2_x18_2, packG2_fTY, packG2_fTB, packG2_fTA, packG2_b21, ↓reduceIte, Nat.reduceSub, BitVec.extractLsb'_eq_self, rdTgt_wrTgt, bind, Except.bind, pure, Except.pure, BitVec.extractLsb'_append_eq_of_add_le, BitVec.extractLsb'_append_eq_of_le, Instr.wf, readAs] at hw ⊢
  simp_all
theorem vexpd (pr ty tb ta) : Statement (.vexpd pr ty tb ta) := by
  intro _ hw; refine tile_word (packG2_tile (by decide) ..) (decode_tile (p := pr) (by simp only [encode, packG2_x22_2]) ?_)
  rw [show (BitVec.extractLsb' 28 4 (encode (.vexpd pr ty tb ta))).toNat = 9 by simp only [encode, packG2_x28_4]; rfl,
    show (BitVec.extractLsb' 24 4 (encode (.vexpd pr ty tb ta))).toNat = 0 by simp only [encode, packG2_x24_4]; rfl]
  simp (disch := decide) only [encode, decodeOp, decode9, tyOf_tyCode, rdTy, packG2_x18_3, packG2_x20_2, packG2_x18_2, packG2_fTY, packG2_fTB, packG2_fTA, packG2_b21, ↓reduceIte, Nat.reduceSub, BitVec.extractLsb'_eq_self, rdTgt_wrTgt, bind, Except.bind, pure, Except.pure, BitVec.extractLsb'_append_eq_of_add_le, BitVec.extractLsb'_append_eq_of_le, Instr.wf, readAs] at hw ⊢
  simp_all
theorem viota (pr ty tb ta) : Statement (.viota pr ty tb ta) := by
  intro _ hw; refine tile_word (packG2_tile (by decide) ..) (decode_tile (p := pr) (by simp only [encode, packG2_x22_2]) ?_)
  rw [show (BitVec.extractLsb' 28 4 (encode (.viota pr ty tb ta))).toNat = 9 by simp only [encode, packG2_x28_4]; rfl,
    show (BitVec.extractLsb' 24 4 (encode (.viota pr ty tb ta))).toNat = 1 by simp only [encode, packG2_x24_4]; rfl]
  simp (disch := decide) only [encode, decodeOp, decode9, tyOf_tyCode, rdTy, packG2_x18_3, packG2_x20_2, packG2_x18_2, packG2_fTY, packG2_fTB, packG2_fTA, packG2_b21, ↓reduceIte, Nat.reduceSub, BitVec.extractLsb'_eq_self, rdTgt_wrTgt, bind, Except.bind, pure, Except.pure, BitVec.extractLsb'_append_eq_of_add_le, BitVec.extractLsb'_append_eq_of_le, Instr.wf, readAs] at hw ⊢
  simp_all
theorem vclamp (pr ty tb ta) : Statement (.vclamp pr ty tb ta) := by
  intro _ hw; refine tile_word (packG2_tile (by decide) ..) (decode_tile (p := pr) (by simp only [encode, packG2_x22_2]) ?_)
  rw [show (BitVec.extractLsb' 28 4 (encode (.vclamp pr ty tb ta))).toNat = 9 by simp only [encode, packG2_x28_4]; rfl,
    show (BitVec.extractLsb' 24 4 (encode (.vclamp pr ty tb ta))).toNat = 2 by simp only [encode, packG2_x24_4]; rfl]
  simp (disch := decide) only [encode, decodeOp, decode9, tyOf_tyCode, rdTy, packG2_x18_3, packG2_x20_2, packG2_x18_2, packG2_fTY, packG2_fTB, packG2_fTA, packG2_b21, ↓reduceIte, Nat.reduceSub, BitVec.extractLsb'_eq_self, rdTgt_wrTgt, bind, Except.bind, pure, Except.pure, BitVec.extractLsb'_append_eq_of_add_le, BitVec.extractLsb'_append_eq_of_le, Instr.wf, readAs] at hw ⊢
  simp_all
theorem vmrg (pr ty tb ta) : Statement (.vmrg pr ty tb ta) := by
  intro _ hw; refine tile_word (packG2_tile (by decide) ..) (decode_tile (p := pr) (by simp only [encode, packG2_x22_2]) ?_)
  rw [show (BitVec.extractLsb' 28 4 (encode (.vmrg pr ty tb ta))).toNat = 10 by simp only [encode, packG2_x28_4]; rfl,
    show (BitVec.extractLsb' 24 4 (encode (.vmrg pr ty tb ta))).toNat = 0 by simp only [encode, packG2_x24_4]; rfl]
  simp (disch := decide) only [encode, decodeOp, decodeA, tyOf_tyCode, rdTy, packG2_x18_3, packG2_x20_2, packG2_x18_2, packG2_fTY, packG2_fTB, packG2_fTA, packG2_b21, ↓reduceIte, Nat.reduceSub, BitVec.extractLsb'_eq_self, rdTgt_wrTgt, bind, Except.bind, pure, Except.pure, BitVec.extractLsb'_append_eq_of_add_le, BitVec.extractLsb'_append_eq_of_le, Instr.wf, readAs] at hw ⊢
  simp_all
theorem visx (pr ty tb ta) : Statement (.visx pr ty tb ta) := by
  intro _ hw; refine tile_word (packG2_tile (by decide) ..) (decode_tile (p := pr) (by simp only [encode, packG2_x22_2]) ?_)
  rw [show (BitVec.extractLsb' 28 4 (encode (.visx pr ty tb ta))).toNat = 10 by simp only [encode, packG2_x28_4]; rfl,
    show (BitVec.extractLsb' 24 4 (encode (.visx pr ty tb ta))).toNat = 1 by simp only [encode, packG2_x24_4]; rfl]
  simp (disch := decide) only [encode, decodeOp, decodeA, tyOf_tyCode, rdTy, packG2_x18_3, packG2_x20_2, packG2_x18_2, packG2_fTY, packG2_fTB, packG2_fTA, packG2_b21, ↓reduceIte, Nat.reduceSub, BitVec.extractLsb'_eq_self, rdTgt_wrTgt, bind, Except.bind, pure, Except.pure, BitVec.extractLsb'_append_eq_of_add_le, BitVec.extractLsb'_append_eq_of_le, Instr.wf, readAs] at hw ⊢
  simp_all
theorem vdedup (pr ty tb ta) : Statement (.vdedup pr ty tb ta) := by
  intro _ hw; refine tile_word (packG2_tile (by decide) ..) (decode_tile (p := pr) (by simp only [encode, packG2_x22_2]) ?_)
  rw [show (BitVec.extractLsb' 28 4 (encode (.vdedup pr ty tb ta))).toNat = 10 by simp only [encode, packG2_x28_4]; rfl,
    show (BitVec.extractLsb' 24 4 (encode (.vdedup pr ty tb ta))).toNat = 2 by simp only [encode, packG2_x24_4]; rfl]
  simp (disch := decide) only [encode, decodeOp, decodeA, tyOf_tyCode, rdTy, packG2_x18_3, packG2_x20_2, packG2_x18_2, packG2_fTY, packG2_fTB, packG2_fTA, packG2_b21, ↓reduceIte, Nat.reduceSub, BitVec.extractLsb'_eq_self, rdTgt_wrTgt, bind, Except.bind, pure, Except.pure, BitVec.extractLsb'_append_eq_of_add_le, BitVec.extractLsb'_append_eq_of_le, Instr.wf, readAs] at hw ⊢
  simp_all
theorem sacc (pr ty) : Statement (.sacc pr ty) := by
  intro _ hw; refine tile_word (packG2_tile (by decide) ..) (decode_tile (p := pr) (by simp only [encode, packG2_x22_2]) ?_)
  rw [show (BitVec.extractLsb' 28 4 (encode (.sacc pr ty))).toNat = 10 by simp only [encode, packG2_x28_4]; rfl,
    show (BitVec.extractLsb' 24 4 (encode (.sacc pr ty))).toNat = 3 by simp only [encode, packG2_x24_4]; rfl]
  simp (disch := decide) only [encode, decodeOp, decodeA, packG2_tab, tab0, tyOf_tyCode, rdTy, packG2_x18_3, packG2_x20_2, packG2_x18_2, packG2_fTY, packG2_fTB, packG2_fTA, packG2_b21, ↓reduceIte, Nat.reduceSub, BitVec.extractLsb'_eq_self, rdTgt_wrTgt, bind, Except.bind, pure, Except.pure, BitVec.extractLsb'_append_eq_of_add_le, BitVec.extractLsb'_append_eq_of_le, Instr.wf, readAs] at hw ⊢
  simp_all
theorem saccf (pr tb ta) : Statement (.saccf pr tb ta) := by
  intro _ hw; refine tile_word (packG2_tile (by decide) ..) (decode_tile (p := pr) (by simp only [encode, packG2_x22_2]) ?_)
  rw [show (BitVec.extractLsb' 28 4 (encode (.saccf pr tb ta))).toNat = 10 by simp only [encode, packG2_x28_4]; rfl,
    show (BitVec.extractLsb' 24 4 (encode (.saccf pr tb ta))).toNat = 4 by simp only [encode, packG2_x24_4]; rfl]
  simp (disch := decide) only [encode, decodeOp, decodeA, ty0, packG2_x18_3, packG2_x20_2, packG2_x18_2, packG2_fTY, packG2_fTB, packG2_fTA, packG2_b21, ↓reduceIte, Nat.reduceSub, BitVec.extractLsb'_eq_self, rdTgt_wrTgt, bind, Except.bind, pure, Except.pure, BitVec.extractLsb'_append_eq_of_add_le, BitVec.extractLsb'_append_eq_of_le, Instr.wf, readAs] at hw ⊢
theorem saccz (pr) : Statement (.saccz pr) := by
  intro _ hw; refine tile_word (packG2_tile (by decide) ..) (decode_tile (p := pr) (by simp only [encode, packG2_x22_2]) ?_)
  rw [show (BitVec.extractLsb' 28 4 (encode (.saccz pr))).toNat = 10 by simp only [encode, packG2_x28_4]; rfl,
    show (BitVec.extractLsb' 24 4 (encode (.saccz pr))).toNat = 5 by simp only [encode, packG2_x24_4]; rfl]
  simp (disch := decide) only [encode, decodeOp, decodeA, packG2_low, z22, packG2_x18_3, packG2_x20_2, packG2_x18_2, packG2_fTY, packG2_fTB, packG2_fTA, packG2_b21, ↓reduceIte, Nat.reduceSub, BitVec.extractLsb'_eq_self, rdTgt_wrTgt, bind, Except.bind, pure, Except.pure, BitVec.extractLsb'_append_eq_of_add_le, BitVec.extractLsb'_append_eq_of_le, Instr.wf, readAs] at hw ⊢
theorem rngx (pr tb ta) : Statement (.rngx pr tb ta) := by
  intro _ hw; refine tile_word (packG2_tile (by decide) ..) (decode_tile (p := pr) (by simp only [encode, packG2_x22_2]) ?_)
  rw [show (BitVec.extractLsb' 28 4 (encode (.rngx pr tb ta))).toNat = 10 by simp only [encode, packG2_x28_4]; rfl,
    show (BitVec.extractLsb' 24 4 (encode (.rngx pr tb ta))).toNat = 6 by simp only [encode, packG2_x24_4]; rfl]
  simp (disch := decide) only [encode, decodeOp, decodeA, tyIs, packG2_x18_3, packG2_x20_2, packG2_x18_2, packG2_fTY, packG2_fTB, packG2_fTA, packG2_b21, ↓reduceIte, Nat.reduceSub, BitVec.extractLsb'_eq_self, rdTgt_wrTgt, bind, Except.bind, pure, Except.pure, BitVec.extractLsb'_append_eq_of_add_le, BitVec.extractLsb'_append_eq_of_le, Instr.wf, readAs] at hw ⊢
  rfl
theorem ldl (pr lk wd s) : Statement (.ldl pr lk wd s) := by
  intro _ hw; refine tile_word (packM_tile (by decide) ..) (decode_tile (p := pr) (by simp only [encode, packM_x22_2]) ?_)
  rw [show (BitVec.extractLsb' 28 4 (encode (.ldl pr lk wd s))).toNat = 11 by simp only [encode, packM_x28_4]; rfl,
    show (BitVec.extractLsb' 24 4 (encode (.ldl pr lk wd s))).toNat = 0 by simp only [encode, packM_x24_4]; rfl]
  simp (disch := decide) only [encode, decodeOp, decodeB, widOf_widCode, rdWid, packM_rdLink, packM_x4_2, packM_x0_4, packM_x0_3, packM_x3_3, packM_fWd, packM_fRsp, ↓reduceIte, Nat.reduceSub, BitVec.extractLsb'_eq_self, rdTgt_wrTgt, bind, Except.bind, pure, Except.pure, BitVec.extractLsb'_append_eq_of_add_le, BitVec.extractLsb'_append_eq_of_le, Instr.wf, readAs] at hw ⊢
  cases wd <;> rfl
theorem stl (pr lk wd) : Statement (.stl pr lk wd) := by
  intro _ hw; refine tile_word (packM_tile (by decide) ..) (decode_tile (p := pr) (by simp only [encode, packM_x22_2]) ?_)
  rw [show (BitVec.extractLsb' 28 4 (encode (.stl pr lk wd))).toNat = 11 by simp only [encode, packM_x28_4]; rfl,
    show (BitVec.extractLsb' 24 4 (encode (.stl pr lk wd))).toNat = 1 by simp only [encode, packM_x24_4]; rfl]
  simp (disch := decide) only [encode, decodeOp, decodeB, rsp0, widOf_widCode, rdWid, packM_rdLink, packM_x4_2, packM_x0_4, packM_x0_3, packM_x3_3, packM_fWd, packM_fRsp, ↓reduceIte, Nat.reduceSub, BitVec.extractLsb'_eq_self, rdTgt_wrTgt, bind, Except.bind, pure, Except.pure, BitVec.extractLsb'_append_eq_of_add_le, BitVec.extractLsb'_append_eq_of_le, Instr.wf, readAs] at hw ⊢
  cases wd <;> rfl
theorem ldn (pr lk wd s) : Statement (.ldn pr lk wd s) := by
  intro _ hw; refine tile_word (packM_tile (by decide) ..) (decode_tile (p := pr) (by simp only [encode, packM_x22_2]) ?_)
  rw [show (BitVec.extractLsb' 28 4 (encode (.ldn pr lk wd s))).toNat = 11 by simp only [encode, packM_x28_4]; rfl,
    show (BitVec.extractLsb' 24 4 (encode (.ldn pr lk wd s))).toNat = 2 by simp only [encode, packM_x24_4]; rfl]
  simp (disch := decide) only [encode, decodeOp, decodeB, widOf_widCode, rdWid, packM_rdLink, packM_x4_2, packM_x0_4, packM_x0_3, packM_x3_3, packM_fWd, packM_fRsp, ↓reduceIte, Nat.reduceSub, BitVec.extractLsb'_eq_self, rdTgt_wrTgt, bind, Except.bind, pure, Except.pure, BitVec.extractLsb'_append_eq_of_add_le, BitVec.extractLsb'_append_eq_of_le, Instr.wf, readAs] at hw ⊢
  cases wd <;> rfl
theorem stn (pr lk wd) : Statement (.stn pr lk wd) := by
  intro _ hw; refine tile_word (packM_tile (by decide) ..) (decode_tile (p := pr) (by simp only [encode, packM_x22_2]) ?_)
  rw [show (BitVec.extractLsb' 28 4 (encode (.stn pr lk wd))).toNat = 11 by simp only [encode, packM_x28_4]; rfl,
    show (BitVec.extractLsb' 24 4 (encode (.stn pr lk wd))).toNat = 3 by simp only [encode, packM_x24_4]; rfl]
  simp (disch := decide) only [encode, decodeOp, decodeB, rsp0, widOf_widCode, rdWid, packM_rdLink, packM_x4_2, packM_x0_4, packM_x0_3, packM_x3_3, packM_fWd, packM_fRsp, ↓reduceIte, Nat.reduceSub, BitVec.extractLsb'_eq_self, rdTgt_wrTgt, bind, Except.bind, pure, Except.pure, BitVec.extractLsb'_append_eq_of_add_le, BitVec.extractLsb'_append_eq_of_le, Instr.wf, readAs] at hw ⊢
  cases wd <;> rfl
theorem ld (pr lk wd c) : Statement (.ld pr lk wd c) := by
  intro _ hw; refine tile_word (packM_tile (by decide) ..) (decode_tile (p := pr) (by simp only [encode, packM_x22_2]) ?_)
  rw [show (BitVec.extractLsb' 28 4 (encode (.ld pr lk wd c))).toNat = 11 by simp only [encode, packM_x28_4]; rfl,
    show (BitVec.extractLsb' 24 4 (encode (.ld pr lk wd c))).toNat = 4 by simp only [encode, packM_x24_4]; rfl]
  simp (disch := decide) only [encode, decodeOp, decodeB, widOf_widCode, rdWid, rdRch, packM_rdLink, packM_x4_2, packM_x0_4, packM_x0_3, packM_x3_3, packM_fWd, packM_fRsp, ↓reduceIte, Nat.reduceSub, BitVec.extractLsb'_eq_self, rdTgt_wrTgt, bind, Except.bind, pure, Except.pure, BitVec.extractLsb'_append_eq_of_add_le, BitVec.extractLsb'_append_eq_of_le, Instr.wf, readAs] at hw ⊢
  cases wd <;> rfl
theorem st (pr lk wd) : Statement (.st pr lk wd) := by
  intro _ hw; refine tile_word (packM_tile (by decide) ..) (decode_tile (p := pr) (by simp only [encode, packM_x22_2]) ?_)
  rw [show (BitVec.extractLsb' 28 4 (encode (.st pr lk wd))).toNat = 11 by simp only [encode, packM_x28_4]; rfl,
    show (BitVec.extractLsb' 24 4 (encode (.st pr lk wd))).toNat = 5 by simp only [encode, packM_x24_4]; rfl]
  simp (disch := decide) only [encode, decodeOp, decodeB, rsp0, widOf_widCode, rdWid, packM_rdLink, packM_x4_2, packM_x0_4, packM_x0_3, packM_x3_3, packM_fWd, packM_fRsp, ↓reduceIte, Nat.reduceSub, BitVec.extractLsb'_eq_self, rdTgt_wrTgt, bind, Except.bind, pure, Except.pure, BitVec.extractLsb'_append_eq_of_add_le, BitVec.extractLsb'_append_eq_of_le, Instr.wf, readAs] at hw ⊢
  cases wd <;> rfl
theorem ldw (pr lk wd c) : Statement (.ldw pr lk wd c) := by
  intro _ hw; refine tile_word (packM_tile (by decide) ..) (decode_tile (p := pr) (by simp only [encode, packM_x22_2]) ?_)
  rw [show (BitVec.extractLsb' 28 4 (encode (.ldw pr lk wd c))).toNat = 11 by simp only [encode, packM_x28_4]; rfl,
    show (BitVec.extractLsb' 24 4 (encode (.ldw pr lk wd c))).toNat = 6 by simp only [encode, packM_x24_4]; rfl]
  simp (disch := decide) only [encode, decodeOp, decodeB, widOf_widCode, rdWid, rdRch, packM_rdLink, packM_x4_2, packM_x0_4, packM_x0_3, packM_x3_3, packM_fWd, packM_fRsp, ↓reduceIte, Nat.reduceSub, BitVec.extractLsb'_eq_self, rdTgt_wrTgt, bind, Except.bind, pure, Except.pure, BitVec.extractLsb'_append_eq_of_add_le, BitVec.extractLsb'_append_eq_of_le, Instr.wf, readAs] at hw ⊢
  cases wd <;> rfl
theorem ldc (pr lk wd c) : Statement (.ldc pr lk wd c) := by
  intro _ hw; refine tile_word (packM_tile (by decide) ..) (decode_tile (p := pr) (by simp only [encode, packM_x22_2]) ?_)
  rw [show (BitVec.extractLsb' 28 4 (encode (.ldc pr lk wd c))).toNat = 11 by simp only [encode, packM_x28_4]; rfl,
    show (BitVec.extractLsb' 24 4 (encode (.ldc pr lk wd c))).toNat = 7 by simp only [encode, packM_x24_4]; rfl]
  simp (disch := decide) only [encode, decodeOp, decodeB, widOf_widCode, rdWid, rdRch, packM_rdLink, packM_x4_2, packM_x0_4, packM_x0_3, packM_x3_3, packM_fWd, packM_fRsp, ↓reduceIte, Nat.reduceSub, BitVec.extractLsb'_eq_self, rdTgt_wrTgt, bind, Except.bind, pure, Except.pure, BitVec.extractLsb'_append_eq_of_add_le, BitVec.extractLsb'_append_eq_of_le, Instr.wf, readAs] at hw ⊢
  cases wd <;> rfl
theorem stf (pr lk wd) : Statement (.stf pr lk wd) := by
  intro _ hw; refine tile_word (packM_tile (by decide) ..) (decode_tile (p := pr) (by simp only [encode, packM_x22_2]) ?_)
  rw [show (BitVec.extractLsb' 28 4 (encode (.stf pr lk wd))).toNat = 11 by simp only [encode, packM_x28_4]; rfl,
    show (BitVec.extractLsb' 24 4 (encode (.stf pr lk wd))).toNat = 8 by simp only [encode, packM_x24_4]; rfl]
  simp (disch := decide) only [encode, decodeOp, decodeB, rsp0, widOf_widCode, rdWid, packM_rdLink, packM_x4_2, packM_x0_4, packM_x0_3, packM_x3_3, packM_fWd, packM_fRsp, ↓reduceIte, Nat.reduceSub, BitVec.extractLsb'_eq_self, rdTgt_wrTgt, bind, Except.bind, pure, Except.pure, BitVec.extractLsb'_append_eq_of_add_le, BitVec.extractLsb'_append_eq_of_le, Instr.wf, readAs] at hw ⊢
  simp_all
theorem sts (pr lk wd) : Statement (.sts pr lk wd) := by
  intro _ hw; refine tile_word (packM_tile (by decide) ..) (decode_tile (p := pr) (by simp only [encode, packM_x22_2]) ?_)
  rw [show (BitVec.extractLsb' 28 4 (encode (.sts pr lk wd))).toNat = 11 by simp only [encode, packM_x28_4]; rfl,
    show (BitVec.extractLsb' 24 4 (encode (.sts pr lk wd))).toNat = 9 by simp only [encode, packM_x24_4]; rfl]
  simp (disch := decide) only [encode, decodeOp, decodeB, rsp0, widOf_widCode, rdWid, packM_rdLink, packM_x4_2, packM_x0_4, packM_x0_3, packM_x3_3, packM_fWd, packM_fRsp, ↓reduceIte, Nat.reduceSub, BitVec.extractLsb'_eq_self, rdTgt_wrTgt, bind, Except.bind, pure, Except.pure, BitVec.extractLsb'_append_eq_of_add_le, BitVec.extractLsb'_append_eq_of_le, Instr.wf, readAs] at hw ⊢
  cases wd <;> rfl
theorem fempty (pr lk wd) : Statement (.fempty pr lk wd) := by
  intro _ hw; refine tile_word (packM_tile (by decide) ..) (decode_tile (p := pr) (by simp only [encode, packM_x22_2]) ?_)
  rw [show (BitVec.extractLsb' 28 4 (encode (.fempty pr lk wd))).toNat = 11 by simp only [encode, packM_x28_4]; rfl,
    show (BitVec.extractLsb' 24 4 (encode (.fempty pr lk wd))).toNat = 10 by simp only [encode, packM_x24_4]; rfl]
  simp (disch := decide) only [encode, decodeOp, decodeB, rsp0, widOf_widCode, rdWid, packM_rdLink, packM_x4_2, packM_x0_4, packM_x0_3, packM_x3_3, packM_fWd, packM_fRsp, ↓reduceIte, Nat.reduceSub, BitVec.extractLsb'_eq_self, rdTgt_wrTgt, bind, Except.bind, pure, Except.pure, BitVec.extractLsb'_append_eq_of_add_le, BitVec.extractLsb'_append_eq_of_le, Instr.wf, readAs] at hw ⊢
  cases wd <;> rfl
theorem feq (pr lk wd c) : Statement (.feq pr lk wd c) := by
  intro _ hw; refine tile_word (packM_tile (by decide) ..) (decode_tile (p := pr) (by simp only [encode, packM_x22_2]) ?_)
  rw [show (BitVec.extractLsb' 28 4 (encode (.feq pr lk wd c))).toNat = 11 by simp only [encode, packM_x28_4]; rfl,
    show (BitVec.extractLsb' 24 4 (encode (.feq pr lk wd c))).toNat = 11 by simp only [encode, packM_x24_4]; rfl]
  simp (disch := decide) only [encode, decodeOp, decodeB, widOf_widCode, rdWid, rdRch, packM_rdLink, packM_x4_2, packM_x0_4, packM_x0_3, packM_x3_3, packM_fWd, packM_fRsp, ↓reduceIte, Nat.reduceSub, BitVec.extractLsb'_eq_self, rdTgt_wrTgt, bind, Except.bind, pure, Except.pure, BitVec.extractLsb'_append_eq_of_add_le, BitVec.extractLsb'_append_eq_of_le, Instr.wf, readAs] at hw ⊢
  cases wd <;> rfl
theorem aadd (pr lk d c) : Statement (.aadd pr lk d c) := by
  intro _ hw; refine tile_word (packM_tile (by decide) ..) (decode_tile (p := pr) (by simp only [encode, packM_x22_2]) ?_)
  rw [show (BitVec.extractLsb' 28 4 (encode (.aadd pr lk d c))).toNat = 11 by simp only [encode, packM_x28_4]; rfl,
    show (BitVec.extractLsb' 24 4 (encode (.aadd pr lk d c))).toNat = 12 by simp only [encode, packM_x24_4]; rfl]
  cases d <;> simp (disch := decide) only [encode, decodeOp, decodeB, rdWD, rdRch, wrWD, packM_rdLink, packM_x4_2, packM_x0_4, packM_x0_3, packM_x3_3, packM_fWd, packM_fRsp, ↓reduceIte, Nat.reduceSub, BitVec.extractLsb'_eq_self, rdTgt_wrTgt, bind, Except.bind, pure, Except.pure, BitVec.extractLsb'_append_eq_of_add_le, BitVec.extractLsb'_append_eq_of_le, Instr.wf, readAs] at hw ⊢ <;> rfl
theorem aand (pr lk d c) : Statement (.aand pr lk d c) := by
  intro _ hw; refine tile_word (packM_tile (by decide) ..) (decode_tile (p := pr) (by simp only [encode, packM_x22_2]) ?_)
  rw [show (BitVec.extractLsb' 28 4 (encode (.aand pr lk d c))).toNat = 11 by simp only [encode, packM_x28_4]; rfl,
    show (BitVec.extractLsb' 24 4 (encode (.aand pr lk d c))).toNat = 13 by simp only [encode, packM_x24_4]; rfl]
  cases d <;> simp (disch := decide) only [encode, decodeOp, decodeB, rdWD, rdRch, wrWD, packM_rdLink, packM_x4_2, packM_x0_4, packM_x0_3, packM_x3_3, packM_fWd, packM_fRsp, ↓reduceIte, Nat.reduceSub, BitVec.extractLsb'_eq_self, rdTgt_wrTgt, bind, Except.bind, pure, Except.pure, BitVec.extractLsb'_append_eq_of_add_le, BitVec.extractLsb'_append_eq_of_le, Instr.wf, readAs] at hw ⊢ <;> rfl
theorem aor (pr lk d c) : Statement (.aor pr lk d c) := by
  intro _ hw; refine tile_word (packM_tile (by decide) ..) (decode_tile (p := pr) (by simp only [encode, packM_x22_2]) ?_)
  rw [show (BitVec.extractLsb' 28 4 (encode (.aor pr lk d c))).toNat = 11 by simp only [encode, packM_x28_4]; rfl,
    show (BitVec.extractLsb' 24 4 (encode (.aor pr lk d c))).toNat = 14 by simp only [encode, packM_x24_4]; rfl]
  cases d <;> simp (disch := decide) only [encode, decodeOp, decodeB, rdWD, rdRch, wrWD, packM_rdLink, packM_x4_2, packM_x0_4, packM_x0_3, packM_x3_3, packM_fWd, packM_fRsp, ↓reduceIte, Nat.reduceSub, BitVec.extractLsb'_eq_self, rdTgt_wrTgt, bind, Except.bind, pure, Except.pure, BitVec.extractLsb'_append_eq_of_add_le, BitVec.extractLsb'_append_eq_of_le, Instr.wf, readAs] at hw ⊢ <;> rfl
theorem axor (pr lk d c) : Statement (.axor pr lk d c) := by
  intro _ hw; refine tile_word (packM_tile (by decide) ..) (decode_tile (p := pr) (by simp only [encode, packM_x22_2]) ?_)
  rw [show (BitVec.extractLsb' 28 4 (encode (.axor pr lk d c))).toNat = 11 by simp only [encode, packM_x28_4]; rfl,
    show (BitVec.extractLsb' 24 4 (encode (.axor pr lk d c))).toNat = 15 by simp only [encode, packM_x24_4]; rfl]
  cases d <;> simp (disch := decide) only [encode, decodeOp, decodeB, rdWD, rdRch, wrWD, packM_rdLink, packM_x4_2, packM_x0_4, packM_x0_3, packM_x3_3, packM_fWd, packM_fRsp, ↓reduceIte, Nat.reduceSub, BitVec.extractLsb'_eq_self, rdTgt_wrTgt, bind, Except.bind, pure, Except.pure, BitVec.extractLsb'_append_eq_of_add_le, BitVec.extractLsb'_append_eq_of_le, Instr.wf, readAs] at hw ⊢ <;> rfl
theorem amin (pr lk d c) : Statement (.amin pr lk d c) := by
  intro _ hw; refine tile_word (packM_tile (by decide) ..) (decode_tile (p := pr) (by simp only [encode, packM_x22_2]) ?_)
  rw [show (BitVec.extractLsb' 28 4 (encode (.amin pr lk d c))).toNat = 12 by simp only [encode, packM_x28_4]; rfl,
    show (BitVec.extractLsb' 24 4 (encode (.amin pr lk d c))).toNat = 0 by simp only [encode, packM_x24_4]; rfl]
  cases d <;> simp (disch := decide) only [encode, decodeOp, decodeC, rdWD, rdRch, wrWD, packM_rdLink, packM_x4_2, packM_x0_4, packM_x0_3, packM_x3_3, packM_fWd, packM_fRsp, ↓reduceIte, Nat.reduceSub, BitVec.extractLsb'_eq_self, rdTgt_wrTgt, bind, Except.bind, pure, Except.pure, BitVec.extractLsb'_append_eq_of_add_le, BitVec.extractLsb'_append_eq_of_le, Instr.wf, readAs] at hw ⊢ <;> rfl
theorem amax (pr lk d c) : Statement (.amax pr lk d c) := by
  intro _ hw; refine tile_word (packM_tile (by decide) ..) (decode_tile (p := pr) (by simp only [encode, packM_x22_2]) ?_)
  rw [show (BitVec.extractLsb' 28 4 (encode (.amax pr lk d c))).toNat = 12 by simp only [encode, packM_x28_4]; rfl,
    show (BitVec.extractLsb' 24 4 (encode (.amax pr lk d c))).toNat = 1 by simp only [encode, packM_x24_4]; rfl]
  cases d <;> simp (disch := decide) only [encode, decodeOp, decodeC, rdWD, rdRch, wrWD, packM_rdLink, packM_x4_2, packM_x0_4, packM_x0_3, packM_x3_3, packM_fWd, packM_fRsp, ↓reduceIte, Nat.reduceSub, BitVec.extractLsb'_eq_self, rdTgt_wrTgt, bind, Except.bind, pure, Except.pure, BitVec.extractLsb'_append_eq_of_add_le, BitVec.extractLsb'_append_eq_of_le, Instr.wf, readAs] at hw ⊢ <;> rfl
theorem aswap (pr lk d c) : Statement (.aswap pr lk d c) := by
  intro _ hw; refine tile_word (packM_tile (by decide) ..) (decode_tile (p := pr) (by simp only [encode, packM_x22_2]) ?_)
  rw [show (BitVec.extractLsb' 28 4 (encode (.aswap pr lk d c))).toNat = 12 by simp only [encode, packM_x28_4]; rfl,
    show (BitVec.extractLsb' 24 4 (encode (.aswap pr lk d c))).toNat = 2 by simp only [encode, packM_x24_4]; rfl]
  cases d <;> simp (disch := decide) only [encode, decodeOp, decodeC, rdWD, rdRch, wrWD, packM_rdLink, packM_x4_2, packM_x0_4, packM_x0_3, packM_x3_3, packM_fWd, packM_fRsp, ↓reduceIte, Nat.reduceSub, BitVec.extractLsb'_eq_self, rdTgt_wrTgt, bind, Except.bind, pure, Except.pure, BitVec.extractLsb'_append_eq_of_add_le, BitVec.extractLsb'_append_eq_of_le, Instr.wf, readAs] at hw ⊢ <;> rfl
theorem cas (pr lk d c) : Statement (.cas pr lk d c) := by
  intro _ hw; refine tile_word (packM_tile (by decide) ..) (decode_tile (p := pr) (by simp only [encode, packM_x22_2]) ?_)
  rw [show (BitVec.extractLsb' 28 4 (encode (.cas pr lk d c))).toNat = 12 by simp only [encode, packM_x28_4]; rfl,
    show (BitVec.extractLsb' 24 4 (encode (.cas pr lk d c))).toNat = 3 by simp only [encode, packM_x24_4]; rfl]
  cases d <;> simp (disch := decide) only [encode, decodeOp, decodeC, rdWD, rdRch, wrWD, packM_rdLink, packM_x4_2, packM_x0_4, packM_x0_3, packM_x3_3, packM_fWd, packM_fRsp, ↓reduceIte, Nat.reduceSub, BitVec.extractLsb'_eq_self, rdTgt_wrTgt, bind, Except.bind, pure, Except.pure, BitVec.extractLsb'_append_eq_of_add_le, BitVec.extractLsb'_append_eq_of_le, Instr.wf, readAs] at hw ⊢ <;> rfl
theorem uadd (pr lk d) : Statement (.uadd pr lk d) := by
  intro _ hw; refine tile_word (packM_tile (by decide) ..) (decode_tile (p := pr) (by simp only [encode, packM_x22_2]) ?_)
  rw [show (BitVec.extractLsb' 28 4 (encode (.uadd pr lk d))).toNat = 12 by simp only [encode, packM_x28_4]; rfl,
    show (BitVec.extractLsb' 24 4 (encode (.uadd pr lk d))).toNat = 4 by simp only [encode, packM_x24_4]; rfl]
  cases d <;> simp (disch := decide) only [encode, decodeOp, decodeC, rsp0, rdWD, wrWD, packM_rdLink, packM_x4_2, packM_x0_4, packM_x0_3, packM_x3_3, packM_fWd, packM_fRsp, ↓reduceIte, Nat.reduceSub, BitVec.extractLsb'_eq_self, rdTgt_wrTgt, bind, Except.bind, pure, Except.pure, BitVec.extractLsb'_append_eq_of_add_le, BitVec.extractLsb'_append_eq_of_le, Instr.wf, readAs] at hw ⊢ <;> rfl
theorem uand (pr lk d) : Statement (.uand pr lk d) := by
  intro _ hw; refine tile_word (packM_tile (by decide) ..) (decode_tile (p := pr) (by simp only [encode, packM_x22_2]) ?_)
  rw [show (BitVec.extractLsb' 28 4 (encode (.uand pr lk d))).toNat = 12 by simp only [encode, packM_x28_4]; rfl,
    show (BitVec.extractLsb' 24 4 (encode (.uand pr lk d))).toNat = 5 by simp only [encode, packM_x24_4]; rfl]
  cases d <;> simp (disch := decide) only [encode, decodeOp, decodeC, rsp0, rdWD, wrWD, packM_rdLink, packM_x4_2, packM_x0_4, packM_x0_3, packM_x3_3, packM_fWd, packM_fRsp, ↓reduceIte, Nat.reduceSub, BitVec.extractLsb'_eq_self, rdTgt_wrTgt, bind, Except.bind, pure, Except.pure, BitVec.extractLsb'_append_eq_of_add_le, BitVec.extractLsb'_append_eq_of_le, Instr.wf, readAs] at hw ⊢ <;> rfl
theorem uor (pr lk d) : Statement (.uor pr lk d) := by
  intro _ hw; refine tile_word (packM_tile (by decide) ..) (decode_tile (p := pr) (by simp only [encode, packM_x22_2]) ?_)
  rw [show (BitVec.extractLsb' 28 4 (encode (.uor pr lk d))).toNat = 12 by simp only [encode, packM_x28_4]; rfl,
    show (BitVec.extractLsb' 24 4 (encode (.uor pr lk d))).toNat = 6 by simp only [encode, packM_x24_4]; rfl]
  cases d <;> simp (disch := decide) only [encode, decodeOp, decodeC, rsp0, rdWD, wrWD, packM_rdLink, packM_x4_2, packM_x0_4, packM_x0_3, packM_x3_3, packM_fWd, packM_fRsp, ↓reduceIte, Nat.reduceSub, BitVec.extractLsb'_eq_self, rdTgt_wrTgt, bind, Except.bind, pure, Except.pure, BitVec.extractLsb'_append_eq_of_add_le, BitVec.extractLsb'_append_eq_of_le, Instr.wf, readAs] at hw ⊢ <;> rfl
theorem uxor (pr lk d) : Statement (.uxor pr lk d) := by
  intro _ hw; refine tile_word (packM_tile (by decide) ..) (decode_tile (p := pr) (by simp only [encode, packM_x22_2]) ?_)
  rw [show (BitVec.extractLsb' 28 4 (encode (.uxor pr lk d))).toNat = 12 by simp only [encode, packM_x28_4]; rfl,
    show (BitVec.extractLsb' 24 4 (encode (.uxor pr lk d))).toNat = 7 by simp only [encode, packM_x24_4]; rfl]
  cases d <;> simp (disch := decide) only [encode, decodeOp, decodeC, rsp0, rdWD, wrWD, packM_rdLink, packM_x4_2, packM_x0_4, packM_x0_3, packM_x3_3, packM_fWd, packM_fRsp, ↓reduceIte, Nat.reduceSub, BitVec.extractLsb'_eq_self, rdTgt_wrTgt, bind, Except.bind, pure, Except.pure, BitVec.extractLsb'_append_eq_of_add_le, BitVec.extractLsb'_append_eq_of_le, Instr.wf, readAs] at hw ⊢ <;> rfl
theorem umin (pr lk d) : Statement (.umin pr lk d) := by
  intro _ hw; refine tile_word (packM_tile (by decide) ..) (decode_tile (p := pr) (by simp only [encode, packM_x22_2]) ?_)
  rw [show (BitVec.extractLsb' 28 4 (encode (.umin pr lk d))).toNat = 12 by simp only [encode, packM_x28_4]; rfl,
    show (BitVec.extractLsb' 24 4 (encode (.umin pr lk d))).toNat = 8 by simp only [encode, packM_x24_4]; rfl]
  cases d <;> simp (disch := decide) only [encode, decodeOp, decodeC, rsp0, rdWD, wrWD, packM_rdLink, packM_x4_2, packM_x0_4, packM_x0_3, packM_x3_3, packM_fWd, packM_fRsp, ↓reduceIte, Nat.reduceSub, BitVec.extractLsb'_eq_self, rdTgt_wrTgt, bind, Except.bind, pure, Except.pure, BitVec.extractLsb'_append_eq_of_add_le, BitVec.extractLsb'_append_eq_of_le, Instr.wf, readAs] at hw ⊢ <;> rfl
theorem umax (pr lk d) : Statement (.umax pr lk d) := by
  intro _ hw; refine tile_word (packM_tile (by decide) ..) (decode_tile (p := pr) (by simp only [encode, packM_x22_2]) ?_)
  rw [show (BitVec.extractLsb' 28 4 (encode (.umax pr lk d))).toNat = 12 by simp only [encode, packM_x28_4]; rfl,
    show (BitVec.extractLsb' 24 4 (encode (.umax pr lk d))).toNat = 9 by simp only [encode, packM_x24_4]; rfl]
  cases d <;> simp (disch := decide) only [encode, decodeOp, decodeC, rsp0, rdWD, wrWD, packM_rdLink, packM_x4_2, packM_x0_4, packM_x0_3, packM_x3_3, packM_fWd, packM_fRsp, ↓reduceIte, Nat.reduceSub, BitVec.extractLsb'_eq_self, rdTgt_wrTgt, bind, Except.bind, pure, Except.pure, BitVec.extractLsb'_append_eq_of_add_le, BitVec.extractLsb'_append_eq_of_le, Instr.wf, readAs] at hw ⊢ <;> rfl
theorem ufadd (pr lk) : Statement (.ufadd pr lk) := by
  intro _ hw; refine tile_word (packM_tile (by decide) ..) (decode_tile (p := pr) (by simp only [encode, packM_x22_2]) ?_)
  rw [show (BitVec.extractLsb' 28 4 (encode (.ufadd pr lk))).toNat = 12 by simp only [encode, packM_x28_4]; rfl,
    show (BitVec.extractLsb' 24 4 (encode (.ufadd pr lk))).toNat = 10 by simp only [encode, packM_x24_4]; rfl]
  simp (disch := decide) only [encode, decodeOp, decodeC, wid, rspIs, packM_rdLink, packM_x4_2, packM_x0_4, packM_x0_3, packM_x3_3, packM_fWd, packM_fRsp, ↓reduceIte, Nat.reduceSub, BitVec.extractLsb'_eq_self, rdTgt_wrTgt, bind, Except.bind, pure, Except.pure, BitVec.extractLsb'_append_eq_of_add_le, BitVec.extractLsb'_append_eq_of_le, Instr.wf, readAs] at hw ⊢
  rfl
theorem srd (pr lk wd c) : Statement (.srd pr lk wd c) := by
  intro _ hw; refine tile_word (packM_tile (by decide) ..) (decode_tile (p := pr) (by simp only [encode, packM_x22_2]) ?_)
  rw [show (BitVec.extractLsb' 28 4 (encode (.srd pr lk wd c))).toNat = 12 by simp only [encode, packM_x28_4]; rfl,
    show (BitVec.extractLsb' 24 4 (encode (.srd pr lk wd c))).toNat = 11 by simp only [encode, packM_x24_4]; rfl]
  simp (disch := decide) only [encode, decodeOp, decodeC, widOf_widCode, rdWid, rdRch, packM_rdLink, packM_x4_2, packM_x0_4, packM_x0_3, packM_x3_3, packM_fWd, packM_fRsp, ↓reduceIte, Nat.reduceSub, BitVec.extractLsb'_eq_self, rdTgt_wrTgt, bind, Except.bind, pure, Except.pure, BitVec.extractLsb'_append_eq_of_add_le, BitVec.extractLsb'_append_eq_of_le, Instr.wf, readAs] at hw ⊢
  simp_all
theorem swr (pr lk wd) : Statement (.swr pr lk wd) := by
  intro _ hw; refine tile_word (packM_tile (by decide) ..) (decode_tile (p := pr) (by simp only [encode, packM_x22_2]) ?_)
  rw [show (BitVec.extractLsb' 28 4 (encode (.swr pr lk wd))).toNat = 12 by simp only [encode, packM_x28_4]; rfl,
    show (BitVec.extractLsb' 24 4 (encode (.swr pr lk wd))).toNat = 12 by simp only [encode, packM_x24_4]; rfl]
  simp (disch := decide) only [encode, decodeOp, decodeC, rdRspBit, rdWid, widOf_widCode, rdSwr, packM_rdLink, packM_x4_2, packM_x0_4, packM_x0_3, packM_x3_3, packM_fWd, packM_fRsp, ↓reduceIte, Nat.reduceSub, BitVec.extractLsb'_eq_self, rdTgt_wrTgt, bind, Except.bind, pure, Except.pure, BitVec.extractLsb'_append_eq_of_add_le, BitVec.extractLsb'_append_eq_of_le, Instr.wf, readAs] at hw ⊢
  simp_all
theorem swrEos (pr lk wd) : Statement (.swrEos pr lk wd) := by
  intro _ hw; refine tile_word (packM_tile (by decide) ..) (decode_tile (p := pr) (by simp only [encode, packM_x22_2]) ?_)
  rw [show (BitVec.extractLsb' 28 4 (encode (.swrEos pr lk wd))).toNat = 12 by simp only [encode, packM_x28_4]; rfl,
    show (BitVec.extractLsb' 24 4 (encode (.swrEos pr lk wd))).toNat = 12 by simp only [encode, packM_x24_4]; rfl]
  simp (disch := decide) only [encode, decodeOp, decodeC, rdRspBit, rdWid, widOf_widCode, rdSwr, packM_rdLink, packM_x4_2, packM_x0_4, packM_x0_3, packM_x3_3, packM_fWd, packM_fRsp, ↓reduceIte, Nat.reduceSub, BitVec.extractLsb'_eq_self, rdTgt_wrTgt, bind, Except.bind, pure, Except.pure, BitVec.extractLsb'_append_eq_of_add_le, BitVec.extractLsb'_append_eq_of_le, Instr.wf, readAs] at hw ⊢
  simp_all
theorem srel (pr lk) : Statement (.srel pr lk) := by
  intro _ hw; refine tile_word (packM_tile (by decide) ..) (decode_tile (p := pr) (by simp only [encode, packM_x22_2]) ?_)
  rw [show (BitVec.extractLsb' 28 4 (encode (.srel pr lk))).toNat = 12 by simp only [encode, packM_x28_4]; rfl,
    show (BitVec.extractLsb' 24 4 (encode (.srel pr lk))).toNat = 13 by simp only [encode, packM_x24_4]; rfl]
  simp (disch := decide) only [encode, decodeOp, decodeC, rdRspBit, wid, rdSrel, packM_rdLink, packM_x4_2, packM_x0_4, packM_x0_3, packM_x3_3, packM_fWd, packM_fRsp, ↓reduceIte, Nat.reduceSub, BitVec.extractLsb'_eq_self, rdTgt_wrTgt, bind, Except.bind, pure, Except.pure, BitVec.extractLsb'_append_eq_of_add_le, BitVec.extractLsb'_append_eq_of_le, Instr.wf, readAs] at hw ⊢
  rfl
theorem srelFrc (pr lk) : Statement (.srelFrc pr lk) := by
  intro _ hw; refine tile_word (packM_tile (by decide) ..) (decode_tile (p := pr) (by simp only [encode, packM_x22_2]) ?_)
  rw [show (BitVec.extractLsb' 28 4 (encode (.srelFrc pr lk))).toNat = 12 by simp only [encode, packM_x28_4]; rfl,
    show (BitVec.extractLsb' 24 4 (encode (.srelFrc pr lk))).toNat = 13 by simp only [encode, packM_x24_4]; rfl]
  simp (disch := decide) only [encode, decodeOp, decodeC, rdRspBit, wid, rdSrel, packM_rdLink, packM_x4_2, packM_x0_4, packM_x0_3, packM_x3_3, packM_fWd, packM_fRsp, ↓reduceIte, Nat.reduceSub, BitVec.extractLsb'_eq_self, rdTgt_wrTgt, bind, Except.bind, pure, Except.pure, BitVec.extractLsb'_append_eq_of_add_le, BitVec.extractLsb'_append_eq_of_le, Instr.wf, readAs] at hw ⊢
  rfl
theorem srew (pr lk) : Statement (.srew pr lk) := by
  intro _ hw; refine tile_word (packM_tile (by decide) ..) (decode_tile (p := pr) (by simp only [encode, packM_x22_2]) ?_)
  rw [show (BitVec.extractLsb' 28 4 (encode (.srew pr lk))).toNat = 12 by simp only [encode, packM_x28_4]; rfl,
    show (BitVec.extractLsb' 24 4 (encode (.srew pr lk))).toNat = 14 by simp only [encode, packM_x24_4]; rfl]
  simp (disch := decide) only [encode, decodeOp, decodeC, wid, rspIs, packM_rdLink, packM_x4_2, packM_x0_4, packM_x0_3, packM_x3_3, packM_fWd, packM_fRsp, ↓reduceIte, Nat.reduceSub, BitVec.extractLsb'_eq_self, rdTgt_wrTgt, bind, Except.bind, pure, Except.pure, BitVec.extractLsb'_append_eq_of_add_le, BitVec.extractLsb'_append_eq_of_le, Instr.wf, readAs] at hw ⊢
  rfl
theorem spos (pr lk c) : Statement (.spos pr lk c) := by
  intro _ hw; refine tile_word (packM_tile (by decide) ..) (decode_tile (p := pr) (by simp only [encode, packM_x22_2]) ?_)
  rw [show (BitVec.extractLsb' 28 4 (encode (.spos pr lk c))).toNat = 12 by simp only [encode, packM_x28_4]; rfl,
    show (BitVec.extractLsb' 24 4 (encode (.spos pr lk c))).toNat = 15 by simp only [encode, packM_x24_4]; rfl]
  simp (disch := decide) only [encode, decodeOp, decodeC, wid, rdRch, packM_rdLink, packM_x4_2, packM_x0_4, packM_x0_3, packM_x3_3, packM_fWd, packM_fRsp, ↓reduceIte, Nat.reduceSub, BitVec.extractLsb'_eq_self, rdTgt_wrTgt, bind, Except.bind, pure, Except.pure, BitVec.extractLsb'_append_eq_of_add_le, BitVec.extractLsb'_append_eq_of_le, Instr.wf, readAs] at hw ⊢
  rfl
theorem fence (pr lk sc) : Statement (.fence pr lk sc) := by
  intro _ hw; refine tile_word (packM_tile (by decide) ..) (decode_tile (p := pr) (by simp only [encode, packM_x22_2]) ?_)
  rw [show (BitVec.extractLsb' 28 4 (encode (.fence pr lk sc))).toNat = 13 by simp only [encode, packM_x28_4]; rfl,
    show (BitVec.extractLsb' 24 4 (encode (.fence pr lk sc))).toNat = 0 by simp only [encode, packM_x24_4]; rfl]
  cases sc <;> simp (disch := decide) only [encode, decodeOp, decodeD, wid, rdScope, wrScope, packM_rdLink, packM_x4_2, packM_x0_4, packM_x0_3, packM_x3_3, packM_fWd, packM_fRsp, ↓reduceIte, Nat.reduceSub, BitVec.extractLsb'_eq_self, rdTgt_wrTgt, bind, Except.bind, pure, Except.pure, BitVec.extractLsb'_append_eq_of_add_le, BitVec.extractLsb'_append_eq_of_le, Instr.wf, readAs] at hw ⊢ <;> rfl
theorem sbar (pr lk) : Statement (.sbar pr lk) := by
  intro _ hw; refine tile_word (packM_tile (by decide) ..) (decode_tile (p := pr) (by simp only [encode, packM_x22_2]) ?_)
  rw [show (BitVec.extractLsb' 28 4 (encode (.sbar pr lk))).toNat = 13 by simp only [encode, packM_x28_4]; rfl,
    show (BitVec.extractLsb' 24 4 (encode (.sbar pr lk))).toNat = 1 by simp only [encode, packM_x24_4]; rfl]
  simp (disch := decide) only [encode, decodeOp, decodeD, wid, rspIs, packM_rdLink, packM_x4_2, packM_x0_4, packM_x0_3, packM_x3_3, packM_fWd, packM_fRsp, ↓reduceIte, Nat.reduceSub, BitVec.extractLsb'_eq_self, rdTgt_wrTgt, bind, Except.bind, pure, Except.pure, BitVec.extractLsb'_append_eq_of_add_le, BitVec.extractLsb'_append_eq_of_le, Instr.wf, readAs] at hw ⊢
  rfl
theorem xfence (pr lk src dst) : Statement (.xfence pr lk src dst) := by
  intro _ hw; refine tile_word (packM_tile (by decide) ..) (decode_tile (p := pr) (by simp only [encode, packM_x22_2]) ?_)
  rw [show (BitVec.extractLsb' 28 4 (encode (.xfence pr lk src dst))).toNat = 13 by simp only [encode, packM_x28_4]; rfl,
    show (BitVec.extractLsb' 24 4 (encode (.xfence pr lk src dst))).toNat = 2 by simp only [encode, packM_x24_4]; rfl]
  simp (disch := decide) only [encode, decodeOp, decodeD, wid, clsOf_clsCode, rdXf, packM_rdLink, packM_x4_2, packM_x0_4, packM_x0_3, packM_x3_3, packM_fWd, packM_fRsp, ↓reduceIte, Nat.reduceSub, BitVec.extractLsb'_eq_self, rdTgt_wrTgt, bind, Except.bind, pure, Except.pure, BitVec.extractLsb'_append_eq_of_add_le, BitVec.extractLsb'_append_eq_of_le, Instr.wf, readAs] at hw ⊢
  simp_all
theorem barinit (pr lk) : Statement (.barinit pr lk) := by
  intro _ hw; refine tile_word (packM_tile (by decide) ..) (decode_tile (p := pr) (by simp only [encode, packM_x22_2]) ?_)
  rw [show (BitVec.extractLsb' 28 4 (encode (.barinit pr lk))).toNat = 13 by simp only [encode, packM_x28_4]; rfl,
    show (BitVec.extractLsb' 24 4 (encode (.barinit pr lk))).toNat = 3 by simp only [encode, packM_x24_4]; rfl]
  simp (disch := decide) only [encode, decodeOp, decodeD, wid, rspIs, packM_rdLink, packM_x4_2, packM_x0_4, packM_x0_3, packM_x3_3, packM_fWd, packM_fRsp, ↓reduceIte, Nat.reduceSub, BitVec.extractLsb'_eq_self, rdTgt_wrTgt, bind, Except.bind, pure, Except.pure, BitVec.extractLsb'_append_eq_of_add_le, BitVec.extractLsb'_append_eq_of_le, Instr.wf, readAs] at hw ⊢
  rfl
theorem bararv (pr lk) : Statement (.bararv pr lk) := by
  intro _ hw; refine tile_word (packM_tile (by decide) ..) (decode_tile (p := pr) (by simp only [encode, packM_x22_2]) ?_)
  rw [show (BitVec.extractLsb' 28 4 (encode (.bararv pr lk))).toNat = 13 by simp only [encode, packM_x28_4]; rfl,
    show (BitVec.extractLsb' 24 4 (encode (.bararv pr lk))).toNat = 4 by simp only [encode, packM_x24_4]; rfl]
  simp (disch := decide) only [encode, decodeOp, decodeD, wid, rspIs, packM_rdLink, packM_x4_2, packM_x0_4, packM_x0_3, packM_x3_3, packM_fWd, packM_fRsp, ↓reduceIte, Nat.reduceSub, BitVec.extractLsb'_eq_self, rdTgt_wrTgt, bind, Except.bind, pure, Except.pure, BitVec.extractLsb'_append_eq_of_add_le, BitVec.extractLsb'_append_eq_of_le, Instr.wf, readAs] at hw ⊢
  rfl
theorem barexp (pr lk) : Statement (.barexp pr lk) := by
  intro _ hw; refine tile_word (packM_tile (by decide) ..) (decode_tile (p := pr) (by simp only [encode, packM_x22_2]) ?_)
  rw [show (BitVec.extractLsb' 28 4 (encode (.barexp pr lk))).toNat = 13 by simp only [encode, packM_x28_4]; rfl,
    show (BitVec.extractLsb' 24 4 (encode (.barexp pr lk))).toNat = 5 by simp only [encode, packM_x24_4]; rfl]
  simp (disch := decide) only [encode, decodeOp, decodeD, wid, rspIs, packM_rdLink, packM_x4_2, packM_x0_4, packM_x0_3, packM_x3_3, packM_fWd, packM_fRsp, ↓reduceIte, Nat.reduceSub, BitVec.extractLsb'_eq_self, rdTgt_wrTgt, bind, Except.bind, pure, Except.pure, BitVec.extractLsb'_append_eq_of_add_le, BitVec.extractLsb'_append_eq_of_le, Instr.wf, readAs] at hw ⊢
  rfl
theorem barwt (pr lk c) : Statement (.barwt pr lk c) := by
  intro _ hw; refine tile_word (packM_tile (by decide) ..) (decode_tile (p := pr) (by simp only [encode, packM_x22_2]) ?_)
  rw [show (BitVec.extractLsb' 28 4 (encode (.barwt pr lk c))).toNat = 13 by simp only [encode, packM_x28_4]; rfl,
    show (BitVec.extractLsb' 24 4 (encode (.barwt pr lk c))).toNat = 6 by simp only [encode, packM_x24_4]; rfl]
  simp (disch := decide) only [encode, decodeOp, decodeD, wid, rdRch, packM_rdLink, packM_x4_2, packM_x0_4, packM_x0_3, packM_x3_3, packM_fWd, packM_fRsp, ↓reduceIte, Nat.reduceSub, BitVec.extractLsb'_eq_self, rdTgt_wrTgt, bind, Except.bind, pure, Except.pure, BitVec.extractLsb'_append_eq_of_add_le, BitVec.extractLsb'_append_eq_of_le, Instr.wf, readAs] at hw ⊢
  rfl
theorem copy (pr lk c) : Statement (.copy pr lk c) := by
  intro _ hw; refine tile_word (packM_tile (by decide) ..) (decode_tile (p := pr) (by simp only [encode, packM_x22_2]) ?_)
  rw [show (BitVec.extractLsb' 28 4 (encode (.copy pr lk c))).toNat = 13 by simp only [encode, packM_x28_4]; rfl,
    show (BitVec.extractLsb' 24 4 (encode (.copy pr lk c))).toNat = 7 by simp only [encode, packM_x24_4]; rfl]
  simp (disch := decide) only [encode, decodeOp, decodeD, wid, rdRch, packM_rdLink, packM_x4_2, packM_x0_4, packM_x0_3, packM_x3_3, packM_fWd, packM_fRsp, ↓reduceIte, Nat.reduceSub, BitVec.extractLsb'_eq_self, rdTgt_wrTgt, bind, Except.bind, pure, Except.pure, BitVec.extractLsb'_append_eq_of_add_le, BitVec.extractLsb'_append_eq_of_le, Instr.wf, readAs] at hw ⊢
  rfl
theorem pref (pr lk bank) : Statement (.pref pr lk bank) := by
  intro _ hw; refine tile_word (packM_tile (by decide) ..) (decode_tile (p := pr) (by simp only [encode, packM_x22_2]) ?_)
  rw [show (BitVec.extractLsb' 28 4 (encode (.pref pr lk bank))).toNat = 13 by simp only [encode, packM_x28_4]; rfl,
    show (BitVec.extractLsb' 24 4 (encode (.pref pr lk bank))).toNat = 8 by simp only [encode, packM_x24_4]; rfl]
  cases bank <;> simp (disch := decide) only [encode, decodeOp, decodeD, wid, rdRspBit, packM_rdLink, packM_x4_2, packM_x0_4, packM_x0_3, packM_x3_3, packM_fWd, packM_fRsp, ↓reduceIte, Nat.reduceSub, BitVec.extractLsb'_eq_self, rdTgt_wrTgt, bind, Except.bind, pure, Except.pure, BitVec.extractLsb'_append_eq_of_add_le, BitVec.extractLsb'_append_eq_of_le, Instr.wf, readAs] at hw ⊢ <;> rfl
theorem wback (pr lk) : Statement (.wback pr lk) := by
  intro _ hw; refine tile_word (packM_tile (by decide) ..) (decode_tile (p := pr) (by simp only [encode, packM_x22_2]) ?_)
  rw [show (BitVec.extractLsb' 28 4 (encode (.wback pr lk))).toNat = 13 by simp only [encode, packM_x28_4]; rfl,
    show (BitVec.extractLsb' 24 4 (encode (.wback pr lk))).toNat = 9 by simp only [encode, packM_x24_4]; rfl]
  simp (disch := decide) only [encode, decodeOp, decodeD, wid, rspIs, packM_rdLink, packM_x4_2, packM_x0_4, packM_x0_3, packM_x3_3, packM_fWd, packM_fRsp, ↓reduceIte, Nat.reduceSub, BitVec.extractLsb'_eq_self, rdTgt_wrTgt, bind, Except.bind, pure, Except.pure, BitVec.extractLsb'_append_eq_of_add_le, BitVec.extractLsb'_append_eq_of_le, Instr.wf, readAs] at hw ⊢
  rfl
theorem setbud (pr lk) : Statement (.setbud pr lk) := by
  intro _ hw; refine tile_word (packM_tile (by decide) ..) (decode_tile (p := pr) (by simp only [encode, packM_x22_2]) ?_)
  rw [show (BitVec.extractLsb' 28 4 (encode (.setbud pr lk))).toNat = 13 by simp only [encode, packM_x28_4]; rfl,
    show (BitVec.extractLsb' 24 4 (encode (.setbud pr lk))).toNat = 10 by simp only [encode, packM_x24_4]; rfl]
  simp (disch := decide) only [encode, decodeOp, decodeD, wid, rspIs, packM_rdLink, packM_x4_2, packM_x0_4, packM_x0_3, packM_x3_3, packM_fWd, packM_fRsp, ↓reduceIte, Nat.reduceSub, BitVec.extractLsb'_eq_self, rdTgt_wrTgt, bind, Except.bind, pure, Except.pure, BitVec.extractLsb'_append_eq_of_add_le, BitVec.extractLsb'_append_eq_of_le, Instr.wf, readAs] at hw ⊢
  rfl
theorem mmpost (pr lk) : Statement (.mmpost pr lk) := by
  intro _ hw; refine tile_word (packM_tile (by decide) ..) (decode_tile (p := pr) (by simp only [encode, packM_x22_2]) ?_)
  rw [show (BitVec.extractLsb' 28 4 (encode (.mmpost pr lk))).toNat = 14 by simp only [encode, packM_x28_4]; rfl,
    show (BitVec.extractLsb' 24 4 (encode (.mmpost pr lk))).toNat = 0 by simp only [encode, packM_x24_4]; rfl]
  simp (disch := decide) only [encode, decodeOp, decodeE, wid, rspIs, packM_rdLink, packM_x4_2, packM_x0_4, packM_x0_3, packM_x3_3, packM_fWd, packM_fRsp, ↓reduceIte, Nat.reduceSub, BitVec.extractLsb'_eq_self, rdTgt_wrTgt, bind, Except.bind, pure, Except.pure, BitVec.extractLsb'_append_eq_of_add_le, BitVec.extractLsb'_append_eq_of_le, Instr.wf, readAs] at hw ⊢
  rfl
theorem vamax (pr ty tb ta) : Statement (.vamax pr ty tb ta) := by
  intro _ hw; refine tile_word (packG2_tile (by decide) ..) (decode_tile (p := pr) (by simp only [encode, packG2_x22_2]) ?_)
  rw [show (BitVec.extractLsb' 28 4 (encode (.vamax pr ty tb ta))).toNat = 14 by simp only [encode, packG2_x28_4]; rfl,
    show (BitVec.extractLsb' 24 4 (encode (.vamax pr ty tb ta))).toNat = 1 by simp only [encode, packG2_x24_4]; rfl]
  simp (disch := decide) only [encode, decodeOp, decodeE, tyOf_tyCode, rdTy, packG2_x18_3, packG2_x20_2, packG2_x18_2, packG2_fTY, packG2_fTB, packG2_fTA, packG2_b21, ↓reduceIte, Nat.reduceSub, BitVec.extractLsb'_eq_self, rdTgt_wrTgt, bind, Except.bind, pure, Except.pure, BitVec.extractLsb'_append_eq_of_add_le, BitVec.extractLsb'_append_eq_of_le, Instr.wf, readAs] at hw ⊢
  simp_all
theorem vqnt (pr ty tb ta) : Statement (.vqnt pr ty tb ta) := by
  intro _ hw; refine tile_word (packG2_tile (by decide) ..) (decode_tile (p := pr) (by simp only [encode, packG2_x22_2]) ?_)
  rw [show (BitVec.extractLsb' 28 4 (encode (.vqnt pr ty tb ta))).toNat = 14 by simp only [encode, packG2_x28_4]; rfl,
    show (BitVec.extractLsb' 24 4 (encode (.vqnt pr ty tb ta))).toNat = 2 by simp only [encode, packG2_x24_4]; rfl]
  simp (disch := decide) only [encode, decodeOp, decodeE, tyOf_tyCode, rdTy, packG2_x18_3, packG2_x20_2, packG2_x18_2, packG2_fTY, packG2_fTB, packG2_fTA, packG2_b21, ↓reduceIte, Nat.reduceSub, BitVec.extractLsb'_eq_self, rdTgt_wrTgt, bind, Except.bind, pure, Except.pure, BitVec.extractLsb'_append_eq_of_add_le, BitVec.extractLsb'_append_eq_of_le, Instr.wf, readAs] at hw ⊢
  simp_all
theorem vdqnt (pr tb ta) : Statement (.vdqnt pr tb ta) := by
  intro _ hw; refine tile_word (packG2_tile (by decide) ..) (decode_tile (p := pr) (by simp only [encode, packG2_x22_2]) ?_)
  rw [show (BitVec.extractLsb' 28 4 (encode (.vdqnt pr tb ta))).toNat = 14 by simp only [encode, packG2_x28_4]; rfl,
    show (BitVec.extractLsb' 24 4 (encode (.vdqnt pr tb ta))).toNat = 3 by simp only [encode, packG2_x24_4]; rfl]
  simp (disch := decide) only [encode, decodeOp, decodeE, tyIs, packG2_x18_3, packG2_x20_2, packG2_x18_2, packG2_fTY, packG2_fTB, packG2_fTA, packG2_b21, ↓reduceIte, Nat.reduceSub, BitVec.extractLsb'_eq_self, rdTgt_wrTgt, bind, Except.bind, pure, Except.pure, BitVec.extractLsb'_append_eq_of_add_le, BitVec.extractLsb'_append_eq_of_le, Instr.wf, readAs] at hw ⊢
  rfl
theorem vcbq (pr ty tb ta) : Statement (.vcbq pr ty tb ta) := by
  intro _ hw; refine tile_word (packG2_tile (by decide) ..) (decode_tile (p := pr) (by simp only [encode, packG2_x22_2]) ?_)
  rw [show (BitVec.extractLsb' 28 4 (encode (.vcbq pr ty tb ta))).toNat = 14 by simp only [encode, packG2_x28_4]; rfl,
    show (BitVec.extractLsb' 24 4 (encode (.vcbq pr ty tb ta))).toNat = 4 by simp only [encode, packG2_x24_4]; rfl]
  simp (disch := decide) only [encode, decodeOp, decodeE, tyOf_tyCode, rdTy, packG2_x18_3, packG2_x20_2, packG2_x18_2, packG2_fTY, packG2_fTB, packG2_fTA, packG2_b21, ↓reduceIte, Nat.reduceSub, BitVec.extractLsb'_eq_self, rdTgt_wrTgt, bind, Except.bind, pure, Except.pure, BitVec.extractLsb'_append_eq_of_add_le, BitVec.extractLsb'_append_eq_of_le, Instr.wf, readAs] at hw ⊢
  simp_all
theorem cbset (pr) : Statement (.cbset pr) := by
  intro _ hw; refine tile_word (packG2_tile (by decide) ..) (decode_tile (p := pr) (by simp only [encode, packG2_x22_2]) ?_)
  rw [show (BitVec.extractLsb' 28 4 (encode (.cbset pr))).toNat = 14 by simp only [encode, packG2_x28_4]; rfl,
    show (BitVec.extractLsb' 24 4 (encode (.cbset pr))).toNat = 5 by simp only [encode, packG2_x24_4]; rfl]
  simp (disch := decide) only [encode, decodeOp, decodeE, packG2_low, z22, packG2_x18_3, packG2_x20_2, packG2_x18_2, packG2_fTY, packG2_fTB, packG2_fTA, packG2_b21, ↓reduceIte, Nat.reduceSub, BitVec.extractLsb'_eq_self, rdTgt_wrTgt, bind, Except.bind, pure, Except.pure, BitVec.extractLsb'_append_eq_of_add_le, BitVec.extractLsb'_append_eq_of_le, Instr.wf, readAs] at hw ⊢
theorem trap (pr code) : Statement (.trap pr code) := by
  intro _ hw; refine tile_word (packGI_tile (by decide) ..) (decode_tile (p := pr) (by simp only [encode, packGI_x22_2]) ?_)
  rw [show (BitVec.extractLsb' 28 4 (encode (.trap pr code))).toNat = 15 by simp only [encode, packGI_x28_4]; rfl,
    show (BitVec.extractLsb' 24 4 (encode (.trap pr code))).toNat = 0 by simp only [encode, packGI_x24_4]; rfl]
  simp (disch := decide) only [encode, decodeOp, decodeF, ta0, rdCode, packGI_x13_9, packGI_x9_4, packGI_x21_1, packGI_x9_12, packGI_fImm, packGI_fTA, ↓reduceIte, Nat.reduceSub, BitVec.extractLsb'_eq_self, rdTgt_wrTgt, bind, Except.bind, pure, Except.pure, BitVec.extractLsb'_append_eq_of_add_le, BitVec.extractLsb'_append_eq_of_le, Instr.wf, readAs] at hw ⊢
theorem fread (pr c k ta) : Statement (.fread pr c k ta) := by
  intro _ hw; refine tile_word (packC_tile (by decide) ..) (decode_tile (p := pr) (by simp only [encode, packC_x22_2]) ?_)
  rw [show (BitVec.extractLsb' 28 4 (encode (.fread pr c k ta))).toNat = 15 by simp only [encode, packC_x28_4]; rfl,
    show (BitVec.extractLsb' 24 4 (encode (.fread pr c k ta))).toNat = 1 by simp only [encode, packC_x24_4]; rfl]
  simp (disch := decide) only [encode, decodeOp, decodeF, rdH4, rdAux2, packC_x20_2, packC_x16_4, packC_x19_3, packC_x16_3, packC_x18_4, packC_x16_2, packC_x11_5, packC_x9_2, packC_x13_3, packC_x9_4, packC_x14_2, packC_x11_3, packC_x9_5, packC_fHnd, packC_fAux, packC_fTA, ↓reduceIte, Nat.reduceSub, BitVec.extractLsb'_eq_self, rdTgt_wrTgt, bind, Except.bind, pure, Except.pure, BitVec.extractLsb'_append_eq_of_add_le, BitVec.extractLsb'_append_eq_of_le, Instr.wf, readAs] at hw ⊢
theorem repair (pr) : Statement (.repair pr) := by
  intro _ hw; refine tile_word (packG2_tile (by decide) ..) (decode_tile (p := pr) (by simp only [encode, packG2_x22_2]) ?_)
  rw [show (BitVec.extractLsb' 28 4 (encode (.repair pr))).toNat = 15 by simp only [encode, packG2_x28_4]; rfl,
    show (BitVec.extractLsb' 24 4 (encode (.repair pr))).toNat = 2 by simp only [encode, packG2_x24_4]; rfl]
  simp (disch := decide) only [encode, decodeOp, decodeF, packG2_low, z22, packG2_x18_3, packG2_x20_2, packG2_x18_2, packG2_fTY, packG2_fTB, packG2_fTA, packG2_b21, ↓reduceIte, Nat.reduceSub, BitVec.extractLsb'_eq_self, rdTgt_wrTgt, bind, Except.bind, pure, Except.pure, BitVec.extractLsb'_append_eq_of_add_le, BitVec.extractLsb'_append_eq_of_le, Instr.wf, readAs] at hw ⊢
theorem blaze (pr stop) : Statement (.blaze pr stop) := by
  intro _ hw; refine tile_word (packGI_tile (by decide) ..) (decode_tile (p := pr) (by simp only [encode, packGI_x22_2]) ?_)
  rw [show (BitVec.extractLsb' 28 4 (encode (.blaze pr stop))).toNat = 15 by simp only [encode, packGI_x28_4]; rfl,
    show (BitVec.extractLsb' 24 4 (encode (.blaze pr stop))).toNat = 3 by simp only [encode, packGI_x24_4]; rfl]
  cases stop <;> simp (disch := decide) only [encode, decodeOp, decodeF, ta0, rdBit, packGI_x13_9, packGI_x9_4, packGI_x21_1, packGI_x9_12, packGI_fImm, packGI_fTA, ↓reduceIte, Nat.reduceSub, BitVec.extractLsb'_eq_self, rdTgt_wrTgt, bind, Except.bind, pure, Except.pure, BitVec.extractLsb'_append_eq_of_add_le, BitVec.extractLsb'_append_eq_of_le, Instr.wf, readAs] at hw ⊢ <;> rfl
theorem brkt (pr code) : Statement (.brkt pr code) := by
  intro _ hw; refine tile_word (packGI_tile (by decide) ..) (decode_tile (p := pr) (by simp only [encode, packGI_x22_2]) ?_)
  rw [show (BitVec.extractLsb' 28 4 (encode (.brkt pr code))).toNat = 15 by simp only [encode, packGI_x28_4]; rfl,
    show (BitVec.extractLsb' 24 4 (encode (.brkt pr code))).toNat = 4 by simp only [encode, packGI_x24_4]; rfl]
  simp (disch := decide) only [encode, decodeOp, decodeF, ta0, rdCode, packGI_x13_9, packGI_x9_4, packGI_x21_1, packGI_x9_12, packGI_fImm, packGI_fTA, ↓reduceIte, Nat.reduceSub, BitVec.extractLsb'_eq_self, rdTgt_wrTgt, bind, Except.bind, pure, Except.pure, BitVec.extractLsb'_append_eq_of_add_le, BitVec.extractLsb'_append_eq_of_le, Instr.wf, readAs] at hw ⊢
theorem svc (pr c n) : Statement (.svc pr c n) := by
  intro _ hw; refine tile_word (packC_tile (by decide) ..) (decode_tile (p := pr) (by simp only [encode, packC_x22_2]) ?_)
  rw [show (BitVec.extractLsb' 28 4 (encode (.svc pr c n))).toNat = 15 by simp only [encode, packC_x28_4]; rfl,
    show (BitVec.extractLsb' 24 4 (encode (.svc pr c n))).toNat = 5 by simp only [encode, packC_x24_4]; rfl]
  simp (disch := decide) only [encode, decodeOp, decodeF, ta0, rdH4, packC_x20_2, packC_x16_4, packC_x19_3, packC_x16_3, packC_x18_4, packC_x16_2, packC_x11_5, packC_x9_2, packC_x13_3, packC_x9_4, packC_x14_2, packC_x11_3, packC_x9_5, packC_fHnd, packC_fAux, packC_fTA, ↓reduceIte, Nat.reduceSub, BitVec.extractLsb'_eq_self, rdTgt_wrTgt, bind, Except.bind, pure, Except.pure, BitVec.extractLsb'_append_eq_of_add_le, BitVec.extractLsb'_append_eq_of_le, Instr.wf, readAs] at hw ⊢
theorem rdperf (pr sel ta) : Statement (.rdperf pr sel ta) := by
  intro _ hw; refine tile_word (packC_tile (by decide) ..) (decode_tile (p := pr) (by simp only [encode, packC_x22_2]) ?_)
  rw [show (BitVec.extractLsb' 28 4 (encode (.rdperf pr sel ta))).toNat = 15 by simp only [encode, packC_x28_4]; rfl,
    show (BitVec.extractLsb' 24 4 (encode (.rdperf pr sel ta))).toNat = 6 by simp only [encode, packC_x24_4]; rfl]
  cases sel <;> simp (disch := decide) only [encode, decodeOp, decodeF, rdH4, rdH2, rdPerf, perfHnd, perfAux, packC_x20_2, packC_x16_4, packC_x19_3, packC_x16_3, packC_x18_4, packC_x16_2, packC_x11_5, packC_x9_2, packC_x13_3, packC_x9_4, packC_x14_2, packC_x11_3, packC_x9_5, packC_fHnd, packC_fAux, packC_fTA, ↓reduceIte, Nat.reduceSub, BitVec.extractLsb'_eq_self, rdTgt_wrTgt, bind, Except.bind, pure, Except.pure, BitVec.extractLsb'_append_eq_of_add_le, BitVec.extractLsb'_append_eq_of_le, Instr.wf, readAs] at hw ⊢ <;> rfl
theorem wrperf (pr c cnt) : Statement (.wrperf pr c cnt) := by
  intro _ hw; refine tile_word (packC_tile (by decide) ..) (decode_tile (p := pr) (by simp only [encode, packC_x22_2]) ?_)
  rw [show (BitVec.extractLsb' 28 4 (encode (.wrperf pr c cnt))).toNat = 15 by simp only [encode, packC_x28_4]; rfl,
    show (BitVec.extractLsb' 24 4 (encode (.wrperf pr c cnt))).toNat = 7 by simp only [encode, packC_x24_4]; rfl]
  cases cnt <;> simp (disch := decide) only [encode, decodeOp, decodeF, ta0, rdH2, rdAuxBit, wrBit7, packC_x20_2, packC_x16_4, packC_x19_3, packC_x16_3, packC_x18_4, packC_x16_2, packC_x11_5, packC_x9_2, packC_x13_3, packC_x9_4, packC_x14_2, packC_x11_3, packC_x9_5, packC_fHnd, packC_fAux, packC_fTA, ↓reduceIte, Nat.reduceSub, BitVec.extractLsb'_eq_self, rdTgt_wrTgt, bind, Except.bind, pure, Except.pure, BitVec.extractLsb'_append_eq_of_add_le, BitVec.extractLsb'_append_eq_of_le, Instr.wf, readAs] at hw ⊢ <;> rfl
theorem hresume (pr) : Statement (.hresume pr) := by
  intro _ hw; refine tile_word (packG2_tile (by decide) ..) (decode_tile (p := pr) (by simp only [encode, packG2_x22_2]) ?_)
  rw [show (BitVec.extractLsb' 28 4 (encode (.hresume pr))).toNat = 15 by simp only [encode, packG2_x28_4]; rfl,
    show (BitVec.extractLsb' 24 4 (encode (.hresume pr))).toNat = 8 by simp only [encode, packG2_x24_4]; rfl]
  simp (disch := decide) only [encode, decodeOp, decodeF, packG2_low, z22, packG2_x18_3, packG2_x20_2, packG2_x18_2, packG2_fTY, packG2_fTB, packG2_fTA, packG2_b21, ↓reduceIte, Nat.reduceSub, BitVec.extractLsb'_eq_self, rdTgt_wrTgt, bind, Except.bind, pure, Except.pure, BitVec.extractLsb'_append_eq_of_add_le, BitVec.extractLsb'_append_eq_of_le, Instr.wf, readAs] at hw ⊢
theorem habort (pr) : Statement (.habort pr) := by
  intro _ hw; refine tile_word (packG2_tile (by decide) ..) (decode_tile (p := pr) (by simp only [encode, packG2_x22_2]) ?_)
  rw [show (BitVec.extractLsb' 28 4 (encode (.habort pr))).toNat = 15 by simp only [encode, packG2_x28_4]; rfl,
    show (BitVec.extractLsb' 24 4 (encode (.habort pr))).toNat = 9 by simp only [encode, packG2_x24_4]; rfl]
  simp (disch := decide) only [encode, decodeOp, decodeF, packG2_low, z22, packG2_x18_3, packG2_x20_2, packG2_x18_2, packG2_fTY, packG2_fTB, packG2_fTA, packG2_b21, ↓reduceIte, Nat.reduceSub, BitVec.extractLsb'_eq_self, rdTgt_wrTgt, bind, Except.bind, pure, Except.pure, BitVec.extractLsb'_append_eq_of_add_le, BitVec.extractLsb'_append_eq_of_le, Instr.wf, readAs] at hw ⊢
theorem jlaunch (rd rs1 rs2) : Statement (.jlaunch rd rs1 rs2) := by
  intro _ _; exact border_word (packJ_border ..) (by simp [encode, decodeBorder, readAs])
theorem jfence (rd rs1 rs2) : Statement (.jfence rd rs1 rs2) := by
  intro _ _; exact border_word (packJ_border ..) (by simp [encode, decodeBorder, readAs])
theorem jquery (rd rs1 rs2) : Statement (.jquery rd rs1 rs2) := by
  intro _ _; exact border_word (packJ_border ..) (by simp [encode, decodeBorder, readAs])
theorem jinvr (rd rs1 rs2) : Statement (.jinvr rd rs1 rs2) := by
  intro _ _; exact border_word (packJ_border ..) (by simp [encode, decodeBorder, readAs])
theorem jcmdKill (rd rs1 rs2) : Statement (.jcmdKill rd rs1 rs2) := by
  intro _ _; exact border_word (packJ_border ..) (by simp [encode, decodeBorder, readAs])
theorem jcmdPre (rd rs1 rs2) : Statement (.jcmdPre rd rs1 rs2) := by
  intro _ _; exact border_word (packJ_border ..) (by simp [encode, decodeBorder, readAs])
theorem jcmdSnap (rd rs1 rs2) : Statement (.jcmdSnap rd rs1 rs2) := by
  intro _ _; exact border_word (packJ_border ..) (by simp [encode, decodeBorder, readAs])
theorem jcmdStop (rd rs1 rs2) : Statement (.jcmdStop rd rs1 rs2) := by
  intro _ _; exact border_word (packJ_border ..) (by simp [encode, decodeBorder, readAs])
theorem jcmdResume (rd rs1 rs2) : Statement (.jcmdResume rd rs1 rs2) := by
  intro _ _; exact border_word (packJ_border ..) (by simp [encode, decodeBorder, readAs])
theorem jwaitw (rd rs1 rs2) : Statement (.jwaitw rd rs1 rs2) := by
  intro _ _; exact border_word (packJ_border ..) (by simp [encode, decodeBorder, readAs])
theorem jctxsave (rd rs1 rs2) : Statement (.jctxsave rd rs1 rs2) := by
  intro _ _; exact border_word (packJ_border ..) (by simp [encode, decodeBorder, readAs])
theorem jctxload (rd rs1 rs2) : Statement (.jctxload rd rs1 rs2) := by
  intro _ _; exact border_word (packJ_border ..) (by simp [encode, decodeBorder, readAs])
theorem taskFiring : Statement (.taskFiring) := eventStep rfl
theorem controlStep : Statement (.controlStep) := eventStep rfl
theorem blockCommit : Statement (.blockCommit) := eventStep rfl
theorem waveAdmission : Statement (.waveAdmission) := eventStep rfl
theorem pyieldRelease : Statement (.pyieldRelease) := eventStep rfl
theorem tokenDelivery : Statement (.tokenDelivery) := eventStep rfl
theorem steerNode : Statement (.steerNode) := eventStep rfl
theorem mergeNode : Statement (.mergeNode) := eventStep rfl
theorem filterNode : Statement (.filterNode) := eventStep rfl
theorem intersectNode : Statement (.intersectNode) := eventStep rfl
theorem delayNode : Statement (.delayNode) := eventStep rfl
theorem graphCompletion : Statement (.graphCompletion) := eventStep rfl
theorem responseDelivery : Statement (.responseDelivery) := eventStep rfl
theorem timerDue : Statement (.timerDue) := eventStep rfl
theorem streamWrite : Statement (.streamWrite) := eventStep rfl
theorem streamClose : Statement (.streamClose) := eventStep rfl
theorem streamRead : Statement (.streamRead) := eventStep rfl
theorem streamRelease : Statement (.streamRelease) := eventStep rfl
theorem streamRewind : Statement (.streamRewind) := eventStep rfl
theorem forcedRelease : Statement (.forcedRelease) := eventStep rfl
theorem frameRecycle : Statement (.frameRecycle) := eventStep rfl
theorem streamStall : Statement (.streamStall) := eventStep rfl
theorem hostHwmPublish : Statement (.hostHwmPublish) := eventStep rfl
theorem hostReaderRelease : Statement (.hostReaderRelease) := eventStep rfl
theorem homeAccess : Statement (.homeAccess) := eventStep rfl
theorem parkTimeoutCheck : Statement (.parkTimeoutCheck) := eventStep rfl
theorem atomicPerform : Statement (.atomicPerform) := eventStep rfl
theorem updatePerform : Statement (.updatePerform) := eventStep rfl
theorem updateLineMerge : Statement (.updateLineMerge) := eventStep rfl
theorem anchorRelease : Statement (.anchorRelease) := eventStep rfl
theorem launchCommit : Statement (.launchCommit) := eventStep rfl
theorem fold : Statement (.fold) := eventStep rfl
theorem oldestOnlyStart : Statement (.oldestOnlyStart) := eventStep rfl
theorem recoveryRung : Statement (.recoveryRung) := eventStep rfl
theorem blazeArrival : Statement (.blazeArrival) := eventStep rfl
theorem snapCadence : Statement (.snapCadence) := eventStep rfl
theorem eventCounterOverflow : Statement (.eventCounterOverflow) := eventStep rfl
theorem trailWalk : Statement (.trailWalk) := eventStep rfl
theorem matrixRecordAccept : Statement (.matrixRecordAccept) := eventStep rfl
theorem sequencerDispatch : Statement (.sequencerDispatch) := eventStep rfl
theorem mmChunk : Statement (.mmChunk) := eventStep rfl
theorem commandCompletion : Statement (.commandCompletion) := eventStep rfl
theorem drainTile : Statement (.drainTile) := eventStep rfl
theorem copyAccept : Statement (.copyAccept) := eventStep rfl
theorem copyLineWrite : Statement (.copyLineWrite) := eventStep rfl
theorem promiseMissed : Statement (.promiseMissed) := eventStep rfl
theorem barrierPerform : Statement (.barrierPerform) := eventStep rfl
theorem callAnswer : Statement (.callAnswer) := eventStep rfl
theorem budgetTimer : Statement (.budgetTimer) := eventStep rfl
theorem launchHeadCheck : Statement (.launchHeadCheck) := eventStep rfl
theorem launchStart : Statement (.launchStart) := eventStep rfl
theorem hostRingDrain : Statement (.hostRingDrain) := eventStep rfl
theorem hostRingReset : Statement (.hostRingReset) := eventStep rfl
theorem frameTableStep : Statement (.frameTableStep) := eventStep rfl
theorem runAheadFetch : Statement (.runAheadFetch) := eventStep rfl
theorem portInvalidation : Statement (.portInvalidation) := eventStep rfl
theorem portAcknowledge : Statement (.portAcknowledge) := eventStep rfl
theorem quickServiceScanOut : Statement (.quickServiceScanOut) := eventStep rfl
theorem prqAnswerResume : Statement (.prqAnswerResume) := eventStep rfl
theorem prqAnswerFault : Statement (.prqAnswerFault) := eventStep rfl
theorem prqAnswerAbort : Statement (.prqAnswerAbort) := eventStep rfl
theorem prqAnswerRefused : Statement (.prqAnswerRefused) := eventStep rfl
theorem frameScrub : Statement (.frameScrub) := eventStep rfl
theorem pageOut : Statement (.pageOut) := eventStep rfl
theorem pageIn : Statement (.pageIn) := eventStep rfl
theorem faultDelivery : Statement (.faultDelivery) := eventStep rfl
theorem plainApertureRead : Statement (.plainApertureRead) := eventStep rfl
theorem plainApertureWrite : Statement (.plainApertureWrite) := eventStep rfl
theorem fillApertureRead : Statement (.fillApertureRead) := eventStep rfl
theorem fillApertureWrite : Statement (.fillApertureWrite) := eventStep rfl
theorem probeApertureRead : Statement (.probeApertureRead) := eventStep rfl
theorem probeApertureWrite : Statement (.probeApertureWrite) := eventStep rfl
theorem registerWrite : Statement (.registerWrite) := eventStep rfl
theorem linkTraining : Statement (.linkTraining) := eventStep rfl
theorem flitReceive : Statement (.flitReceive) := eventStep rfl
theorem peerAccess : Statement (.peerAccess) := eventStep rfl
theorem peerRetry : Statement (.peerRetry) := eventStep rfl
theorem collectiveComplete : Statement (.collectiveComplete) := eventStep rfl
theorem frameClaim : Statement (.frameClaim) := eventStep rfl
theorem frameReturn : Statement (.frameReturn) := eventStep rfl
theorem asidSet : Statement (.asidSet) := eventStep rfl
theorem queueBind : Statement (.queueBind) := eventStep rfl
theorem ringRegister : Statement (.ringRegister) := eventStep rfl
theorem svcWeight : Statement (.svcWeight) := eventStep rfl
theorem hostRange : Statement (.hostRange) := eventStep rfl
theorem collective : Statement (.collective) := eventStep rfl
theorem noticeWord : Statement (.noticeWord) := eventStep rfl
theorem noticeRead : Statement (.noticeRead) := eventStep rfl
theorem prqInfo : Statement (.prqInfo) := eventStep rfl
theorem powerOnBoot : Statement (.powerOnBoot) := eventStep rfl
theorem foresterReset : Statement (.foresterReset) := eventStep rfl
theorem powerStep : Statement (.powerStep) := eventStep rfl
theorem patrolScrub : Statement (.patrolScrub) := eventStep rfl
theorem layout : Statement (.layout) := eventStep rfl
theorem layoutRead : Statement (.layoutRead) := eventStep rfl
theorem power : Statement (.power) := eventStep rfl
theorem frameTable : Statement (.frameTable) := eventStep rfl
theorem gladeParams : Statement (.gladeParams) := eventStep rfl
theorem tenant : Statement (.tenant) := eventStep rfl
theorem gladeAssign : Statement (.gladeAssign) := eventStep rfl
theorem svcBudget : Statement (.svcBudget) := eventStep rfl
theorem l2Quota : Statement (.l2Quota) := eventStep rfl
theorem twin : Statement (.twin) := eventStep rfl
theorem peerRoute : Statement (.peerRoute) := eventStep rfl
theorem svnRaise : Statement (.svnRaise) := eventStep rfl
theorem rasRead : Statement (.rasRead) := eventStep rfl
theorem rasClear : Statement (.rasClear) := eventStep rfl
theorem gladeCounters : Statement (.gladeCounters) := eventStep rfl
theorem getVersion : Statement (.getVersion) := eventStep rfl
theorem getCapabilities : Statement (.getCapabilities) := eventStep rfl
theorem negotiateAlgorithms : Statement (.negotiateAlgorithms) := eventStep rfl
theorem getDigests : Statement (.getDigests) := eventStep rfl
theorem getCertificate : Statement (.getCertificate) := eventStep rfl
theorem challenge : Statement (.challenge) := eventStep rfl
theorem getMeasurements : Statement (.getMeasurements) := eventStep rfl
theorem keyExchange : Statement (.keyExchange) := eventStep rfl
theorem finish : Statement (.finish) := eventStep rfl
theorem jwaitwTimeout : Statement (.jwaitwTimeout) := eventStep rfl
theorem fSoft : Statement (.fSoft) := eventStep rfl
theorem barrierWaitQueueTimeout : Statement (.barrierWaitQueueTimeout) := eventStep rfl
theorem heldStreamReadTimeout : Statement (.heldStreamReadTimeout) := eventStep rfl
theorem tenantBudgetPeriod : Statement (.tenantBudgetPeriod) := eventStep rfl
theorem interruptTaken : Statement (.interruptTaken) := eventStep rfl
theorem hostLinkTraining : Statement (.hostLinkTraining) := eventStep rfl
theorem breakpointComparatorArm : Statement (.breakpointComparatorArm) := eventStep rfl
theorem operatorCertificateInstall : Statement (.operatorCertificateInstall) := eventStep rfl
theorem sharedSetDeclaration : Statement (.sharedSetDeclaration) := eventStep rfl
theorem debugAuthorisation : Statement (.debugAuthorisation) := eventStep rfl

end Sys2Proof.Laws.RoundTrip
end

