-- ==== Sys2Proof/Certificates/Slice0/Obligations.lean ====
section
/-!
DEFINITION. The statements for the provers. Each docstring names the rules of spec/ that a statement rests on; where a
clause rests on a choice of the model it names the log entry.
-/
open Sys2Proof Sys2Proof.Machine

/-! ### Tile words: scalar arithmetic -/

/-- R165, R166: on operands taken modulo 2^w the result is the exact value modulo 2^w, extended as the width field says,
at both targets. `u`, `v` are the operands as numbers of w bits. R102, R166: division truncates toward zero; by zero,
DIV gives −1, DIVU the greatest value, and both remainders the dividend. R102, R166: the bitwise operations and the
shifts, whose count is taken modulo w. -/
def Obligations.ScalarArithmetic : Prop :=
  (∀ (pr : PR) (sw : SW) (tb ta : Tgt) (s : State) (x : FX) (a b : W64),
     x.a.s64 = some a → x.b.s64 = some b →
     let w := swWidth sw
     let u := a.toNat % 2 ^ w
     let v := b.toNat % 2 ^ w
     let gives (i : Instr) (r : Int) : Prop :=
       let o := scalarVal (swExtend sw r) (swTag sw)
       Fires i s x → x.free [(ta, o), (tb, o)] → exec i s = .next (x.out [(ta, o), (tb, o)] [])
     gives (.add pr sw tb ta) (u + v) ∧
     gives (.sub pr sw tb ta) ((u : Int) - v) ∧
     gives (.mul pr sw tb ta) (u * v) ∧
     gives (.mulh pr sw tb ta) (sgn w u * sgn w v / (2 ^ w : Nat)) ∧
     gives (.mulhu pr sw tb ta) ((u * v / 2 ^ w : Nat)) ∧
     gives (.min pr sw tb ta) (if sgn w u ≤ sgn w v then sgn w u else sgn w v) ∧
     gives (.max pr sw tb ta) (if sgn w u ≤ sgn w v then sgn w v else sgn w u) ∧
     gives (.minu pr sw tb ta) (if u ≤ v then u else v) ∧
     gives (.maxu pr sw tb ta) (if u ≤ v then v else u)) ∧
  (∀ (pr : PR) (sw : SW) (tb ta : Tgt) (s : State) (x : FX) (a b : W64),
     x.a.s64 = some a → x.b.s64 = some b →
     let w := swWidth sw
     let u := a.toNat % 2 ^ w
     let v := b.toNat % 2 ^ w
     let gives (i : Instr) (r : Int) : Prop :=
       let o := scalarVal (swExtend sw r) (swTag sw)
       Fires i s x → x.free [(ta, o), (tb, o)] → exec i s = .next (x.out [(ta, o), (tb, o)] [])
     (v = 0 → gives (.div pr sw tb ta) (-1) ∧ gives (.divu pr sw tb ta) ((2 ^ w : Nat) - 1)
       ∧ gives (.rem pr sw tb ta) u ∧ gives (.remu pr sw tb ta) u) ∧
     (v ≠ 0 → gives (.div pr sw tb ta) ((sgn w u).tdiv (sgn w v)) ∧ gives (.divu pr sw tb ta) ((u / v : Nat))
       ∧ gives (.rem pr sw tb ta) ((sgn w u).tmod (sgn w v)) ∧ gives (.remu pr sw tb ta) ((u % v : Nat)))) ∧
  (∀ (pr : PR) (sw : SW) (tb ta : Tgt) (s : State) (x : FX) (a b : W64),
     x.a.s64 = some a → x.b.s64 = some b →
     let w := swWidth sw
     let u := a.toNat % 2 ^ w
     let v := b.toNat % 2 ^ w
     let n := v % w
     let gives (i : Instr) (r : Int) : Prop :=
       let o := scalarVal (swExtend sw r) (swTag sw)
       Fires i s x → x.free [(ta, o), (tb, o)] → exec i s = .next (x.out [(ta, o), (tb, o)] [])
     gives (.and pr sw tb ta) ((u &&& v : Nat)) ∧
     gives (.or pr sw tb ta) ((u ||| v : Nat)) ∧
     gives (.xor pr sw tb ta) ((u ^^^ v : Nat)) ∧
     gives (.andn pr sw tb ta) ((u &&& (2 ^ w - 1 - v) : Nat)) ∧
     gives (.shl pr sw tb ta) ((u * 2 ^ n : Nat)) ∧
     gives (.shr pr sw tb ta) ((u / 2 ^ n : Nat)) ∧
     gives (.sra pr sw tb ta) (sgn w u / (2 ^ n : Nat)) ∧
     gives (.rotl pr sw tb ta) ((u * 2 ^ n ||| u / 2 ^ (w - n) : Nat)) ∧
     gives (.rotr pr sw tb ta) ((u / 2 ^ n ||| u * 2 ^ (w - n) : Nat)))

/-- R102, R166, R171: the operations of one operand; counts of zeros are w on zero; BREV and BSWAP move bit and byte j to
the other end. R166 to R170: MADD; ADDC and SUBB, which put the carry or the borrow at TB; LEA; the bit fields; TST
(R156). R156: TST compares at 64 or 32 bits and gives 1 or 0 as U64. -/
def Obligations.ScalarFunctions : Prop :=
  (∀ (pr : PR) (sw : SW) (xw : XW) (tb ta : Tgt) (s : State) (x : FX) (a : W64),
     x.a.s64 = some a →
     let w := swWidth sw
     let u := a.toNat % 2 ^ w
     let puts (i : Instr) (o : Val) : Prop :=
       Fires i s x → x.free [(ta, o), (tb, o)] → exec i s = .next (x.out [(ta, o), (tb, o)] [])
     let gives (i : Instr) (r : Int) : Prop := puts i (scalarVal (swExtend sw r) (swTag sw))
     gives (.neg pr sw tb ta) (-(u : Int)) ∧
     gives (.abs pr sw tb ta) ((sgn w u).natAbs) ∧
     gives (.not pr sw tb ta) ((2 ^ w - 1 - u : Nat)) ∧
     (∀ k : Nat, (u = 0 ∧ k = w ∨ 2 ^ (w - 1 - k) ≤ u ∧ u < 2 ^ (w - k) ∧ k < w) → gives (.clz pr sw tb ta) k) ∧
     (∀ k : Nat, (u = 0 ∧ k = w ∨ u % 2 ^ (k + 1) = 2 ^ k ∧ k < w) → gives (.ctz pr sw tb ta) k) ∧
     gives (.popc pr sw tb ta) (((List.range w).map fun j => u / 2 ^ j % 2).sum : Nat) ∧
     gives (.brev pr sw tb ta) (((List.range w).map fun j => u / 2 ^ (w - 1 - j) % 2 * 2 ^ j).sum : Nat) ∧
     gives (.bswap pr sw tb ta) (((List.range (w / 8)).map fun j => u / 256 ^ (w / 8 - 1 - j) % 256 * 256 ^ j).sum : Nat) ∧
     puts (.exts pr xw tb ta) (scalarVal (BitVec.ofInt 64 (sgn (xwBits xw) (a.toNat % 2 ^ xwBits xw))) .i64) ∧
     puts (.extz pr xw tb ta) (scalarVal (BitVec.ofNat 64 (a.toNat % 2 ^ xwBits xw)) .u64)) ∧
  (∀ (pr : PR) (sw : SW) (s2 : BitVec 2) (sx : Bool) (tb ta : Tgt) (s : State) (x : FX) (a b c : W64),
     x.a.s64 = some a → x.b.s64 = some b → x.c.s64 = some c →
     let w := swWidth sw
     let u := a.toNat % 2 ^ w
     let v := b.toNat % 2 ^ w
     let z := c.toNat % 2
     let pos := b.toNat % 64
     let len := b.toNat / 256 % 64 + 1
     let ipos := c.toNat % 64
     let ilen := c.toNat / 256 % 64 + 1
     let puts (i : Instr) (oa ob : Val) : Prop :=
       Fires i s x → x.free [(ta, oa), (tb, ob)] → exec i s = .next (x.out [(ta, oa), (tb, ob)] [])
     let same (i : Instr) (o : Val) : Prop := puts i o o
     let flag (p : Bool) : Val := scalarVal (if p then 1#64 else 0#64) .u64
     same (.madd pr sw tb ta) (scalarVal (swExtend sw ((u * v + c.toNat % 2 ^ w : Nat) : Int)) (swTag sw)) ∧
     puts (.addc pr sw tb ta) (scalarVal (swExtend sw ((u + v + z : Nat) : Int)) (swTag sw)) (flag (decide (2 ^ w ≤ u + v + z))) ∧
     puts (.subb pr sw tb ta) (scalarVal (swExtend sw ((u : Int) - v - z)) (swTag sw)) (flag (decide (u < v + z))) ∧
     same (.lea pr s2 tb ta) (scalarVal (a + b * BitVec.ofNat 64 (2 ^ s2.toNat)) .i64) ∧
     same (.bfx pr sx tb ta)
       (scalarVal (if sx then BitVec.ofInt 64 (sgn len (a.toNat / 2 ^ pos % 2 ^ len)) else BitVec.ofNat 64 (a.toNat / 2 ^ pos % 2 ^ len))
         .i64) ∧
     same (.bfi pr tb ta) (scalarVal (mkMask fun j =>
         if ipos ≤ j ∧ j < ipos + ilen then b.getLsbD (j - ipos) else a.getLsbD j) .i64)) ∧
  (∀ (pr : PR) (w32 : Bool) (tb ta : Tgt) (s : State) (x : FX) (a b : W64),
     x.a.s64 = some a → x.b.s64 = some b →
     let w := if w32 then 32 else 64
     let u := a.toNat % 2 ^ w
     let v := b.toNat % 2 ^ w
     let gives (c : Cond) (p : Prop) : Prop := ∀ r : W64, (p ∧ r = 1#64 ∨ ¬p ∧ r = 0#64) →
       Fires (.tst pr c w32 tb ta) s x → x.free [(ta, scalarVal r .u64), (tb, scalarVal r .u64)] →
       exec (.tst pr c w32 tb ta) s = .next (x.out [(ta, scalarVal r .u64), (tb, scalarVal r .u64)] [])
     gives .eq (u = v) ∧ gives .ne (u ≠ v) ∧ gives .lt (sgn w u < sgn w v) ∧ gives .ge (sgn w v ≤ sgn w u) ∧
     gives .ltu (u < v) ∧ gives .geu (v ≤ u) ∧ gives .any (u &&& v ≠ 0) ∧ gives .none (u &&& v = 0))

/-- R167: the immediate forms work on 64 bits with IMM13 sign-extended, shift counts modulo 64, and give I64. -/
def Obligations.ImmediateForms : Prop :=
  ∀ (pr : PR) (imm : BitVec 13) (ta : Tgt) (s : State) (x : FX),
    let v : W64 := imm.signExtend 64
    let n := imm.toNat % 64
    let puts (i : Instr) (r : W64) : Prop :=
      Fires i s x → x.free [(ta, scalarVal r .i64)] → exec i s = .next (x.out [(ta, scalarVal r .i64)] [])
    ∀ a, x.a.s64 = some a →
      puts (.addi pr imm ta) (a + v) ∧ puts (.andi pr imm ta) (a &&& v) ∧ puts (.ori pr imm ta) (a ||| v) ∧
      puts (.xori pr imm ta) (a ^^^ v) ∧ puts (.shli pr imm ta) (a <<< n) ∧ puts (.shri pr imm ta) (a >>> n) ∧
      puts (.srai pr imm ta) (a.sshiftRight n)

/-! ### Tile words: control -/

/-- R145 to R152: moves, selection, and the registers as the block began; a PUT is an effect for commit. R157 to R160: the
exits; addresses are block addresses, the block's own plus 8 × IMM13, and CALL keeps the address after the block in
s63. -/
def Obligations.MovesAndExits : Prop :=
  (∀ (pr : PR) (h6 : BitVec 6) (h4 : BitVec 4) (h3 : BitVec 3) (tag : Option ETy) (m : Bool) (tb ta : Tgt) (s : State) (x : FX),
     let puts (i : Instr) (outs : List (Tgt × Val)) : Prop := Fires i s x → x.free outs → exec i s = .next (x.out outs [])
     let acts (i : Instr) (e : Eff) : Prop := Fires i s x → exec i s = .next (x.effect e)
     puts (.mov pr tb ta) [(ta, .dat x.a), (tb, .dat x.a)] ∧
     puts (.null pr tb ta) [(ta, .null), (tb, .null)] ∧
     (∀ c, x.c.s64 = some c → c.getLsbD 0 = true → puts (.sel pr tb ta) [(ta, .dat x.a), (tb, .dat x.a)]) ∧
     (∀ c, x.c.s64 = some c → c.getLsbD 0 = false → puts (.sel pr tb ta) [(ta, .dat x.b), (tb, .dat x.b)]) ∧
     puts (.get pr h6 tag ta) [(ta, scalarVal (x.p.sreg h6.toNat) (tag.getD .i64))] ∧
     puts (.getv pr h4 tag ta) [(ta, vecVal (x.p.vreg h4.toNat) (tag.getD .i64) allOnes)] ∧
     puts (.getm pr h3 ta) [(ta, maskVal (x.p.mreg h3.toNat))] ∧
     (∀ a, x.a.s64 = some a → writesS x.r.effs h6.toNat = false → acts (.put pr h6) (.sreg h6.toNat a)) ∧
     (∀ a, x.a.s64 = some a → writesM x.r.effs h3.toNat = false → acts (.putm pr h3) (.mreg h3.toNat a)) ∧
     (x.a.shape = .vector → writesV x.r.effs h4.toNat = false →
       acts (.putv pr h4 m) (.vreg h4.toNat x.a.lanes (if m then x.a.lmask else allOnes)))) ∧
  (∀ (pr : PR) (imm : BitVec 13) (s : State) (x : FX), x.r.exits = [] →
     let to_ : BitVec 16 := x.f.block + 8#16 * imm.signExtend 16
     let leaves (i : Instr) (e : ExitKind) (effs : List Eff) : Prop := Fires i s x → exec i s = .next (x.leave e effs)
     leaves (.br pr imm) (.goto to_) [] ∧
     (∀ a, x.a.s64 = some a → a.toNat % 8 = 0 → leaves (.bri pr) (.goto (a.setWidth 16)) []) ∧
     (writesS x.r.effs 63 = false →
       leaves (.call pr imm) (.call to_) [.sreg 63 (BitVec.ofNat 64 ((x.f.block.toNat + x.r.len) % 2 ^ 16))]) ∧
     ((x.p.sreg 63).toNat % 8 = 0 → leaves (.ret pr) (.goto ((x.p.sreg 63).setWidth 16)) []) ∧
     leaves (.tend pr) .tend [] ∧
     leaves (.pyield pr imm) (.yield to_) [])

/-- R153 to R155, R162 to R164, R242 to R249: tokens received and sent, timers, time and identity, service calls,
counters. R242, R243, R245, R246: TRAP, BRKT and BLAZE, and the three actions on a consumed fault, are effects for
commit. -/
def Obligations.ChannelsTimeAndSystem : Prop :=
  (∀ (pr : PR) (c : BitVec 4) (c2 n : BitVec 2) (k : BitVec 4) (num : BitVec 7) (rel cnt : Bool) (sel : PerfSel) (tb ta : Tgt)
     (s : State) (x : FX),
     let puts (i : Instr) (outs : List (Tgt × Val)) : Prop := Fires i s x → x.free outs → exec i s = .next (x.out outs [])
     let acts (i : Instr) (e : Eff) : Prop := Fires i s x → exec i s = .next (x.effect e)
     let task (p : ActorRec → TaskRec → Prop) : Prop := ∃ a t, x.task = some (a, t) ∧ p a t
     (∀ d, x.f.kind ≠ .control → (Store.getD x.f.consumed c.toNat [])[n.toNat]? = some (.data d) →
       task (fun a _ => a.fault.getLsbD c.toNat = false) → puts (.recv pr c n ta) [(ta, .dat d)]) ∧
     (x.f.kind = .control → (Store.getD x.f.consumed c.toNat [])[n.toNat]? = some (.ctl .eos) →
       puts (.recv pr c n ta) [(ta, scalarVal 6#64 .u64)]) ∧
     (x.outShape c.toNat = some (shapeCode x.a.shape) → x.sentOn c.toNat < x.orate c.toNat →
       acts (.send pr c) (.send c.toNat (.data x.a))) ∧
     (x.ctlSentOn c.toNat = false → acts (.sendc pr c 6#4) (.send c.toNat (.ctl .eos))) ∧
     (x.sentOn c.toNat < x.orate c.toNat → acts (.sendc pr c 7#4) (.send c.toNat .null)) ∧
     (∀ v, x.a.s64 = some v → x.p.timers = [] → x.r.effs = [] → task (fun a _ => a.timer.getLsbD c.toNat = true) →
       acts (.timer pr c rel) (.timer c.toNat rel v)) ∧
     puts (.rdcyc pr tb ta) [(ta, scalarVal (x.s.cycle (x.s.gladeOf x.pl.col)) .u64), (tb, scalarVal (x.s.cycle (x.s.gladeOf x.pl.col)) .u64)] ∧
     puts (.rdid pr 0#4 ta) [(ta, scalarVal (BitVec.ofNat 64 x.p.copy) .u64)] ∧
     puts (.rdid pr 2#4 ta) [(ta, scalarVal (BitVec.ofNat 64 x.pl.col) .u64)] ∧
     puts (.rdid pr k ta) [(ta, scalarVal (BitVec.ofNat 64 (rdidValue x k.toNat)) .u64)] ∧
     (∀ v, x.a.s64 = some v → task (fun _ t => x.f.svcs < t.svcr) → x.r.effs = [] →
       acts (.svc pr c num) (.svc c.toNat num.toNat v)) ∧
     (∀ fid ws rest, Store.getD x.f.consumed c.toNat [] = .fault fid ws :: rest →
       task (fun a t => a.fault.getLsbD c.toNat = true ∧ t.irate.getD c.toNat 0 ≠ 0) →
       puts (.fread pr c n ta) [(ta, scalarVal (ws.getD n.toNat 0#64) .u64)]) ∧
     puts (.rdperf pr sel ta) [(ta, scalarVal (perfValue x sel) .u64)] ∧
     (∀ v, x.a.s64 = some v → x.p.own.getLsbD 3 = true → (cnt = true ∨ v.toNat % 256 < 12) →
       acts (.wrperf pr c2 cnt) (.wrperf c2.toNat cnt v))) ∧
  (∀ (pr : PR) (code : BitVec 12) (stop : Bool) (s : State) (x : FX),
     let acts (i : Instr) (e : Eff) : Prop := Fires i s x → exec i s = .next (x.effect e)
     acts (.trap pr code) (.trap code.toNat) ∧
     acts (.brkt pr code) (.brkt code.toNat) ∧
     acts (.blaze pr stop) (.blaze stop) ∧
     ∀ (fid : Nat) (f : FaultRec), x.f.fid = some fid → x.s.fault? fid = some f → x.actsTwice = false → x.f.acted = false →
       acts (.hresume pr) .hresume ∧
       acts (.habort pr) .habort ∧
       (∀ pl rid ch, f.src = .request pl rid → f.respCh = some ch →
         (x.b.s64 = some 1#64 → acts (.repair pr) (.repair .null)) ∧
         (x.b.s64 = some 0#64 → x.s.inShape pl ch = some (shapeCode x.a.shape) → acts (.repair pr) (.repair (.data x.a)))))

/-! ### Tile words: vectors -/

/-- R101, R174, R176, R177 on the integer types: each active lane is the exact value modulo 2^w in the canonical form of
its type, each other lane is 0, and the result's mask is the AND of the operands' masks. -/
def Obligations.VectorIntegers : Prop :=
  ∀ (pr : PR) (ty : ETy) (tb ta : Tgt) (s : State) (x : FX), ty ∈ intTy →
    let w := tyWidth ty
    let u (d : Datum) (j : Nat) : Nat := (laneAt d.lanes j).toNat % 2 ^ w
    let z (d : Datum) (j : Nat) : Int := intOf ty (laneAt d.lanes j)
    let gives (i : Instr) (act : W64) (r : Nat → Int) : Prop :=
      let o := vecVal (mkLanes fun j => if bitAt act j then canon ty (r j) else 0#64) ty act
      Fires i s x → x.free [(ta, o), (tb, o)] → exec i s = .next (x.out [(ta, o), (tb, o)] [])
    let m1 := x.a.lmask
    let m2 := x.a.lmask &&& x.b.lmask
    let m3 := x.a.lmask &&& x.b.lmask &&& x.c.lmask
    (x.a.isData ty = true →
      gives (.vabs pr ty tb ta) m1 (fun j => if tySigned ty then (z x.a j).natAbs else z x.a j) ∧
      gives (.vneg pr ty tb ta) m1 (fun j => -(z x.a j)) ∧
      gives (.vclz pr ty tb ta) m1 (fun j => (clz w (u x.a j) : Int)) ∧
      gives (.vpopc pr ty tb ta) m1 (fun j => (popc w (u x.a j) : Int)) ∧
      (x.b.shape = .vector →
        let n (j : Nat) : Nat := (laneAt x.b.lanes j).toNat % 64 % w
        gives (.vshl pr ty tb ta) m1 (fun j => (u x.a j * 2 ^ n j : Nat)) ∧
        gives (.vshr pr ty tb ta) m1 (fun j => (u x.a j / 2 ^ n j : Nat)) ∧
        gives (.vsra pr ty tb ta) m1 (fun j => sgn w (u x.a j) / (2 ^ n j : Nat)))) ∧
    (x.a.isData ty = true → x.b.isData ty = true →
      gives (.vadd pr ty tb ta) m2 (fun j => (u x.a j : Int) + u x.b j) ∧
      gives (.vsub pr ty tb ta) m2 (fun j => (u x.a j : Int) - u x.b j) ∧
      gives (.vmul pr ty tb ta) m2 (fun j => (u x.a j : Int) * u x.b j) ∧
      gives (.vmulh pr ty tb ta) m2 (fun j => if tySigned ty then sgn w (u x.a j) * sgn w (u x.b j) / (2 ^ w : Nat)
        else ((u x.a j * u x.b j / 2 ^ w : Nat) : Int)) ∧
      gives (.vdiv pr ty tb ta) m2 (fun j => if tySigned ty then (if u x.b j = 0 then -1 else (sgn w (u x.a j)).tdiv (sgn w (u x.b j)))
        else if u x.b j = 0 then (2 ^ w : Nat) - 1 else ((u x.a j / u x.b j : Nat) : Int)) ∧
      gives (.vand pr ty tb ta) m2 (fun j => ((u x.a j &&& u x.b j : Nat) : Int)) ∧
      gives (.vor pr ty tb ta) m2 (fun j => ((u x.a j ||| u x.b j : Nat) : Int)) ∧
      gives (.vxor pr ty tb ta) m2 (fun j => ((u x.a j ^^^ u x.b j : Nat) : Int)) ∧
      gives (.vmin pr ty tb ta) m2 (fun j => if z x.a j ≤ z x.b j then z x.a j else z x.b j) ∧
      gives (.vmax pr ty tb ta) m2 (fun j => if z x.a j ≤ z x.b j then z x.b j else z x.a j)) ∧
    (x.a.isData ty = true → x.b.isData ty = true → x.c.isData ty = true →
      gives (.vfma pr ty tb ta) m3 (fun j => (u x.a j : Int) * u x.b j + u x.c j) ∧
      gives (.vfms pr ty tb ta) m3 (fun j => (u x.a j : Int) * u x.b j - u x.c j))

/-- R107, R174, R176, R177, R179 on the floating-point types: where the operation of every active lane is `g j`, the
result holds `g j` in the active lanes and 0 in the others; where an active lane raises, the instruction raises
F_ARITH. The results of the special functions rest on assumption 15. -/
def Obligations.VectorFloats : Prop :=
  ∀ (pr : PR) (ty : ETy) (tb ta : Tgt) (s : State) (x : FX), ty ∈ fltTy →
    let np := x.p.npol
    let f := fmtOf ty
    let v (d : Datum) (j : Nat) : FV := laneF np ty (laneAt d.lanes j)
    let c (d : Datum) (j : Nat) : Nat := codeF np ty (laneAt d.lanes j)
    let gives (i : Instr) (act : W64) (op : Nat → LR) : Prop :=
      (∀ g : Nat → Nat, (∀ j < 64, bitAt act j = true → op j = .ok (g j)) →
        let o := vecVal (mkLanes fun j => if bitAt act j then BitVec.ofNat 64 (g j) else 0#64) ty act
        Fires i s x → x.free [(ta, o), (tb, o)] → exec i s = .next (x.out [(ta, o), (tb, o)] [])) ∧
      (∀ j < 64, bitAt act j = true → op j = .arith → Fires i s x → exec i s = .next (x.s.blockFault x.pl .arith 0 x.slot 0#64))
    let m1 := x.a.lmask
    let m2 := x.a.lmask &&& x.b.lmask
    let m3 := x.a.lmask &&& x.b.lmask &&& x.c.lmask
    let minus (y : FV) : FV := match y with | .nan n m => .nan n m | y => negFV y
    (x.a.isData ty = true →
      gives (.vabs pr ty tb ta) m1 (fun j => signLane false ty np (laneAt x.a.lanes j)) ∧
      gives (.vneg pr ty tb ta) m1 (fun j => signLane true ty np (laneAt x.a.lanes j)) ∧
      gives (.vsqrt pr ty tb ta) m1 (fun j => sqrtF np f (v x.a j)) ∧
      gives (.vrcp pr ty tb ta) m1 (fun j => divF np f (.fin false 1 0) (v x.a j)) ∧
      gives (.vrsq pr ty tb ta) m1 (fun j => rsqF np f (v x.a j)) ∧
      gives (.vexp2 pr ty tb ta) m1 (fun j => sfnF np f (tyCode ty).toNat .exp2 (laneAt x.a.lanes j) (v x.a j)) ∧
      gives (.vlog2 pr ty tb ta) m1 (fun j => sfnF np f (tyCode ty).toNat .log2 (laneAt x.a.lanes j) (v x.a j)) ∧
      gives (.vsin pr ty tb ta) m1 (fun j => sfnF np f (tyCode ty).toNat .sin (laneAt x.a.lanes j) (v x.a j)) ∧
      gives (.vcos pr ty tb ta) m1 (fun j => sfnF np f (tyCode ty).toNat .cos (laneAt x.a.lanes j) (v x.a j)) ∧
      gives (.vtanh pr ty tb ta) m1 (fun j => sfnF np f (tyCode ty).toNat .tanh (laneAt x.a.lanes j) (v x.a j)) ∧
      gives (.vsigm pr ty tb ta) m1 (fun j => sfnF np f (tyCode ty).toNat .sigm (laneAt x.a.lanes j) (v x.a j))) ∧
    (x.a.isData ty = true → x.b.isData ty = true →
      gives (.vadd pr ty tb ta) m2 (fun j => addF np f (v x.a j) (v x.b j)) ∧
      gives (.vsub pr ty tb ta) m2 (fun j => addF np f (v x.a j) (minus (v x.b j))) ∧
      gives (.vmul pr ty tb ta) m2 (fun j => mulF np f (v x.a j) (v x.b j)) ∧
      gives (.vdiv pr ty tb ta) m2 (fun j => divF np f (v x.a j) (v x.b j)) ∧
      gives (.vmin pr ty tb ta) m2 (fun j => minmaxF np f false (c x.a j) (c x.b j)) ∧
      gives (.vmax pr ty tb ta) m2 (fun j => minmaxF np f true (c x.a j) (c x.b j))) ∧
    (x.a.isData ty = true → x.b.isData ty = true → x.c.isData ty = true →
      gives (.vfma pr ty tb ta) m3 (fun j => fmaF np f (v x.a j) (v x.b j) (v x.c j)) ∧
      gives (.vfms pr ty tb ta) m3 (fun j => fmaF np f (v x.a j) (v x.b j) (negFV (v x.c j))))

/-- R173, R174, R177, R178: the compares into masks, and VCLAMP. Among floats −0 equals +0 and a NaN is unordered: only VCNE holds
of it, and under STRICT it raises F_ARITH; VCLAMP is the least of the greatest, by the rules of VMIN and VMAX. -/
def Obligations.ComparesAndClamp : Prop :=
  ∀ (pr : PR) (ty : ETy) (tb ta : Tgt) (s : State) (x : FX),
    let puts (i : Instr) (o : Val) : Prop :=
      Fires i s x → x.free [(ta, o), (tb, o)] → exec i s = .next (x.out [(ta, o), (tb, o)] [])
    let z (d : Datum) (j : Nat) : Int := intOf ty (laneAt d.lanes j)
    let gives (i : Instr) (p : Int → Int → Bool) : Prop :=
      puts i (maskVal (mkMask fun j => bitAt x.a.lmask j && bitAt x.b.lmask j && p (z x.a j) (z x.b j)))
    (ty ∈ intTy → x.a.isData ty = true → x.b.isData ty = true →
      gives (.vceq pr ty tb ta) (fun a b => decide (a = b)) ∧
      gives (.vcne pr ty tb ta) (fun a b => decide (a ≠ b)) ∧
      gives (.vclt pr ty tb ta) (fun a b => decide (a < b)) ∧
      gives (.vcle pr ty tb ta) (fun a b => decide (a ≤ b))) ∧
    (ty ∈ intTy → x.a.isData ty = true → x.b.isData ty = true → x.c.isData ty = true →
      puts (.vclamp pr ty tb ta) (vecVal (mkLanes fun j =>
        if bitAt (x.a.lmask &&& x.b.lmask &&& x.c.lmask) j then canon ty (min (max (z x.a j) (z x.b j)) (z x.c j)) else 0#64) ty
        (x.a.lmask &&& x.b.lmask &&& x.c.lmask))) ∧
    (ty ∈ fltTy → x.a.isData ty = true → x.b.isData ty = true →
      let np := x.p.npol
      let f := fmtOf ty
      let c (d : Datum) (j : Nat) : Nat := codeF np ty (laneAt d.lanes j)
      let nan (j : Nat) : Prop := (∃ n k, decodeF f (c x.a j) = .nan n k) ∨ ∃ n k, decodeF f (c x.b j) = .nan n k
      let act := x.a.lmask &&& x.b.lmask
      ((∃ j < 64, bitAt act j = true ∧ nan j) → nanmOf np = .strict →
        ∀ i ∈ [Instr.vceq pr ty tb ta, .vcne pr ty tb ta, .vclt pr ty tb ta, .vcle pr ty tb ta],
          Fires i s x → exec i s = .next (x.s.blockFault x.pl .arith 0 x.slot 0#64)) ∧
      ((nanmOf np ≠ .strict ∨ ∀ j < 64, bitAt act j = true → ¬nan j) →
        let gives (i : Instr) (p : Int → Int → Bool) (un : Bool) : Prop := ∀ m : W64,
          (∀ j < 64, (bitAt m j = true ↔ bitAt act j = true ∧
            ((nan j ∧ un = true) ∨ (¬nan j ∧ p (cmpKey f (c x.a j)) (cmpKey f (c x.b j)) = true)))) → puts i (maskVal m)
        gives (.vceq pr ty tb ta) (fun a b => decide (a = b)) false ∧
        gives (.vcne pr ty tb ta) (fun a b => decide (a ≠ b)) true ∧
        gives (.vclt pr ty tb ta) (fun a b => decide (a < b)) false ∧
        gives (.vcle pr ty tb ta) (fun a b => decide (a ≤ b)) false) ∧
      (x.c.isData ty = true →
        let act3 := act &&& x.c.lmask
        let clamp (j : Nat) : LR := match minmaxF np f true (c x.a j) (c x.b j) with
          | .ok r => minmaxF np f false (codeF np ty (BitVec.ofNat 64 r)) (c x.c j)
          | .arith => .arith
        (∀ g : Nat → Nat, (∀ j < 64, bitAt act3 j = true → clamp j = .ok (g j)) →
          puts (.vclamp pr ty tb ta) (vecVal (mkLanes fun j => if bitAt act3 j then BitVec.ofNat 64 (g j) else 0#64) ty act3)) ∧
        (∀ j < 64, bitAt act3 j = true → clamp j = .arith → Fires (.vclamp pr ty tb ta) s x →
          exec (.vclamp pr ty tb ta) s = .next (x.s.blockFault x.pl .arith 0 x.slot 0#64))))

/-- R101, R174, R181: the moves and permutes of lanes, each in the canonical form of its type. -/
def Obligations.VectorMoves : Prop :=
  ∀ (pr : PR) (ty : ETy) (tb ta : Tgt) (s : State) (x : FX),
    let puts (i : Instr) (o : Val) : Prop :=
      Fires i s x → x.free [(ta, o), (tb, o)] → exec i s = .next (x.out [(ta, o), (tb, o)] [])
    let l (j : Nat) : W64 := canonBits ty (laneAt x.a.lanes j)
    let m (j : Nat) : Bool := bitAt x.a.lmask j
    (∀ a, x.a.s64 = some a →
      puts (.vbcast pr ty tb ta) (vecVal (mkLanes fun _ => canonBits ty a) ty allOnes) ∧
      puts (.viota pr ty tb ta) (vecVal (mkLanes fun j => canon ty ((a.toNat : Int) + j)) ty allOnes)) ∧
    (x.a.isData ty = true →
      (∀ b, x.b.s64 = some b →
        puts (.vext pr ty tb ta) (scalarVal (l (b.toNat % 64)) ty) ∧
        puts (.vrot pr ty tb ta) (vecVal (mkLanes fun j => l ((j + b.toNat % 64) % 64)) ty (mkMask fun j => m ((j + b.toNat % 64) % 64))) ∧
        (∀ c, x.c.s64 = some c → puts (.vins pr ty tb ta) (vecVal
          (mkLanes fun j => if j = c.toNat % 64 then canonBits ty b else l j) ty (mkMask fun j => decide (j = c.toNat % 64) || m j)))) ∧
      (x.b.isData ty = true → ∀ c, x.c.s64 = some c → puts (.vsel pr ty tb ta) (vecVal
        (mkLanes fun j => if bitAt c j then l j else canonBits ty (laneAt x.b.lanes j)) ty (mkMask fun j => if bitAt c j then m j else bitAt x.b.lmask j))) ∧
      (x.b.shape = .vector →
        let q (j : Nat) : Nat := (laneAt x.b.lanes j).toNat % 64
        puts (.vshuf pr ty tb ta) (vecVal (mkLanes fun j => l (q j)) ty (mkMask fun j => m (q j) && bitAt x.b.lmask j))))

/-- R182 to R184: reductions and scans, conversion, filter and expand. A reduction of floats rounds the exact sum of the active
lanes once; a scan does so lane by lane; the least and the greatest lane are those of VMIN and VMAX, as FTZO leaves them. -/
def Obligations.ReductionsAndFilters : Prop :=
 (∀ (pr : PR) (ty : ETy) (tb ta : Tgt) (s : State) (x : FX),
    let puts (i : Instr) (oa ob : Val) : Prop :=
      Fires i s x → x.free [(ta, oa), (tb, ob)] → exec i s = .next (x.out [(ta, oa), (tb, ob)] [])
    let l (j : Nat) : W64 := laneAt x.a.lanes j
    let m (j : Nat) : Bool := bitAt x.a.lmask j
    let act : List Nat := (List.range 64).filter m
    (x.a.isData ty = true →
      (ty ∈ intTy →
        puts (.vrsum pr ty tb ta) (scalarVal (canon ty ((act.map fun j => intOf ty (l j)).sum)) ty)
          (scalarVal (canon ty ((act.map fun j => intOf ty (l j)).sum)) ty) ∧
        (∀ r : Int, (∃ j ∈ act, intOf ty (l j) = r) → (∀ j ∈ act, r ≤ intOf ty (l j)) →
          puts (.vrmin pr ty tb ta) (scalarVal (canon ty r) ty) (scalarVal (canon ty r) ty)) ∧
        (∀ r : Int, (∃ j ∈ act, intOf ty (l j) = r) → (∀ j ∈ act, intOf ty (l j) ≤ r) →
          puts (.vrmax pr ty tb ta) (scalarVal (canon ty r) ty) (scalarVal (canon ty r) ty)) ∧
        let o := vecVal (mkLanes fun j => if m j then canon ty (((act.filter fun i => decide (i ≤ j)).map fun i => intOf ty (l i)).sum) else 0#64)
          ty x.a.lmask
        puts (.vscan pr ty tb ta) o o) ∧
      (ty ∈ fltTy →
        let np := x.p.npol
        let f := fmtOf ty
        let v (j : Nat) : FV := laneF np ty (l j)
        let c (j : Nat) : Nat := codeF np ty (l j)
        let total (js : List Nat) : LR := ((js.map v).foldl FSum.add {}).finish np f (!js.isEmpty)
        let one (i : Instr) (r : Nat) : Prop := puts i (scalarVal (BitVec.ofNat 64 r) ty) (scalarVal (BitVec.ofNat 64 r) ty)
        (∀ r, total act = .ok r → one (.vrsum pr ty tb ta) r) ∧
        (total act = .arith → Fires (.vrsum pr ty tb ta) s x →
          exec (.vrsum pr ty tb ta) s = .next (x.s.blockFault x.pl .arith 0 x.slot 0#64)) ∧
        ((∀ j ∈ act, ∀ n k, v j ≠ .nan n k) → ∀ j ∈ act,
          ((∀ i ∈ act, orderKey f (c j) ≤ orderKey f (c i)) → one (.vrmin pr ty tb ta) (flushOut np f (c j))) ∧
          ((∀ i ∈ act, orderKey f (c i) ≤ orderKey f (c j)) → one (.vrmax pr ty tb ta) (flushOut np f (c j)))) ∧
        (∀ g : Nat → Nat, (∀ j < 64, m j = true → total (act.filter fun i => decide (i ≤ j)) = .ok (g j)) →
          let o := vecVal (mkLanes fun j => if m j then BitVec.ofNat 64 (g j) else 0#64) ty x.a.lmask
          puts (.vscan pr ty tb ta) o o)) ∧
      (∀ b, x.b.s64 = some b →
        let ks : List Nat := (List.range 64).filter fun j => m j && bitAt b j
        let rank (j : Nat) : Nat := ((List.range j).filter fun i => bitAt b i).length
        puts (.vfilt pr ty tb ta)
          (vecVal (mkLanes fun n => (ks[n]?).elim 0#64 fun j => canonBits ty (l j)) ty (prefMask ks.length))
          (vecVal (mkLanes fun n => (ks[n]?).elim 0#64 (BitVec.ofNat 64)) .u64 (prefMask ks.length)) ∧
        let o := vecVal (mkLanes fun j => if bitAt b j then canonBits ty (l (rank j)) else 0#64) ty (mkMask fun j => bitAt b j && m (rank j))
        puts (.vexpd pr ty tb ta) o o)) ∧
    (x.a.shape = .vector → ∀ g : Nat → W64, (∀ j < 64, m j = true → cvtLane x.p.npol x.a.tag ty (l j) = .ok (g j)) →
      let o := vecVal (mkLanes fun j => if m j then g j else 0#64) ty x.a.lmask
      puts (.vcvt pr ty tb ta) o o)) ∧
 (∀ (ts : List (Bool × Nat × Int)) (e0 : Int), (∀ t ∈ ts, e0 ≤ t.2.2) →
    let sgd (n : Bool) (m : Nat) (e : Int) : Int := (if n then -(m : Int) else m) * 2 ^ (e - e0).toNat
    let a := (ts.map fun t => FV.fin t.1 t.2.1 t.2.2).foldl FSum.add {}
    a.nan = none ∧ a.pinf = false ∧ a.ninf = false ∧ sgd a.neg a.m a.e = (ts.map fun t => sgd t.1 t.2.1 t.2.2).sum)

/-- R185 to R188, R193, R194: merges and intersections of sorted keys with their maps, removal of repeats, random draws.
R189 to R192, R237 to R241: the sparse accumulator acts at commit and only for its owner; quantised blocks; the
codebook. -/
def Obligations.SortedKeysSparseAndQuantised : Prop :=
  (∀ (pr : PR) (ty : ETy) (tb ta : Tgt) (s : State) (x : FX),
     let puts (i : Instr) (oa ob : Val) : Prop :=
       Fires i s x → x.free [(ta, oa), (tb, ob)] → exec i s = .next (x.out [(ta, oa), (tb, ob)] [])
     (x.a.isData ty = true → x.b.isData ty = true → ∀ na nb, prefLen x.a.lmask = some na → prefLen x.b.lmask = some nb →
       let ka := keyRun x.a na
       let kb := keyRun x.b nb
       let pack (ms : List (W64 × Nat)) : Val := vecVal (mkLanes fun j => (ms[j]?).elim 0#64 fun q => canon ty (intOf ty q.1)) ty (prefMask ms.length)
       let map_ (ms : List (W64 × Nat)) (t : ETy) : Val := vecVal (mkLanes fun j => (ms[j]?).elim 0#64 fun q => BitVec.ofNat 64 q.2) t (prefMask ms.length)
       (ordered false ty ka = true → ordered false ty kb = true →
         let ms := (mergeRuns ty (na + nb) ka.zipIdx (kb.zipIdx.map fun q => (q.1, 64 + q.2))).take 64
         puts (.vmrg pr ty tb ta) (pack ms) (map_ ms .u64)) ∧
       (ordered true ty ka = true → ordered true ty kb = true →
         let ms := ka.zipIdx.filterMap fun q => ((kb.zipIdx.find? fun p => decide (intOf ty p.1 = intOf ty q.1)).map fun p => (q.1, q.2 + 256 * p.2))
         puts (.visx pr ty tb ta) (pack ms) (map_ ms .u16)) ∧
       ((ordered false ty ka = false ∨ ordered false ty kb = false) → Fires (.vmrg pr ty tb ta) s x →
         exec (.vmrg pr ty tb ta) s = .next (x.s.blockFault x.pl .shape 0 x.slot 0#64))) ∧
     (x.a.isData ty = true →
       let ks := dedupGo ty x.a ((List.range 64).filter fun j => bitAt x.a.lmask j) none
       puts (.vdedup pr ty tb ta)
         (vecVal (mkLanes fun n => (ks[n]?).elim 0#64 fun j => canon ty (intOf ty (laneAt x.a.lanes j))) ty (prefMask ks.length))
         (maskVal (mkMask fun j => ks.contains j))) ∧
     (x.a.isData .u64 = true → x.b.isData .u64 = true →
       let c : BitVec 128 := laneAt x.b.lanes 1 ++ laneAt x.b.lanes 0
       let at_ (i : Nat) : BitVec 128 := c + BitVec.ofNat 128 i
       puts (.rngx pr tb ta)
         (vecVal (mkLanes fun i => cardamom (laneAt x.a.lanes 0) (laneAt x.a.lanes 1) ((at_ i).extractLsb' 0 64) ((at_ i).extractLsb' 64 64)) .u64 allOnes)
         (vecVal (mkLanes fun i => if i = 0 then (at_ 64).extractLsb' 0 64 else if i = 1 then (at_ 64).extractLsb' 64 64 else 0#64) .u64 3#64))) ∧
  (∀ (pr : PR) (ty : ETy) (tb ta : Tgt) (s : State) (x : FX),
     let puts (i : Instr) (o : Val) : Prop :=
       Fires i s x → x.free [(ta, o), (tb, o)] → exec i s = .next (x.out [(ta, o), (tb, o)] [])
     let acts (i : Instr) (e : Eff) : Prop := Fires i s x → exec i s = .next (x.effect e)
     let np := x.p.npol
     let js : List Nat := (List.range 64).filter fun j => bitAt x.a.lmask j && bitAt x.b.lmask j
     (x.ownsSacc = true → x.saccTwice = false →
       acts (.saccz pr) .saccClear ∧
       (∀ acc, x.a.shape = .vector → x.b.isData ty = true → (x.tile.sacc = [] ∨ x.tile.saccTy = some ty) →
         (∀ j ∈ js, (laneAt x.a.lanes j).toNat % 2 ^ 32 < 4096) → saccGo np ty x.a x.b js x.tile.sacc = some acc →
         acts (.sacc pr ty) (.sacc ty acc)) ∧
       (let es := x.tile.sacc.take 64
        let outs : List (Tgt × Val) :=
          [(ta, vecVal (mkLanes fun j => (es[j]?).elim 0#64 fun e => BitVec.ofNat 64 e.1) .u32 (prefMask es.length)),
           (tb, vecVal (mkLanes fun j => (es[j]?).elim 0#64 fun e => e.2) (x.tile.saccTy.getD .u64) (prefMask es.length))]
        Fires (.saccf pr tb ta) s x → x.free outs → exec (.saccf pr tb ta) s = .next (x.out outs [.saccTake es.length]))) ∧
     (x.ownsSacc = false → Fires (.saccz pr) s x → exec (.saccz pr) s = .next (x.s.blockFault x.pl .prot 0 x.slot 0#64)) ∧
     (x.a.shape = .vector → x.p.own.getLsbD 1 = true → acts (.cbset pr) (.cbset x.a.lanes)) ∧
     (ty ∈ fltTy → x.a.isData ty = true →
       let xs := elems np ty x.a
       (∀ r : Nat, (∀ j < 64, bitAt x.a.lmask j = true → ∀ n m, decodeF (fmtOf ty) (codeF np ty (laneAt x.a.lanes j)) ≠ .nan n m) →
         r = ((List.range 64).map fun j => if bitAt x.a.lmask j then codeF np ty (laneAt x.a.lanes j) % 2 ^ ((fmtOf ty).eb + (fmtOf ty).mb) else 0).foldl max 0 →
         puts (.vamax pr ty tb ta) (scalarVal (BitVec.ofNat 64 r) ty)) ∧
       (unscalable xs = false →
         (∀ b n mm me, x.b.s64 = some b → laneF np ty b = .fin n mm me →
           let q := (qfmtOf np).getD .e2m1
           let o := blockCodes np q 0 (mfmtEmax q) xs (some (mm, me))
           puts (.vqnt pr ty tb ta) (vecVal (packBlock (mfmtWidth q) o.2 o.1) .u64 allOnes)) ∧
         (∀ em, x.p.own.getLsbD 1 = true → cbEmax x.tile.codebook = some em → (maxMag (xs.filterMap id)).1 ≠ 0 →
           let o := blockCodes np .cb4 x.tile.codebook em xs (some (maxMag (xs.filterMap id)))
           puts (.vcbq pr ty tb ta) (vecVal (packBlock 4 o.2 o.1) .u64 allOnes)))) ∧
     (x.a.shape = .vector → ∀ (q : MFmt) (g : Nat → Bool × Nat × Int), (qfmtOf np).getD .e2m1 = q → q ≠ .cb4 →
       let sc := (laneAt x.a.lanes 63).toNat % 256
       (∀ j < 64, decodeElem np q x.tile.codebook (blockBits x.a / 2 ^ (mfmtWidth q * j) % 2 ^ mfmtWidth q) sc = .fin (g j).1 (g j).2.1 (g j).2.2) →
       puts (.vdqnt pr tb ta) (vecVal (mkLanes fun j => BitVec.ofNat 64 (roundOut np fF32 (g j).1 (g j).2.1 (g j).2.2)) .f32 allOnes)))

/-! ### Tile words: requests and local accesses -/

/-- R70, R130, R195 to R198, R201, R203: with an address of natural alignment and a data operand of the width's shape, a
form waits for admission with a request that holds its address, data and response channel, unless its place in the wave
order has been skipped. -/
def Obligations.MemoryForms : Prop :=
  ∀ (pr : PR) (lk : Link) (wd : Width) (c : BitVec 4) (t : BitVec 6) (s : State) (x : FX) (a : W64), x.a.s64 = some a →
    let holds (i : Instr) (r : Req) : Prop := x.waits i s { slot := x.slot, lk := lk, kind := some r.kind, lcl := none, tgt := 0, req := r }
    let near (i : Instr) (nb st : Bool) (tgt : Nat) (r : Req) : Prop :=
      x.waits i s { slot := x.slot, lk := lk, kind := none, lcl := some (nb, st), tgt := tgt, req := r }
    let req (k : ReqKind) (rc : Option Nat) (b d : W64) (ls : Lanes) : Req := mkReq x k wd rc a b d ls
    a.toNat % 2 ^ 48 % widAlign wd = 0 →
      holds (.ld pr lk wd c) (req .ld (some c.toNat) 0#64 0#64 []) ∧
      holds (.ldw pr lk wd c) (req .ldw (some c.toNat) 0#64 0#64 []) ∧
      holds (.ldc pr lk wd c) (req .ldc (some c.toNat) 0#64 0#64 []) ∧
      holds (.feq pr lk wd c) (req .feq (some c.toNat) 0#64 0#64 []) ∧
      holds (.fempty pr lk wd) (req .fempty none 0#64 0#64 []) ∧
      near (.ldl pr lk wd t) false false t.toNat (req .ld none x.b.bits 0#64 x.b.lanes) ∧
      near (.ldn pr lk wd t) true false t.toNat (req .ld none x.b.bits 0#64 x.b.lanes) ∧
      ((x.b.shape = .vector ↔ widVec wd = true) →
        holds (.st pr lk wd) (req .st none x.b.bits 0#64 x.b.lanes) ∧
        holds (.stf pr lk wd) (req .stf none x.b.bits 0#64 x.b.lanes) ∧
        holds (.sts pr lk wd) (req .sts none x.b.bits 0#64 x.b.lanes) ∧
        near (.stl pr lk wd) false true 0 (req .st none x.b.bits 0#64 x.b.lanes) ∧
        near (.stn pr lk wd) true true 0 (req .st none x.b.bits 0#64 x.b.lanes))

/-- R205, R206: the returning atomics hold their operands and a response channel, the update-only forms no response. -/
def Obligations.AtomicForms : Prop :=
  ∀ (pr : PR) (lk : Link) (d : Bool) (c : BitVec 4) (s : State) (x : FX) (a b : W64), x.a.s64 = some a → x.b.s64 = some b →
    let wd : Width := if d then .d else .w
    let holds (i : Instr) (r : Req) : Prop := x.waits i s { slot := x.slot, lk := lk, kind := some r.kind, lcl := none, tgt := 0, req := r }
    let at_ (op : AOp) (y : W64) : Req := mkReq x (.atom op d) wd (some c.toNat) a b y []
    let up (op : UOp) : Req := mkReq x (.upd op d) wd none a b 0#64 []
    (a.toNat % 2 ^ 48 % (if d then 8 else 4) = 0 →
      holds (.aadd pr lk d c) (at_ .add 0#64) ∧ holds (.aand pr lk d c) (at_ .and 0#64) ∧
      holds (.aor pr lk d c) (at_ .or 0#64) ∧ holds (.axor pr lk d c) (at_ .xor 0#64) ∧
      holds (.amin pr lk d c) (at_ .min 0#64) ∧ holds (.amax pr lk d c) (at_ .max 0#64) ∧
      holds (.aswap pr lk d c) (at_ .swap 0#64) ∧
      (∀ y, x.c.s64 = some y → holds (.cas pr lk d c) (at_ .cas y)) ∧
      holds (.uadd pr lk d) (up .add) ∧ holds (.uand pr lk d) (up .and) ∧ holds (.uor pr lk d) (up .or) ∧
      holds (.uxor pr lk d) (up .xor) ∧ holds (.umin pr lk d) (up .min) ∧ holds (.umax pr lk d) (up .max)) ∧
    (a.toNat % 2 ^ 48 % 4 = 0 → holds (.ufadd pr lk) (mkReq x (.upd .fadd false) .w none a b 0#64 []))

/-- R207, R208: a stream form on a handle that the plane's image binds, from an actor that has the form's role and with
the element's width, waits for admission. -/
def Obligations.StreamForms : Prop :=
  ∀ (pr : PR) (lk : Link) (wd : Width) (c : BitVec 4) (s : State) (x : FX) (a : W64) (n : Nat) (l : Launch) (ar : ActorRec)
    (k : Nat) (st : Stream), x.a.s64 = some a → x.s.actorOf x.pl = some (n, l, ar) → l.streamOf (a.toNat % 64) = some (k, st) →
    let holds (i : Instr) (r : Req) : Prop := x.waits i s { slot := x.slot, lk := lk, kind := some r.kind, lcl := none, tgt := 0, req := r }
    (st.sr.writer = x.p.actor → st.sr.hostp = false → eszWidth st.sr.esz = wd →
      ((x.b.shape = .vector ↔ widVec wd = true) → holds (.swr pr lk wd) (mkReq x (.swr false) wd none x.a.bits x.b.bits 0#64 x.b.lanes)) ∧
      holds (.swrEos pr lk wd) (mkReq x (.swr true) wd none x.a.bits 0#64 0#64 [])) ∧
    ((st.sr.readerOf x.p.actor).isSome = true →
      (eszWidth st.sr.esz = wd → holds (.srd pr lk wd c) (mkReq x .srd wd (some c.toNat) x.a.bits 0#64 0#64 [])) ∧
      ∀ b, x.b.s64 = some b →
        holds (.srel pr lk) (mkReq x .srel .d none x.a.bits b 0#64 []) ∧
        holds (.srew pr lk) (mkReq x .srew .d none x.a.bits b 0#64 []) ∧
        (b.toNat < 8 → holds (.spos pr lk c) (mkReq x .spos .d (some c.toNat) x.a.bits b 0#64 [])) ∧
        (∀ d, x.c.s64 = some d → b.toNat < 4 → b.toNat ≤ st.sr.nrd →
          holds (.srelFrc pr lk) (mkReq x .srelFrc .d none x.a.bits b d [])))

/-- R209 to R224: fences, barrier forms, COPY, PREF, WBACK, SETBUD and MMPOST. -/
def Obligations.FencesBarriersAndPosts : Prop :=
  ∀ (pr : PR) (lk : Link) (sc : Scope) (src dst : AClass) (bank : Bool) (c : BitVec 4) (s : State) (x : FX),
    let holds (i : Instr) (r : Req) : Prop := x.waits i s { slot := x.slot, lk := lk, kind := some r.kind, lcl := none, tgt := 0, req := r }
    let req (k : ReqKind) (wd : Width) (rc : Option Nat) (a b : W64) : Req := mkReq x k wd rc a b 0#64 []
    holds (.fence pr lk sc) (req (.fence sc) .b none 0#64 0#64) ∧
    holds (.xfence pr lk src dst) (req (.xfence src dst) .b none 0#64 0#64) ∧
    ∀ a, x.a.s64 = some a →
      holds (.sbar pr lk) (req .sbar .b none a 0#64) ∧
      holds (.barwt pr lk c) (req .barwt .d (some c.toNat) a 0#64) ∧
      holds (.pref pr lk bank) (req (.pref bank) .l none a 0#64) ∧
      holds (.wback pr lk) (req .wback .l none a 0#64) ∧
      ((a.toNat % 256 ≠ 255 ∨ x.p.level = .handler) → holds (.setbud pr lk) (req .setbud .b none a 0#64)) ∧
      (a.toNat % 2 ^ 48 % 16 = 0 →
        holds (.bararv pr lk) (req .bararv .d none a 0#64) ∧
        ∀ b, x.b.s64 = some b →
          holds (.barinit pr lk) (req .barinit .d none a b) ∧ holds (.barexp pr lk) (req .barexp .d none a b)) ∧
      (a.toNat % 2 ^ 48 % 64 = 0 →
        holds (.copy pr lk c) (req .copy .d (some c.toNat) a 0#64) ∧ holds (.mmpost pr lk) (req .mmpost .b none a 0#64))

/-! ### Faults at firing, nulls, predicates, frames -/

/-- R195, R223: an instruction that needs HANDLER raises F_PRIV when a USER plane fires it, and has no other effect. -/
def Obligations.HandlerOnly : Prop :=
  ∀ (i : Instr) (s : State) (f : Firing) (r : BlockRun) (a b c : Datum) (s1 : State),
    (s.plane s.cur.pl).firing = some f → f.st = .running → f.run = some r → r.done.contains s.cur.slot = false →
    r.fit i s.cur.slot = .go a b c → s.takePlace s.cur.pl i f.block s.cur.slot = some s1 → (s.plane s.cur.pl).level = .user →
    ((∃ pr ch k ta, i = .fread pr ch k ta) ∨ (∃ pr, i = .repair pr) ∨ (∃ pr, i = .hresume pr) ∨ (∃ pr, i = .habort pr) ∨
      (∃ pr lk, i = .srelFrc pr lk) ∨ (∃ pr, i = .blaze pr true)) →
    exec i s = .next (s1.blockFault s.cur.pl .priv 0 s.cur.slot 0#64)

/-- R197: a form whose address is not of natural alignment raises F_ALIGN with the address in INFO. -/
def Obligations.MisalignedAddress : Prop :=
  ∀ (pr : PR) (lk : Link) (wd : Width) (d : Bool) (c : BitVec 4) (t : BitVec 6) (s : State) (x : FX) (a b : W64),
    x.a.s64 = some a →
    let faults (i : Instr) : Prop := Fires i s x →
      exec i s = .next (x.s.blockFault x.pl .align 0 x.slot (BitVec.ofNat 64 (a.toNat % 2 ^ 48)))
    (a.toNat % 2 ^ 48 % widAlign wd ≠ 0 →
      faults (.ld pr lk wd c) ∧ faults (.ldw pr lk wd c) ∧ faults (.ldc pr lk wd c) ∧ faults (.feq pr lk wd c) ∧
      faults (.fempty pr lk wd) ∧ faults (.ldl pr lk wd t) ∧ faults (.ldn pr lk wd t) ∧
      ((x.b.shape = .vector ↔ widVec wd = true) →
        faults (.st pr lk wd) ∧ faults (.stf pr lk wd) ∧ faults (.sts pr lk wd) ∧ faults (.stl pr lk wd) ∧ faults (.stn pr lk wd))) ∧
    (x.b.s64 = some b → a.toNat % 2 ^ 48 % (if d then 8 else 4) ≠ 0 →
      faults (.aadd pr lk d c) ∧ faults (.aswap pr lk d c) ∧ faults (.uadd pr lk d)) ∧
    (a.toNat % 2 ^ 48 % 16 ≠ 0 → faults (.bararv pr lk) ∧ (x.b.s64 = some b → faults (.barinit pr lk) ∧ faults (.barexp pr lk))) ∧
    (a.toNat % 2 ^ 48 % 64 ≠ 0 → faults (.copy pr lk c) ∧ faults (.mmpost pr lk))

/-- R44, R149: NULL sends null to its targets. An instruction that receives null on any operand fires at once (SEL once all
three of its operands are there); one that is no output sends null to each of its targets; an output has no effect and
counts as done, whatever its predicate is to be, and a memory operation keeps its place in the wave order; an exit does
not count as fired. -/
def Obligations.NullOperands : Prop :=
  ∀ (i : Instr) (s s1 : State) (x : FX) (f : Firing) (r : BlockRun) (pr : PR) (tb ta : Tgt), i.hasWord = true → isBorder i = false →
    let pl := s.cur.pl
    let slot := s.cur.slot
    (Fires (.null pr tb ta) s x → x.free [(ta, .null), (tb, .null)] →
      exec (.null pr tb ta) s = .next (x.out [(ta, .null), (tb, .null)] [])) ∧
    ((prOf i = .always ∨ (∃ d, Store.get? r.pred slot = some (.dat d) ∧ d.bits.getLsbD 0 = decide (prOf i = .onTrue)) ∨
        (Store.get? r.pred slot = none ∧ (classOf i = .out ∨ classOf i = .wave))) →
      ((∀ pr tb ta, i ≠ .sel pr tb ta) ∨
        ((Store.get? r.opA slot).isSome = true ∧ (Store.get? r.opB slot).isSome = true ∧ (Store.get? r.opC slot).isSome = true)) →
      ((0 < usesOf i ∧ Store.get? r.opA slot = some .null) ∨ (1 < usesOf i ∧ Store.get? r.opB slot = some .null) ∨
        (2 < usesOf i ∧ Store.get? r.opC slot = some .null)) → r.fit i slot = .null) ∧
    ((s.plane pl).firing = some f → f.st = .running → f.run = some r → r.done.contains slot = false →
      r.fit i slot = .null →
      (∀ r', classOf i = .pure → s.takePlace pl i f.block slot = some s1 → (r.mark slot).putAll ((tgtsOf i).map fun t => (t, Val.null)) = some r' → exec i s = .next (s1.setRun pl r')) ∧
      (∀ lk, classOf i = .wave → linkOf i = some lk → r.waves.getD lk.seq.toNat .opened = .opened →
        exec i s = .next (s.setRun pl (BlockRun.mark { r with waves := r.waves.set lk.seq.toNat .nullified } slot))) ∧
      ((classOf i = .out ∨ classOf i = .exit) → exec i s = .next (s.setRun pl (r.mark slot))))

/-- R43, R128: an instruction whose predicate arrives with the value that does not fire it has no effect and is done: an
output counts as done for commit, a wave-ordered one nullifies its wave, an exit is not among the exits that fired. -/
def Obligations.PredicateSkips : Prop :=
  ∀ (i : Instr) (s : State) (f : Firing) (r : BlockRun) (d : Datum), i.hasWord = true → isBorder i = false →
    (s.plane s.cur.pl).firing = some f → f.st = .running → f.run = some r → r.done.contains s.cur.slot = false →
    prOf i ≠ .always → Store.get? r.pred s.cur.slot = some (.dat d) → d.bits.getLsbD 0 ≠ decide (prOf i = .onTrue) →
    (linkOf i = none → exec i s = .next (s.setRun s.cur.pl (r.mark s.cur.slot))) ∧
    (∀ lk, linkOf i = some lk → r.waves.getD lk.seq.toNat .opened = .opened →
      exec i s = .next (s.setRun s.cur.pl (BlockRun.mark { r with waves := r.waves.set lk.seq.toNat .nullified } s.cur.slot)))

/-- R132: no tile instruction changes memory, a register, a request stream or an output when it fires: its effects wait
for the block's commit. A fault that it raises changes none of them either (R336). -/
def Obligations.FiringKeepsArchitecture : Prop :=
  ∀ (i : Instr) (s t : State), i.hasWord = true → isBorder i = false → exec i s = .next t → SameArch s t

/-- R132, R152, R157: what an effect of a block writes at commit, and nothing else: PUT, PUTV under its mask, PUTM. Only the
plane changes, and of the plane only the file that the effect names. -/
def Obligations.CommitWritesRegisters : Prop :=
  ∀ (s : State) (pl : PlaneId) (f : Firing) (slot n : Nat) (v m : W64) (l : Lanes),
    let p := s.plane pl
    let only (t : State) : Prop := t = { s with planes := t.planes } ∧ ∀ q, planeKey q ≠ planeKey pl → t.plane q = s.plane q
    (let t := s.commitEff pl f slot (.sreg n v)
     only t ∧ t.plane pl = { p with sregs := (t.plane pl).sregs } ∧
     (t.plane pl).sreg n = v ∧ ∀ k, k ≠ n → (t.plane pl).sreg k = p.sreg k) ∧
    (let t := s.commitEff pl f slot (.mreg n v)
     only t ∧ t.plane pl = { p with mregs := (t.plane pl).mregs } ∧
     (t.plane pl).mreg n = v ∧ ∀ k, k ≠ n → (t.plane pl).mreg k = p.mreg k) ∧
    (let t := s.commitEff pl f slot (.vreg n l m)
     only t ∧ t.plane pl = { p with vregs := (t.plane pl).vregs } ∧
     (∀ j < 64, laneAt ((t.plane pl).vreg n) j = if bitAt m j then laneAt l j else laneAt (p.vreg n) j) ∧
     ∀ k, k ≠ n → (t.plane pl).vreg k = p.vreg k)

/-! ### Firings and the fabric -/

/-- R21, R22, R25, R27: the step that R21's choice names starts: a data or unaligned task at its entry block on the tokens
of its rates; a control task on the head control tokens; without a control task the control token goes out on every
output and the inputs give theirs up, and a firing is counted (R250). -/
def Obligations.FiringsStart : Prop :=
  ∀ (s : State) (l ix : Nat) (x : Launch) (a : ActorRec) (t : TaskRec),
    let pl := s.cur.pl
    let p := s.plane pl
    s.actorOf pl = some (l, x, a) →
    (s.choose x a pl p = some (.task ix) → a.tasks[ix]? = some t → a.isFaultTask t = false →
      exec .taskFiring s = .next (s.startFiring pl { task := ix, kind := t.kind, block := t.entry, consumed := ((List.range 16).filter fun j => decide (t.irate.getD j 0 ≠ 0)).map fun j => (j, taskTokens x a p t j) })) ∧
    (∀ k ins, s.choose x a pl p = some (.step k ins) →
      (a.tasks.zipIdx.find? (fun q => decide (q.1.kind = .control)) = some (t, ix) →
        exec .controlStep s = .next (s.startFiring pl { task := ix, kind := .control, block := t.entry, consumed := a.aligned.map fun j => (j, [Token.ctl (if ins.contains j then k else .eos)]) })) ∧
      (a.tasks.zipIdx.find? (fun q => decide (q.1.kind = .control)) = none →
        exec .controlStep s =
          .next (((((x.outsOf p.actor).foldl (fun s o => s.sendOut pl o (.ctl k)) s).popCtl pl k ins).count pl 7 0#16 0).settle pl)))

/-- R132: a block whose outputs have all fired or been nullified, whose wave sequence is complete and of which one exit
has fired commits in one step: its effects in slot order, those of the wave sequence last and in wave order, then its
exit. R45: a mapped block that is not complete and in which nothing can fire or be admitted raises F_BLOCK_ILLEGAL. -/
def Obligations.BlockCommits : Prop :=
  (∀ (s : State) (f : Firing) (r : BlockRun) (e : ExitKind),
     let pl := s.cur.pl
     s.planeGoes pl = true → (s.plane pl).firing = some f → f.st = .running → f.run = some r → r.outsDone = true → r.exits = [e] →
     exec .blockCommit s = .next
       ((((sortEffs (r.effs.filter fun q => !q.2.isWave) ++ r.effs.filter fun q => q.2.isWave).foldl
           (fun t q => t.commitEff pl f q.1 q.2) (s.modPlane pl fun p => { p with firing := some { f with run := none } })).count pl 6
         f.block 0).takeExit pl e)) ∧
  (∀ (s : State) (f : Firing) (r : BlockRun),
     s.planeGoes s.cur.pl = true → (s.plane s.cur.pl).firing = some f → f.st = .running → f.run = some r → r.outsDone = false → r.canMove = false →
     exec .blockCommit s = .next (s.blockFault s.cur.pl .blockIllegal 0 0 0#64))

/-- R130, R131: a wave whose links are met, with no admitted wave among those it passes over, is admitted; a request joins
the block's effects in admission order. R160: PYIELD's successor is fetched once every other ready plane has issued or
is no longer ready, or after 64 cycles. -/
def Obligations.WavesAreAdmitted : Prop :=
  (∀ (s : State) (r : BlockRun) (w : Wave),
     let pl := s.cur.pl
     (s.plane pl).firing.bind (·.run) = some r → r.pend.find? (fun w => decide (w.slot = s.cur.slot)) = some w →
     s.planeGoes pl = true → r.linkMet w.lk = true →
     (∀ t ∈ r.span w.lk, r.waves.getD t .opened ≠ .admitted) → w.lcl = none →
     let r1 := (r.span w.lk).foldl (fun r t => if r.waves.getD t .opened = .opened then r.setWave t .skipped else r) r
     exec .waveAdmission s = .next (s.setRun pl { r1.setWave w.lk.seq.toNat .admitted with pend := r1.pend.filter (fun q => decide (q.slot ≠ s.cur.slot)), seq := r1.seq ++ [w.slot], effs := r1.effs ++ [(w.slot, .request w.req)] })) ∧
  (∀ (s : State) (f : Firing) (l : Nat) (x : Launch) (a : ActorRec) (ready : List Nat) (since : W64),
     let pl := s.cur.pl
     (s.plane pl).firing = some f → s.actorOf pl = some (l, x, a) → f.st = .yielding ready since →
     x.runs = true → (s.plane pl).stopped = false → (s.plane pl).paused = false → x.blazeOf pl (s.plane pl) = none →
     ((∀ q ∈ ready, since < (s.plane ⟨pl.col, pl.row, q⟩).lastIssue ∨ s.planeReady ⟨pl.col, pl.row, q⟩ = false) ∨
       64 ≤ (s.cycle x.glade - since).toNat) →
     exec .pyieldRelease s = .next (s.mapBlock pl))

/-- R18, R94: what waits at the producer's output moves onto the channel, and the oldest token on the way to a consumer
enters its endpoint where a slot is free, taking ORD as its ordinal; ORD advances. R94: landing a token on an unarmed
endpoint puts it behind the others and adds one to ORD. -/
def Obligations.TokensAreDelivered : Prop :=
  (∀ (s : State) (x : Launch) (r : ChanRec) (t : Token) (ts : List Token),
     let l := s.cur.l
     let ci := s.cur.n
     let j := s.cur.k
     let u := if r.pkind = 0 then s.flushOut l r.prod r.pep else s
     let landed := (u.modLaunch l fun x => { x with chans := Store.set x.chans ci { Store.getD x.chans ci {} with flight := Store.set (Store.getD x.chans ci {}).flight j ts } }).land l x r j t
     (s.launch? l).bind (fun x => x.img.chans[ci]?) = some r → u.launch? l = some x → x.onFabric = true →
     Store.getD (Store.getD x.chans ci {}).flight j [] = t :: ts → (∀ k n, t ≠ .blaze k n) →
     (u.consEp x r j).slots.length < 4 →
     (r.ckind ≠ 0 → exec .tokenDelivery s = .next landed) ∧
     (∀ pl, r.ckind = 0 → x.planeOf r.cons j = some pl → exec .tokenDelivery s = .next (landed.settle pl))) ∧
  (∀ (e : Endpoint) (c : Nat) (t : Token),
     (e.take c false t).slots = e.slots ++ [(c, t)] ∧ (e.take c false t).ord = e.ord + 1#48 ∧
     (e.take c false t).cfull = e.cfull ∧ (e.take c false t).cempty = e.cempty ∧
     (∀ o, o ∈ (e.take c false t).armed ↔ o ∈ e.armed ∧ o.1 ≠ e.ord))

/-- R32 to R36: with its operands at the heads of its inputs and room on its outputs, each node forwards as its kind says
and consumes what it forwards. R35: an intersect node with equal coordinates at its heads sends the coordinate and
both ordinals; with unequal ones and mode 0 it drops the lower. -/
def Obligations.NodesForward : Prop :=
  (∀ (s : State) (x : Launch) (r : NodeRec) (nd : Node) (t : Token) (v : Datum),
     let l := s.cur.l
     let n := s.cur.n
     let k := v.bits.toNat
     let room (o : Nat) (t : Token) : Prop := s.roomFor l (x.outChans 1 n o) t = true
     let sends (nd' : Node) (o : Nat) (t : Token) : State := (s.setNode l n nd').pushAll l (x.outChans 1 n o) t
     s.nodeReady l n = some (x, r, nd) → nd.eosOut = false →
     (r.nkind = 0 → nd.head 0 = some t → t.ctl? = none → nd.head 1 = some (.data v) → k ≤ r.npath → room k t →
       exec .steerNode s = .next (sends (nd.popAll [0, 1]) k t)) ∧
     (r.nkind = 1 → r.mode = true → r.eosp = 0 → mergeCtl 0 (nd.paths r.npath) = .none → nd.head (r.npath + 1) = some (.data v) →
       k ≤ r.npath → nd.head k = some t → t.ctl? = none → room 0 t →
       exec .mergeNode s = .next (sends (nd.popAll [k, r.npath + 1]) 0 t)) ∧
     (r.nkind = 2 → nd.head 0 = some t → t.ctl? = none → nd.head 1 = some (.data v) → k ≠ 0 → room 0 t →
       exec .filterNode s = .next (sends (nd.popAll [0, 1]) 0 t)) ∧
     (r.nkind = 2 → r.mode = false → nd.head 0 = some t → t.ctl? = none → nd.head 1 = some (.data v) → k = 0 →
       exec .filterNode s = .next (s.setNode l n (nd.popAll [0, 1]))) ∧
     (r.nkind = 4 → nd.head 0 = some t → t.ctl? = none → nd.buf = [] → room 0 t →
       exec .delayNode s = .next (sends { nd.pop 0 with buf := [], eosOut := false } 0 t))) ∧
  (∀ (s : State) (x : Launch) (r : NodeRec) (nd : Node) (a b : Datum),
     let l := s.cur.l
     let n := s.cur.n
     s.nodeReady l n = some (x, r, nd) → r.nkind = 3 → nd.eosOut = false → isectBad nd = none →
     nd.head 0 = some (.data a) → nd.head 1 = some (.data b) →
     (intOf a.tag a.bits = intOf a.tag b.bits →
       exec .intersectNode s = .next (s.nodeSend l n x (nd.takeCoord true true) [(0, .data a), (1, ordTok nd.posA), (2, ordTok nd.posB)])) ∧
     (intOf a.tag a.bits < intOf a.tag b.bits → r.mode = false → exec .intersectNode s = .next (s.setNode l n (nd.takeCoord true false))) ∧
     (intOf a.tag b.bits < intOf a.tag a.bits → r.mode = false → exec .intersectNode s = .next (s.setNode l n (nd.takeCoord false true))))

/-- R24, R57, R163, R334: a response is delivered from the oldest place of its channel, a timer's token when it is due, a
fault token from the exception queue's oldest entry whose input has a free slot. -/
def Obligations.OutsideTokensArrive : Prop :=
  ∀ (s : State) (l : Nat) (x : Launch) (a : ActorRec),
    let pl := s.cur.pl
    let p := s.plane pl
    (∀ q t, s.planeActs pl = some (l, x) → p.resp.find? (fun q => decide (q.ch = s.cur.n)) = some q → q.tok = some t →
      s.inputFree pl s.cur.n = true →
      exec .responseDelivery s = .next ((s.modPlane pl fun p => { p with resp := p.resp.erase q }).arriveAt pl s.cur.n t)) ∧
    (∀ ch due, s.planeActs pl = some (l, x) → s.actorOf pl = some (l, x, a) → p.timers[s.cur.k]? = some (ch, due) →
      due ≤ s.cycle x.glade → s.inputFree pl ch = true → a.dlin = none →
      exec .timerDue s = .next ((s.modPlane pl fun p => { p with timers := p.timers.eraseIdx s.cur.k }).arriveAt pl ch
        (.data ⟨.scalar, [due], .u64, 1#64⟩))) ∧
    (∀ (fs rest : List FaultRec) (f : FaultRec) (q : PlaneId) (ch : Nat), s.faults = fs ++ f :: rest →
      (∀ y ∈ fs, y.glade ≠ s.cur.g ∨ y.st ≠ .queued) → f.glade = s.cur.g → f.st = .queued → f.input = some (q, ch) →
      s.inputFree q ch = true → (s.planeActs q).isSome = true → (s.plane q).launch = some f.lid →
      exec .faultDelivery s = .next (((s.modFault f.fid fun r => { r with st := .delivered }).refill s.cur.g).arriveAt q ch
        (.fault f.fid f.words)))

/-- R28, R93, R305: a live launch whose graph is complete, with nothing left in a bank, is DONE and leaves its planes. -/
def Obligations.GraphCompletes : Prop :=
  ∀ (s : State) (x : Launch),
    let l := s.cur.l
    s.launch? l = some x → (x.st = .live ∨ x.st = .irrevocable) → x.onFabric = true → x.rung = none → s.graphDone x = true → s.bank = [] →
    exec .graphCompletion s = .next ((s.modLaunch l fun y => { y with st := .done, cuts := [], preAgain := false }).unload l)

/-! ### Streams -/

/-- R53, R54: with room in the window a write puts its element at the place of position HWM, sets its words full and
raises HWM; a close fixes END and answers the reads of positions that no element will reach with NULL. What the server
owes its window and descriptor it does first (assumption 22). -/
def Obligations.StreamWritesAndCloses : Prop :=
  ∀ (s s1 : State) (l : Nat) (x : Launch) (r : Req) (i : Nat) (st : Stream) (key : Nat) (imm : Bool),
    let pl := s.cur.pl
    let rid := s.cur.rid
    let s0 := s.catchUp l i
    s.streamReady pl rid = some (l, x, r, i, st) → st.closed = false →
    (r.kind = .swr false → before st.hwm st.bound = true → st.earlier st.hwm = none →
      (st.sr.isFifo = false → s0.holdsRange (streamPort x st.sr) x.asid (streamVa st.sr (st.offset st.hwm)) (eszBytes st.sr.esz) = false) →
      s0.streamKey l x st.sr (st.offset st.hwm) true = (.ok key imm, s1) → isPeer key = false →
      let bs := r.data.take (eszBytes st.sr.esz)
      let place := if st.sr.isFifo then bs ++ List.replicate (st.sr.stepBytes - bs.length) 0#8 else bs
      let home := s1.foldIn key place.length
      let put : State := { home with mem := Memory.writeBytes home.mem key place }
      let ws := if st.sr.isFifo || decide ((key + st.sr.stepBytes) % 8 = 0) || decide (8 ≤ st.sr.stepBytes) then elemWords st.sr key else []
      let full := ws.foldl (fun s w => s.setHomeBit w true) put
      exec .streamWrite s = .next (((((full.setStream l i { st with hwm := st.hwm + 1#32, stallCnt := 0, served := true }).retire pl rid).wake ws)).wake [])) ∧
    (r.kind = .swr false → before st.hwm st.bound = false → exec .streamWrite s = .next ((s.setReq pl rid .windowFull).wake [])) ∧
    (r.kind = .swr true → (st.sr.isFifo = true ∨ st.offset st.hwm % 8 = 0) →
      (st.sr.isFifo = false → (s0.keyAt x.asid (streamVa st.sr (st.offset st.hwm))).any isPeer = false) →
      let t := (s0.setStream l i { st with closed := true, endp := st.hwm, stallCnt := 0, served := true }).retire pl rid
      let late := t.streamReads l r.handle fun q =>
        (match q.st with | .parked | .readHeld _ => true | _ => false) && (match q.pos with | some (p, _) => !before p st.hwm | none => false)
      exec .streamClose s = .next (((late.foldl (fun s q => s.onReq q.1 q.2.rid fun s => (s.unpark q.1 q.2.rid).finish q.1 q.2 .null) t).wake []).wake []))

/-- R55 to R57: a read takes the position of its reader's cursor, which advances, and answers with the element of that
position; NULL past END of a closed stream; F_STREAM_BEHIND before TAIL. What the server owes its window and descriptor it
does first (assumption 22). -/
def Obligations.StreamReads : Prop :=
  ∀ (s s3 s4 : State) (l : Nat) (x : Launch) (r : Req) (i : Nat) (st : Stream) (key : Nat) (imm : Bool),
    let pl := s.cur.pl
    let rid := s.cur.rid
    let s0 := s.catchUp l i
    let j := s0.readerIx pl st
    let p := st.rdOf j
    let st1 : Stream := { st with rd := st.rd.set j (p + 1#32), served := true }
    let took : State := (s0.setStream l i st1).modReq pl rid fun q => { q with pos := some (p, j) }
    let r1 : Req := { r with pos := some (p, j) }
    let asked : State := took.modReq pl rid fun q => { q with b := 1#64 }
    s.streamReady pl rid = some (l, x, r, i, st) → r.kind = .srd → r.pos = none →
    (before p st.tail = true → r.b ≠ 1#64 →
      exec .streamRead s = .next (((took.reqFault pl r1 .streamBehind 0 (streamInfo r1.handle j p)).unforceAt l i j).wake [])) ∧
    (before p st.tail = false → st.closed = true → before p st.endp = false →
      exec .streamRead s = .next (((took.finish pl r1 .null).unforceAt l i j).wake [])) ∧
    (before p st.tail = false → (st.closed = false ∨ before p st.endp = true) → before p st.bound = true →
      (st.sr.isFifo = false → asked.holdsRange (streamPort x st.sr) x.asid (streamVa st.sr (st1.offset p)) (eszBytes st.sr.esz) = false) →
      asked.streamKey l x st.sr (st1.offset p) false = (.ok key imm, s3) → isPeer key = false →
      (∀ w ∈ elemWords st.sr key, s3.viewBit committedObs w = true) →
      let r2 : Req := { r1 with b := 1#64 }
      (s3.demandRead key = (false, s4) →
        exec .streamRead s = .next (((s4.finish pl r2 (streamToken ((tyOf (BitVec.ofNat 4 st.sr.etag)).getD .u64) r.wd
          (s4.view committedObs key (eszBytes st.sr.esz)))).unforceAt l i j).wake [])) ∧
      (s3.demandRead key = (true, s4) → exec .streamRead s = .next (((s4.reqFault pl r2 .memUncorr 0 0#64).unforceAt l i j).wake [])))

/-- R58, R63, R208: a release moves its reader's release cursor and TAIL, not past the read cursor; a forced release sets
the cursor and FORCED. R58: TAIL is the release cursor farthest behind HWM, and of equal ones that of the lowest
reader. -/
def Obligations.StreamCursors : Prop :=
  (∀ (s : State) (l : Nat) (x : Launch) (r : Req) (i : Nat) (st : Stream),
     let pl := s.cur.pl
     let rid := s.cur.rid
     let j := s.readerIx pl st
     let leaves (i' : Instr) (st' : Stream) : Prop := exec i' s = .next (((s.setStream l i st').retire pl rid).wake [])
     let bad (i' : Instr) : Prop := exec i' s = .next ((s.reqFault pl r .shape 0 0#64).wake [])
     s.streamReady pl rid = some (l, x, r, i, st) →
     (r.kind = .srel → st.forced.getLsbD j = true → leaves .streamRelease { st with served := true }) ∧
     (r.kind = .srel → st.forced.getLsbD j = false →
       let q := st.relOf j + r.b.setWidth 32
       (before (st.rdOf j) q = true → bad .streamRelease) ∧
       (before (st.rdOf j) q = false → leaves .streamRelease (Stream.retail { st with rel := st.rel.set j q, served := true }))) ∧
     (r.kind = .srelFrc →
       let k := r.b.toNat % 4
       let q : W32 := r.c.setWidth 32
       ((before q st.tail = true ∨ before st.hwm q = true) → bad .forcedRelease) ∧
       (before q st.tail = false → before st.hwm q = false →
         leaves .forcedRelease (Stream.retail { st with rel := st.rel.set k q, forced := (if before (st.rdOf k) q then st.forced ||| (1#4 <<< k) else st.forced &&& ~~~(1#4 <<< k)), served := true })))) ∧
  (∀ (st : Stream), ∃ j, j ≤ st.sr.nrd ∧ st.retail.tail = st.relOf j ∧
     (∀ k ≤ st.sr.nrd, (st.hwm - st.relOf k).toNat ≤ (st.hwm - st.relOf j).toNat) ∧
     ∀ k < j, (st.hwm - st.relOf k).toNat < (st.hwm - st.relOf j).toNat)

/-- R59, R62, R77, R91, R284: a frame that lies wholly before TAIL, with no read under way, is emptied and given up, its
elements going first to the cut's save or the host's log; while one of its pages is away the frame waits (assumption 22); a write parked longer than STALL raises F_STREAM_STALL, which
names the reader that holds the tail, and the count starts again while the write stays parked; a read that its server has
held longer than the park timeout faults with code 1. In each the exec of the step answers a next state. -/
def Obligations.StreamServerSteps : Prop :=
  ∀ (s : State) (x : Launch) (st : Stream),
    let l := s.cur.l
    let i := s.cur.n
    s.launch? l = some x → x.streams[i]? = some st →
    (let next := st.sr.frameStart st.front + BitVec.ofNat 32 (2 ^ st.sr.log2e)
     let s0 := s.catchUp l i
     let es := s0.frontElems x st
     let kept := match x.cutTail i with | some t => if st.sr.hostp = true ∨ before (next - 1#32) t = true then [] else es | none => []
     before st.tail next = false → x.st.isLive = true → s.slotThere x st.sr st.fslot = true →
     s.streamReads l st.sr.handle (fun q => decide (q.b = 1#64) && (match q.pos with | some (p, _) => before p next | none => false)) = [] →
     exec .frameRecycle s = .next (((((s0.emptySlot x st.sr st.fslot).2.setStream l i { st with front := next, fslot := (st.fslot + 1) % st.sr.nfrm, save := st.save ++ kept, log := st.log ++ (if st.sr.hostp then es else []), attempt := st.attempt.filter fun q => !before q.1 next }).wake
       (s0.slotParked x st.sr st.fslot)).supply l i).wake [])) ∧
    (∀ pl r, s.parkedWrite l st.sr.handle = some (pl, r) → st.sr.stallLimit < st.stallCnt →
      let f := s.raise .streamStall l (some pl) pl (.stall pl r.rid) 0 false r.block.toNat r.slot 0 0 (streamInfo st.sr.handle st.tailOf.1 st.tail)
      let t := f.2.setStream l i { st with stallCnt := 0 }
      exec .streamStall s = .next (if (t.fault? f.1).map (·.st) = some FSt.reported then t.dropFault f.1 else t)) ∧
    (∀ r g t, s.req? s.cur.pl s.cur.rid = some r → (s.plane s.cur.pl).launch = some l → s.glade? x.glade = some g → r.st = .readHeld t →
      r.budget ≠ 255#8 → g.parkTimeout < (g.cycle - t).toNat →
      let faults (info : W64) : Prop := exec .heldStreamReadTimeout s = .next (s.reqFault s.cur.pl r .parkBudget 1 info)
      (∀ k y p j, x.streamOf r.handle = some (k, y) → r.pos = some (p, j) →
        faults (if y.sr.isFifo = true then 0#64 else BitVec.ofNat 64 (streamVa y.sr (y.offset p)))) ∧
      ((x.streamOf r.handle = none ∨ r.pos = none) → faults 0#64))

/-- R58, R64: the server takes a host producer's filled HWM word and a host reader's filled cursor word, and empties the
word with its own contents. A reader's release cursor goes where R58 lets it; while a forced release stands the read
cursor alone is taken, and FORCED ends once it has come to the release cursor. What becomes of a word whose release
cursor lies past its read cursor is the model's choice (assumption 42). -/
def Obligations.HostEndpointSteps : Prop :=
  (∀ (s : State) (x : Launch) (st : Stream) (a w : Nat),
     let l := s.cur.l
     let i := s.cur.n
     let j := s.cur.k
     let s0 := s.catchUp l i
     let put (k : Nat) (y : Stream) : State := s0.consumeWord l i k a y
     s.launch? l = some x → x.streams[i]? = some st →
     (s0.descWord x i 1 = some (a, w, true) → st.sr.hostp = true →
       exec .hostHwmPublish s = .next ((put 1 { st with hwm := BitVec.ofNat 32 w, served := true }).wake [])) ∧
     (s0.descWord x i (3 + j) = some (a, w, true) → st.sr.hostr.getLsbD j = true → j ≤ st.sr.nrd →
       exec .hostReaderRelease s =
         .next ((put (3 + j) { st.hostCursors j (BitVec.ofNat 32 w) (BitVec.ofNat 32 (w / 2 ^ 32)) with served := true }).wake []))) ∧
  (∀ (s : State) (x : Launch) (l i k a : Nat) (y : Stream), s.launch? l = some x →
     s.consumeWord l i k a y = ((((s.foldIn a 8).setHomeBit (a / 8) false).setStream l i y).putDesc x i y (fun n => n == k)).wake [a / 8]) ∧
  (∀ (st : Stream) (j : Nat) (rd rel : W32), j ≤ st.sr.nrd → st.sr.nrd < st.rd.length → st.sr.nrd < st.rel.length → st.sr.nrd < 4 →
     let t := st.hostCursors j rd rel
     (before rd rel = true → t = st) ∧
     (before rd rel = false → t.rdOf j = rd ∧ t.hwm = st.hwm ∧
       (st.forced.getLsbD j = false → t.relOf j = rel ∧ t.tail = t.tailOf.2 ∧ t.forced = st.forced) ∧
       (st.forced.getLsbD j = true → before rd (st.relOf j) = true → t.relOf j = st.relOf j ∧ t.tail = st.tail ∧ t.forced = st.forced) ∧
       (st.forced.getLsbD j = true → before rd (st.relOf j) = false → t.relOf j = rel ∧ t.forced.getLsbD j = false)))

/-! ### Requests at the home unit -/

/-- R67 to R70, R74, R200, R203, R209 to R211, R272: a request that may be performed, whose address translates and whose
words are in the state its form needs, is performed at once: loads answer what the launch sees, stores write, the
full/empty forms set or clear the bits of the covered words; waiters on the words whose
state changed are scanned. A storing form to
an IMM page of a launch that is not irrevocable is held instead (R83). R72, R73: a waiting form whose words are not in
the state it needs, with a budget and room in its glade's pool, parks a record and stays in its place, in the lowest free
place of the pool (assumption 42). R208 to R211, R220 to R222: a fence, SBAR or XFENCE leaves the stream once what it waits
for has been performed, with what its scope or classes write home; PREF brings a line nearer or is dropped and counted;
WBACK writes home what the glade's bank owes the line; SPOS answers a word of the descriptor; SETBUD sets the budget of the
requests after it. That XFENCE to FAB takes the banks' copies away is how the model lets its actors observe them
(assumption 43). -/
def Obligations.RequestsArePerformed : Prop :=
  (∀ (s s1 : State) (l : Nat) (x : Launch) (r : Req) (qs : List (Nat × Nat × Bool)),
     let pl := s.cur.pl
     let ps := partsOf r.bytes qs
     let s2 := s1.flushFor pl r.kind ps
     let o := actorObs s2 pl l
     let bits := s2.readBits o ps
     let tok := respToken s2 pl r (s2.readParts o ps) bits
     let signed := s2.signParts l ps
     let ends (t : State) (ws : List Nat) : Prop := exec .homeAccess s = .next ((t.wake ws).twinCompare l false)
     s.ready? pl s.cur.rid = some (l, x, r) → s.holdsRange (tilePort pl) x.asid (va48 r.a) r.bytes = false →
     s.xlateFor l x (tilePort pl) (va48 r.a) r.bytes r.kind.writes = (.ok qs, s1) →
     s1.cur.flag = false → s1.cur.flag2 = false → s1.fo.twin = none →
     (∀ p ∈ ps, isPeer p.key = false ∧ (isHost p.key = false ∨ r.kind.hostOk = true)) →
     s1.wordsOk r.kind ps = true → (r.kind.writes = true → s1.userDesc pl ps = false) →
     (x.irrev = false → r.kind.anchors = true → r.kind ∈ [.st, .stf, .sts, .fempty, .ldc] → (∃ p ∈ ps, p.imm = true) →
       ends (s1.holdAnchor l pl r ((partWords ps).map fun w => w * 8)) []) ∧
     ((x.irrev = true ∨ r.kind.anchors = false ∨ ∀ p ∈ ps, p.imm = false) → s2.condHolds (actorObs s2 pl l) r.kind ps = false →
       ends ((s2.signParts l (if r.budget = 0#8 then ps else [])).parkReq pl l x r (formOf r.kind) ((partWords ps).map fun w => w * 8) (va48 r.a)) []) ∧
     ((x.irrev = true ∨ r.kind.anchors = false ∨ ∀ p ∈ ps, p.imm = false) →
     s2.condHolds (actorObs s2 pl l) r.kind ps = true →
     (x.irrev = true ∨ r.kind.entries = false ∨ s2.overQuota l ((ps.filter fun p => !p.imm).map fun p => p.key / 64) = false) →
     (r.kind = .ld → ends (signed.finish pl r tok) []) ∧
     (r.kind = .ldw → ends (signed.finish pl r tok) []) ∧
     (r.kind = .feq → ends (signed.finish pl r (.data ⟨.scalar, [bitsMask bits], .u64, 1#64⟩)) []) ∧
     (r.kind = .ldc → ends ((signed.fillParts pl l false ps).finish pl r tok) (flips ps bits false)) ∧
     (r.kind = .st → ends ((s2.writeParts pl l true ps r.data).finish pl r .null) []) ∧
     (r.kind = .stf → ends (((signed.writeParts pl l false ps r.data).fillParts pl l true ps).finish pl r .null) (flips ps bits true)) ∧
     (r.kind = .sts → ends (((s2.writeParts pl l false ps r.data).fillParts pl l true ps).finish pl r .null) (flips ps bits true)) ∧
     (r.kind = .fempty → ends ((s2.fillParts pl l false ps).finish pl r .null) (flips ps bits false)))) ∧
  (∀ (ps : List Part) (bits : List Bool) (f : Bool) (w : Nat), w ∈ flips ps bits f ↔ (w, !f) ∈ (partWords ps).zip bits) ∧
  (∀ (s : State) (l : Nat) (x : Launch) (r : Req) (form : Nat) (keys : List Nat) (va : Nat) (g : Glade) (pl : PlaneId),
     (r.budget = 0#8 → r.resp.isSome = true → s.parkReq pl l x r form keys va = s.finish pl r .null) ∧
     (r.budget = 0#8 → r.resp = none → s.parkReq pl l x r form keys va = s.reqFault pl r .parkBudget 0 (vaInfo r.a)) ∧
     (r.budget ≠ 0#8 → s.glade? x.glade = some g → g.parkRoom = false →
       s.parkReq pl l x r form keys va = s.reqFault pl r .parkFull 0 (vaInfo r.a)) ∧
     (r.budget ≠ 0#8 → s.glade? x.glade = some g → g.parkRoom = true →
       ∃ rcd : ParkRec, rcd.va = va / 8 * 8 ∧ rcd.asid = x.asid ∧ rcd.nw = keys.length ∧ rcd.pl = pl ∧ rcd.rid = r.rid ∧ rcd.lid = l ∧
         rcd.ver = x.ver ∧ rcd.left = r.budget.toNat ∧ rcd.stamp = g.cycle ∧ rcd.form = form ∧ rcd.fid = none ∧
         s.parkReq pl l x r form keys va = ((((s.park rcd keys).setReq pl r.rid .parked).count pl 9 r.block r.slot).cycleScan keys))) ∧
  (∀ (s : State) (r : ParkRec) (keys : List Nat) (g : Glade), s.glade? r.glade = some g →
     ∃ q : ParkRec, q.slot = g.freeRec ∧ q.va = r.va ∧ q.left = r.left ∧
       (s.park r keys).glade? r.glade = some { g with park := g.park ++ [q] }) ∧
  (∀ (s s1 : State) (l : Nat) (x : Launch) (r : Req) (key : Nat) (imm : Bool),
     let pl := s.cur.pl
     let port := tilePort pl
     let pre := reqsBefore (s.plane pl).rq r.rid
     let ends (t : State) : Prop := exec .homeAccess s = .next (t.retire pl r.rid)
     s.ready? pl s.cur.rid = some (l, x, r) →
     (∀ sc, r.kind = .fence sc → pre = [] → ends (if sc = .dev ∨ sc = .sys then s.flushPlane pl else s)) ∧
     (r.kind = .sbar → (pre = [] ∨ r.a = 0#64) → ends s) ∧
     (∀ src dst, r.kind = .xfence src dst → s.fenceDone pl pre r.kind = true →
       let t := if src = .fab then s.flushPlane pl else s
       ends (if dst = .fab then t.flushBank false (fun b => decide (b.glade = t.gladeOf pl.col) && b.copy.isSome) else t)) ∧
     ((s.fenceDone pl pre (.xfence .fab .cpy) = true ↔ pre = []) ∧
      (s.fenceDone pl pre (.xfence .lnk .fab) = true ↔ ∀ q ∈ pre, s.linkOp pl q = false) ∧
      (s.fenceDone pl pre (.xfence .cpy .fab) = true ↔ (∀ q ∈ pre, q.kind ≠ .copy) ∧ ∀ c ∈ s.copies, c.pl ≠ pl) ∧
      (s.fenceDone pl pre (.xfence .mtx .fab) = true ↔ (∀ q ∈ pre, q.kind ≠ .mmpost) ∧
        ∀ g ∈ s.glades, ∀ m ∈ g.2.seqr, m.pl = pl → m.st = .completed) ∧
      (s.fenceDone pl pre (.xfence .hst .fab) = true ↔ s.host.held = [])) ∧
     (∀ bank, r.kind = .pref bank → s.invalHolds port x.asid (va48 r.a) = false →
       (s.xlate port x.asid (va48 r.a) false = (.ok key imm, s1) →
         let g := s1.gladeOf pl.col
         ends (if bank = true ∧ s1.banked g (key / 64 * 64) = true then (s1.bringLine g (key / 64) imm).touch pl (key / 64) else s1)) ∧
       (∀ lvl, s.xlate port x.asid (va48 r.a) false = (.notPresent lvl, s1) → (s1.port port).drops ≠ BitVec.allOnes 48 →
         ends (s1.setPort port { s1.port port with drops := (s1.port port).drops + 1#48 }))) ∧
     (r.kind = .wback → s.invalHolds port x.asid (va48 r.a) = false → s.xlate port x.asid (va48 r.a) false = (.ok key imm, s1) →
       let g := s.gladeOf pl.col
       let here (b : BankLine) : Bool := decide (b.glade = g) && decide (b.line = key / 64)
       let home := s1.flushBank true fun b => here b && b.owes
       ends (if s1.bank.any here = true then (home.bringLine g (key / 64) imm).touch pl (key / 64) else home)) ∧
     (∀ i st, s.streamReady pl s.cur.rid = some (l, x, r, i, st) → r.kind = .spos →
       exec .homeAccess s = .next ((s.setStream l i { st with served := true }).finish pl r
         (.data ⟨.scalar, [(st.words x.glade x.asid).getD (r.b.toNat % 8) 0#64], .u64, 1#64⟩)))) ∧
  (∀ (s : State) (pl : PlaneId) (f : Firing) (slot : Nat) (r : Req),
     (r.kind = .setbud → s.commitEff pl f slot (.request r) = s.modPlane pl fun p => { p with budget := r.a.setWidth 8 }) ∧
     (r.kind ≠ .setbud → ∃ q : Req, q.kind = r.kind ∧ q.a = r.a ∧ q.b = r.b ∧ q.budget = (s.plane pl).budget ∧
       ((s.commitEff pl f slot (.request r)).plane pl).rq = (s.plane pl).rq ++ [q]))

/-- R205, R206: a returning atomic answers the old value and writes the new one; an update acts as a delta. A CAS that
does not find its comparand writes nothing. R205: the new values of the returning atomics on numbers of w bits. -/
def Obligations.AtomicsArePerformed : Prop :=
  (∀ (s s1 : State) (l : Nat) (x : Launch) (r : Req) (va key : Nat) (imm : Bool) (op : AOp) (uop : UOp) (d : Bool),
     let pl := s.cur.pl
     let ps := partsOf r.bytes [(va, key, imm)]
     let ends (i : Instr) (t : State) : Prop := exec i s = .next ((t.wake []).twinCompare l false)
     s.ready? pl s.cur.rid = some (l, x, r) → s.holdsRange (tilePort pl) x.asid (va48 r.a) r.bytes = false →
     s.xlateFor l x (tilePort pl) (va48 r.a) r.bytes r.kind.writes = (.ok [(va, key, imm)], s1) →
     s1.cur.flag = false → s1.cur.flag2 = false → s1.fo.twin = none → isPeer key = false → (imm = false ∨ x.irrev = true) →
     (r.kind = .atom op d → s1.wordsOk r.kind ps = true →
       let w := 8 * dBytes d
       let s2 := s1.flushFor pl r.kind ps
       let old := leNat (s2.readParts (actorObs s2 pl l) ps)
       let a := r.b.toNat % 2 ^ w
       let signed := s2.signParts l ps
       let tok := scalarToken r.wd (r.resp.bind fun c => signed.inTag pl c) old
       s1.userDesc pl ps = false →
       ((op = .cas ∧ old ≠ a) → ends .atomicPerform (signed.finish pl r tok)) ∧
       (¬(op = .cas ∧ old ≠ a) → (imm = true ∨ x.irrev = true ∨ s2.overQuota l [key / 64] = false) →
         ends .atomicPerform ((signed.putEff l (cutIndex (signed.plane pl).recorded) imm va
           (.bytes key (toLE (dBytes d) (atomNew op w old a (r.c.toNat % 2 ^ w))))).finish pl r tok))) ∧
     (r.kind = .upd uop d → isArg key = false → s1.userDesc pl ps = false → (imm = true ∨ x.irrev = true ∨ s1.overQuota l [key / 64] = false) →
       ends .updatePerform ((s1.actorEff pl l imm va (.delta uop d key r.b)).finish pl r .null))) ∧
  (∀ (w old x y : Nat), old < 2 ^ w → x < 2 ^ w → y < 2 ^ w →
     (BitVec.ofNat w (atomNew .add w old x y) = BitVec.ofNat w old + BitVec.ofNat w x) ∧
     (BitVec.ofNat w (atomNew .and w old x y) = BitVec.ofNat w old &&& BitVec.ofNat w x) ∧
     (BitVec.ofNat w (atomNew .or w old x y) = BitVec.ofNat w old ||| BitVec.ofNat w x) ∧
     (BitVec.ofNat w (atomNew .xor w old x y) = BitVec.ofNat w old ^^^ BitVec.ofNat w x) ∧
     (BitVec.ofNat w (atomNew .min w old x y) = if (BitVec.ofNat w old).sle (BitVec.ofNat w x) then BitVec.ofNat w old else BitVec.ofNat w x) ∧
     (BitVec.ofNat w (atomNew .max w old x y) = if (BitVec.ofNat w x).sle (BitVec.ofNat w old) then BitVec.ofNat w old else BitVec.ofNat w x) ∧
     atomNew .swap w old x y = x ∧ atomNew .cas w old x y = if old = x then y else old)

/-- R85, R132, R203: a plain store to an IMM page by an irrevocable launch writes its bytes at its key; every other byte of
memory keeps the value that it has once what has been committed on that line has been folded home, and where nothing of
the line waits to be folded, its own. -/
def Obligations.StoreFrame : Prop :=
  ∀ (s s1 : State) (l : Nat) (x : Launch) (r : Req) (va key : Nat),
    let pl := s.cur.pl
    let ps := partsOf r.bytes [(va, key, true)]
    s.Inv → s.ready? pl s.cur.rid = some (l, x, r) → s.holdsRange (tilePort pl) x.asid (va48 r.a) r.bytes = false →
    s.xlateFor l x (tilePort pl) (va48 r.a) r.bytes r.kind.writes = (.ok [(va, key, true)], s1) →
    s1.cur.flag = false → s1.cur.flag2 = false → s1.fo.twin = none → isPeer key = false → isHost key = false → x.irrev = true →
    s1.wordsOk r.kind ps = true → s1.userDesc pl ps = false → r.kind = .st → r.bytes ≤ 64 →
    s1.banked (s1.gladeOf pl.col) (key / 64 * 64) = false → s.barq = [] →
    ∃ t, exec .homeAccess s = .next t ∧
      (∀ a, a < key ∨ key + r.bytes ≤ a → Memory.read t.mem a = Memory.read (s1.foldLine (key / 64)).mem a) ∧
      ((∀ e ∈ s1.under, e.committed = true → e.eff.line ≠ key / 64) → ∀ a, a < key ∨ key + r.bytes ≤ a → Memory.read t.mem a = Memory.read s.mem a) ∧
      ∀ k < r.bytes, Memory.read t.mem (key + k) = r.data.getD k 0#8

/-- R79, R84, R85, R272, R325: a line that leaves a bank takes home, in the order of the bank's lines, the bytes that stores left
in it and the delta of its update line, with the commit test of each irrevocable launch whose TX writes it holds; a fold performs the committed entries of a line on the home line and takes
SHADOWED away where no entry is left, and in a frame that is being scrubbed discards them. R74: a record parked longer
than its glade's timeout raises F_PARK_BUDGET. -/
def Obligations.LinesGoHome : Prop :=
  ∀ (s : State),
    (let hit (b : BankLine) : Bool := decide (b.glade = s.cur.g) && decide (b.line = s.cur.n)
     exec .updateLineMerge s = .next ((s.bank.filter hit).foldl
       (fun s b => match b.lid with
         | some l => b.effs.foldl (fun s e => s.putEff l b.cut false b.va e) s
         | none => b.tx.foldl (fun s l => s.commitTest l b.va) (b.effs.foldl (fun s e => s.direct e) s))
       { s with bank := s.bank.filter fun b => !hit b })) ∧
    (let hit (e : UEnt) : Bool := e.committed && decide (e.eff.line = s.cur.n)
     let bare : State := { s with under := s.under.filter fun e => !hit e }
     let ends (t : State) : Prop := exec .fold s = .next (t.setSide s.cur.n { Store.getD t.side s.cur.n {} with shadowed := false })
     s.under.filter hit ≠ [] → (∀ e ∈ s.under, e.eff.line = s.cur.n → e.committed = true) →
       (s.scrubbing s.cur.n = false → ends ((s.under.filter hit).foldl (fun s e => s.homeEff e.eff) bare)) ∧
       (s.scrubbing s.cur.n = true → ends bare)) ∧
    (∀ g, s.glade? s.cur.g = some g →
      exec .parkTimeoutCheck s = .next ((g.park.filter fun r => r.fid.isNone && decide (r.left ≠ 255) && decide (g.parkTimeout < (g.cycle - r.stamp).toNat)).foldl
        (fun s r => s.budgetFault r 1) s))

/-! ### Launch transactions and recovery -/

/-- R83, R85, R87, R90, R93: a held launch that is the oldest becomes irrevocable, its entries go home and its held
operations, on its planes or scanned out, are free; a launch that may commit commits; an OLDEST_ONLY launch that is the oldest runs again from its
record. R306: a launch whose cadence is due takes a SNAP cut. R84, R85: after the commit of one launch none of its
entries is uncommitted, no other launch's entry has changed, and the launch is COMMITTED. -/
def Obligations.LaunchesProceed : Prop :=
  (∀ (s : State) (x : Launch),
     let l := s.cur.l
     s.launch? l = some x →
     (x.st = .held → s.isOldest l x = true →
       let free (r : Req) : Req := match r.st with | .anchorHeld | .quotaHeld => { r with st := .waiting } | _ => r
       let t := (s.foldOwn l).modLaunch l fun y => { y with st := .irrevocable, irrev := true }
       let go (p : Plane) : Plane := if p.launch = some l then { p with rq := p.rq.map free } else p
       let here : State := { t with planes := Store.mapV (fun _ p => go p) t.planes, copies := t.copies.map fun c => if c.lid = l ∧ c.held = true then { c with waiting := false, held := false } else c }
       let u : State := here.modLaunch l fun y => { y with scanned := y.scanned.map fun q => (q.1, { q.2 with actors := q.2.actors.map fun a => { a with plane := go a.plane } }) }
       exec .anchorRelease s = .next (u.wake (s.feWords (s.under.filter fun e => decide (e.lid = l) && !e.committed)))) ∧
     (s.members x = [(l, x)] → s.mayCommit [(l, x)] = true → s.fo.twin = none →
       exec .launchCommit s = .next ((s.commitOne l x).1.wake (s.commitOne l x).2)) ∧
     (x.st = .oldestOnly → x.rung = none → s.isOldest l x = true → exec .oldestOnlyStart s = .next (s.replay l)) ∧
     (x.takesCuts = true → x.cad ≠ 0 → x.cadTaken < (s.cycle x.glade - x.startCycle).toNat / (x.cad * 65536) →
       exec .snapCadence s = .next ((s.modLaunch l fun y => { y with cadTaken := (s.cycle x.glade - x.startCycle).toNat / (x.cad * 65536) }).takeCut l .snap))) ∧
  (∀ (s : State) (l : Nat) (x : Launch), s.launch? l = some x →
     let t := (s.commitOne l x).1
     (∀ e ∈ t.under, e.lid = l → e.committed = true) ∧ (∀ e ∈ t.under, e.lid ≠ l → e ∈ s.under) ∧
     ∃ y, t.launch? l = some y ∧ y.st = .committed)

/-- R81, R90, R91, R93, R335, R338: of the rungs that are pending the highest is taken: rung 2 rolls the launch back; rung 3
aborts its whole group, whose members that had not aborted before replay at once; rung 4, or rung 2 or 3 where the launch
is irrevocable or its budget is spent, fails the group, and so does rung 3 where that holds of another member that has
started. A soft error asks for rung 2. R93, R338: rung 4 leaves the launch FAILED with the words of its fault as its
report, without an entry that is not committed. That a group fails with one member is the model's reading (assumption
20). -/
def Obligations.RungsAreTaken : Prop :=
  (∀ (s : State) (x : Launch) (r : Nat),
     let l := s.cur.l
     let last (y : Launch) : Prop := y.irrev = true ∨ y.rbud ≤ y.used
     let started := (s.members x).filter fun q => q.2.st.isLive
     let ends (t : State) : Prop := exec .recoveryRung s = .next ((t.reload l).resumeTry l)
     s.launch? l = some x →
     (x.rung = some r → rungApplies x r = true →
       ((r = 4 ∨ (2 ≤ r ∧ last x) ∨ (r = 3 ∧ ∃ q ∈ started, last q.2)) →
         ends ((s.members x).foldl (fun t q => if q.2.st.isLive ∨ q.2.st = .waiting then t.failLaunch q.1 q.2 (x.rungFid.getD 0) else t) s)) ∧
       (r = 2 → ¬last x → ends (s.rollback l x)) ∧
       (r = 3 → ¬last x → (∀ q ∈ started, ¬last q.2) →
         ends (started.foldl (fun t q => if q.2.aborts = 0 then t.replay q.1 else t) (started.foldl (fun t q => t.abort q.1 q.2) s)))) ∧
     (x.st.isLive = true →
       exec .fSoft s = .next ((s.raise .soft l none s.cur.pl (.launch l) 0 false 0 0 0 0 0#64).2.modGlade x.glade fun g => { g with softs := g.softs + 1 }))) ∧
  (∀ (s : State) (l : Nat) (x : Launch) (fid : Nat) (f : FaultRec), s.launch? l = some x → s.fault? fid = some f →
     let t := s.failLaunch l x fid
     (∃ y, t.launch? l = some y ∧ y.st = .failed ∧ y.report = some (9, f.words)) ∧ ∀ e ∈ t.under, e.lid = l → e.committed = true)

/-- R342: a blaze that has reached every input of a quiet actor copy, or of a node, makes it record its state and forward
the blaze; the sequencer records with the last poster, and the cut ends when every element has recorded. R96, R98,
R99: arming puts an ordinal into a comparator that has room; a counter's overflow leaves a sample in its glade's ring,
or counts it as lost; the debugger drains the ring (R100; that it does so in a step of its own is assumption 46); a trail walk opens its window and, past it, leaves its report. -/
def Obligations.BlazesAndWatching : Prop :=
  (∀ (s : State) (x : Launch) (n : Nat),
     let l := s.cur.l
     let k := s.cur.cut
     s.launch? l = some x → x.onFabric = true →
     (∀ pl, s.cur.elem = .actor pl → x.blazeOf pl (s.plane pl) = some (k, n) → (s.plane pl).launch = some l → s.quiet pl = true →
       exec .blazeArrival s = .next (((s.recordActor l x pl k n).recordMatrix l k).finishCut l k)) ∧
     (∀ m, s.cur.elem = .node m → m < x.img.nodes.length →
       blazeAt x.cuts (.node m) ((x.nodeIns m).map fun q => Node.inp (Store.getD x.nodes m {}) q.1) = some (k, n) →
       exec .blazeArrival s = .next (((s.recordNode l x m k n).recordMatrix l k).finishCut l k))) ∧
  (∀ (s : State) (l : Nat) (x : Launch) (ar : ActorRec),
     let pl := s.cur.pl
     (∀ q ch, s.cur.ep = .actor q ch → s.actorOf q = some (l, x, ar) → s.mayDebug x = true →
       exec .breakpointComparatorArm s = .next (s.modPlane q fun p => { p with ins := Store.set p.ins ch ((p.inp ch).arm (s.cur.val.setWidth 48) s.cur.flag) })) ∧
     (∀ e : Endpoint, e.armed.length < 4 → ∀ o b, (e.arm o b).armed = e.armed ++ [(o, b)]) ∧
     (∀ e : Endpoint, 4 ≤ e.armed.length → ∀ o b, e.arm o b = e) ∧
     (s.cur.flag = false → ∀ t v g, s.tile s.cur.n = t → (Store.getD t.perf s.cur.k {}).ovf = some v → s.glade? (s.gladeOf v.pl.col) = some g →
       let put (g : Glade) : State := (s.setTile s.cur.n { t with perf := Store.set t.perf s.cur.k { Store.getD t.perf s.cur.k {} with ovf := none } }).setGlade (s.gladeOf v.pl.col) g
       (g.samples.length < sampleRing → exec .eventCounterOverflow s = .next (put
         { g with samples := g.samples ++ [{ blk := v.blk, slot := v.slot, pl := v.pl, ctr := s.cur.k, ver := v.ver, cycle := v.cycle, ticket := v.ticket }] })) ∧
       (sampleRing ≤ g.samples.length → exec .eventCounterOverflow s = .next (put { g with lost := g.lost + 1 }))) ∧
     (s.cur.flag = true → ∀ g, s.glade? s.cur.g = some g → (s.tenant g.tenant).confidential = false →
       exec .eventCounterOverflow s = .next (State.setGlade { s with debugger := s.debugger ++ g.samples.map Sample.words } s.cur.g { g with samples := [] })) ∧
     (∀ y, s.launch? s.cur.l = some y → s.mayDebug y = true → s.cur.n ≠ 0 →
       let e : Elem := if s.cur.flag2 then .actor pl else s.cur.elem
       (s.trail = none → exec .trailWalk s = .next { s with trail := some { lid := s.cur.l, start := e, back := s.cur.flag, window := s.cur.n, since := s.cycle y.glade, base := s.chanCounts y } }) ∧
       (∀ t : Trail, s.trail = some t → t.lid = s.cur.l → t.start = e → t.back = s.cur.flag → t.window = s.cur.n → t.reason = none →
         (t.last = none → exec .trailWalk s = .next s) ∧
         (t.last ≠ none →
           let w := s.trailGo y t 64 e []
           exec .trailWalk s = .next { s with trail := some { t with lines := w.1, reason := some w.2 } }))))

/-! ### Barriers, copies, the matrix sequencer -/

/-- R212 to R214: BARINIT sets the object; BAREXP raises PEND; BARARV counts an arrival; a phase completes with ARR = CNT
and PEND = 0: PHASE goes up by one, ARR to 0, and the held BARWTs whose phase has passed answer the new PHASE, in the
order in which they came; a BARWT answers PHASE when its phase has passed and is held before; a request held too long
faults. An object is written home behind what has been committed on its line (R273).
R213: PHASE has passed t, as the four bits see it, at a distance of 1 to 8, and a wait opens at exactly those. -/
def Obligations.BarriersPerform : Prop :=
  (∀ (s s1 : State) (l : Nat) (x : Launch) (r : Req) (key : Nat),
     let pl := s.cur.pl
     let port := tilePort pl
     let va := va48 r.a / 16 * 16
     let o := s1.bar key
     let ends (t : State) : Prop := exec .barrierPerform s = .next (t.wake [])
     (s.ready? pl s.cur.rid = some (l, x, r) → s.invalHolds port x.asid va = false → s.xlate1 l x port va 16 r.kind.writes = (.ok key true, s1) →
       isPeer key = false → isHost key = false →
       (r.kind = .barinit → r.b.toNat % 2 ^ 16 ≠ 0 → o.init = false → s1.barHeld key = [] →
         let put := s1.barDo l pl key fun q => { pend := 0, ver := x.ver.toNat, cnt := r.b.toNat % 2 ^ 16, arr := 0, phase := (if q.init then q.phase else 0), init := true }
         let named : State := { put with bars := if put.bars.contains key then put.bars else key :: put.bars }
         ends ((named.modLaunch l fun y => { y with bars := if y.bars.contains key then y.bars else key :: y.bars }).finish pl r .null)) ∧
       (o.init = true → o.ver = x.ver.toNat →
         (r.kind = .barexp → r.b.toNat < 2 ^ 48 →
           ends ((((s1.unbar pl r.rid).barDo l pl key fun o => { o with pend := (o.pend + r.b.toNat) % 2 ^ 48 }).finish pl r .null).phaseCheck key)) ∧
         (r.kind = .bararv → o.arr ≠ o.cnt →
           ends ((((s1.unbar pl r.rid).barDo l pl key fun o => { o with arr := o.arr + 1 }).finish pl r .null).phaseCheck key)) ∧
         (r.kind = .barwt → o.open_ (r.a.toNat % 16) = true → ends (((s1.unbar pl r.rid).finish pl r (phaseToken o)).phaseCheck key)) ∧
         (r.kind = .barwt → o.open_ (r.a.toNat % 16) = false → r.budget ≠ 0#8 → s1.barCount (edgeOfKey key) < barDepth →
           ends (({ s1 with barq := s1.barq ++ [⟨edgeOfKey key, .request pl r.rid, key⟩] } : State).setReq pl r.rid
             (.barHeld (s1.cycle (s1.gladeOf pl.col))))))) ∧
     (∀ e q rid t g, (s.barq.filter fun e => decide (e.edge = s.cur.n))[s.cur.k]? = some e → e.owner = .request q rid →
       s.req? q rid = some r → (s.plane q).launch = some l → s.launch? l = some x → s.glade? x.glade = some g → r.st = .barHeld t →
       r.budget ≠ 255#8 → g.parkTimeout < (g.cycle - t).toNat →
       exec .barrierWaitQueueTimeout s = .next ((s.unbar q rid).reqFault q r .parkBudget 1 (vaInfo r.a)))) ∧
  (∀ (s : State) (l : Nat) (pl : PlaneId) (key : Nat) (f : BarObj → BarObj),
     (s.barDo l pl key f).mem = Memory.writeBytes (s.foldIn key 16).mem key (f (s.bar key)).bytes) ∧
  (∀ (s : State) (key : Nat),
     let o := s.bar key
     let next : BarObj := { o with phase := (o.phase + 1) % 2 ^ 16, arr := 0 }
     (o.init = true → o.arr = o.cnt → o.pend = 0 →
       s.phaseCheck key = (s.barHeld key).foldl (fun t q =>
           if q.2.kind = .barwt ∧ next.open_ (q.2.a.toNat % 16) = true then
             t.onReq q.1 q.2.rid fun t => (t.unbar q.1 q.2.rid).finish q.1 q.2 (.data ⟨.scalar, [BitVec.ofNat 64 next.phase], .u64, 1#64⟩)
           else t) (s.setBar key next) ∧
       (s.setBar key next).mem = Memory.writeBytes (s.foldIn key 16).mem key next.bytes) ∧
     ((o.init = false ∨ o.arr ≠ o.cnt ∨ o.pend ≠ 0) → s.phaseCheck key = s)) ∧
  (∀ (o : BarObj) (t : Nat), t < 16 →
     (o.open_ t = true ↔ ∃ d, 1 ≤ d ∧ d ≤ 8 ∧ o.phase % 16 = (t + d) % 16))

/-- R217, R218, R343: COPY answers its promised cycle and joins its engine's queue, or the present cycle where there is
nothing to copy; each step writes the next destination line; a promise that passes is made anew with F_PROMISE_MISSED.
The time that an engine reckons for its work is a free value (assumption 9). R218: a line that a copy writes to an IMM
page in mode DATA stands at its destination, every other byte of memory keeps the value that it has once what has been
committed on that line is folded home, and the copy goes on to the next line, or ends with its last. -/
def Obligations.CopiesRun : Prop :=
  (∀ (s : State) (l : Nat) (x : Launch) (r : Req),
     let pl := s.cur.pl
     (∀ u, s.ready? pl s.cur.rid = some (l, x, r) → r.kind = .copy →
       (s.copies.filter fun c => decide (c.engine = edgeIx pl.col pl.row)).length < copyDepth → r.lanes ≠ [] → copyOk r.lanes = true →
       ((cwBaddr r.lanes = 0 ∧ u = s) ∨ (cwBaddr r.lanes ≠ 0 ∧ ∃ key, s.xlate1 l x (tilePort pl) (cwBaddr r.lanes) 16 true = (.ok key true, u))) →
       (cwLen r.lanes = 0 →
         exec .copyAccept s = .next ((u.finish pl r (.data ⟨.scalar, [u.cycle x.glade], .u64, 1#64⟩)).wake [])) ∧
       (cwLen r.lanes ≠ 0 →
         let job : CopyJob := { cid := s.cur.rid, engine := edgeIx pl.col pl.row, glade := x.glade, lid := l, pl := pl, ch := r.resp.getD 0, rid := s.cur.rid, cw := r.lanes, promise := 0#64, budget := r.budget, block := r.block, slot := r.slot, cut := cutIndex (u.plane pl).recorded }
         let d := u.promiseOf job.engine x.glade (u.copies ++ [job])
         exec .copyAccept s = .next (State.wake { d.2.finish pl r (.data ⟨.scalar, [d.1], .u64, 1#64⟩) with copies := d.2.copies ++ [{ job with promise := d.1 }] } []))) ∧
     (∀ c t bs bits ps, s.copies.find? (fun c => decide (c.cid = s.cur.n)) = some c → s.launch? c.lid = some x → x.goesOn = true →
       c.stopped = false → c.waiting = false → c.fault = none → c.page = none →
       let port := tilePort c.pl
       let n := min (64 - (cwDaddr c.cw + c.done) % 64) (cwLen c.cw - c.done)
       s.invalHolds port x.asid (cwDaddr c.cw + c.done) = false → (cwBaddr c.cw ≠ 0 → s.invalHolds port x.asid (cwBaddr c.cw) = false) →
       s.copyRead c x port n = (.got bs bits ps, t) →
       (∀ u v p qs bar, t.copyXlate c x port true [(cwDaddr c.cw + c.done, n)] = (.ok qs, [p], u) → isPeer p.key = false → isArg p.key = false →
         (isHost p.key = false ∨ cwMode c.cw = 0) → (u.liveDesc [{ p with len := n }] = false ∨ ∃ a, u.actorFor c.lid x c.pl = some a ∧ a.level = 1) →
         u.twinPart c.lid x [{ p with len := n }] = false →
         ((cwBaddr c.cw = 0 ∧ v = u ∧ bar = none) ∨ (cwBaddr c.cw ≠ 0 ∧ ∃ b imm, u.xlate1 c.lid x port (cwBaddr c.cw) 16 true = (.ok b imm, v) ∧ bar = some b)) →
         (x.irrev = true ∨ (p.imm = false ∧ v.overQuota c.lid [p.key / 64] = false)) →
         exec .copyLineWrite s = .next (((v.signParts c.lid ps).copyPut c p n bs bits bar).wake []))) ∧
     (∀ c, s.copies.find? (fun c => decide (c.cid = s.cur.n)) = some c → c.stopped = false → c.owed = false → c.promise < s.cycle c.glade → c.missed = false →
       let d := s.promiseOf c.engine c.glade s.copies
       let f := (d.2.modCopy s.cur.n fun c => { c with promise := d.1, owed := true }).raise .promiseMissed c.lid (some c.pl) c.pl (.promise c.pl c.ch s.cur.n d.1) 0 false c.block.toNat c.slot 0 0 0#64
       exec .promiseMissed s = .next (if (f.2.fault? f.1).map (·.st) = some FSt.reported then f.2.unhandled f.1 else f.2))) ∧
  (∀ (s : State) (c : CopyJob) (p : Part) (n : Nat) (bs : List Byte) (bits : List Bool) (x : Launch),
     s.Inv → s.launch? c.lid = some x → p.imm = true → cwMode c.cw = 0 → s.barq = [] →
     let t := s.copyPut c p n bs bits none
     (∀ k < bs.length, Memory.read t.mem (p.key + k) = bs.getD k 0#8) ∧
     (∀ a, a < p.key ∨ p.key + bs.length ≤ a → Memory.read t.mem a = Memory.read (s.foldLine (p.key / 64)).mem a) ∧
     ((∀ e ∈ s.under, e.committed = true → e.eff.line ≠ p.key / 64) → ∀ a, a < p.key ∨ p.key + bs.length ≤ a → Memory.read t.mem a = Memory.read s.mem a) ∧
     t.copies = (if c.done + n = cwLen c.cw then s.copies.filter fun d => decide (d.cid ≠ c.cid)
       else s.copies.map fun d => if d.cid = c.cid then { d with done := d.done + n, found := [], line := none } else d))

/-- R224 to R231: MMPOST puts its record into the sequencer; an eligible record starts on its region; a chunk is added to
every accumulator; a drained tile goes to its route with SOT and EOT; a finished record sends its completion token and
leaves. -/
def Obligations.MatrixRuns : Prop :=
  ∀ (s : State) (l : Nat) (x : Launch) (r : Req) (g : Glade) (q : Region) (m : MRec),
    let pl := s.cur.pl
    (s.ready? pl s.cur.rid = some (l, x, r) → r.kind = .mmpost → s.glade? x.glade = some g → s.recordAt pl r.a ≠ [] →
      g.seqr.length < seqDepth + g.spillSize → mOk (s.recordAt pl r.a) (g.regionsOf l) (g.seqr.filter fun q => decide (q.lid = l)) = true →
      exec .matrixRecordAccept s = .next (((s.fresh.2.modGlade x.glade fun y => { y with seqr := y.seqr ++ [{ mid := s.fresh.1, lid := l, pl := pl, block := r.block, slot := r.slot, cw := s.recordAt pl r.a, bad := false }] }).finish
        pl r .null).wake [])) ∧
    (s.glade? s.cur.g = some g → s.launch? m.lid = some x → x.onFabric = true →
      (mKind m.cw = 0 ∨ mKind m.cw = 1) → (∀ k, g.eligible s.cur.k = some (m, some k) → g.regions[k]? = some q → q.acc = none →
        exec .sequencerDispatch s = .next (State.wake ((s.modRec s.cur.g m.mid fun m => { m with st := .running, region := some k, codebook := x.codebook }).modRegion s.cur.g k fun q =>
            { q with cmd := some m.mid, nextChunk := 0, drainPos := 0, drainRow := 0, drainRoute := none, pinned := [], acc := some (mAcc m.cw), n := mN m.cw, m := if mKind m.cw = 0 then some (mM m.cw) else q.m, accs := if mKind m.cw = 0 ∧ mClr m.cw then [] else q.accs, chunkIx := if mKind m.cw = 0 ∧ mClr m.cw then 0 else q.chunkIx, draining := decide (mKind m.cw = 0) && decide (mK m.cw = 0) && mDrn m.cw }) []))) ∧
    (s.regionRun s.cur.g s.cur.n = some (q, m, x) →
      (∀ as bs accs s2 s3, mKind m.cw = 0 → q.nextChunk < mChunks m.cw → q.draining = false → q.weights = none →
        s.mBlocks m x q.rr.npol q.rr.fmtA (mAaddr m.cw) (mAscl m.cw) (mLda m.cw) q.nextChunk (List.range (mM m.cw)) = (.ok as, s2) →
        s2.mBlocks m x q.rr.npol q.rr.fmtB (mBaddr m.cw) (mBscl m.cw) (mLdb m.cw) q.nextChunk (List.range (mN m.cw)) = (.ok bs, s3) →
        accsAfter q.rr q.accs (mM m.cw) (mN m.cw) (as.map fun b => b.take (mK m.cw - 64 * q.nextChunk))
          (bs.map fun b => b.take (mK m.cw - 64 * q.nextChunk)) = some accs →
        exec .mmChunk s = .next ((s3.modRegion s.cur.g s.cur.n fun y => { y with accs := accs, chunkIx := y.chunkIx + 1, nextChunk := q.nextChunk + 1, pinned := y.pinned.filter fun p => usedAfter m.cw q.rr.fmtA q.rr.fmtB q.nextChunk p.1, weights := none, draining := mDrn m.cw && decide (q.nextChunk + 1 = mChunks m.cw) }).wake [])) ∧
      (∀ k a ch pl, q.draining = true → q.brkStop = false → q.drainPos < accTiles (q.m.getD 0) q.n → q.nextRoute m.cw = some (.ok (k, false)) →
        q.rr.route k = some (a, ch) → x.planeOf a 0 = some pl →
        let toks := tileTokens q (q.m.getD 0) q.n q.drainPos
        let u := sendRoom pl ch (toks.drop q.drainRow) s 0
        exec .drainTile s = .next (u.2.modRegion s.cur.g s.cur.n fun y =>
          if y.drainRow + u.1 = toks.length then { y with drainPos := y.drainPos + 1, drainRow := 0, drainRoute := none, chunkIx := 0, accs := y.accs.filter fun e => decide (e.1 / 4096 ≠ y.drainPos) }
          else { y with drainRow := y.drainRow + u.1, drainRoute := some k }))) ∧
    (s.glade? s.cur.g = some g → g.seqr.find? (fun m => decide (m.mid = s.cur.n)) = some m → s.launch? m.lid = some x → x.onFabric = true →
      m.st = .completed → mCen m.cw = false →
      exec .commandCompletion s = .next ((s.modGlade s.cur.g fun y => { y with seqr := y.seqr.filter fun q => decide (q.mid ≠ m.mid), regions := y.regions.map fun q => if q.cmd = some m.mid then { q with cmd := none, draining := false, pinned := [] } else q }).wake []))

/-! ### Watching, border cores, the launch unit -/

/-- R251 to R258: a border word in U-mode takes the illegal-instruction exception; otherwise it has its effect, rd takes
its result, and the pc advances; only that core changes with them, and x0 keeps its zero. How the exception is entered
(assumption 8) and in which order checks are made (assumption 24) are the model's choices. R365: a core of a DISABLED
island is powered down, and its words do nothing. -/
def Obligations.BorderWords : Prop :=
  ∀ (rd rs1 rs2 : BitVec 5) (s : State),
    let c := s.cur.core
    let x := s.core c
    let a := x.reg rs1.toNat
    let b := x.reg rs2.toNat
    let gl := s.coreGlade c
    let gives (i : Instr) (v : W64) (t : State) : Prop := exec i s = .next (t.coreRet c rd.toNat v)
    let traps (i : Instr) : Prop := exec i s = .next (s.coreTrap c causeIllegal 0#64)
    (s.coreOff c = true ↔ (s.island (c / 8)).st = .disabled) ∧
    (s.coreOff c = true → ∀ i ∈ [Instr.jlaunch rd rs1 rs2, .jfence rd rs1 rs2, .jquery rd rs1 rs2, .jinvr rd rs1 rs2, .jcmdKill rd rs1 rs2,
      .jcmdPre rd rs1 rs2, .jcmdSnap rd rs1 rs2, .jcmdStop rd rs1 rs2, .jcmdResume rd rs1 rs2, .jwaitw rd rs1 rs2,
      .jctxsave rd rs1 rs2, .jctxload rd rs1 rs2], exec i s = .next s) ∧
    (x.wait = none → s.coreOff c = false →
    (x.mode = .u → traps (.jlaunch rd rs1 rs2) ∧ traps (.jfence rd rs1 rs2) ∧ traps (.jquery rd rs1 rs2) ∧ traps (.jinvr rd rs1 rs2) ∧
      traps (.jcmdKill rd rs1 rs2) ∧ traps (.jcmdPre rd rs1 rs2) ∧ traps (.jcmdSnap rd rs1 rs2) ∧ traps (.jcmdStop rd rs1 rs2) ∧
      traps (.jcmdResume rd rs1 rs2) ∧ traps (.jwaitw rd rs1 rs2) ∧ traps (.jctxsave rd rs1 rs2) ∧ traps (.jctxload rd rs1 rs2)) ∧
    (x.mode ≠ .u →
      gives (.jfence rd rs1 rs2) 0#64 s ∧
      (∀ r g, s.islandOpen c = true → a.toNat % 128 = 0 → b.toNat < 16 → s.fwRead x.asid (a.toNat % 2 ^ 48) 128 = some r → recBits r 3 0 = 1 →
        s.glade? gl = some g → (Store.get? g.binds b.toNat).isSome = true → (Store.getD g.queues b.toNat []).length < 64 →
        gives (.jlaunch rd rs1 rs2) 0#64 (s.fresh.2.modGlade gl fun g => { g with queues := Store.set g.queues b.toNat (Store.getD g.queues b.toNat [] ++ [{ rcd := r, seq := s.fresh.1, core := c }]) })) ∧
      (s.islandOpen c = false → gives (.jlaunch rd rs1 rs2) 1#64 s) ∧
      (s.byTicketNo gl (a.setWidth 32) = none → gives (.jquery rd rs1 rs2) allOnes s ∧ gives (.jctxsave rd rs1 rs2) allOnes s ∧
        (b.toNat < 5 → gives (.jcmdKill rd rs1 rs2) 1#64 s)) ∧
      (∀ l y, s.byTicketNo gl (a.setWidth 32) = some (l, y) →
        (b.toNat % 8 = 0 → gives (.jquery rd rs1 rs2) (BitVec.ofNat 64 y.stateCode) s) ∧
        (b.toNat % 8 = 1 → gives (.jquery rd rs1 rs2) (BitVec.ofNat 64 y.used) s) ∧
        (b.toNat % 8 = 4 → gives (.jquery rd rs1 rs2) (if y.scanned.isSome then 2#64 else if y.preHeld ∧ y.st ≠ .suspended then 1#64 else 0#64) s) ∧
        ((s.tenant y.tenant).confidential = false →
          (b.toNat % 8 = 2 → gives (.jquery rd rs1 rs2) (BitVec.ofNat 64 y.ver.toNat) s) ∧
          (b.toNat % 8 = 3 → gives (.jquery rd rs1 rs2) (BitVec.ofNat 64 y.snaps) s) ∧
          (b.toNat % 8 = 5 → gives (.jquery rd rs1 rs2) (BitVec.ofNat 64 (s.sizeNow l y)) s)) ∧
        (((s.tenant y.tenant).confidential = true ∧ b.toNat % 8 ∈ [2, 3, 5]) ∨ 6 ≤ b.toNat % 8 → gives (.jquery rd rs1 rs2) allOnes s) ∧
        (∀ i ∈ [Instr.jcmdKill rd rs1 rs2, .jcmdPre rd rs1 rs2, .jcmdSnap rd rs1 rs2, .jcmdStop rd rs1 rs2, .jcmdResume rd rs1 rs2],
          (b.toNat = 0 → (y.st = .live ∨ y.st = .held ∨ y.st = .oldestOnly) → gives i 0#64 ((s.raise .kill l none ⟨0, 0, 0⟩ (.launch l) 0 false 0 0 0 0 0#64).2)) ∧
          (b.toNat = 1 → y.mayCut = true → gives i 0#64 (s.takeCut l .pre (some c))) ∧
          (b.toNat = 2 → y.mayCut = true → gives i 0#64 (s.takeCut l .snap (some c))) ∧
          (b.toNat = 3 → y.mayCut = true → y.stopHeld = false → s.mayDebug y = true → gives i 0#64 (s.takeCut l .stop (some c))) ∧
          (b.toNat = 4 → y.stopHeld = true → gives i 0#64 (s.unpause l y)) ∧
          (5 ≤ b.toNat → gives i 3#64 s)) ∧
        (∀ v t, b.toNat % 4096 = 0 → s.ctxSave x.asid l (b.toNat % 2 ^ 48) = (some v, t) → gives (.jctxsave rd rs1 rs2) v t)) ∧
      (∀ n t, s.ctxLoad c gl x.asid (a.toNat % 2 ^ 48) (b.toNat % 16) = (some n, t) → gives (.jctxload rd rs1 rs2) (BitVec.ofNat 64 n) t) ∧
      ((a.toNat % 2 ^ 48 % 2 ^ 16 ≠ 0 ∨ b.toNat / 2 ^ 16 = 0) → gives (.jinvr rd rs1 rs2) allOnes s) ∧
      (a.toNat % 2 ^ 48 % 2 ^ 16 = 0 → b.toNat / 2 ^ 16 ≠ 0 →
        let v : Inval := { iid := s.fresh.1, core := c, base := a.toNat % 2 ^ 48, len := b.toNat / 2 ^ 16 * 2 ^ 16, asid := BitVec.ofNat 16 b.toNat, todo := [], active := [], acks := 0 }
        let v : Inval := { v with todo := (s.ports.filter fun q => q.2.meets v).map (·.1) }
        let t : State := { s.fresh.2 with invals := s.invals ++ [v] }
        exec (.jinvr rd rs1 rs2) s = .next ((t.setCore c { x with wait := some (.inval rd.toNat s.fresh.1) }).invalDone s.fresh.1)) ∧
      (bitsOf b.toNat 62 48 = 0 → a.toNat % 8 = 0 → ∀ key, s.waitKey c x.asid a (decide (bitsOf b.toNat 63 63 = 1)) = some key →
        (s.coreWordFull key = true →
          (bitsOf b.toNat 63 63 = 0 → exec (.jwaitw rd rs1 rs2) s = .next ((s.coreRet c rd.toNat 1#64).wake [])) ∧
          (bitsOf b.toNat 63 63 = 1 → exec (.jwaitw rd rs1 rs2) s = .next (((s.coreTake key).1.coreRet c rd.toNat 1#64).wake (s.coreTake key).2))) ∧
        (s.coreWordFull key = false → s.barCount (edgeOfKey key) < barDepth →
          exec (.jwaitw rd rs1 rs2) s = .next (({ s with barq := s.barq ++ [⟨edgeOfKey key, .core c, key⟩] } : State).setCore c
            { x with wait := some (.word rd.toNat a (bitsOf b.toNat 47 0) (decide (bitsOf b.toNat 63 63 = 1)) (s.cycle gl)) }))))) ∧
    (∀ (n : Nat) (v : W64),
      let t := s.coreRet c n v
      (t.core c).pc = x.pc + 4#64 ∧ (∀ k, k ≠ n → (t.core c).reg k = x.reg k) ∧ (n ≠ 0 → (t.core c).reg n = v) ∧ (t.core c).reg 0 = 0#64 ∧
      (∀ k, k ≠ c → t.core k = s.core k) ∧ t.mem = s.mem ∧ t.planes = s.planes)

/-- R257, R312, R329: a core takes the oldest call of the ring whose turn it is and calls the routine of its service with the
argument, the number and the caller's ticket, or answers all ones where there is none; once the routine has returned, what it
has left in a0 is the answer to the oldest call of the ring. The core is switched to the next tenant when its tenant's budget
is spent or it has no call; what a core keeps of a tenant's code, and that a JWAITW in progress ends with 2 as before an
interrupt, is assumption 46. Budgets are whole again in a new period; a wait for a word ends with 0 at its bound and with 2
before an interrupt, which reaches a core only there (assumption 33) and is entered with the cause that the step carries
(assumption 8). -/
def Obligations.BorderServices : Prop :=
  ∀ (s : State),
    let c := s.cur.core
    let k := s.core c
    (k.wait = none → k.isSpent k.slice = false → s.coreOff c = false →
      (∀ pl ret e t, k.serving = some (pl, ret) → k.pc = ret → (s.plane pl).ring = e :: t →
        let u := s.setCore c { k with serving := none }
        exec .callAnswer s = .next ((u.setPlane pl { s.plane pl with ring := t }).respond pl e.ch (.data ⟨.scalar, [k.reg 10], .u64, 1#64⟩))) ∧
      (∀ pl ret, k.serving = some (pl, ret) → k.pc ≠ ret → exec .callAnswer s = .next s) ∧
      (∀ q e t, k.serving = none → s.nextRing c = some q → (s.plane (planeOfKey q)).ring = e :: t →
        let pl := planeOfKey q
        let turned : Core := { k with turn := q, served := if s.keepsTurn c then k.served + 1 else 1 }
        let ticket : W64 := (((s.plane pl).launch.bind s.launch?).elim 0#32 (·.ticket)).setWidth 64
        (Store.getD k.svc e.n 0#64 = 0#64 →
          exec .callAnswer s = .next (((s.setCore c turned).setPlane pl { s.plane pl with ring := t }).respond pl e.ch (.data ⟨.scalar, [allOnes], .u64, 1#64⟩))) ∧
        (Store.getD k.svc e.n 0#64 ≠ 0#64 →
          exec .callAnswer s = .next (s.setCore c { (((turned.setReg 1 k.pc).setReg 10 e.arg).setReg 11 (BitVec.ofNat 64 e.n)).setReg 12 ticket with serving := some (pl, k.pc), pc := Store.getD k.svc e.n 0#64 })))) ∧
    ((k.isSpent k.slice = true ∨ s.hasCall c k.slice = false) →
      let n := (nextAround k.slice ((s.callers c).filter fun t => !k.isSpent t && s.hasCall c t)).getD 0
      (n = k.slice → exec .budgetTimer s = .next s) ∧
      (n ≠ k.slice → k.wait = none → exec .budgetTimer s = .next (s.setCore c (k.switch n)))) ∧
    (∀ n, (k.switch n).slice = n ∧ Store.get? (k.switch n).others k.slice = some { x := k.x, pc := k.pc, mode := k.mode, asid := k.asid, serving := k.serving } ∧
      (∀ r, Store.get? k.others n = some r → (k.switch n).x = r.x ∧ (k.switch n).pc = r.pc ∧ (k.switch n).mode = r.mode ∧ (k.switch n).asid = r.asid ∧ (k.switch n).serving = r.serving) ∧
      (Store.get? k.others n = none → (k.switch n).serving = none)) ∧
    (k.isSpent k.slice = false → s.hasCall c k.slice = true → exec .budgetTimer s = .next s) ∧
    ((s.cycle (s.coreGlade c)).toNat / budgetPeriod ≠ k.period →
      exec .tenantBudgetPeriod s = .next (s.setCore c { k with period := (s.cycle (s.coreGlade c)).toNat / budgetPeriod, spent := [] })) ∧
    (∀ rd va bound take since, k.wait = some (.word rd va bound take since) →
      let freed : State := { s with barq := s.barq.filter fun e => decide (e.owner ≠ .core c) }
      let ended (v : W64) : State := freed.setCore c { k.setReg rd v with wait := none, pc := k.pc + 4#64 }
      (∀ n, n ≠ k.slice → s.switchCore c n = (ended 2#64).setCore c ({ k.setReg rd 2#64 with wait := none, pc := k.pc + 4#64 }.switch n)) ∧
      (bound ≠ 0 → bound ≤ (s.cycle (s.coreGlade c) - since).toNat → exec .jwaitwTimeout s = .next (ended 0#64)) ∧
      exec .interruptTaken s = .next ((ended 2#64).coreTrap c s.cur.val 0#64))

/-- R88, R301 to R304, R309, R310: the head of a queue whose checks hold keeps its images and issues the loads of its wait
words; one that fails leaves as FAILED, its whole group with it, each member with the report of its own check or, where that
holds, of the first that failed (assumption 20); the
chosen head takes tickets and planes; a running ring's entries are taken; a reset ring starts again; the frame table
moves on after 64 cycles and takes a loaded table at the start of a pass. -/
def Obligations.LaunchUnitSteps : Prop :=
  ∀ (s : State) (g : Glade) (tenant : Nat) (asid : BitVec 16) (e : QEnt) (rest ms : List QEnt),
    let gl := s.cur.g
    let q := s.cur.n
    let es := e :: rest
    (s.glade? gl = some g → Store.getD g.queues q [] = es → Store.get? g.binds q = some (tenant, asid) →
      (e.ctx = none → e.img = none → headGroup es = (ms, true, false) → ms ≠ [] →
        let bad (m : QEnt) : Option (Nat × List W64) := match s.checkRecord gl q g asid m.rcd with | .error r => some r | .ok _ => none
        ((∀ m ∈ ms, bad m = none) →
          exec .launchHeadCheck s = .next ((s.setQueue gl q ((ms.map fun m => { m with img := (s.checkRecord gl q g asid m.rcd).toOption, waits := List.range (rcWaits m.rcd).length }) ++ es.drop ms.length)).headWaits gl q)) ∧
        (∀ r, ms.findSome? bad = some r →
          exec .launchHeadCheck s = .next (((ms.foldl (fun t m => t.failEntry gl q asid tenant m ((bad m).getD r)) s).setQueue gl q (es.drop ms.length)).headWaits gl q))) ∧
      (s.starting gl = [] → s.nextQueue g = some q → e.ctx = none →
        let t := ((s.letIn gl q tenant asid (headGroup es).1).setQueue gl q (es.drop (headGroup es).1.length)).placeStarting gl
        t.twinOther gl q = none → exec .launchStart s = .next t)) ∧
    (∀ r h, s.ringOf gl s.cur.k = some r → s.ringHead r = some h →
      (∀ took t, recBits h 191 191 = 0 → s.ringTake r = (took, t) →
        let r' : Ring := { r with tail := if took then recBits h 190 128 else r.tail }
        (recBits h 9 8 = 0 → exec .hostRingDrain s = .next (ringGo r' (2 ^ (r.lcap + 4) + 1) (t.modRing r fun _ => r'))) ∧
        (recBits h 9 8 ≠ 0 → exec .hostRingDrain s = .next t)) ∧
      (∀ t, recBits h 191 191 = 1 → s.ringTake r = (true, t) →
        exec .hostRingReset s = .next (((t.modRing r fun r => { r with lcap := recBits h 7 4, tail := 0 }).fwWrite r.asid (r.va.toNat + 8) (toLE 8 0)).2.ringStatus r h (if ringOk h then 0 else 2)))) ∧
    (64 ≤ s.fo.tabCyc →
      let fo : Forester := { s.fo with tabIx := (s.fo.tabIx + 1) % 16, tabCyc := s.fo.tabCyc - 64 }
      ((fo.tabIx ≠ 0 ∨ s.fo.pendTable = none) → exec .frameTableStep s = .next { s with fo := fo }) ∧
      (∀ t, fo.tabIx = 0 → s.fo.pendTable = some t → exec .frameTableStep s = .next { s with fo := { fo with table := t, pendTable := none } }))

/-- R77, R318 to R325, R362: run-ahead stays within the window entry or cached leaf that covers the access that prompts it, and
where none does enters the leaf that the present tables give, or counts a drop: how R318 is read is assumption 49. A port drops
what an invalidation names and acknowledges; a launch past the quick-service limit is scanned out once its requests and matrix
commands have gone as far as they can (assumption 50); RESUME, FAULT and ABORT answer the accesses held on an entry, ABORT with
rung 3 for every launch that holds one (assumption 29), other answers are refused; a returned frame is cleaned while the
Forester is up; a page goes out with its bits and comes in. -/
def Obligations.TranslationSteps : Prop :=
  ∀ (s : State),
    let port := s.cur.n
    (let prompt := s.cur.val.toNat
     let win := (s.port port).wins.any fun q => q.2.v && decide (q.2.asid = s.cur.asid) && decide (q.2.vbase ≤ prompt) && decide (prompt < q.2.vbase + q.2.npg * 2 ^ 16)
     let leaf := (s.port port).cache.any fun l => decide (l.asid = s.cur.asid) && decide (l.va ≤ prompt) && decide (prompt < l.va + l.size)
     ((win = true ∨ leaf = true) → exec .runAheadFetch s = .next s) ∧
     (win = false → leaf = false →
       (∀ f, s.walk s.cur.asid s.cur.va.toNat = .leaf f →
         (f.va ≤ prompt → prompt < f.va + f.size → exec .runAheadFetch s = .next (s.cacheLeaf port f)) ∧
         ((prompt < f.va ∨ f.va + f.size ≤ prompt) → exec .runAheadFetch s = .next s)) ∧
       ((s.walk s.cur.asid s.cur.va.toNat = .malformed ∨ ∃ n, s.walk s.cur.asid s.cur.va.toNat = .notPresent n) →
         exec .runAheadFetch s = .next (s.dropFetch port)))) ∧
    (∀ v, s.invals.find? (fun v => decide (v.iid = s.cur.k)) = some v →
      (v.todo.contains port = true →
        exec .portInvalidation s = .next { s.setPort port { s.port port with wins := Store.mapV (fun _ w => if w.meets v then { w with v := false } else w) (s.port port).wins, cache := (s.port port).cache.filter fun l => !l.meets v } with invals := s.invals.map fun w => if w.iid = s.cur.k then { v with todo := v.todo.erase port, active := port :: v.active, acks := if (s.port port).meets v then v.acks + 1 else v.acks } else w }) ∧
      (v.active.contains port = true →
        exec .portAcknowledge s = .next ((State.invalDone { s with invals := s.invals.map fun w => if w.iid = s.cur.k then { w with active := w.active.erase port } else w } s.cur.k).hostRetry port))) ∧
    (∀ e g l x, s.prq.ents.find? (fun e => decide (e.ix = s.cur.k)) = some e → s.glade? e.glade = some g → g.quick < (s.cycle e.glade - e.stamp).toNat →
      s.holders s.cur.k = [(l, x)] → x.plane.isSome = true → x.scanned = none → x.preHeld = false → x.planes.all s.canDrain = true → s.matrixStill l x g = true →
      exec .quickServiceScanOut s = .next (s.scanLaunch l x)) ∧
    (∀ e, s.answered s.cur.val = some e →
      let hs := s.holders e.ix
      (answerAct s.cur.val = 0 → exec .prqAnswerResume s = .next ((((s.rehold e.ix .waiting none).freePrqEnt e.ix).resumeHolders hs).wake [])) ∧
      (answerAct s.cur.val = 1 →
        let t := hs.foldl (fun s q => if q.2.scanned.isSome then s else s.faultHeld q.1 e.ix) s
        exec .prqAnswerFault s = .next ((((t.rehold e.ix (.pageHeld prqFault) (some prqFault)).freePrqEnt e.ix).resumeHolders hs).wake [])) ∧
      (answerAct s.cur.val = 2 → exec .prqAnswerAbort s = .next ((hs.foldl (fun s q => s.askRung q.1 3 0)
        ((s.rehold e.ix (.pageHeld prqDrop) (some prqDrop)).freePrqEnt e.ix)).wake []))) ∧
    ((answerAct s.cur.val = 3 ∨ s.answered s.cur.val = none) →
      exec .prqAnswerRefused s = .next (State.wake { s with prq := { s.prq with refused := s.prq.refused + 1#32 } } [])) ∧
    (s.fo.st = .up → (s.frame s.cur.n).st = .scrubbing → (∀ e ∈ s.under, inFrame s.cur.n (e.eff.line * 64) = false) → (s.frame s.cur.n).mark = false →
      ∃ t, exec .frameScrub s = .next t ∧ t.frame s.cur.n = { s.frame s.cur.n with tenant := 0, st := .free } ∧
        (∀ a, a / 2 ^ 16 = s.cur.n → Memory.read t.mem a = 0#8) ∧ (∀ a, a / 2 ^ 16 ≠ s.cur.n → Memory.read t.mem a = Memory.read s.mem a)) ∧
    (∀ lf, s.walk s.cur.asid (s.cur.va.toNat / 2 ^ 16 * 2 ^ 16) = .leaf lf → s.bank = [] → s.under = [] → s.glades = [] → s.launches = [] →
      let k := paKey (lf.pa + (s.cur.va.toNat / 2 ^ 16 * 2 ^ 16 - lf.va))
      exec .pageOut s = .next { s with side := (s.side.map fun q => if q.1 * 64 / 2 ^ 16 = k / 2 ^ 16 then (q.1, { q.2 with parked := false }) else q).filter (fun q => decide (q.2 ≠ {})), paged := { asid := s.cur.asid, va := s.cur.va.toNat / 2 ^ 16 * 2 ^ 16, bits := (List.range 8192).map fun i => s.homeBit (k / 8 + i), bytes := Memory.readBytes s.mem k 65536 } :: s.paged.filter fun q => !(decide (q.asid = s.cur.asid) && decide (q.va = s.cur.va.toNat / 2 ^ 16 * 2 ^ 16)) }) ∧
    (∀ q e, s.paged.find? (fun q => decide (q.asid = s.cur.asid) && decide (q.va = s.cur.va.toNat / 2 ^ 16 * 2 ^ 16)) = some q →
      Store.get? s.asids s.cur.asid.toNat = some e → (s.frame s.cur.n).st = .owned → (s.frame s.cur.n).tenant = e.tenant → s.glades = [] →
      let k := s.cur.n * 2 ^ 16
      exec .pageIn s = .next ((q.bits.zipIdx.foldl (fun (s : State) b => s.setHomeBit (k / 8 + b.2) b.1)
        { s with mem := Memory.writeBytes s.mem k q.bytes, paged := s.paged.erase q }).wake []))

/-! ### Host, links, the Forester -/

/-- R346 to R352, R374: host reads answer what the home units hold, or ones and a count where the access fails; writes store, or
are counted; the fill aperture sets the words full and wakes; the probe aperture answers data and state and drops
writes; window and HERR registers take a write; the link trains. That the driver may write HERR, and that its count wraps, is
assumption 30. R280, R319: the accesses
of a requester stay in order behind one that an invalidation holds, each requester by itself (assumption 46). R353 to R356, R358: training takes for each
interface the highest version that both ends have, and a link without a common one is reported; a failed flit is replayed and the failure after the eighth takes the link down; a link
operation acts at its peer, or is tried again after 1,024 cycles, each failed retry one round; a reduction writes its
result and fills its word. -/
def Obligations.HostAndLinkSteps : Prop :=
  (∀ (s t : State) (key : Nat) (imm : Bool),
     let o := s.cur.n
     let n := s.cur.k
     let bs := s.cur.bytes
     let e := (s.hostWin o).1
     let va := (s.hostWin o).2
     let err (base : Nat) : State := { s with host := { s.host with herr := s.host.herr + 1#32, herrOff := if s.host.herr = 0#32 then BitVec.ofNat 32 ((base + o) / 1024) else s.host.herrOff } }
     let ok (k : Nat) : Prop := 0 < k ∧ k ≤ 64 ∧ o % 64 + k ≤ 64 ∧ o < 2 ^ 38
     let waits (kind : HostKind) : State := { s with host := { s.host with held := s.host.held ++ [s.cur.hostAcc kind] } }
     ((∃ b ∈ s.host.held, b.who = s.cur.rid) →
       exec .plainApertureRead s = .next (waits .plainRead) ∧ exec .fillApertureRead s = .next (waits .fillRead) ∧ exec .probeApertureRead s = .next (waits .probeRead) ∧
       exec .plainApertureWrite s = .next (waits .plainWrite) ∧ exec .fillApertureWrite s = .next (waits .fillWrite)) ∧
     ((∀ b ∈ s.host.held, b.who ≠ s.cur.rid) →
     (ok bs.length → s.hostXlate e va true = (.held, t) → winW e = true → exec .plainApertureWrite s = .next (waits .plainWrite)) ∧
     (ok n → s.hostXlate e va false = (.ok key imm, t) → s.cur.flag2 = false →
       let read : State := if s.cur.flag = true then t.readError key false else t
       exec .plainApertureRead s = .next (read.hostAnswer (.data (read.view committedObs key n))) ∧
       exec .fillApertureRead s = .next (read.hostAnswer (.data (read.view committedObs key n)))) ∧
     (ok n → winV e = false →
       exec .plainApertureRead s = .next ((err 0).hostAnswer (.data (List.replicate n 0xFF#8)))) ∧
     (ok n → s.hostXlate e va false = (.ok key imm, t) → s.cur.flag2 = true →
       exec .plainApertureRead s = .next ((t.readError key true).hostAnswer .aborted)) ∧
     (¬ok n → exec .plainApertureRead s = .next (s.hostAnswer .unsupported)) ∧
     (ok bs.length → winW e = true → s.hostXlate e va true = (.ok key imm, t) → t.hostWordsOk key va bs.length = true →
       exec .plainApertureWrite s = .next (t.homeWrite key bs) ∧
       (bs.length % 8 = 0 → o % 8 = 0 → isHost key = false →
         let ws := (List.range (bs.length / 8)).map fun i => key / 8 + i
         let u := t.catchUpAll
         exec .fillApertureWrite s = .next ((ws.foldl (fun s w => s.homeFill (w * 8) true) (u.homeWrite key bs)).wake (ws.filter fun w => !u.viewBit committedObs w)))) ∧
     (ok bs.length → winV e = true → winW e = false → exec .plainApertureWrite s = .next (err 0)) ∧
     (n = 16 → o % 16 = 0 → o < 2 ^ 39 → winP (s.hostWin (o / 16 * 8)).1 = true →
       s.hostXlate (s.hostWin (o / 16 * 8)).1 (s.hostWin (o / 16 * 8)).2 false = (.ok key imm, t) → s.cur.flag = false → s.cur.flag2 = false →
       exec .probeApertureRead s = .next (t.hostAnswer (.data (toLE 8 (leNat (t.view committedObs key 8)) ++
         toLE 8 ((if t.viewBit committedObs (key / 8) then 1 else 0) + 2)))))) ∧
     exec .probeApertureWrite s = .next (err (2 ^ 39)) ∧
     (o < 0x800 → o % 8 = 0 → exec .registerWrite s = .next { s with host := { s.host with wins := Store.set s.host.wins (o / 8) (s.cur.val &&& ~~~0x3FFFFFF8#64) } }) ∧
     (o = 0x1000 → exec .registerWrite s = .next { s with host := { s.host with herr := s.cur.val.setWidth 32, herrOff := BitVec.ofNat 32 (s.cur.val.toNat / 2 ^ 32) } }) ∧
     ((o = 16 ∨ o = 8 ∨ o = 4) → exec .hostLinkTraining s = .next { s with host := { s.host with lanes := o } })) ∧
  (∀ (s s1 : State) (l : Nat) (x : Launch) (r : Req) (qs : List (Nat × Nat × Bool)),
     let k := s.cur.k
     let lk := s.slink k
     let pl := s.cur.pl
     let ps := partsOf r.bytes qs
     (k < 18 → lk.up = false → ∀ m ms, s.cur.masks = m :: ms →
       let v := if m.getLsbD 2 then 2 else if m.getLsbD 1 then 1 else 0
       let vers := v :: (ownMasks.drop 1).zipIdx.map fun q => commonVersion q.1 (ms.getD q.2 0#16)
       let u := s.setSlink k { lk with up := decide (v ≠ 0), link := v, fails := 0, masks := m :: ms, vers := vers }
       exec .linkTraining s = .next (if v = 0 then { u with fo := { u.fo with badLinks := u.fo.badLinks ++ [k] } } else u)) ∧
     (∀ a b : BitVec 16, (a &&& b = 0#16 → commonVersion a b = 0) ∧
       (a &&& b ≠ 0#16 → (a &&& b).getLsbD (commonVersion a b) = true ∧ ∀ v, (a &&& b).getLsbD v = true → v ≤ commonVersion a b)) ∧
     (k < 18 → lk.up = true →
       (s.cur.flag = true → exec .flitReceive s = .next (s.setSlink k { lk with fails := 0 })) ∧
       (s.cur.flag = false → lk.fails < 8 → exec .flitReceive s = .next (s.setSlink k { lk with fails := lk.fails + 1 })) ∧
       (s.cur.flag = false → 8 ≤ lk.fails → exec .flitReceive s = .next (s.linkDown k))) ∧
     (s.ready? pl s.cur.rid = some (l, x, r) → s.holdsRange (tilePort pl) x.asid (va48 r.a) r.bytes = false →
       s.xlateFor l x (tilePort pl) (va48 r.a) r.bytes r.kind.writes = (.ok qs, s1) → s1.fo.twin = none → ps ≠ [] →
       (∀ p ∈ ps, isPeer p.key = true ∧ p.imm = true) → s1.wordsOk r.kind ps = true → (r.kind = .st → s1.userDesc pl ps = false) →
       (r.kind = .ld ∨ (r.kind = .st ∧ x.irrev = true)) →
       ((∀ p ∈ ps, s1.peerLinks (peerOf p.key) ≠ []) →
         exec .peerAccess s = .next (((s1.doAccess pl l r ps).1.wake (s1.doAccess pl l r ps).2).wake [])) ∧
       ((∃ p ∈ ps, s1.peerLinks (peerOf p.key) = []) → exec .peerAccess s = .next (((s1.linkFault l).wake []).wake []))) ∧
     (∀ at_ left, s.planeActs pl = some (l, x) → s.req? pl s.cur.rid = some r → r.st = .retryAt at_ left → at_ ≤ s.cycle x.glade →
       s.xlateFor l x (tilePort pl) (va48 r.a) r.bytes r.kind.writes = (.ok qs, s1) → s1.twinBars l x r ps = false →
       (∀ p ∈ ps, isPeer p.key = true → s1.peerLinks (peerOf p.key) ≠ []) →
       (s1.condHolds (actorObs s1 pl l) r.kind ps = true →
         exec .peerRetry s = .next (((s1.doAccess pl l r ps).1.wake (s1.doAccess pl l r ps).2).wake [])) ∧
       (s1.condHolds (actorObs s1 pl l) r.kind ps = false → 1 < left → left < 255 →
         exec .peerRetry s = .next ((s1.setReq pl s.cur.rid (.retryAt (s1.cycle x.glade + 1024#64) (left - 1))).wake [])) ∧
       (s1.condHolds (actorObs s1 pl l) r.kind ps = false → left ≤ 1 →
         exec .peerRetry s = .next ((s1.reqFault pl r .parkBudget 0 (vaInfo r.a)).wake []))) ∧
     (∀ q bs t d imm, s.links.colls[k]? = some q → s.fwRead q.asid q.src.toNat (q.count * (tyWidth q.ty / 8)) = some bs → s.cur.flag = true →
       (∀ p ∈ q.list, p = 255 ∨ s.peerLinks p ≠ []) →
       let rs := q.list.zipIdx.map fun z => if z.1 = 255 then elemsOf (tyWidth q.ty / 8) q.count bs else s.cur.rows.getD z.2 []
       (∀ r ∈ rs, r.length = q.count) →
       s.fwWrite q.asid q.dst.toNat ((reduceAll q.op q.ty rs).map fun v => toLE (tyWidth q.ty / 8) v.toNat).flatten = (true, t) →
       s.fwKey q.asid q.donew.toNat false = some (d, imm) →
       exec .collectiveComplete s = .next ((State.homeFill { t with links := { t.links with colls := t.links.colls.erase q } } d true).wake [d / 8])))

/-- R360, R362, R363, R367, R368, R370, R371, R374, R375: the boot ROM starts the first slot that it accepts, or stays in
recovery; a reset takes the Forester down and, again, up: every SCRUBBING frame is cleaned again, a layout is rolled forward
where its records are whole and was not yet applied, else back, so that no island stays PENDING, and the marks that were held
meanwhile are made (R362, R367, R375; assumption 38); an island's frequency
steps within its cap; the patrol counts corrections; a session installs the operator certificate, and a confidential tenant's
own session its shared ranges and a debugging permission. R361, R373: an SPDM request in its place in the exchange extends the transcript, moves the exchange on and
is answered, a challenge, measurements and a key exchange with a signature by the alias key of this boot; one out of order
is answered with an error and starts nothing. Block 4 is given only in the session of a confidential tenant. The bytes of an answer other
than the measurements, the certificates, their digest and the signature are free values, the code of an error is SPDM's, and
FINISH names the tenant of the session (assumption 12). -/
def Obligations.ForesterSteps : Prop :=
  (∀ (s : State),
     (s.fo.st = .off → exec .powerOnBoot s = .next (if s.slotOk s.fo.flashA = true then s.startForester s.fo.flashA
       else if s.slotOk s.fo.flashB = true then s.startForester s.fo.flashB else { s with fo := { s.fo with st := .recovery } })) ∧
     (s.fo.st = .up → exec .foresterReset s = .next { s with fo := { s.fo with st := .down } }) ∧
     (s.fo.st = .down →
       let clean := s.frames.foldl (fun t q => if q.2.st = .scrubbing then t.scrub q.1 else t) s
       let laid := clean.layoutRecovery
       exec .foresterReset s = .next (State.releaseMarks { laid with fo := { laid.fo with st := .up } }) ∧
       (State.releaseMarks { laid with fo := { laid.fo with st := .up } }).fo.meas = s.fo.meas) ∧
     (let j := s.fo.journal
      let q := topSeq j
      let t := s.layoutRecovery
      (∀ i < 24, (t.island i).st ≠ .pending) ∧ t.fo.lastSeq = wholeTop j ∧ (∀ r ∈ t.fo.journal, r.ok = true ∧ layoutWhole j r.seq = true) ∧
      (layoutWhole j q = true → s.fo.lastSeq < q → t.glades = (s.applyLayout (prepsOf j q)).glades) ∧
      (layoutWhole j q = false → t.glades = s.glades)) ∧
     (s.cur.n < 24 → 110000 ≤ (s.fo.ticks - (s.island s.cur.n).stepAt).toNat →
       let x := s.island s.cur.n
       let avg := s.cur.k
       (x.capw < avg → x.fmin < x.fcur → exec .powerStep s = .next (s.setIsland s.cur.n { x with avg := avg, fcur := x.fcur - 1, thr := decide (x.fcur - 1 = x.fmin), stepAt := s.fo.ticks })) ∧
       (x.capw < avg → x.fcur ≤ x.fmin → exec .powerStep s = .next (s.setIsland s.cur.n { x with avg := avg, thr := decide (x.fcur = x.fmin), stepAt := s.fo.ticks })) ∧
       (avg * 10 < x.capw * 9 → x.fcur < 16 → exec .powerStep s = .next (s.setIsland s.cur.n { x with avg := avg, fcur := x.fcur + 1, thr := false, stepAt := s.fo.ticks }))) ∧
     (s.cur.n < dramFrames → s.cur.flag2 = false → (s.frame s.cur.n).ce = [] →
       (s.cur.flag = true → exec .patrolScrub s = .next ((s.modRas (chanOfFrame s.cur.n) fun r => { r with pce := satAdd r.pce }).setFrame s.cur.n { s.frame s.cur.n with ce := [s.fo.ticks] })) ∧
       (s.cur.flag = false → exec .patrolScrub s = .next s)) ∧
     (s.cur.n < dramFrames → s.cur.flag = false → s.cur.flag2 = true → exec .patrolScrub s = .next (s.markFrame s.cur.n)) ∧
     (s.fo.st = .up → s.fo.spdm = .session →
       ((s.fo.cert = none ∨ s.cur.flag = true) → exec .operatorCertificateInstall s = .next { s with fo := { s.fo with cert := some s.cur.bytes } }) ∧
       (s.fo.cert ≠ none → s.cur.flag = false → exec .operatorCertificateInstall s = .next s) ∧
       (s.fo.peer ≠ s.cur.n → exec .debugAuthorisation s = .next s ∧ exec .sharedSetDeclaration s = .next s) ∧
       (s.fo.peer = s.cur.n → (s.tenant s.cur.n).confidential = true →
         exec .debugAuthorisation s = .next (s.setTenant s.cur.n { s.tenant s.cur.n with debugOk := s.cur.flag }) ∧
         ((s.tenant s.cur.n).shared.length < 256 → exec .sharedSetDeclaration s =
           .next (s.setTenant s.cur.n { s.tenant s.cur.n with shared := (s.tenant s.cur.n).shared ++ [(s.cur.k, s.cur.rid)] }))))) ∧
  (∀ (s : State),
     let tr := s.fo.transcript ++ s.cur.bytes
     let at_ (q : SpdmSt) (tr : List Byte) : State := { s with fo := { s.fo with transcript := tr, spdm := q } }
     let gives (i : Instr) (code : Nat) (q : SpdmSt) (bs : List Byte) : Prop :=
       exec i s = .next { s with fo := { s.fo with transcript := tr ++ bs, spdm := q, spdmAnswer := some (code, bs) } }
     let ready : Prop := s.fo.spdm = .negotiated ∨ s.fo.spdm = .exchanging ∨ s.fo.spdm = .session
     s.fo.st = .up →
     (let bs := Config.spdmBytes 0x84 s.cur.bytes
      exec .getVersion s = .next { s with fo := { s.fo with transcript := s.cur.bytes ++ bs, spdm := .version, spdmAnswer := some (4, bs) } }) ∧
     (s.fo.spdm = .version → gives .getCapabilities 0x61 .caps (Config.spdmBytes 0xE1 tr)) ∧
     (s.fo.spdm = .caps → gives .negotiateAlgorithms 0x63 .negotiated (Config.spdmBytes 0xE3 tr)) ∧
     let slot0 := s.fo.chain ++ s.fo.bootCert
     let signed (bs : List Byte) : List Byte := bs ++ Config.ed448Sign s.fo.bootKey (sha3_512 (tr ++ bs))
     (ready → gives .getDigests 0x01 s.fo.spdm (Config.spdmBytes 0x81 tr ++ sha3_512 slot0)) ∧
     (ready → gives .getCertificate 0x02 s.fo.spdm (Config.spdmBytes 0x82 tr ++ slot0)) ∧
     (ready → gives .challenge 0x03 s.fo.spdm (signed (Config.spdmBytes 0x83 tr ++ sha3_512 slot0))) ∧
     (ready →
       let blocks := ((List.range 4).map fun i => (at_ s.fo.spdm tr).measBlock (i + 1)).flatten
       gives .getMeasurements 0x60 s.fo.spdm (signed (Config.spdmBytes 0xE0 tr ++ blocks))) ∧
     (s.fo.spdm = .negotiated → gives .keyExchange 0x64 .exchanging (signed (Config.spdmBytes 0xE4 tr))) ∧
     (s.fo.spdm = .exchanging → exec .finish s = .next { s with fo := { s.fo with transcript := tr ++ Config.spdmBytes 0xE5 tr, spdm := .session, peer := s.cur.n, spdmAnswer := some (0x65, Config.spdmBytes 0xE5 tr) } }) ∧
     let refused (i : Instr) : Prop := exec i s = .next { s with fo := { s.fo with spdmAnswer := some (0x7F, []) } }
     (s.fo.spdm ≠ .version → refused .getCapabilities) ∧ (s.fo.spdm ≠ .caps → refused .negotiateAlgorithms) ∧
     (¬ready → refused .getDigests ∧ refused .getCertificate ∧ refused .challenge ∧ refused .getMeasurements) ∧
     (s.fo.spdm ≠ .negotiated → refused .keyExchange) ∧ (s.fo.spdm ≠ .exchanging → refused .finish)) ∧
  (∀ (s : State),
     s.measBlock 1 = s.fo.meas ∧
     (s.measBlock 4 ≠ [] → s.fo.spdm = .session ∧ (s.tenant s.fo.peer).confidential = true))

/-- R310, R312, R353, R360, R363 to R366, R368, R369, R372, R374: a well-formed management command in a secured session that
has authenticated with the operator certificate has its effect and answers OK; every command without such a session, of
another version, of a length that does not fit it, with a reserved bit set or with a CODE that names none changes nothing and
answers its status. That a session of a confidential tenant is none of the operator's, and that a message with an unknown CODE
comes as the step of any command, is assumption 12. A layout that would cut a glade in two answers RANGE (assumption 25). -/
def Obligations.ManagementCommands : Prop :=
  ∀ (s : State),
    let r := s.cur.mreq
    let a (i : Nat) : Nat := (r.args.map BitVec.toNat).getD i 0
    let told (t : State) (code st : Nat) (ws : List W64) : State := { t with fo := { t.fo with answer := some (mgmtHeader code r st :: ws) } }
    let cmds : List (Instr × Nat × (Nat → Bool)) := [(.layout, 1, fun n => decide (n ≠ 0)), (.layoutRead, 2, fun n => decide (n = 0)),
      (.power, 3, fun n => decide (n = 2)), (.frameTable, 4, fun n => decide (n = 16)), (.gladeParams, 5, fun n => decide (n = 6)),
      (.tenant, 6, fun n => decide (n = 3 ∨ n = 10)), (.gladeAssign, 7, fun n => decide (n = 2)), (.svcBudget, 8, fun n => decide (n = 3)),
      (.l2Quota, 9, fun n => decide (n = 2)), (.twin, 10, fun n => decide (n = 3)), (.peerRoute, 11, fun n => decide (n = 2)),
      (.svnRaise, 12, fun n => decide (n = 1)), (.rasRead, 13, fun n => decide (n = 1)), (.rasClear, 14, fun n => decide (n = 1)),
      (.gladeCounters, 15, fun n => decide (n = 1))]
    let does (i : Instr) (code n : Nat) (t : State) (ws : List W64) : Prop := r.args.length = n → t.fo.st = .up → exec i s = .next (told t code 0 ws)
    s.fo.st = .up →
    (s.operatorSession r = true ↔ r.authenticated = true ∧ s.fo.cert ≠ none ∧ s.fo.spdm = .session ∧ s.fo.peer = 0) ∧
    (∀ q ∈ cmds, r.unknown = none →
      (s.operatorSession r = false → exec q.1 s = .next (told s q.2.1 3 [])) ∧
      (s.operatorSession r = true → r.mver ≠ 1#4 → exec q.1 s = .next (told s q.2.1 4 [])) ∧
      (s.operatorSession r = true → r.mver = 1#4 → (r.len ≠ 8 * r.args.length ∨ q.2.2 r.args.length = false) → exec q.1 s = .next (told s q.2.1 5 [])) ∧
      (s.operatorSession r = true → r.mver = 1#4 → r.len = 8 * r.args.length → q.2.2 r.args.length = true → r.reserved ≠ 0#64 →
        exec q.1 s = .next (told s q.2.1 2 []))) ∧
    (∀ q ∈ cmds, ∀ c : Byte, r.code = some c → (c = 0#8 ∨ 0x0F < c.toNat) → s.operatorSession r = true → r.mver = 1#4 →
      exec q.1 s = .next (told s c.toNat 5 [])) ∧
    (s.operatorSession r = true → r.mver = 1#4 → r.len = 8 * r.args.length → r.reserved = 0#64 → r.unknown = none →
      (∀ i j, j < 24 → (s.island i).st = .active → (s.island j).st = .active → (s.island i).first = (s.island j).first →
        (∃ w ∈ r.args, i ∈ wordIslands w.toNat) → (∀ w ∈ r.args, j ∉ wordIslands w.toNat) → exec .layout s = .next (told s 0x01 2 [])) ∧
      (r.args ≠ [] → s.layoutRange (r.args.map BitVec.toNat) = true → s.pending = false →
        s.changes (r.args.map BitVec.toNat) (s.fo.lastSeq + 1) = [] → exec .layout s = .next (told s 0x01 0 [])) ∧
      (let ps := s.changes (r.args.map BitVec.toNat) (s.fo.lastSeq + 1)
       let t := ps.foldl (fun s r => s.setIsland r.island { s.island r.island with st := .pending }) s
       let u : State := { t with fo := { t.fo with journal := t.fo.journal ++ (ps ++ [{ commit := true, seq := s.fo.lastSeq + 1, nprep := ps.length - 1 }]), lastSeq := s.fo.lastSeq + 1 } }
       r.args ≠ [] → s.layoutRange (r.args.map BitVec.toNat) = true → s.pending = false → ps ≠ [] → s.cur.flag = false →
       (∀ p ∈ ps, (s.island p.island).st ≠ .active ∨ s.gladeIdle (s.island p.island).first = true) → (u.applyLayout ps).fo.st = .up →
        exec .layout s = .next (told (u.applyLayout ps) 0x01 0 [])) ∧
      does .layoutRead 0x02 0 s ((List.range 24).map (islandWord s) ++ [BitVec.ofNat 64 s.fo.lastSeq]) ∧
      (a 0 < 24 → 80 ≤ bitsOf (a 1) 9 0 → bitsOf (a 1) 9 0 ≤ 360 → 8 ≤ bitsOf (a 1) 14 10 → bitsOf (a 1) 14 10 ≤ 16 → bitsOf (a 1) 63 21 = 0 →
        (s.island (a 0)).st ≠ .pending →
        (List.range 24).foldl (fun n j => if (s.island j).st = .disabled then n else n + (if j = a 0 then bitsOf (a 1) 9 0 else (s.island j).capw)) 0 ≤ 6288 →
        let fm := bitsOf (a 1) 14 10
        let fc := max fm (s.island (a 0)).fcur
        does .power 0x03 2 (s.setIsland (a 0) { s.island (a 0) with capw := bitsOf (a 1) 9 0, fmin := fm, fcur := fc, thr := decide (fc = fm) && decide (bitsOf (a 1) 9 0 < (s.island (a 0)).avg) }) []) ∧
      (let ws := (r.args.map BitVec.toNat).map fun e => BitVec.ofNat 32 e
       (∀ e ∈ r.args, e.toNat < 2 ^ 20) → (∀ e ∈ ws, tabWeight e 0 + tabWeight e 1 + tabWeight e 2 + tabWeight e 3 = 16) →
        (∀ p < 4, ∃ e ∈ ws, tabWeight e p ≠ 0) → does .frameTable 0x04 16 { s with fo := { s.fo with pendTable := some ws } } []) ∧
      (∀ g, s.glade? (a 0) = some g → 12 ≤ a 1 → a 1 ≤ 20 → 64 ≤ a 2 → a 2 ≤ 65536 → a 5 ≤ 160 → s.gladeIdle (a 0) = true →
        (s.island (a 0)).st ≠ .pending →
        does .gladeParams 0x05 6 (s.setGlade (a 0) { g with poolLog := a 1, spillSize := a 2, parkTimeout := if a 3 = 0 then 1100000 else a 3, quick := if a 4 = 0 then 110000 else a 4, shareCap := a 5 }) []) ∧
      (0 < a 0 → a 0 < 4096 → a 1 = 0 → Store.get? s.fo.tenants (a 0) = none →
        does .tenant 0x06 3 (s.setTenant (a 0) { confidential := false, limit := a 2, key := [] }) []) ∧
      (∀ g, s.glade? (a 0) = some g → s.isTenant (a 1) = true → s.gladeIdle (a 0) = true → (s.island (a 0)).st ≠ .pending →
        does .gladeAssign 0x07 2 (if g.tenant = a 1 then s else s.setGlade (a 0) { g with tenant := a 1, binds := [], weights := [] }) []) ∧
      (a 0 < 192 → s.isTenant (a 1) = true → a 2 + (Store.del (s.core (a 0)).budgets (a 1)).foldl (fun m q => m + q.2) 0 ≤ 1100000 →
        does .svcBudget 0x08 3 (s.setCore (a 0) { s.core (a 0) with budgets := Store.set (s.core (a 0)).budgets (a 1) (a 2) }) []) ∧
      (s.isTenant (a 0) = true → a 1 ≤ 16384 → does .l2Quota 0x09 2 (s.setTenant (a 0) { s.tenant (a 0) with quota := a 1 }) []) ∧
      (∀ p q, s.glade? (a 0) = some p → s.glade? (a 1) = some q → p.nisl = q.nisl → p.tenant = q.tenant → a 0 < a 1 → a 1 < 2 ^ 64 - 1 → a 2 < 16 →
        s.gladeIdle (a 0) = true → s.gladeIdle (a 1) = true → (s.island (a 0)).st ≠ .pending → (s.island (a 1)).st ≠ .pending →
        does .twin 0x0A 3 { s with fo := { s.fo with twin := some { prim := a 0, sec := a 1, queue := a 2 } } } []) ∧
      (a 0 < 64 → a 1 < 2 ^ 18 → a 1 ≠ 0 → does .peerRoute 0x0B 2 { s with fo := { s.fo with routes := Store.set s.fo.routes (a 0) (BitVec.ofNat 18 (a 1)) } } []) ∧
      (s.fo.fuseSvn ≤ a 0 → a 0 ≤ s.fo.svn → does .svnRaise 0x0C 1 { s with fo := { s.fo with fuseSvn := a 0 } } []) ∧
      (a 0 < 1536 → does .rasRead 0x0D 1 s (Ras.words (Store.getD s.fo.ras (a 0) {}))) ∧
      (a 0 < 1536 → does .rasClear 0x0E 1 { s with fo := { s.fo with ras := Store.del s.fo.ras (a 0) } } []) ∧
      (∀ g, s.glade? (a 0) = some g →
        does .gladeCounters 0x0F 1 s ([g.commits, g.aborts, g.fails, g.busy, g.softs, g.linkFs, g.rollbacks].map (BitVec.ofNat 64))))

/-- R303, R308, R312, R313, R321, R330, R352, R357, R358: each call of the firmware ABI has its effect and answers 0 in a0
where its checks hold; NOTICE_READ answers the oldest notice. The order of a call's checks is the model's (assumption
24). -/
def Obligations.AbiCalls : Prop :=
  ∀ (s : State),
    let c := s.cur.core
    let x := s.core c
    let t := x.caller
    let a := x.reg 10
    let b := x.reg 11
    let d := x.reg 12
    let answers (i : Instr) (code : Nat) (v : W64) (u : State) : Prop := (x.reg 17).toNat = code → exec i s = .next (u.coreRet c 10 v)
    s.fo.st = .up → x.wait = none →
    (let fs := (List.range b.toNat).map fun i => a.toNat / 2 ^ 16 + i
     a.toNat / 2 ^ 16 + b.toNat ≤ dramFrames →
      ((∀ f ∈ fs, (s.frame f).st = .free) → (t = 0 ∨ s.framesOf t + b.toNat ≤ (s.tenant t).limit) →
        answers .frameClaim 0x4643 0#64 (fs.foldl (fun s f => s.setFrame f { s.frame f with st := .owned, tenant := t }) s)) ∧
      ((∃ f ∈ fs, (s.frame f).st ≠ .free) → answers .frameClaim 0x4643 1#64 s) ∧
      ((∀ f ∈ fs, (s.frame f).st = .owned ∧ (s.frame f).tenant = t) →
        answers .frameReturn 0x4652 0#64 (fs.foldl (fun s f => s.setFrame f { s.frame f with st := .scrubbing }) s))) ∧
    (Store.get? s.asids (a.toNat % 2 ^ 16) = none → b.toNat % 4096 = 0 → b ≠ 0#64 → b.toNat / 2 ^ 16 < dramFrames → (s.frame (b.toNat / 2 ^ 16)).st = .owned →
      (s.frame (b.toNat / 2 ^ 16)).tenant = t →
      answers .asidSet 0x4153 0#64 { s with asids := Store.set s.asids (a.toNat % 2 ^ 16) ⟨b.toNat, t⟩ }) ∧
    (∀ g, s.glade? a.toNat = some g → g.tenant = t → b.toNat < 16 → d = allOnes → Store.getD g.queues b.toNat [] = [] →
      answers .queueBind 0x5142 0#64 (s.setGlade a.toNat { g with binds := Store.del g.binds b.toNat })) ∧
    (∀ g e, s.glade? a.toNat = some g → g.tenant = t → b.toNat < 16 → d ≠ allOnes → Store.get? s.asids d.toNat = some e → e.tenant = t →
      Store.getD g.queues b.toNat [] = [] →
      answers .queueBind 0x5142 0#64 (s.setGlade a.toNat { g with binds := Store.set g.binds b.toNat (t, d.setWidth 16) })) ∧
    (b = allOnes → answers .ringRegister 0x5247 0#64 { s with host := { s.host with rings := s.host.rings.filter fun r => !(decide (r.va = a) && decide (r.asid = x.asid)) } }) ∧
    (∀ h, b ≠ allOnes → s.fwRead x.asid a.toNat 64 = some h → ringOk h = true → a.toNat % 4096 = 0 → a.toNat < 2 ^ 48 →
      (∀ i < (ringBytes (recBits h 7 4) + 65535 + a.toNat % 2 ^ 16) / 2 ^ 16,
        (s.tenantImm t x.asid (a.toNat / 2 ^ 16 * 2 ^ 16 + i * 2 ^ 16) true).isSome = true) →
      (s.glade? b.toNat).isSome = true → (s.host.rings.filter fun r => decide (r.glade = b.toNat)).length < 16 →
      let r : Ring := { glade := b.toNat, va := a, asid := x.asid, core := c, lcap := recBits h 7 4 }
      answers .ringRegister 0x5247 0#64 (({ s with host := { s.host with rings := s.host.rings ++ [r] } } : State).ringStatus r h 0)) ∧
    (∀ g, s.glade? a.toNat = some g → g.tenant = t → b.toNat < 4 → 0 < d.toNat → d.toNat < 16 →
      answers .svcWeight 0x5357 0#64 (s.setGlade a.toNat { g with weights := Store.set g.weights b.toNat d.toNat })) ∧
    (a.toNat < 16 → d.toNat ≠ 0 → b.toNat % 4096 = 0 → d.toNat % 4096 = 0 → b.toNat + d.toNat ≤ 2 ^ 50 →
      (∀ q ∈ Store.del (s.tenant t).hostRanges a.toNat, overlaps b.toNat d.toNat q.2.1 q.2.2 = false) →
      answers .hostRange 0x484D 0#64 (s.setTenant t { s.tenant t with hostRanges := Store.set (s.tenant t).hostRanges a.toNat (b.toNat, d.toNat) })) ∧
    (s.fo.abi = 1 → answers .collective 0x434C allOnes s) ∧
    (∀ q, s.fo.abi ≠ 1 → s.collOf x c t a = some q → (∀ p ∈ q.list, p = 255 ∨ 2 ≤ s.peerVersion p) → s.links.colls.length < 16 →
      answers .collective 0x434C 0#64 { s with links := { s.links with colls := s.links.colls ++ [q] } }) ∧
    (a = 0#64 → answers .noticeWord 0x4E57 0#64 (s.setTenant t { s.tenant t with noticeWord := none })) ∧
    (a ≠ 0#64 → a.toNat % 8 = 0 → a.toNat < 2 ^ 48 → (s.tenantImm t x.asid a.toNat false).isSome = true →
      answers .noticeWord 0x4E57 0#64 (s.setTenant t { s.tenant t with noticeWord := some (x.asid, a) })) ∧
    (∀ w r, (s.tenant t).notices = w :: r → answers .noticeRead 0x4E52 w (s.setTenant t { s.tenant t with notices := r })) ∧
    ((s.tenant t).notices = [] → answers .noticeRead 0x4E52 0#64 s) ∧
    (s.ownsGlade t a.toNat = true → b.toNat + 31 < 2 ^ 48 → (s.tenantImm t x.asid b.toNat true).isSome = true → (s.tenantImm t x.asid (b.toNat + 31) true).isSome = true →
      answers .prqInfo 0x5051 0#64 (s.fwWrite x.asid b.toNat (bytesOfWords [Config.prqAddr, Config.prqAnswer, Config.prqStatus, Config.doorbell a.toNat])).2)

/-! ### Rules of the spec, stated whole -/

/-- R145: NOP has no operands, no targets and no effect, and its TY, TA and TB are zero. -/
def Obligations.NopDoesNothing : Prop :=
  ∀ (pr : PR) (s : State) (x : FX) (w : W32),
    usesOf (.nop pr) = 0 ∧ tgtsOf (.nop pr) = [] ∧
    (Fires (.nop pr) s x → exec (.nop pr) s = .next (x.s.setRun x.pl (x.r.mark x.slot))) ∧
    (w.extractLsb' 24 8 = 0x01#8 → w.extractLsb' 22 2 = wrPR pr →
      (decodeTile w = .ok (.nop pr) ↔ w.extractLsb' 18 4 = 0#4 ∧ w.extractLsb' 9 9 = 0#9 ∧ w.extractLsb' 0 9 = 0#9))

/-- R146: MOVI delivers IMM13 sign-extended to 64 bits, CONST the constant of the block that IMM13 names, both with tag
I64; MOVI encodes as opcode, PR, IMM13 in bits 21:9 and TA in bits 8:0. -/
def Obligations.MoviAndConst : Prop :=
  ∀ (pr : PR) (imm : BitVec 13) (k : BitVec 4) (ta : Tgt) (s : State) (x : FX),
    let puts (i : Instr) (r : W64) : Prop :=
      Fires i s x → x.free [(ta, scalarVal r .i64)] → exec i s = .next (x.out [(ta, scalarVal r .i64)] [])
    puts (.movi pr imm ta) (imm.signExtend 64) ∧
    puts (.const pr k ta) (x.r.consts.getD k.toNat 0#64) ∧
    (encode (.movi pr imm ta)).extractLsb' 24 8 = 0x02#8 ∧ (encode (.movi pr imm ta)).extractLsb' 22 2 = wrPR pr ∧
    (encode (.movi pr imm ta)).extractLsb' 9 13 = imm ∧ (encode (.movi pr imm ta)).extractLsb' 0 9 = wrTgt ta ∧
    encode (.movi .always 0#13 (.c 4#6)) = 0x020000C4#32 ∧
    (encode (.const pr k ta)).extractLsb' 24 8 = 0x03#8 ∧ (encode (.const pr k ta)).extractLsb' 9 13 = k.setWidth 13

/-- R180: MAND, MOR and MNOT deliver a MASK with tag U64, MPOPC the number of 1 bits as a SCALAR with tag U64, all with
LMASK 1, and with mask operands none of them faults. -/
def Obligations.MaskLogic : Prop :=
  ∀ (pr : PR) (tb ta : Tgt) (s : State) (x : FX) (a b : W64),
    let puts (i : Instr) (sh : Shape) (v : W64) : Prop :=
      let o : Val := .dat ⟨sh, [v], .u64, 1#64⟩
      Fires i s x → x.free [(ta, o), (tb, o)] → exec i s = .next (x.out [(ta, o), (tb, o)] [])
    x.a.s64 = some a → x.b.s64 = some b →
    puts (.mand pr tb ta) .mask (a &&& b) ∧
    puts (.mor pr tb ta) .mask (a ||| b) ∧
    puts (.mnot pr tb ta) .mask (~~~a) ∧
    puts (.mpopc pr tb ta) .scalar (BitVec.ofNat 64 (((List.range 64).filter fun j => a.getLsbD j).length))

/-- R60: a rewind sets the reader's read cursor back by n; where that lies before its release cursor, it raises F_SHAPE
and changes nothing of the stream. The positions of reads already issued do not change. -/
def Obligations.RewindMovesReadCursor : Prop :=
  ∀ (s : State) (l : Nat) (x : Launch) (r : Req) (i : Nat) (st : Stream),
    let pl := s.cur.pl
    let j := s.readerIx pl st
    let q := st.rdOf j - r.b.setWidth 32
    s.streamReady pl s.cur.rid = some (l, x, r, i, st) → r.kind = .srew →
    (before q (st.relOf j) = true →
      let t := s.reqFault pl r .shape 0 0#64
      exec .streamRewind s = .next (t.wake []) ∧ (t.launch? l).map (·.streams) = some x.streams) ∧
    (before q (st.relOf j) = false → st.forced.getLsbD j = false →
      let t := (s.setStream l i { st with rd := st.rd.set j q, served := true }).retire pl s.cur.rid
      exec .streamRewind s = .next (t.wake []) ∧
      ∀ p k, k ≠ s.cur.rid → (t.req? p k).map (·.pos) = (s.req? p k).map (·.pos))

/-! ### The machine as a whole -/

/-- R3, R134, R251: A STEP RUNS THE DECODED INSTRUCTION. The slot of a mapped block that is next, the word at the pc of a
core that is next, and the step of the machine that is next run their instruction's `exec`, and nothing stands around
it but that the agenda moves on and the step's operands are set. The agenda is the model's (assumption 1). -/
def Obligations.StepRunsDecodedWords : Prop :=
  ∀ (s : State) (i : Instr) (rest : List Move),
    (∀ pl slot f r w, s.agenda = .fire pl slot :: rest → (s.plane pl).firing = some f → f.run = some r → r.words[slot]? = some w →
      decodeTile w = .ok i → step s = exec i { s with agenda := rest, cur := { s.cur with pl := pl, slot := slot } }) ∧
    (∀ c, s.agenda = .core c :: rest → (s.core c).wait = none → s.coreOff c = false →
      decodeBorderBytes (Memory.readBytes s.mem (coreKey c (s.core c).pc.toNat) 4) = .ok (i, []) →
      step s = exec i { s with agenda := rest, cur := { s.cur with core := c, flag := false, flag2 := false, tear := false } }) ∧
    (∀ x, s.agenda = .event i x :: rest → i.hasWord = false → step s = exec i { s with agenda := rest, cur := x }) ∧
    (∀ x, s.agenda = [] → s.default = .event i x → i.hasWord = false → step s = exec i { s with cur := x })

/-- R134, R138, R251: words of the spec's own examples decode to the instructions they stand for. -/
def Obligations.EncodingsDecode : Prop :=
  decodeTableWord 32 0x02080041 = some (.movi .always 0x400#13 (.a 1#6)) ∧
  decodeTableWord 32 0x020000C4 = some (.movi .always 0#13 (.c 4#6)) ∧
  decodeTableWord 32 0x20008843 = some (.add .always .d64 (.a 4#6) (.a 3#6)) ∧
  decodeTableWord 32 0x15000000 = some (.tend .always)

/-- R124 to R126, R134, R251: decoding the word of a well-formed instruction gives the instruction back, with every
operand; but the words of JCMD_PRE, JCMD_SNAP, JCMD_STOP and JCMD_RESUME, which are one word with that of JCMD_KILL, read back
as it (assumption 35). -/
def Obligations.DecodeEncode : Prop :=
  ∀ i : Instr, Sys2Proof.Laws.RoundTrip.Statement i

/-- Every step keeps memory in its canonical form: addresses rise and no entry holds what an unlisted address reads as
(assumption 3). -/
def Obligations.StepKeepsInv : Prop :=
 ∀ s t : State, s.Inv → step s = .next t → t.Inv

/-- R310, R360, R365, R368: after reset the Forester has not started, every island is QUIESCED at its reset power
register, every entry of the frame table holds weight 4 four times, there is no glade and no launch. The reset state
has the invariant. -/
def Obligations.ResetState : Prop :=
  (State.reset.fo.st = .off ∧
   (∀ k < 24, State.reset.island k = { first := k, st := .quiesced, nisl := 0, capw := 262, fmin := 8, fcur := 16, thr := false }) ∧
   State.reset.fo.table.length = 16 ∧
   (∀ w ∈ State.reset.fo.table, w.extractLsb' 0 5 = 4#5 ∧ w.extractLsb' 5 5 = 4#5 ∧ w.extractLsb' 10 5 = 4#5 ∧ w.extractLsb' 15 5 = 4#5 ∧ w.extractLsb' 20 12 = 0#12) ∧
   State.reset.glades = [] ∧ State.reset.launches = []) ∧
  (State.reset.Inv)
end

