-- ==== Sys2Proof/Laws/Fire.lean ====
section
/-!
SUPPORT. What firing an instruction does: one lemma for the shared frame `fireWord`, one for each way in which it ends.
-/
namespace Sys2Proof.Machine

/-- An instruction that fires answers the next state that its outcome leaves. -/
theorem fireWord_fires {i : Instr} {s : State} {x : FX} (h : Fires i s x) (k : FX → FR) :
    fireWord i s k = .next (x.s.fireOut x.pl x.r x.slot (k x)) := by
  obtain ⟨xs, xpl, xp, xf, xr, xslot, xa, xb, xc⟩ := x
  obtain ⟨h1, h2, h3, h4, h5, h6, h7, h8, h9, h10⟩ := h
  simp only at h1 h2 h3 h4 h5 h6 h7 h8 h9
  subst h1 h2 h9
  simp only [fireWord, h3, h4, h5]
  rw [if_neg (by simpa using h6)]
  simp only [h7, h8]
  rw [if_neg (by simpa using h10)]

/-- Values and effects. -/
theorem fireOut_go {x : FX} {outs : List (Tgt × Val)} (effs : List Eff) (h : x.free outs) :
    x.s.fireOut x.pl x.r x.slot (.go outs effs) = x.out outs effs := by
  obtain ⟨r, hr⟩ := Option.isSome_iff_exists.mp h
  simp [State.fireOut, FX.out, hr]

/-- One effect for commit and no value. -/
theorem fireOut_effect (x : FX) (e : Eff) :
    x.s.fireOut x.pl x.r x.slot (.go [] [e]) = x.effect e := by
  simp [State.fireOut, FX.effect, BlockRun.putAll, BlockRun.mark]

/-- No value and no effect. -/
theorem fireOut_none (x : FX) : x.s.fireOut x.pl x.r x.slot (.go [] []) = x.out [] [] := by
  simp [State.fireOut, FX.out, BlockRun.putAll]

/-- An exit, where none has fired. -/
theorem fireOut_exit {x : FX} (e : ExitKind) (effs : List Eff) (h : x.r.exits = []) :
    x.s.fireOut x.pl x.r x.slot (.exit e effs) = x.leave e effs := by
  simp [State.fireOut, FX.leave, h]

/-- A wave whose number has not been skipped. -/
theorem fireOut_wave {x : FX} (w : Wave) (h : x.r.waves.getD w.lk.seq.toNat .opened ≠ .skipped) :
    x.s.fireOut x.pl x.r x.slot (.wave w) = x.await w := if_neg h

/-- A fault raised at firing. -/
theorem fireOut_fault (x : FX) (cls : FCls) (code : Nat) (info : W64) :
    x.s.fireOut x.pl x.r x.slot (.fault cls code info) = x.s.blockFault x.pl cls code x.slot info := rfl

end Sys2Proof.Machine
end

