-- ==== Sys2Proof/Laws/Lanes.lean ====
section
/-!
SUPPORT. What the lane-wise operations answer: a result where no active lane raises, F_ARITH where one does (R107, R176).
-/
namespace Sys2Proof.Machine

theorem lanesGo_ok (act : W64) (f : Nat → LR) (g : Nat → Nat) : ∀ n j,
    (∀ k, j ≤ k → k < j + n → bitAt act k = true → f k = .ok (g k)) →
    lanesGo act f n j = some ((List.range' j n).map fun k => if bitAt act k then BitVec.ofNat 64 (g k) else 0#64)
  | 0, _, _ => rfl
  | n + 1, j, h => by
    have ih := lanesGo_ok act f g n (j + 1) fun k h1 h2 => h k (by omega) (by omega)
    cases hb : bitAt act j with
    | true => simp [lanesGo, hb, h j (Nat.le_refl j) (by omega) hb, ih, List.range'_succ]
    | false => simp [lanesGo, hb, ih, List.range'_succ]

theorem lanesGo_arith (act : W64) (f : Nat → LR) {k : Nat} (hb : bitAt act k = true) (hf : f k = .arith) : ∀ n j,
    j ≤ k → k < j + n → lanesGo act f n j = none
  | 0, j, h1, h2 => by omega
  | n + 1, j, h1, h2 => by
    by_cases hk : j = k
    · subst hk; simp [lanesGo, hb, hf]
    · have ih := lanesGo_arith act f hb hf n (j + 1) (by omega) (by omega)
      cases hj : bitAt act j with
      | true => cases hfj : f j <;> simp [lanesGo, hj, hfj, ih]
      | false => simp [lanesGo, hj, ih]

/-- A lane-wise instruction whose active lanes all answer. -/
theorem vecOut_ok (tb ta : Tgt) (ty : ETy) {act : W64} {f : Nat → LR} {g : Nat → Nat}
    (h : ∀ j < 64, bitAt act j = true → f j = .ok (g j)) :
    vecOut tb ta ty act f = outBoth tb ta (vecVal (mkLanes fun j => if bitAt act j then BitVec.ofNat 64 (g j) else 0#64) ty act) := by
  unfold vecOut
  rw [lanesGo_ok act f g 64 0 fun k _ hk hb => h k (by omega) hb, ← List.range_eq_range']
  rfl

/-- A lane-wise instruction on an integer type: each active lane is its number in canonical form (R101). -/
theorem vecOut_int (tb ta : Tgt) (ty : ETy) {act : W64} {f : Nat → LR} {r : Nat → Int}
    (h : ∀ j < 64, bitAt act j = true → f j = laneInt ty (r j)) :
    vecOut tb ta ty act f = outBoth tb ta (vecVal (mkLanes fun j => if bitAt act j then canon ty (r j) else 0#64) ty act) := by
  rw [vecOut_ok (g := fun j => (canon ty (r j)).toNat) tb ta ty h]
  simp

/-- A lane-wise instruction with an active lane that raises. -/
theorem vecOut_arith (tb ta : Tgt) (ty : ETy) {act : W64} {f : Nat → LR} {j : Nat} (hj : j < 64) (hb : bitAt act j = true)
    (hf : f j = .arith) : vecOut tb ta ty act f = .fault .arith 0 0#64 := by
  unfold vecOut
  rw [lanesGo_arith act f hb hf 64 0 (by omega) (by omega)]

/-- A lane of a vector that is built lane by lane. -/
@[simp] theorem laneAt_mkLanes (f : Nat → W64) {j : Nat} (h : j < 64) : laneAt (mkLanes f) j = f j := by
  simp [laneAt, mkLanes, List.getD, h]

theorem mkLanes_congr {f g : Nat → W64} (h : ∀ j < 64, f j = g j) : mkLanes f = mkLanes g :=
  List.map_congr_left fun j hj => h j (List.mem_range.mp hj)

theorem foldl_congr_range {f g : Nat → Bool} : ∀ (l : List Nat) (a : Nat), (∀ j ∈ l, f j = g j) →
    l.foldl (fun acc j => if f j then acc + 2 ^ j else acc) a = l.foldl (fun acc j => if g j then acc + 2 ^ j else acc) a
  | [], _, _ => rfl
  | j :: t, a, h => by
    simp only [List.foldl_cons, h j (List.mem_cons_self ..)]
    exact foldl_congr_range t _ fun k hk => h k (List.mem_cons_of_mem _ hk)

theorem mkMask_congr {f g : Nat → Bool} (h : ∀ j < 64, f j = g j) : mkMask f = mkMask g := by
  unfold mkMask
  rw [foldl_congr_range _ _ fun j hj => h j (List.mem_range.mp hj)]

/-- A mask result of a compare whose active lanes all answer. -/
theorem maskOut_ok (tb ta : Tgt) {act : W64} {f : Nat → LR} {g : Nat → Nat}
    (h : ∀ j < 64, bitAt act j = true → f j = .ok (g j)) :
    maskOut tb ta act f = outBoth tb ta (maskVal (mkMask fun j => bitAt act j && (laneAt (mkLanes fun j =>
      if bitAt act j then BitVec.ofNat 64 (g j) else 0#64) j).getLsbD 0)) := by
  unfold maskOut
  rw [lanesGo_ok act f g 64 0 fun k _ hk hb => h k (by omega) hb, ← List.range_eq_range']
  rfl

end Sys2Proof.Machine
end

