-- ==== Sys2Proof/Laws/Memory.lean ====
section
/-!
SUPPORT. Memory: its canonical form is kept by every operation, a read after a write gives what was written, and a write
leaves every other address alone.
-/
namespace Sys2Proof.Machine

theorem Memory.wf_cons {a : Nat} {b : Byte} {t : Memory} :
    Memory.wf ((a, b) :: t) = true ↔ b ≠ Config.unlisted ∧ (∀ c ∈ t, a < c.1) ∧ Memory.wf t = true := by
  induction t generalizing a b with
  | nil => simp [Memory.wf]
  | cons c t ih =>
    obtain ⟨a', b'⟩ := c
    simp only [Memory.wf, Bool.and_eq_true, bne_iff_ne, decide_eq_true_eq, List.mem_cons, forall_eq_or_imp]
    constructor
    · rintro ⟨⟨h1, h2⟩, h3⟩
      exact ⟨h1, ⟨h2, fun c hc => Nat.lt_trans h2 ((ih.mp h3).2.1 c hc)⟩, h3⟩
    · rintro ⟨h1, ⟨h2, -⟩, h3⟩
      exact ⟨⟨h1, h2⟩, h3⟩

@[simp] theorem Memory.wf_nil : Memory.wf [] = true := rfl

/-- A write adds no address below those that were there and its own. -/
theorem Memory.write_above {m : Memory} {k a : Nat} {v : Byte} (hk : a < k) (hm : ∀ c ∈ m, a < c.1) :
    ∀ c ∈ m.write k v, a < c.1 := by
  induction m with
  | nil => intro c hc; simp only [Memory.write] at hc; split at hc <;> simp_all
  | cons d t ih =>
    obtain ⟨a', b'⟩ := d
    simp only [List.mem_cons, forall_eq_or_imp] at hm
    intro c hc
    simp only [Memory.write] at hc
    split at hc
    · split at hc <;> simp only [List.mem_cons] at hc
      · rcases hc with rfl | hc
        · exact hm.1
        · exact hm.2 c hc
      · rcases hc with rfl | rfl | hc
        · exact hk
        · exact hm.1
        · exact hm.2 c hc
    · split at hc
      · split at hc
        · exact hm.2 c hc
        · rcases List.mem_cons.mp hc with rfl | hc
          · exact hk
          · exact hm.2 c hc
      · rcases List.mem_cons.mp hc with rfl | hc
        · exact hm.1
        · exact ih hm.2 c hc

/-- A write keeps the canonical form. -/
@[simp] theorem Memory.wf_write {m : Memory} {k : Nat} {v : Byte} (h : m.wf = true) : (m.write k v).wf = true := by
  induction m with
  | nil => simp only [Memory.write]; split <;> simp_all [Memory.wf]
  | cons d t ih =>
    obtain ⟨a, b⟩ := d
    obtain ⟨hb, ha, ht⟩ := Memory.wf_cons.mp h
    simp only [Memory.write]
    split
    · split
      · exact h
      · rename_i hk hv
        refine Memory.wf_cons.mpr ⟨hv, ?_, h⟩
        intro c hc
        rcases List.mem_cons.mp hc with rfl | hc
        · exact hk
        · exact Nat.lt_trans hk (ha c hc)
    · split
      · rename_i hk
        subst hk
        split
        · exact ht
        · exact Memory.wf_cons.mpr ⟨‹_›, ha, ht⟩
      · exact Memory.wf_cons.mpr ⟨hb, Memory.write_above (by omega) ha, ih ht⟩

/-- Writing bytes keeps the canonical form. -/
@[simp] theorem Memory.wf_writeBytes {m : Memory} {a : Nat} {bs : List Byte} (h : m.wf = true) : (m.writeBytes a bs).wf = true := by
  induction bs generalizing m a with
  | nil => exact h
  | cons b t ih => exact ih (Memory.wf_write h)

/-- Removing entries keeps the canonical form. -/
theorem Memory.wf_filter {m : Memory} (p : Host.Cell → Bool) (h : m.wf = true) : Memory.wf (m.filter p) = true := by
  induction m with
  | nil => rfl
  | cons d t ih =>
    obtain ⟨a, b⟩ := d
    obtain ⟨hb, ha, ht⟩ := Memory.wf_cons.mp h
    by_cases hp : p (a, b) = true
    · rw [List.filter_cons_of_pos hp]
      exact Memory.wf_cons.mpr ⟨hb, fun c hc => ha c (List.mem_filter.mp hc).1, ih ht⟩
    · rw [List.filter_cons_of_neg hp]; exact ih ht

/-- An address below every entry reads as unlisted. -/
theorem Memory.read_below {m : Memory} {k : Nat} (h : ∀ c ∈ m, k < c.1) : m.read k = Config.unlisted := by
  induction m with
  | nil => rfl
  | cons d t ih =>
    obtain ⟨a, b⟩ := d
    simp only [List.mem_cons, forall_eq_or_imp] at h
    rw [Memory.read, if_neg (by omega)]; exact ih h.2

/-- A read after a write to the same address. -/
theorem Memory.read_write_same {m : Memory} (h : m.wf = true) (k : Nat) (v : Byte) : (m.write k v).read k = v := by
  induction m with
  | nil => simp only [Memory.write]; split <;> simp_all [Memory.read]
  | cons d t ih =>
    obtain ⟨a, b⟩ := d
    obtain ⟨hb, ha, ht⟩ := Memory.wf_cons.mp h
    simp only [Memory.write]
    split
    · rename_i hk
      split
      · rename_i hv
        rw [hv]; apply Memory.read_below
        intro c hc
        rcases List.mem_cons.mp hc with rfl | hc
        · exact hk
        · exact Nat.lt_trans hk (ha c hc)
      · simp [Memory.read]
    · split
      · rename_i hk
        subst hk
        split
        · rename_i hv; rw [hv]; exact Memory.read_below ha
        · simp [Memory.read]
      · rw [Memory.read, if_neg (by omega)]; exact ih ht

/-- A write leaves every other address alone. -/
theorem Memory.read_write_other {m : Memory} {k j : Nat} (hj : j ≠ k) (v : Byte) : (m.write k v).read j = m.read j := by
  induction m with
  | nil => simp only [Memory.write]; split <;> simp [Memory.read]; omega
  | cons d t ih =>
    obtain ⟨a, b⟩ := d
    simp only [Memory.write]
    split
    · split
      · rfl
      · rw [Memory.read, if_neg (by omega)]
    · split
      · rename_i hk
        subst hk
        split <;> simp only [Memory.read] <;> rw [if_neg (by omega)]
        rw [if_neg (by omega)]
      · simp only [Memory.read, ih]

/-- Writing bytes leaves every address outside them alone. -/
theorem Memory.read_writeBytes_other {m : Memory} {a j : Nat} {bs : List Byte} (h : j < a ∨ a + bs.length ≤ j) :
    (m.writeBytes a bs).read j = m.read j := by
  induction bs generalizing m a with
  | nil => rfl
  | cons b t ih =>
    simp only [List.length_cons] at h
    rw [Memory.writeBytes, ih (by omega), Memory.read_write_other (by omega)]

/-- A read of a byte that was written. -/
theorem Memory.read_writeBytes_same {m : Memory} (h : m.wf = true) {a i : Nat} {bs : List Byte} (hi : i < bs.length) :
    (m.writeBytes a bs).read (a + i) = bs[i] := by
  induction bs generalizing m a i with
  | nil => simp at hi
  | cons b t ih =>
    cases i with
    | zero => rw [Memory.writeBytes, Memory.read_writeBytes_other (by omega)]; exact Memory.read_write_same h a b
    | succ i =>
      simp only [List.length_cons] at hi
      rw [Memory.writeBytes, show a + (i + 1) = a + 1 + i by omega, ih (Memory.wf_write h) (by omega)]; rfl

/-- The bytes that were written read back. -/
theorem Memory.readBytes_writeBytes {m : Memory} (h : m.wf = true) (a : Nat) (bs : List Byte) :
    (m.writeBytes a bs).readBytes a bs.length = bs := by
  apply List.ext_getElem
  · simp [Memory.readBytes]
  · intro i h1 h2
    simp only [Memory.readBytes, List.getElem_map, List.getElem_range]
    exact Memory.read_writeBytes_same h h2

/-! ### Finite maps -/

@[simp] theorem Store.get?_set_same {α : Type} (m : Store α) (k : Nat) (v : α) : Store.get? (Store.set m k v) k = some v := by
  induction m with
  | nil => simp [Store.set, Store.get?]
  | cons d t ih =>
    obtain ⟨a, x⟩ := d
    simp only [Store.set]
    split
    · simp [Store.get?]
    · split
      · simp [Store.get?]
      · rw [Store.get?, if_neg (by omega)]; exact ih

theorem Store.get?_set_other {α : Type} (m : Store α) {k j : Nat} (v : α) (h : j ≠ k) : Store.get? (Store.set m k v) j = Store.get? m j := by
  induction m with
  | nil => simp [Store.set, Store.get?]; omega
  | cons d t ih =>
    obtain ⟨a, x⟩ := d
    simp only [Store.set]
    split
    · simp only [Store.get?]; rw [if_neg (by omega)]
    · split
      · rename_i hk; subst hk; simp only [Store.get?]; rw [if_neg (by omega), if_neg (by omega)]
      · simp only [Store.get?, ih]

end Sys2Proof.Machine
end

