-- ==== Sys2Proof/Laws/State.lean ====
section
/-!
SUPPORT. The updates of State: what each writes reads back, and every other field is as before, so that no proof unfolds a
record update. After them, what the shared operations on memory keep.
-/
namespace Sys2Proof.Machine

@[simp] theorem State.setPlane_cur (s : State) (p : PlaneId) (x : Plane) : (s.setPlane p x).cur = s.cur := rfl
@[simp] theorem State.setPlane_agenda (s : State) (p : PlaneId) (x : Plane) : (s.setPlane p x).agenda = s.agenda := rfl
@[simp] theorem State.setPlane_mem (s : State) (p : PlaneId) (x : Plane) : (s.setPlane p x).mem = s.mem := rfl
@[simp] theorem State.setPlane_side (s : State) (p : PlaneId) (x : Plane) : (s.setPlane p x).side = s.side := rfl
@[simp] theorem State.setPlane_under (s : State) (p : PlaneId) (x : Plane) : (s.setPlane p x).under = s.under := rfl
@[simp] theorem State.setPlane_bank (s : State) (p : PlaneId) (x : Plane) : (s.setPlane p x).bank = s.bank := rfl
@[simp] theorem State.setPlane_tiles (s : State) (p : PlaneId) (x : Plane) : (s.setPlane p x).tiles = s.tiles := rfl
@[simp] theorem State.setPlane_glades (s : State) (p : PlaneId) (x : Plane) : (s.setPlane p x).glades = s.glades := rfl
@[simp] theorem State.setPlane_launches (s : State) (p : PlaneId) (x : Plane) : (s.setPlane p x).launches = s.launches := rfl
@[simp] theorem State.setPlane_faults (s : State) (p : PlaneId) (x : Plane) : (s.setPlane p x).faults = s.faults := rfl
@[simp] theorem State.setPlane_cores (s : State) (p : PlaneId) (x : Plane) : (s.setPlane p x).cores = s.cores := rfl
@[simp] theorem State.setPlane_ports (s : State) (p : PlaneId) (x : Plane) : (s.setPlane p x).ports = s.ports := rfl
@[simp] theorem State.setPlane_frames (s : State) (p : PlaneId) (x : Plane) : (s.setPlane p x).frames = s.frames := rfl
@[simp] theorem State.setPlane_host (s : State) (p : PlaneId) (x : Plane) : (s.setPlane p x).host = s.host := rfl
@[simp] theorem State.setPlane_fo (s : State) (p : PlaneId) (x : Plane) : (s.setPlane p x).fo = s.fo := rfl
@[simp] theorem State.modPlane_cur (s : State) (p : PlaneId) (f : Plane → Plane) : (s.modPlane p f).cur = s.cur := rfl
@[simp] theorem State.modPlane_agenda (s : State) (p : PlaneId) (f : Plane → Plane) : (s.modPlane p f).agenda = s.agenda := rfl
@[simp] theorem State.modPlane_mem (s : State) (p : PlaneId) (f : Plane → Plane) : (s.modPlane p f).mem = s.mem := rfl
@[simp] theorem State.modPlane_side (s : State) (p : PlaneId) (f : Plane → Plane) : (s.modPlane p f).side = s.side := rfl
@[simp] theorem State.modPlane_under (s : State) (p : PlaneId) (f : Plane → Plane) : (s.modPlane p f).under = s.under := rfl
@[simp] theorem State.modPlane_bank (s : State) (p : PlaneId) (f : Plane → Plane) : (s.modPlane p f).bank = s.bank := rfl
@[simp] theorem State.modPlane_tiles (s : State) (p : PlaneId) (f : Plane → Plane) : (s.modPlane p f).tiles = s.tiles := rfl
@[simp] theorem State.modPlane_glades (s : State) (p : PlaneId) (f : Plane → Plane) : (s.modPlane p f).glades = s.glades := rfl
@[simp] theorem State.modPlane_launches (s : State) (p : PlaneId) (f : Plane → Plane) : (s.modPlane p f).launches = s.launches := rfl
@[simp] theorem State.modPlane_faults (s : State) (p : PlaneId) (f : Plane → Plane) : (s.modPlane p f).faults = s.faults := rfl
@[simp] theorem State.modPlane_cores (s : State) (p : PlaneId) (f : Plane → Plane) : (s.modPlane p f).cores = s.cores := rfl
@[simp] theorem State.modPlane_ports (s : State) (p : PlaneId) (f : Plane → Plane) : (s.modPlane p f).ports = s.ports := rfl
@[simp] theorem State.modPlane_frames (s : State) (p : PlaneId) (f : Plane → Plane) : (s.modPlane p f).frames = s.frames := rfl
@[simp] theorem State.modPlane_host (s : State) (p : PlaneId) (f : Plane → Plane) : (s.modPlane p f).host = s.host := rfl
@[simp] theorem State.modPlane_fo (s : State) (p : PlaneId) (f : Plane → Plane) : (s.modPlane p f).fo = s.fo := rfl
@[simp] theorem State.setPlane_copies (s : State) (p : PlaneId) (x : Plane) : (s.setPlane p x).copies = s.copies := rfl
@[simp] theorem State.setPlane_barq (s : State) (p : PlaneId) (x : Plane) : (s.setPlane p x).barq = s.barq := rfl
@[simp] theorem State.setPlane_bars (s : State) (p : PlaneId) (x : Plane) : (s.setPlane p x).bars = s.bars := rfl
@[simp] theorem State.setPlane_prq (s : State) (p : PlaneId) (x : Plane) : (s.setPlane p x).prq = s.prq := rfl
@[simp] theorem State.setPlane_invals (s : State) (p : PlaneId) (x : Plane) : (s.setPlane p x).invals = s.invals := rfl
@[simp] theorem State.setPlane_links (s : State) (p : PlaneId) (x : Plane) : (s.setPlane p x).links = s.links := rfl
@[simp] theorem State.setPlane_trail (s : State) (p : PlaneId) (x : Plane) : (s.setPlane p x).trail = s.trail := rfl
@[simp] theorem State.setPlane_debugger (s : State) (p : PlaneId) (x : Plane) : (s.setPlane p x).debugger = s.debugger := rfl
@[simp] theorem State.modPlane_copies (s : State) (p : PlaneId) (f : Plane → Plane) : (s.modPlane p f).copies = s.copies := rfl
@[simp] theorem State.modPlane_barq (s : State) (p : PlaneId) (f : Plane → Plane) : (s.modPlane p f).barq = s.barq := rfl
@[simp] theorem State.modPlane_bars (s : State) (p : PlaneId) (f : Plane → Plane) : (s.modPlane p f).bars = s.bars := rfl
@[simp] theorem State.modPlane_prq (s : State) (p : PlaneId) (f : Plane → Plane) : (s.modPlane p f).prq = s.prq := rfl
@[simp] theorem State.modPlane_invals (s : State) (p : PlaneId) (f : Plane → Plane) : (s.modPlane p f).invals = s.invals := rfl
@[simp] theorem State.modPlane_links (s : State) (p : PlaneId) (f : Plane → Plane) : (s.modPlane p f).links = s.links := rfl
@[simp] theorem State.modPlane_trail (s : State) (p : PlaneId) (f : Plane → Plane) : (s.modPlane p f).trail = s.trail := rfl
@[simp] theorem State.modPlane_debugger (s : State) (p : PlaneId) (f : Plane → Plane) : (s.modPlane p f).debugger = s.debugger := rfl
@[simp] theorem State.setTile_copies (s : State) (ix : Nat) (x : Tile) : (s.setTile ix x).copies = s.copies := rfl
@[simp] theorem State.setTile_barq (s : State) (ix : Nat) (x : Tile) : (s.setTile ix x).barq = s.barq := rfl
@[simp] theorem State.setTile_bars (s : State) (ix : Nat) (x : Tile) : (s.setTile ix x).bars = s.bars := rfl
@[simp] theorem State.setTile_prq (s : State) (ix : Nat) (x : Tile) : (s.setTile ix x).prq = s.prq := rfl
@[simp] theorem State.setTile_invals (s : State) (ix : Nat) (x : Tile) : (s.setTile ix x).invals = s.invals := rfl
@[simp] theorem State.setTile_links (s : State) (ix : Nat) (x : Tile) : (s.setTile ix x).links = s.links := rfl
@[simp] theorem State.setTile_trail (s : State) (ix : Nat) (x : Tile) : (s.setTile ix x).trail = s.trail := rfl
@[simp] theorem State.setTile_debugger (s : State) (ix : Nat) (x : Tile) : (s.setTile ix x).debugger = s.debugger := rfl
@[simp] theorem State.setGlade_copies (s : State) (g : Nat) (x : Glade) : (s.setGlade g x).copies = s.copies := rfl
@[simp] theorem State.setGlade_barq (s : State) (g : Nat) (x : Glade) : (s.setGlade g x).barq = s.barq := rfl
@[simp] theorem State.setGlade_bars (s : State) (g : Nat) (x : Glade) : (s.setGlade g x).bars = s.bars := rfl
@[simp] theorem State.setGlade_prq (s : State) (g : Nat) (x : Glade) : (s.setGlade g x).prq = s.prq := rfl
@[simp] theorem State.setGlade_invals (s : State) (g : Nat) (x : Glade) : (s.setGlade g x).invals = s.invals := rfl
@[simp] theorem State.setGlade_links (s : State) (g : Nat) (x : Glade) : (s.setGlade g x).links = s.links := rfl
@[simp] theorem State.setGlade_trail (s : State) (g : Nat) (x : Glade) : (s.setGlade g x).trail = s.trail := rfl
@[simp] theorem State.setGlade_debugger (s : State) (g : Nat) (x : Glade) : (s.setGlade g x).debugger = s.debugger := rfl
@[simp] theorem State.setLaunch_copies (s : State) (l : Nat) (x : Launch) : (s.setLaunch l x).copies = s.copies := rfl
@[simp] theorem State.setLaunch_barq (s : State) (l : Nat) (x : Launch) : (s.setLaunch l x).barq = s.barq := rfl
@[simp] theorem State.setLaunch_bars (s : State) (l : Nat) (x : Launch) : (s.setLaunch l x).bars = s.bars := rfl
@[simp] theorem State.setLaunch_prq (s : State) (l : Nat) (x : Launch) : (s.setLaunch l x).prq = s.prq := rfl
@[simp] theorem State.setLaunch_invals (s : State) (l : Nat) (x : Launch) : (s.setLaunch l x).invals = s.invals := rfl
@[simp] theorem State.setLaunch_links (s : State) (l : Nat) (x : Launch) : (s.setLaunch l x).links = s.links := rfl
@[simp] theorem State.setLaunch_trail (s : State) (l : Nat) (x : Launch) : (s.setLaunch l x).trail = s.trail := rfl
@[simp] theorem State.setLaunch_debugger (s : State) (l : Nat) (x : Launch) : (s.setLaunch l x).debugger = s.debugger := rfl
@[simp] theorem State.setCore_copies (s : State) (c : Nat) (x : Core) : (s.setCore c x).copies = s.copies := rfl
@[simp] theorem State.setCore_barq (s : State) (c : Nat) (x : Core) : (s.setCore c x).barq = s.barq := rfl
@[simp] theorem State.setCore_bars (s : State) (c : Nat) (x : Core) : (s.setCore c x).bars = s.bars := rfl
@[simp] theorem State.setCore_prq (s : State) (c : Nat) (x : Core) : (s.setCore c x).prq = s.prq := rfl
@[simp] theorem State.setCore_invals (s : State) (c : Nat) (x : Core) : (s.setCore c x).invals = s.invals := rfl
@[simp] theorem State.setCore_links (s : State) (c : Nat) (x : Core) : (s.setCore c x).links = s.links := rfl
@[simp] theorem State.setCore_trail (s : State) (c : Nat) (x : Core) : (s.setCore c x).trail = s.trail := rfl
@[simp] theorem State.setCore_debugger (s : State) (c : Nat) (x : Core) : (s.setCore c x).debugger = s.debugger := rfl
@[simp] theorem State.setPort_copies (s : State) (p : Nat) (x : Port) : (s.setPort p x).copies = s.copies := rfl
@[simp] theorem State.setPort_barq (s : State) (p : Nat) (x : Port) : (s.setPort p x).barq = s.barq := rfl
@[simp] theorem State.setPort_bars (s : State) (p : Nat) (x : Port) : (s.setPort p x).bars = s.bars := rfl
@[simp] theorem State.setPort_prq (s : State) (p : Nat) (x : Port) : (s.setPort p x).prq = s.prq := rfl
@[simp] theorem State.setPort_invals (s : State) (p : Nat) (x : Port) : (s.setPort p x).invals = s.invals := rfl
@[simp] theorem State.setPort_links (s : State) (p : Nat) (x : Port) : (s.setPort p x).links = s.links := rfl
@[simp] theorem State.setPort_trail (s : State) (p : Nat) (x : Port) : (s.setPort p x).trail = s.trail := rfl
@[simp] theorem State.setPort_debugger (s : State) (p : Nat) (x : Port) : (s.setPort p x).debugger = s.debugger := rfl
@[simp] theorem State.setFrame_copies (s : State) (f : Nat) (x : Frame) : (s.setFrame f x).copies = s.copies := rfl
@[simp] theorem State.setFrame_barq (s : State) (f : Nat) (x : Frame) : (s.setFrame f x).barq = s.barq := rfl
@[simp] theorem State.setFrame_bars (s : State) (f : Nat) (x : Frame) : (s.setFrame f x).bars = s.bars := rfl
@[simp] theorem State.setFrame_prq (s : State) (f : Nat) (x : Frame) : (s.setFrame f x).prq = s.prq := rfl
@[simp] theorem State.setFrame_invals (s : State) (f : Nat) (x : Frame) : (s.setFrame f x).invals = s.invals := rfl
@[simp] theorem State.setFrame_links (s : State) (f : Nat) (x : Frame) : (s.setFrame f x).links = s.links := rfl
@[simp] theorem State.setFrame_trail (s : State) (f : Nat) (x : Frame) : (s.setFrame f x).trail = s.trail := rfl
@[simp] theorem State.setFrame_debugger (s : State) (f : Nat) (x : Frame) : (s.setFrame f x).debugger = s.debugger := rfl
@[simp] theorem State.setSide_copies (s : State) (line : Nat) (b : SideBits) : (s.setSide line b).copies = s.copies := rfl
@[simp] theorem State.setSide_barq (s : State) (line : Nat) (b : SideBits) : (s.setSide line b).barq = s.barq := rfl
@[simp] theorem State.setSide_bars (s : State) (line : Nat) (b : SideBits) : (s.setSide line b).bars = s.bars := rfl
@[simp] theorem State.setSide_prq (s : State) (line : Nat) (b : SideBits) : (s.setSide line b).prq = s.prq := rfl
@[simp] theorem State.setSide_invals (s : State) (line : Nat) (b : SideBits) : (s.setSide line b).invals = s.invals := rfl
@[simp] theorem State.setSide_links (s : State) (line : Nat) (b : SideBits) : (s.setSide line b).links = s.links := rfl
@[simp] theorem State.setSide_trail (s : State) (line : Nat) (b : SideBits) : (s.setSide line b).trail = s.trail := rfl
@[simp] theorem State.setSide_debugger (s : State) (line : Nat) (b : SideBits) : (s.setSide line b).debugger = s.debugger := rfl
@[simp] theorem State.setHomeBit_copies (s : State) (word : Nat) (f : Bool) : (s.setHomeBit word f).copies = s.copies := rfl
@[simp] theorem State.setHomeBit_barq (s : State) (word : Nat) (f : Bool) : (s.setHomeBit word f).barq = s.barq := rfl
@[simp] theorem State.setHomeBit_bars (s : State) (word : Nat) (f : Bool) : (s.setHomeBit word f).bars = s.bars := rfl
@[simp] theorem State.setHomeBit_prq (s : State) (word : Nat) (f : Bool) : (s.setHomeBit word f).prq = s.prq := rfl
@[simp] theorem State.setHomeBit_invals (s : State) (word : Nat) (f : Bool) : (s.setHomeBit word f).invals = s.invals := rfl
@[simp] theorem State.setHomeBit_links (s : State) (word : Nat) (f : Bool) : (s.setHomeBit word f).links = s.links := rfl
@[simp] theorem State.setHomeBit_trail (s : State) (word : Nat) (f : Bool) : (s.setHomeBit word f).trail = s.trail := rfl
@[simp] theorem State.setHomeBit_debugger (s : State) (word : Nat) (f : Bool) : (s.setHomeBit word f).debugger = s.debugger := rfl
@[simp] theorem State.setReq_copies (s : State) (pl : PlaneId) (rid : Nat) (st : ReqSt) : (s.setReq pl rid st).copies = s.copies := rfl
@[simp] theorem State.setReq_barq (s : State) (pl : PlaneId) (rid : Nat) (st : ReqSt) : (s.setReq pl rid st).barq = s.barq := rfl
@[simp] theorem State.setReq_bars (s : State) (pl : PlaneId) (rid : Nat) (st : ReqSt) : (s.setReq pl rid st).bars = s.bars := rfl
@[simp] theorem State.setReq_prq (s : State) (pl : PlaneId) (rid : Nat) (st : ReqSt) : (s.setReq pl rid st).prq = s.prq := rfl
@[simp] theorem State.setReq_invals (s : State) (pl : PlaneId) (rid : Nat) (st : ReqSt) : (s.setReq pl rid st).invals = s.invals := rfl
@[simp] theorem State.setReq_links (s : State) (pl : PlaneId) (rid : Nat) (st : ReqSt) : (s.setReq pl rid st).links = s.links := rfl
@[simp] theorem State.setReq_trail (s : State) (pl : PlaneId) (rid : Nat) (st : ReqSt) : (s.setReq pl rid st).trail = s.trail := rfl
@[simp] theorem State.setReq_debugger (s : State) (pl : PlaneId) (rid : Nat) (st : ReqSt) : (s.setReq pl rid st).debugger = s.debugger := rfl
@[simp] theorem State.setTile_cur (s : State) (ix : Nat) (x : Tile) : (s.setTile ix x).cur = s.cur := rfl
@[simp] theorem State.setTile_agenda (s : State) (ix : Nat) (x : Tile) : (s.setTile ix x).agenda = s.agenda := rfl
@[simp] theorem State.setTile_mem (s : State) (ix : Nat) (x : Tile) : (s.setTile ix x).mem = s.mem := rfl
@[simp] theorem State.setTile_side (s : State) (ix : Nat) (x : Tile) : (s.setTile ix x).side = s.side := rfl
@[simp] theorem State.setTile_under (s : State) (ix : Nat) (x : Tile) : (s.setTile ix x).under = s.under := rfl
@[simp] theorem State.setTile_bank (s : State) (ix : Nat) (x : Tile) : (s.setTile ix x).bank = s.bank := rfl
@[simp] theorem State.setTile_planes (s : State) (ix : Nat) (x : Tile) : (s.setTile ix x).planes = s.planes := rfl
@[simp] theorem State.setTile_glades (s : State) (ix : Nat) (x : Tile) : (s.setTile ix x).glades = s.glades := rfl
@[simp] theorem State.setTile_launches (s : State) (ix : Nat) (x : Tile) : (s.setTile ix x).launches = s.launches := rfl
@[simp] theorem State.setTile_faults (s : State) (ix : Nat) (x : Tile) : (s.setTile ix x).faults = s.faults := rfl
@[simp] theorem State.setTile_cores (s : State) (ix : Nat) (x : Tile) : (s.setTile ix x).cores = s.cores := rfl
@[simp] theorem State.setTile_ports (s : State) (ix : Nat) (x : Tile) : (s.setTile ix x).ports = s.ports := rfl
@[simp] theorem State.setTile_frames (s : State) (ix : Nat) (x : Tile) : (s.setTile ix x).frames = s.frames := rfl
@[simp] theorem State.setTile_host (s : State) (ix : Nat) (x : Tile) : (s.setTile ix x).host = s.host := rfl
@[simp] theorem State.setTile_fo (s : State) (ix : Nat) (x : Tile) : (s.setTile ix x).fo = s.fo := rfl
@[simp] theorem State.setGlade_cur (s : State) (g : Nat) (x : Glade) : (s.setGlade g x).cur = s.cur := rfl
@[simp] theorem State.setGlade_agenda (s : State) (g : Nat) (x : Glade) : (s.setGlade g x).agenda = s.agenda := rfl
@[simp] theorem State.setGlade_mem (s : State) (g : Nat) (x : Glade) : (s.setGlade g x).mem = s.mem := rfl
@[simp] theorem State.setGlade_side (s : State) (g : Nat) (x : Glade) : (s.setGlade g x).side = s.side := rfl
@[simp] theorem State.setGlade_under (s : State) (g : Nat) (x : Glade) : (s.setGlade g x).under = s.under := rfl
@[simp] theorem State.setGlade_bank (s : State) (g : Nat) (x : Glade) : (s.setGlade g x).bank = s.bank := rfl
@[simp] theorem State.setGlade_tiles (s : State) (g : Nat) (x : Glade) : (s.setGlade g x).tiles = s.tiles := rfl
@[simp] theorem State.setGlade_planes (s : State) (g : Nat) (x : Glade) : (s.setGlade g x).planes = s.planes := rfl
@[simp] theorem State.setGlade_launches (s : State) (g : Nat) (x : Glade) : (s.setGlade g x).launches = s.launches := rfl
@[simp] theorem State.setGlade_faults (s : State) (g : Nat) (x : Glade) : (s.setGlade g x).faults = s.faults := rfl
@[simp] theorem State.setGlade_cores (s : State) (g : Nat) (x : Glade) : (s.setGlade g x).cores = s.cores := rfl
@[simp] theorem State.setGlade_ports (s : State) (g : Nat) (x : Glade) : (s.setGlade g x).ports = s.ports := rfl
@[simp] theorem State.setGlade_frames (s : State) (g : Nat) (x : Glade) : (s.setGlade g x).frames = s.frames := rfl
@[simp] theorem State.setGlade_host (s : State) (g : Nat) (x : Glade) : (s.setGlade g x).host = s.host := rfl
@[simp] theorem State.setGlade_fo (s : State) (g : Nat) (x : Glade) : (s.setGlade g x).fo = s.fo := rfl
@[simp] theorem State.modGlade_cur (s : State) (g : Nat) (f : Glade → Glade) : (s.modGlade g f).cur = s.cur := by
  simp only [State.modGlade]; split <;> rfl
@[simp] theorem State.modGlade_agenda (s : State) (g : Nat) (f : Glade → Glade) : (s.modGlade g f).agenda = s.agenda := by
  simp only [State.modGlade]; split <;> rfl
@[simp] theorem State.modGlade_mem (s : State) (g : Nat) (f : Glade → Glade) : (s.modGlade g f).mem = s.mem := by
  simp only [State.modGlade]; split <;> rfl
@[simp] theorem State.modGlade_side (s : State) (g : Nat) (f : Glade → Glade) : (s.modGlade g f).side = s.side := by
  simp only [State.modGlade]; split <;> rfl
@[simp] theorem State.modGlade_under (s : State) (g : Nat) (f : Glade → Glade) : (s.modGlade g f).under = s.under := by
  simp only [State.modGlade]; split <;> rfl
@[simp] theorem State.modGlade_bank (s : State) (g : Nat) (f : Glade → Glade) : (s.modGlade g f).bank = s.bank := by
  simp only [State.modGlade]; split <;> rfl
@[simp] theorem State.modGlade_tiles (s : State) (g : Nat) (f : Glade → Glade) : (s.modGlade g f).tiles = s.tiles := by
  simp only [State.modGlade]; split <;> rfl
@[simp] theorem State.modGlade_planes (s : State) (g : Nat) (f : Glade → Glade) : (s.modGlade g f).planes = s.planes := by
  simp only [State.modGlade]; split <;> rfl
@[simp] theorem State.modGlade_launches (s : State) (g : Nat) (f : Glade → Glade) : (s.modGlade g f).launches = s.launches := by
  simp only [State.modGlade]; split <;> rfl
@[simp] theorem State.modGlade_faults (s : State) (g : Nat) (f : Glade → Glade) : (s.modGlade g f).faults = s.faults := by
  simp only [State.modGlade]; split <;> rfl
@[simp] theorem State.modGlade_cores (s : State) (g : Nat) (f : Glade → Glade) : (s.modGlade g f).cores = s.cores := by
  simp only [State.modGlade]; split <;> rfl
@[simp] theorem State.modGlade_ports (s : State) (g : Nat) (f : Glade → Glade) : (s.modGlade g f).ports = s.ports := by
  simp only [State.modGlade]; split <;> rfl
@[simp] theorem State.modGlade_frames (s : State) (g : Nat) (f : Glade → Glade) : (s.modGlade g f).frames = s.frames := by
  simp only [State.modGlade]; split <;> rfl
@[simp] theorem State.modGlade_host (s : State) (g : Nat) (f : Glade → Glade) : (s.modGlade g f).host = s.host := by
  simp only [State.modGlade]; split <;> rfl
@[simp] theorem State.modGlade_fo (s : State) (g : Nat) (f : Glade → Glade) : (s.modGlade g f).fo = s.fo := by
  simp only [State.modGlade]; split <;> rfl
@[simp] theorem State.setLaunch_cur (s : State) (l : Nat) (x : Launch) : (s.setLaunch l x).cur = s.cur := rfl
@[simp] theorem State.setLaunch_agenda (s : State) (l : Nat) (x : Launch) : (s.setLaunch l x).agenda = s.agenda := rfl
@[simp] theorem State.setLaunch_mem (s : State) (l : Nat) (x : Launch) : (s.setLaunch l x).mem = s.mem := rfl
@[simp] theorem State.setLaunch_side (s : State) (l : Nat) (x : Launch) : (s.setLaunch l x).side = s.side := rfl
@[simp] theorem State.setLaunch_under (s : State) (l : Nat) (x : Launch) : (s.setLaunch l x).under = s.under := rfl
@[simp] theorem State.setLaunch_bank (s : State) (l : Nat) (x : Launch) : (s.setLaunch l x).bank = s.bank := rfl
@[simp] theorem State.setLaunch_tiles (s : State) (l : Nat) (x : Launch) : (s.setLaunch l x).tiles = s.tiles := rfl
@[simp] theorem State.setLaunch_planes (s : State) (l : Nat) (x : Launch) : (s.setLaunch l x).planes = s.planes := rfl
@[simp] theorem State.setLaunch_glades (s : State) (l : Nat) (x : Launch) : (s.setLaunch l x).glades = s.glades := rfl
@[simp] theorem State.setLaunch_faults (s : State) (l : Nat) (x : Launch) : (s.setLaunch l x).faults = s.faults := rfl
@[simp] theorem State.setLaunch_cores (s : State) (l : Nat) (x : Launch) : (s.setLaunch l x).cores = s.cores := rfl
@[simp] theorem State.setLaunch_ports (s : State) (l : Nat) (x : Launch) : (s.setLaunch l x).ports = s.ports := rfl
@[simp] theorem State.setLaunch_frames (s : State) (l : Nat) (x : Launch) : (s.setLaunch l x).frames = s.frames := rfl
@[simp] theorem State.setLaunch_host (s : State) (l : Nat) (x : Launch) : (s.setLaunch l x).host = s.host := rfl
@[simp] theorem State.setLaunch_fo (s : State) (l : Nat) (x : Launch) : (s.setLaunch l x).fo = s.fo := rfl
@[simp] theorem State.modLaunch_cur (s : State) (l : Nat) (f : Launch → Launch) : (s.modLaunch l f).cur = s.cur := by
  simp only [State.modLaunch]; split <;> rfl
@[simp] theorem State.modLaunch_agenda (s : State) (l : Nat) (f : Launch → Launch) : (s.modLaunch l f).agenda = s.agenda := by
  simp only [State.modLaunch]; split <;> rfl
@[simp] theorem State.modLaunch_mem (s : State) (l : Nat) (f : Launch → Launch) : (s.modLaunch l f).mem = s.mem := by
  simp only [State.modLaunch]; split <;> rfl
@[simp] theorem State.modLaunch_side (s : State) (l : Nat) (f : Launch → Launch) : (s.modLaunch l f).side = s.side := by
  simp only [State.modLaunch]; split <;> rfl
@[simp] theorem State.modLaunch_under (s : State) (l : Nat) (f : Launch → Launch) : (s.modLaunch l f).under = s.under := by
  simp only [State.modLaunch]; split <;> rfl
@[simp] theorem State.modLaunch_bank (s : State) (l : Nat) (f : Launch → Launch) : (s.modLaunch l f).bank = s.bank := by
  simp only [State.modLaunch]; split <;> rfl
@[simp] theorem State.modLaunch_tiles (s : State) (l : Nat) (f : Launch → Launch) : (s.modLaunch l f).tiles = s.tiles := by
  simp only [State.modLaunch]; split <;> rfl
@[simp] theorem State.modLaunch_planes (s : State) (l : Nat) (f : Launch → Launch) : (s.modLaunch l f).planes = s.planes := by
  simp only [State.modLaunch]; split <;> rfl
@[simp] theorem State.modLaunch_glades (s : State) (l : Nat) (f : Launch → Launch) : (s.modLaunch l f).glades = s.glades := by
  simp only [State.modLaunch]; split <;> rfl
@[simp] theorem State.modLaunch_faults (s : State) (l : Nat) (f : Launch → Launch) : (s.modLaunch l f).faults = s.faults := by
  simp only [State.modLaunch]; split <;> rfl
@[simp] theorem State.modLaunch_cores (s : State) (l : Nat) (f : Launch → Launch) : (s.modLaunch l f).cores = s.cores := by
  simp only [State.modLaunch]; split <;> rfl
@[simp] theorem State.modLaunch_ports (s : State) (l : Nat) (f : Launch → Launch) : (s.modLaunch l f).ports = s.ports := by
  simp only [State.modLaunch]; split <;> rfl
@[simp] theorem State.modLaunch_frames (s : State) (l : Nat) (f : Launch → Launch) : (s.modLaunch l f).frames = s.frames := by
  simp only [State.modLaunch]; split <;> rfl
@[simp] theorem State.modLaunch_host (s : State) (l : Nat) (f : Launch → Launch) : (s.modLaunch l f).host = s.host := by
  simp only [State.modLaunch]; split <;> rfl
@[simp] theorem State.modLaunch_fo (s : State) (l : Nat) (f : Launch → Launch) : (s.modLaunch l f).fo = s.fo := by
  simp only [State.modLaunch]; split <;> rfl
@[simp] theorem State.setCore_cur (s : State) (c : Nat) (x : Core) : (s.setCore c x).cur = s.cur := rfl
@[simp] theorem State.setCore_agenda (s : State) (c : Nat) (x : Core) : (s.setCore c x).agenda = s.agenda := rfl
@[simp] theorem State.setCore_mem (s : State) (c : Nat) (x : Core) : (s.setCore c x).mem = s.mem := rfl
@[simp] theorem State.setCore_side (s : State) (c : Nat) (x : Core) : (s.setCore c x).side = s.side := rfl
@[simp] theorem State.setCore_under (s : State) (c : Nat) (x : Core) : (s.setCore c x).under = s.under := rfl
@[simp] theorem State.setCore_bank (s : State) (c : Nat) (x : Core) : (s.setCore c x).bank = s.bank := rfl
@[simp] theorem State.setCore_tiles (s : State) (c : Nat) (x : Core) : (s.setCore c x).tiles = s.tiles := rfl
@[simp] theorem State.setCore_planes (s : State) (c : Nat) (x : Core) : (s.setCore c x).planes = s.planes := rfl
@[simp] theorem State.setCore_glades (s : State) (c : Nat) (x : Core) : (s.setCore c x).glades = s.glades := rfl
@[simp] theorem State.setCore_launches (s : State) (c : Nat) (x : Core) : (s.setCore c x).launches = s.launches := rfl
@[simp] theorem State.setCore_faults (s : State) (c : Nat) (x : Core) : (s.setCore c x).faults = s.faults := rfl
@[simp] theorem State.setCore_ports (s : State) (c : Nat) (x : Core) : (s.setCore c x).ports = s.ports := rfl
@[simp] theorem State.setCore_frames (s : State) (c : Nat) (x : Core) : (s.setCore c x).frames = s.frames := rfl
@[simp] theorem State.setCore_host (s : State) (c : Nat) (x : Core) : (s.setCore c x).host = s.host := rfl
@[simp] theorem State.setCore_fo (s : State) (c : Nat) (x : Core) : (s.setCore c x).fo = s.fo := rfl
@[simp] theorem State.setPort_cur (s : State) (p : Nat) (x : Port) : (s.setPort p x).cur = s.cur := rfl
@[simp] theorem State.setPort_agenda (s : State) (p : Nat) (x : Port) : (s.setPort p x).agenda = s.agenda := rfl
@[simp] theorem State.setPort_mem (s : State) (p : Nat) (x : Port) : (s.setPort p x).mem = s.mem := rfl
@[simp] theorem State.setPort_side (s : State) (p : Nat) (x : Port) : (s.setPort p x).side = s.side := rfl
@[simp] theorem State.setPort_under (s : State) (p : Nat) (x : Port) : (s.setPort p x).under = s.under := rfl
@[simp] theorem State.setPort_bank (s : State) (p : Nat) (x : Port) : (s.setPort p x).bank = s.bank := rfl
@[simp] theorem State.setPort_tiles (s : State) (p : Nat) (x : Port) : (s.setPort p x).tiles = s.tiles := rfl
@[simp] theorem State.setPort_planes (s : State) (p : Nat) (x : Port) : (s.setPort p x).planes = s.planes := rfl
@[simp] theorem State.setPort_glades (s : State) (p : Nat) (x : Port) : (s.setPort p x).glades = s.glades := rfl
@[simp] theorem State.setPort_launches (s : State) (p : Nat) (x : Port) : (s.setPort p x).launches = s.launches := rfl
@[simp] theorem State.setPort_faults (s : State) (p : Nat) (x : Port) : (s.setPort p x).faults = s.faults := rfl
@[simp] theorem State.setPort_cores (s : State) (p : Nat) (x : Port) : (s.setPort p x).cores = s.cores := rfl
@[simp] theorem State.setPort_frames (s : State) (p : Nat) (x : Port) : (s.setPort p x).frames = s.frames := rfl
@[simp] theorem State.setPort_host (s : State) (p : Nat) (x : Port) : (s.setPort p x).host = s.host := rfl
@[simp] theorem State.setPort_fo (s : State) (p : Nat) (x : Port) : (s.setPort p x).fo = s.fo := rfl
@[simp] theorem State.setTenant_cur (s : State) (t : Nat) (x : Tenant) : (s.setTenant t x).cur = s.cur := rfl
@[simp] theorem State.setTenant_agenda (s : State) (t : Nat) (x : Tenant) : (s.setTenant t x).agenda = s.agenda := rfl
@[simp] theorem State.setTenant_mem (s : State) (t : Nat) (x : Tenant) : (s.setTenant t x).mem = s.mem := rfl
@[simp] theorem State.setTenant_side (s : State) (t : Nat) (x : Tenant) : (s.setTenant t x).side = s.side := rfl
@[simp] theorem State.setTenant_under (s : State) (t : Nat) (x : Tenant) : (s.setTenant t x).under = s.under := rfl
@[simp] theorem State.setTenant_bank (s : State) (t : Nat) (x : Tenant) : (s.setTenant t x).bank = s.bank := rfl
@[simp] theorem State.setTenant_tiles (s : State) (t : Nat) (x : Tenant) : (s.setTenant t x).tiles = s.tiles := rfl
@[simp] theorem State.setTenant_planes (s : State) (t : Nat) (x : Tenant) : (s.setTenant t x).planes = s.planes := rfl
@[simp] theorem State.setTenant_glades (s : State) (t : Nat) (x : Tenant) : (s.setTenant t x).glades = s.glades := rfl
@[simp] theorem State.setTenant_launches (s : State) (t : Nat) (x : Tenant) : (s.setTenant t x).launches = s.launches := rfl
@[simp] theorem State.setTenant_faults (s : State) (t : Nat) (x : Tenant) : (s.setTenant t x).faults = s.faults := rfl
@[simp] theorem State.setTenant_cores (s : State) (t : Nat) (x : Tenant) : (s.setTenant t x).cores = s.cores := rfl
@[simp] theorem State.setTenant_ports (s : State) (t : Nat) (x : Tenant) : (s.setTenant t x).ports = s.ports := rfl
@[simp] theorem State.setTenant_frames (s : State) (t : Nat) (x : Tenant) : (s.setTenant t x).frames = s.frames := rfl
@[simp] theorem State.setTenant_host (s : State) (t : Nat) (x : Tenant) : (s.setTenant t x).host = s.host := rfl
@[simp] theorem State.setFrame_cur (s : State) (f : Nat) (x : Frame) : (s.setFrame f x).cur = s.cur := rfl
@[simp] theorem State.setFrame_agenda (s : State) (f : Nat) (x : Frame) : (s.setFrame f x).agenda = s.agenda := rfl
@[simp] theorem State.setFrame_mem (s : State) (f : Nat) (x : Frame) : (s.setFrame f x).mem = s.mem := rfl
@[simp] theorem State.setFrame_side (s : State) (f : Nat) (x : Frame) : (s.setFrame f x).side = s.side := rfl
@[simp] theorem State.setFrame_under (s : State) (f : Nat) (x : Frame) : (s.setFrame f x).under = s.under := rfl
@[simp] theorem State.setFrame_bank (s : State) (f : Nat) (x : Frame) : (s.setFrame f x).bank = s.bank := rfl
@[simp] theorem State.setFrame_tiles (s : State) (f : Nat) (x : Frame) : (s.setFrame f x).tiles = s.tiles := rfl
@[simp] theorem State.setFrame_planes (s : State) (f : Nat) (x : Frame) : (s.setFrame f x).planes = s.planes := rfl
@[simp] theorem State.setFrame_glades (s : State) (f : Nat) (x : Frame) : (s.setFrame f x).glades = s.glades := rfl
@[simp] theorem State.setFrame_launches (s : State) (f : Nat) (x : Frame) : (s.setFrame f x).launches = s.launches := rfl
@[simp] theorem State.setFrame_faults (s : State) (f : Nat) (x : Frame) : (s.setFrame f x).faults = s.faults := rfl
@[simp] theorem State.setFrame_cores (s : State) (f : Nat) (x : Frame) : (s.setFrame f x).cores = s.cores := rfl
@[simp] theorem State.setFrame_ports (s : State) (f : Nat) (x : Frame) : (s.setFrame f x).ports = s.ports := rfl
@[simp] theorem State.setFrame_host (s : State) (f : Nat) (x : Frame) : (s.setFrame f x).host = s.host := rfl
@[simp] theorem State.setFrame_fo (s : State) (f : Nat) (x : Frame) : (s.setFrame f x).fo = s.fo := rfl
@[simp] theorem State.setSide_cur (s : State) (line : Nat) (b : SideBits) : (s.setSide line b).cur = s.cur := rfl
@[simp] theorem State.setSide_agenda (s : State) (line : Nat) (b : SideBits) : (s.setSide line b).agenda = s.agenda := rfl
@[simp] theorem State.setSide_mem (s : State) (line : Nat) (b : SideBits) : (s.setSide line b).mem = s.mem := rfl
@[simp] theorem State.setSide_under (s : State) (line : Nat) (b : SideBits) : (s.setSide line b).under = s.under := rfl
@[simp] theorem State.setSide_bank (s : State) (line : Nat) (b : SideBits) : (s.setSide line b).bank = s.bank := rfl
@[simp] theorem State.setSide_tiles (s : State) (line : Nat) (b : SideBits) : (s.setSide line b).tiles = s.tiles := rfl
@[simp] theorem State.setSide_planes (s : State) (line : Nat) (b : SideBits) : (s.setSide line b).planes = s.planes := rfl
@[simp] theorem State.setSide_glades (s : State) (line : Nat) (b : SideBits) : (s.setSide line b).glades = s.glades := rfl
@[simp] theorem State.setSide_launches (s : State) (line : Nat) (b : SideBits) : (s.setSide line b).launches = s.launches := rfl
@[simp] theorem State.setSide_faults (s : State) (line : Nat) (b : SideBits) : (s.setSide line b).faults = s.faults := rfl
@[simp] theorem State.setSide_cores (s : State) (line : Nat) (b : SideBits) : (s.setSide line b).cores = s.cores := rfl
@[simp] theorem State.setSide_ports (s : State) (line : Nat) (b : SideBits) : (s.setSide line b).ports = s.ports := rfl
@[simp] theorem State.setSide_frames (s : State) (line : Nat) (b : SideBits) : (s.setSide line b).frames = s.frames := rfl
@[simp] theorem State.setSide_host (s : State) (line : Nat) (b : SideBits) : (s.setSide line b).host = s.host := rfl
@[simp] theorem State.setSide_fo (s : State) (line : Nat) (b : SideBits) : (s.setSide line b).fo = s.fo := rfl
@[simp] theorem State.setHomeBit_cur (s : State) (word : Nat) (f : Bool) : (s.setHomeBit word f).cur = s.cur := State.setSide_cur ..
@[simp] theorem State.setHomeBit_agenda (s : State) (word : Nat) (f : Bool) : (s.setHomeBit word f).agenda = s.agenda := State.setSide_agenda ..
@[simp] theorem State.setHomeBit_mem (s : State) (word : Nat) (f : Bool) : (s.setHomeBit word f).mem = s.mem := State.setSide_mem ..
@[simp] theorem State.setHomeBit_under (s : State) (word : Nat) (f : Bool) : (s.setHomeBit word f).under = s.under := State.setSide_under ..
@[simp] theorem State.setHomeBit_bank (s : State) (word : Nat) (f : Bool) : (s.setHomeBit word f).bank = s.bank := State.setSide_bank ..
@[simp] theorem State.setHomeBit_tiles (s : State) (word : Nat) (f : Bool) : (s.setHomeBit word f).tiles = s.tiles := State.setSide_tiles ..
@[simp] theorem State.setHomeBit_planes (s : State) (word : Nat) (f : Bool) : (s.setHomeBit word f).planes = s.planes := State.setSide_planes ..
@[simp] theorem State.setHomeBit_glades (s : State) (word : Nat) (f : Bool) : (s.setHomeBit word f).glades = s.glades := State.setSide_glades ..
@[simp] theorem State.setHomeBit_launches (s : State) (word : Nat) (f : Bool) : (s.setHomeBit word f).launches = s.launches := State.setSide_launches ..
@[simp] theorem State.setHomeBit_faults (s : State) (word : Nat) (f : Bool) : (s.setHomeBit word f).faults = s.faults := State.setSide_faults ..
@[simp] theorem State.setHomeBit_cores (s : State) (word : Nat) (f : Bool) : (s.setHomeBit word f).cores = s.cores := State.setSide_cores ..
@[simp] theorem State.setHomeBit_ports (s : State) (word : Nat) (f : Bool) : (s.setHomeBit word f).ports = s.ports := State.setSide_ports ..
@[simp] theorem State.setHomeBit_frames (s : State) (word : Nat) (f : Bool) : (s.setHomeBit word f).frames = s.frames := State.setSide_frames ..
@[simp] theorem State.setHomeBit_host (s : State) (word : Nat) (f : Bool) : (s.setHomeBit word f).host = s.host := State.setSide_host ..
@[simp] theorem State.setHomeBit_fo (s : State) (word : Nat) (f : Bool) : (s.setHomeBit word f).fo = s.fo := State.setSide_fo ..
@[simp] theorem State.setReq_cur (s : State) (pl : PlaneId) (rid : Nat) (st : ReqSt) : (s.setReq pl rid st).cur = s.cur := rfl
@[simp] theorem State.setReq_agenda (s : State) (pl : PlaneId) (rid : Nat) (st : ReqSt) : (s.setReq pl rid st).agenda = s.agenda := rfl
@[simp] theorem State.setReq_mem (s : State) (pl : PlaneId) (rid : Nat) (st : ReqSt) : (s.setReq pl rid st).mem = s.mem := rfl
@[simp] theorem State.setReq_side (s : State) (pl : PlaneId) (rid : Nat) (st : ReqSt) : (s.setReq pl rid st).side = s.side := rfl
@[simp] theorem State.setReq_under (s : State) (pl : PlaneId) (rid : Nat) (st : ReqSt) : (s.setReq pl rid st).under = s.under := rfl
@[simp] theorem State.setReq_bank (s : State) (pl : PlaneId) (rid : Nat) (st : ReqSt) : (s.setReq pl rid st).bank = s.bank := rfl
@[simp] theorem State.setReq_tiles (s : State) (pl : PlaneId) (rid : Nat) (st : ReqSt) : (s.setReq pl rid st).tiles = s.tiles := rfl
@[simp] theorem State.setReq_glades (s : State) (pl : PlaneId) (rid : Nat) (st : ReqSt) : (s.setReq pl rid st).glades = s.glades := rfl
@[simp] theorem State.setReq_launches (s : State) (pl : PlaneId) (rid : Nat) (st : ReqSt) : (s.setReq pl rid st).launches = s.launches := rfl
@[simp] theorem State.setReq_faults (s : State) (pl : PlaneId) (rid : Nat) (st : ReqSt) : (s.setReq pl rid st).faults = s.faults := rfl
@[simp] theorem State.setReq_cores (s : State) (pl : PlaneId) (rid : Nat) (st : ReqSt) : (s.setReq pl rid st).cores = s.cores := rfl
@[simp] theorem State.setReq_ports (s : State) (pl : PlaneId) (rid : Nat) (st : ReqSt) : (s.setReq pl rid st).ports = s.ports := rfl
@[simp] theorem State.setReq_frames (s : State) (pl : PlaneId) (rid : Nat) (st : ReqSt) : (s.setReq pl rid st).frames = s.frames := rfl
@[simp] theorem State.setReq_host (s : State) (pl : PlaneId) (rid : Nat) (st : ReqSt) : (s.setReq pl rid st).host = s.host := rfl
@[simp] theorem State.setReq_fo (s : State) (pl : PlaneId) (rid : Nat) (st : ReqSt) : (s.setReq pl rid st).fo = s.fo := rfl
@[simp] theorem State.retire_cur (s : State) (pl : PlaneId) (rid : Nat) : (s.retire pl rid).cur = s.cur := rfl
@[simp] theorem State.retire_agenda (s : State) (pl : PlaneId) (rid : Nat) : (s.retire pl rid).agenda = s.agenda := rfl
@[simp] theorem State.retire_mem (s : State) (pl : PlaneId) (rid : Nat) : (s.retire pl rid).mem = s.mem := rfl
@[simp] theorem State.retire_side (s : State) (pl : PlaneId) (rid : Nat) : (s.retire pl rid).side = s.side := rfl
@[simp] theorem State.retire_under (s : State) (pl : PlaneId) (rid : Nat) : (s.retire pl rid).under = s.under := rfl
@[simp] theorem State.retire_bank (s : State) (pl : PlaneId) (rid : Nat) : (s.retire pl rid).bank = s.bank := rfl
@[simp] theorem State.retire_tiles (s : State) (pl : PlaneId) (rid : Nat) : (s.retire pl rid).tiles = s.tiles := rfl
@[simp] theorem State.retire_glades (s : State) (pl : PlaneId) (rid : Nat) : (s.retire pl rid).glades = s.glades := rfl
@[simp] theorem State.retire_launches (s : State) (pl : PlaneId) (rid : Nat) : (s.retire pl rid).launches = s.launches := rfl
@[simp] theorem State.retire_faults (s : State) (pl : PlaneId) (rid : Nat) : (s.retire pl rid).faults = s.faults := rfl
@[simp] theorem State.retire_cores (s : State) (pl : PlaneId) (rid : Nat) : (s.retire pl rid).cores = s.cores := rfl
@[simp] theorem State.retire_ports (s : State) (pl : PlaneId) (rid : Nat) : (s.retire pl rid).ports = s.ports := rfl
@[simp] theorem State.retire_frames (s : State) (pl : PlaneId) (rid : Nat) : (s.retire pl rid).frames = s.frames := rfl
@[simp] theorem State.retire_host (s : State) (pl : PlaneId) (rid : Nat) : (s.retire pl rid).host = s.host := rfl
@[simp] theorem State.retire_fo (s : State) (pl : PlaneId) (rid : Nat) : (s.retire pl rid).fo = s.fo := rfl
@[simp] theorem State.setRun_cur (s : State) (pl : PlaneId) (r : BlockRun) : (s.setRun pl r).cur = s.cur := rfl
@[simp] theorem State.setRun_agenda (s : State) (pl : PlaneId) (r : BlockRun) : (s.setRun pl r).agenda = s.agenda := rfl
@[simp] theorem State.setRun_mem (s : State) (pl : PlaneId) (r : BlockRun) : (s.setRun pl r).mem = s.mem := rfl
@[simp] theorem State.setRun_side (s : State) (pl : PlaneId) (r : BlockRun) : (s.setRun pl r).side = s.side := rfl
@[simp] theorem State.setRun_under (s : State) (pl : PlaneId) (r : BlockRun) : (s.setRun pl r).under = s.under := rfl
@[simp] theorem State.setRun_bank (s : State) (pl : PlaneId) (r : BlockRun) : (s.setRun pl r).bank = s.bank := rfl
@[simp] theorem State.setRun_tiles (s : State) (pl : PlaneId) (r : BlockRun) : (s.setRun pl r).tiles = s.tiles := rfl
@[simp] theorem State.setRun_glades (s : State) (pl : PlaneId) (r : BlockRun) : (s.setRun pl r).glades = s.glades := rfl
@[simp] theorem State.setRun_launches (s : State) (pl : PlaneId) (r : BlockRun) : (s.setRun pl r).launches = s.launches := rfl
@[simp] theorem State.setRun_faults (s : State) (pl : PlaneId) (r : BlockRun) : (s.setRun pl r).faults = s.faults := rfl
@[simp] theorem State.setRun_cores (s : State) (pl : PlaneId) (r : BlockRun) : (s.setRun pl r).cores = s.cores := rfl
@[simp] theorem State.setRun_ports (s : State) (pl : PlaneId) (r : BlockRun) : (s.setRun pl r).ports = s.ports := rfl
@[simp] theorem State.setRun_frames (s : State) (pl : PlaneId) (r : BlockRun) : (s.setRun pl r).frames = s.frames := rfl
@[simp] theorem State.setRun_host (s : State) (pl : PlaneId) (r : BlockRun) : (s.setRun pl r).host = s.host := rfl
@[simp] theorem State.setRun_fo (s : State) (pl : PlaneId) (r : BlockRun) : (s.setRun pl r).fo = s.fo := rfl
@[simp] theorem State.modFault_cur (s : State) (fid : Nat) (f : FaultRec → FaultRec) : (s.modFault fid f).cur = s.cur := rfl
@[simp] theorem State.modFault_agenda (s : State) (fid : Nat) (f : FaultRec → FaultRec) : (s.modFault fid f).agenda = s.agenda := rfl
@[simp] theorem State.modFault_mem (s : State) (fid : Nat) (f : FaultRec → FaultRec) : (s.modFault fid f).mem = s.mem := rfl
@[simp] theorem State.modFault_side (s : State) (fid : Nat) (f : FaultRec → FaultRec) : (s.modFault fid f).side = s.side := rfl
@[simp] theorem State.modFault_under (s : State) (fid : Nat) (f : FaultRec → FaultRec) : (s.modFault fid f).under = s.under := rfl
@[simp] theorem State.modFault_bank (s : State) (fid : Nat) (f : FaultRec → FaultRec) : (s.modFault fid f).bank = s.bank := rfl
@[simp] theorem State.modFault_tiles (s : State) (fid : Nat) (f : FaultRec → FaultRec) : (s.modFault fid f).tiles = s.tiles := rfl
@[simp] theorem State.modFault_planes (s : State) (fid : Nat) (f : FaultRec → FaultRec) : (s.modFault fid f).planes = s.planes := rfl
@[simp] theorem State.modFault_glades (s : State) (fid : Nat) (f : FaultRec → FaultRec) : (s.modFault fid f).glades = s.glades := rfl
@[simp] theorem State.modFault_launches (s : State) (fid : Nat) (f : FaultRec → FaultRec) : (s.modFault fid f).launches = s.launches := rfl
@[simp] theorem State.modFault_cores (s : State) (fid : Nat) (f : FaultRec → FaultRec) : (s.modFault fid f).cores = s.cores := rfl
@[simp] theorem State.modFault_ports (s : State) (fid : Nat) (f : FaultRec → FaultRec) : (s.modFault fid f).ports = s.ports := rfl
@[simp] theorem State.modFault_frames (s : State) (fid : Nat) (f : FaultRec → FaultRec) : (s.modFault fid f).frames = s.frames := rfl
@[simp] theorem State.modFault_host (s : State) (fid : Nat) (f : FaultRec → FaultRec) : (s.modFault fid f).host = s.host := rfl
@[simp] theorem State.modFault_fo (s : State) (fid : Nat) (f : FaultRec → FaultRec) : (s.modFault fid f).fo = s.fo := rfl
/-- What every step of a fold keeps, the fold keeps. -/
theorem foldl_keeps {α β : Type} (g : State → β) (f : State → α → State) (h : ∀ s a, g (f s a) = g s) :
    ∀ (l : List α) (s : State), g (l.foldl f s) = g s
  | [], _ => rfl
  | a :: l, s => (foldl_keeps g f h l (f s a)).trans (h s a)

/-- Folding a line changes home memory, the sideband and the understory alone. -/
theorem State.foldLine_keeps {β : Type} (g : State → β) (hm : ∀ (s : State) e, g (s.homeEff e) = g s)
    (hu : ∀ (s : State) u, g { s with under := u } = g s) (hs : ∀ (s : State) k b, g (s.setSide k b) = g s) (s : State) (line : Nat) :
    g (s.foldLine line) = g s := by
  have hf : ∀ (l : List UEnt) (t : State), g (l.foldl (fun s e => s.homeEff e.eff) t) = g t := foldl_keeps g _ fun s e => hm s e.eff
  simp only [State.foldLine]
  split
  · rfl
  · split
    · split
      · exact hu s _
      · exact (hs _ _ _).trans (hu s _)
    · split
      · exact (hf _ _).trans (hu s _)
      · exact (hs _ _ _).trans ((hf _ _).trans (hu s _))

@[simp] theorem State.homeEff_cur (s : State) (e : MEff) : (s.homeEff e).cur = s.cur := by cases e <;> simp [State.homeEff]
@[simp] theorem State.homeEff_agenda (s : State) (e : MEff) : (s.homeEff e).agenda = s.agenda := by cases e <;> simp [State.homeEff]
@[simp] theorem State.homeEff_bank (s : State) (e : MEff) : (s.homeEff e).bank = s.bank := by cases e <;> simp [State.homeEff]
@[simp] theorem State.homeEff_tiles (s : State) (e : MEff) : (s.homeEff e).tiles = s.tiles := by cases e <;> simp [State.homeEff]
@[simp] theorem State.homeEff_planes (s : State) (e : MEff) : (s.homeEff e).planes = s.planes := by cases e <;> simp [State.homeEff]
@[simp] theorem State.homeEff_glades (s : State) (e : MEff) : (s.homeEff e).glades = s.glades := by cases e <;> simp [State.homeEff]
@[simp] theorem State.homeEff_launches (s : State) (e : MEff) : (s.homeEff e).launches = s.launches := by cases e <;> simp [State.homeEff]
@[simp] theorem State.homeEff_faults (s : State) (e : MEff) : (s.homeEff e).faults = s.faults := by cases e <;> simp [State.homeEff]
@[simp] theorem State.homeEff_cores (s : State) (e : MEff) : (s.homeEff e).cores = s.cores := by cases e <;> simp [State.homeEff]
@[simp] theorem State.homeEff_ports (s : State) (e : MEff) : (s.homeEff e).ports = s.ports := by cases e <;> simp [State.homeEff]
@[simp] theorem State.homeEff_frames (s : State) (e : MEff) : (s.homeEff e).frames = s.frames := by cases e <;> simp [State.homeEff]
@[simp] theorem State.homeEff_host (s : State) (e : MEff) : (s.homeEff e).host = s.host := by cases e <;> simp [State.homeEff]
@[simp] theorem State.homeEff_fo (s : State) (e : MEff) : (s.homeEff e).fo = s.fo := by cases e <;> simp [State.homeEff]
@[simp] theorem State.foldLine_cur (s : State) (line : Nat) : (s.foldLine line).cur = s.cur :=
  State.foldLine_keeps (·.cur) (fun s e => s.homeEff_cur e) (fun _ _ => rfl) (fun s k b => s.setSide_cur k b) s line
@[simp] theorem State.foldLine_agenda (s : State) (line : Nat) : (s.foldLine line).agenda = s.agenda :=
  State.foldLine_keeps (·.agenda) (fun s e => s.homeEff_agenda e) (fun _ _ => rfl) (fun s k b => s.setSide_agenda k b) s line
@[simp] theorem State.foldLine_bank (s : State) (line : Nat) : (s.foldLine line).bank = s.bank :=
  State.foldLine_keeps (·.bank) (fun s e => s.homeEff_bank e) (fun _ _ => rfl) (fun s k b => s.setSide_bank k b) s line
@[simp] theorem State.foldLine_tiles (s : State) (line : Nat) : (s.foldLine line).tiles = s.tiles :=
  State.foldLine_keeps (·.tiles) (fun s e => s.homeEff_tiles e) (fun _ _ => rfl) (fun s k b => s.setSide_tiles k b) s line
@[simp] theorem State.foldLine_planes (s : State) (line : Nat) : (s.foldLine line).planes = s.planes :=
  State.foldLine_keeps (·.planes) (fun s e => s.homeEff_planes e) (fun _ _ => rfl) (fun s k b => s.setSide_planes k b) s line
@[simp] theorem State.foldLine_glades (s : State) (line : Nat) : (s.foldLine line).glades = s.glades :=
  State.foldLine_keeps (·.glades) (fun s e => s.homeEff_glades e) (fun _ _ => rfl) (fun s k b => s.setSide_glades k b) s line
@[simp] theorem State.foldLine_launches (s : State) (line : Nat) : (s.foldLine line).launches = s.launches :=
  State.foldLine_keeps (·.launches) (fun s e => s.homeEff_launches e) (fun _ _ => rfl) (fun s k b => s.setSide_launches k b) s line
@[simp] theorem State.foldLine_faults (s : State) (line : Nat) : (s.foldLine line).faults = s.faults :=
  State.foldLine_keeps (·.faults) (fun s e => s.homeEff_faults e) (fun _ _ => rfl) (fun s k b => s.setSide_faults k b) s line
@[simp] theorem State.foldLine_cores (s : State) (line : Nat) : (s.foldLine line).cores = s.cores :=
  State.foldLine_keeps (·.cores) (fun s e => s.homeEff_cores e) (fun _ _ => rfl) (fun s k b => s.setSide_cores k b) s line
@[simp] theorem State.foldLine_ports (s : State) (line : Nat) : (s.foldLine line).ports = s.ports :=
  State.foldLine_keeps (·.ports) (fun s e => s.homeEff_ports e) (fun _ _ => rfl) (fun s k b => s.setSide_ports k b) s line
@[simp] theorem State.foldLine_frames (s : State) (line : Nat) : (s.foldLine line).frames = s.frames :=
  State.foldLine_keeps (·.frames) (fun s e => s.homeEff_frames e) (fun _ _ => rfl) (fun s k b => s.setSide_frames k b) s line
@[simp] theorem State.foldLine_host (s : State) (line : Nat) : (s.foldLine line).host = s.host :=
  State.foldLine_keeps (·.host) (fun s e => s.homeEff_host e) (fun _ _ => rfl) (fun s k b => s.setSide_host k b) s line
@[simp] theorem State.foldLine_fo (s : State) (line : Nat) : (s.foldLine line).fo = s.fo :=
  State.foldLine_keeps (·.fo) (fun s e => s.homeEff_fo e) (fun _ _ => rfl) (fun s k b => s.setSide_fo k b) s line
@[simp] theorem State.foldIn_cur (s : State) (lo n : Nat) : (s.foldIn lo n).cur = s.cur := foldl_keeps (·.cur) _ (fun s k => s.foldLine_cur k) _ s
@[simp] theorem State.foldIn_agenda (s : State) (lo n : Nat) : (s.foldIn lo n).agenda = s.agenda := foldl_keeps (·.agenda) _ (fun s k => s.foldLine_agenda k) _ s
@[simp] theorem State.foldIn_bank (s : State) (lo n : Nat) : (s.foldIn lo n).bank = s.bank := foldl_keeps (·.bank) _ (fun s k => s.foldLine_bank k) _ s
@[simp] theorem State.foldIn_tiles (s : State) (lo n : Nat) : (s.foldIn lo n).tiles = s.tiles := foldl_keeps (·.tiles) _ (fun s k => s.foldLine_tiles k) _ s
@[simp] theorem State.foldIn_planes (s : State) (lo n : Nat) : (s.foldIn lo n).planes = s.planes := foldl_keeps (·.planes) _ (fun s k => s.foldLine_planes k) _ s
@[simp] theorem State.foldIn_glades (s : State) (lo n : Nat) : (s.foldIn lo n).glades = s.glades := foldl_keeps (·.glades) _ (fun s k => s.foldLine_glades k) _ s
@[simp] theorem State.foldIn_launches (s : State) (lo n : Nat) : (s.foldIn lo n).launches = s.launches := foldl_keeps (·.launches) _ (fun s k => s.foldLine_launches k) _ s
@[simp] theorem State.foldIn_faults (s : State) (lo n : Nat) : (s.foldIn lo n).faults = s.faults := foldl_keeps (·.faults) _ (fun s k => s.foldLine_faults k) _ s
@[simp] theorem State.foldIn_cores (s : State) (lo n : Nat) : (s.foldIn lo n).cores = s.cores := foldl_keeps (·.cores) _ (fun s k => s.foldLine_cores k) _ s
@[simp] theorem State.foldIn_ports (s : State) (lo n : Nat) : (s.foldIn lo n).ports = s.ports := foldl_keeps (·.ports) _ (fun s k => s.foldLine_ports k) _ s
@[simp] theorem State.foldIn_frames (s : State) (lo n : Nat) : (s.foldIn lo n).frames = s.frames := foldl_keeps (·.frames) _ (fun s k => s.foldLine_frames k) _ s
@[simp] theorem State.foldIn_host (s : State) (lo n : Nat) : (s.foldIn lo n).host = s.host := foldl_keeps (·.host) _ (fun s k => s.foldLine_host k) _ s
@[simp] theorem State.foldIn_fo (s : State) (lo n : Nat) : (s.foldIn lo n).fo = s.fo := foldl_keeps (·.fo) _ (fun s k => s.foldLine_fo k) _ s
@[simp] theorem State.setBar_cur (s : State) (key : Nat) (o : BarObj) : (s.setBar key o).cur = s.cur := by simp only [State.setBar, State.foldIn_cur]
@[simp] theorem State.setBar_agenda (s : State) (key : Nat) (o : BarObj) : (s.setBar key o).agenda = s.agenda := by simp only [State.setBar, State.foldIn_agenda]
@[simp] theorem State.setBar_bank (s : State) (key : Nat) (o : BarObj) : (s.setBar key o).bank = s.bank := by simp only [State.setBar, State.foldIn_bank]
@[simp] theorem State.setBar_tiles (s : State) (key : Nat) (o : BarObj) : (s.setBar key o).tiles = s.tiles := by simp only [State.setBar, State.foldIn_tiles]
@[simp] theorem State.setBar_planes (s : State) (key : Nat) (o : BarObj) : (s.setBar key o).planes = s.planes := by simp only [State.setBar, State.foldIn_planes]
@[simp] theorem State.setBar_glades (s : State) (key : Nat) (o : BarObj) : (s.setBar key o).glades = s.glades := by simp only [State.setBar, State.foldIn_glades]
@[simp] theorem State.setBar_launches (s : State) (key : Nat) (o : BarObj) : (s.setBar key o).launches = s.launches := by simp only [State.setBar, State.foldIn_launches]
@[simp] theorem State.setBar_faults (s : State) (key : Nat) (o : BarObj) : (s.setBar key o).faults = s.faults := by simp only [State.setBar, State.foldIn_faults]
@[simp] theorem State.setBar_cores (s : State) (key : Nat) (o : BarObj) : (s.setBar key o).cores = s.cores := by simp only [State.setBar, State.foldIn_cores]
@[simp] theorem State.setBar_ports (s : State) (key : Nat) (o : BarObj) : (s.setBar key o).ports = s.ports := by simp only [State.setBar, State.foldIn_ports]
@[simp] theorem State.setBar_frames (s : State) (key : Nat) (o : BarObj) : (s.setBar key o).frames = s.frames := by simp only [State.setBar, State.foldIn_frames]
@[simp] theorem State.setBar_host (s : State) (key : Nat) (o : BarObj) : (s.setBar key o).host = s.host := by simp only [State.setBar, State.foldIn_host]
@[simp] theorem State.setBar_fo (s : State) (key : Nat) (o : BarObj) : (s.setBar key o).fo = s.fo := by simp only [State.setBar, State.foldIn_fo]

/-! ### What an update wrote reads back -/

@[simp] theorem State.plane_setPlane (s : State) (p : PlaneId) (x : Plane) : (s.setPlane p x).plane p = x := by
  simp [State.plane, State.setPlane, Store.getD]
@[simp] theorem State.plane_modPlane (s : State) (p : PlaneId) (f : Plane → Plane) : (s.modPlane p f).plane p = f (s.plane p) := by
  simp [State.modPlane]
theorem State.plane_setPlane_other (s : State) {p q : PlaneId} (x : Plane) (h : planeKey q ≠ planeKey p) :
    (s.setPlane p x).plane q = s.plane q := by
  simp [State.plane, State.setPlane, Store.getD, Store.get?_set_other _ _ h]
@[simp] theorem State.tile_setTile (s : State) (i : Nat) (x : Tile) : (s.setTile i x).tile i = x := by
  simp [State.tile, State.setTile, Store.getD]
@[simp] theorem State.glade?_setGlade (s : State) (g : Nat) (x : Glade) : (s.setGlade g x).glade? g = some x := by
  simp [State.glade?, State.setGlade]
@[simp] theorem State.launch?_setLaunch (s : State) (l : Nat) (x : Launch) : (s.setLaunch l x).launch? l = some x := by
  simp [State.launch?, State.setLaunch]
theorem State.launch?_setLaunch_other (s : State) {l k : Nat} (x : Launch) (h : k ≠ l) : (s.setLaunch l x).launch? k = s.launch? k := by
  simp [State.launch?, State.setLaunch, Store.get?_set_other _ _ h]
@[simp] theorem State.core_setCore (s : State) (c : Nat) (x : Core) : (s.setCore c x).core c = x := by
  simp [State.core, State.setCore, Store.getD]
@[simp] theorem State.port_setPort (s : State) (p : Nat) (x : Port) : (s.setPort p x).port p = x := by
  simp [State.port, State.setPort, Store.getD]
@[simp] theorem State.tenant_setTenant (s : State) (t : Nat) (x : Tenant) : (s.setTenant t x).tenant t = x := by
  simp [State.tenant, State.setTenant, Store.getD]
@[simp] theorem State.frame_setFrame (s : State) (f : Nat) (x : Frame) : (s.setFrame f x).frame f = x := by
  simp [State.frame, State.setFrame, Store.getD]
@[simp] theorem State.island_setIsland (s : State) (i : Nat) (x : Island) : (s.setIsland i x).island i = x := by
  simp [State.island, State.setIsland, Store.getD]

/-! ### The canonical form of memory under the shared operations -/

/-- An effect on the home line keeps the canonical form. -/
theorem State.wf_homeEff {s : State} (e : MEff) (h : Memory.wf s.mem = true) : Memory.wf (s.homeEff e).mem = true := by
  cases e <;> simp [State.homeEff, h]

/-- What every step of a fold keeps in canonical form, the fold keeps so. -/
theorem foldl_wf {α : Type} (f : State → α → State) (hf : ∀ s a, Memory.wf s.mem = true → Memory.wf (f s a).mem = true) :
    ∀ (l : List α) (s : State), Memory.wf s.mem = true → Memory.wf (l.foldl f s).mem = true
  | [], _, h => h
  | a :: l, s, h => foldl_wf f hf l (f s a) (hf s a h)

/-- Folding committed entries keeps the canonical form. -/
theorem State.wf_foldLine {s : State} (line : Nat) (h : Memory.wf s.mem = true) : Memory.wf (s.foldLine line).mem = true := by
  have go : ∀ (l : List UEnt) (t : State), Memory.wf t.mem = true → Memory.wf (l.foldl (fun s e => s.homeEff e.eff) t).mem = true :=
    foldl_wf _ fun _ e => State.wf_homeEff e.eff
  simp only [State.foldLine]
  split
  · exact h
  · split
    · split <;> simpa using h
    · split
      · exact go _ _ h
      · rw [State.setSide_mem]
        exact go _ _ h
theorem State.wf_foldIn {s : State} (lo n : Nat) (h : Memory.wf s.mem = true) : Memory.wf (s.foldIn lo n).mem = true :=
  foldl_wf _ (fun _ k => State.wf_foldLine k) _ s h

/-- Writing descriptor words back keeps the canonical form. -/
theorem State.wf_putDesc {s : State} (x : Launch) (i : Nat) (st : Stream) (pick : Nat → Bool) (h : Memory.wf s.mem = true) :
    Memory.wf (s.putDesc x i st pick).mem = true := by
  simp only [State.putDesc]
  split
  · exact foldl_wf _ (fun _ k h => by split <;> simp [h]) _ _ (State.wf_foldIn _ _ h)
  · exact h
  · exact h

/-- Writing a stream's descriptor keeps the canonical form. -/
theorem State.wf_setStream {s : State} (l i : Nat) (st : Stream) (h : Memory.wf s.mem = true) :
    Memory.wf (s.setStream l i st).mem = true := by
  simp only [State.setStream]
  split
  · exact h
  · exact State.wf_putDesc _ _ _ _ (by simpa using h)

/-- Writing a barrier object keeps the canonical form. -/
theorem State.wf_setBar {s : State} (key : Nat) (o : BarObj) (h : Memory.wf s.mem = true) : Memory.wf (s.setBar key o).mem = true := by
  simp [State.setBar, State.wf_foldIn key 16 h]

end Sys2Proof.Machine
end

