-- ==== Sys2Proof/Laws/Quiet.lean ====
section
/-!
SUPPORT. What stays the same while an instruction of a block fires: the shared operations of firing (a fault, a place in the
issue group, an event counter, the values of a block) change no register, no memory, no request and no output.
-/
namespace Sys2Proof.Machine

theorem SameArch.refl (s : State) : SameArch s s :=
  ⟨rfl, rfl, rfl, rfl, fun _ _ => rfl, fun _ _ => rfl, fun _ _ => rfl, fun _ => rfl, fun _ => rfl, rfl, rfl, rfl, rfl, rfl⟩

theorem SameArch.trans {s t u : State} (h : SameArch s t) (k : SameArch t u) : SameArch s u :=
  ⟨k.mem.trans h.mem, k.side.trans h.side, k.under.trans h.under, k.bank.trans h.bank,
    fun p n => (k.sreg p n).trans (h.sreg p n), fun p n => (k.vreg p n).trans (h.vreg p n), fun p n => (k.mreg p n).trans (h.mreg p n),
    fun p => (k.requests p).trans (h.requests p), fun p => (k.outputs p).trans (h.outputs p), k.cores.trans h.cores,
    k.ports.trans h.ports, k.frames.trans h.frames, k.host.trans h.host, k.fo.trans h.fo⟩

/-- States that agree on every field but the launches, the faults, the tiles, the cursors and the model's own numbers. -/
theorem SameArch.of_planes {s t : State} (h : t.planes = s.planes) (h1 : t.mem = s.mem) (h2 : t.side = s.side) (h3 : t.under = s.under)
    (h4 : t.bank = s.bank) (h5 : t.cores = s.cores) (h6 : t.ports = s.ports) (h7 : t.frames = s.frames) (h8 : t.host = s.host)
    (h9 : t.fo = s.fo) : SameArch s t := by
  have hp : ∀ p, t.plane p = s.plane p := fun p => by simp only [State.plane, h]
  exact ⟨h1, h2, h3, h4, fun p _ => by rw [hp], fun p _ => by rw [hp], fun p _ => by rw [hp], fun p => by rw [hp], fun p => by rw [hp],
    h5, h6, h7, h8, h9⟩

/-- An update of a plane that keeps its registers, requests and outputs. -/
theorem SameArch.setPlane (s : State) (p : PlaneId) (x : Plane) (h1 : x.sregs = (s.plane p).sregs) (h2 : x.vregs = (s.plane p).vregs)
    (h3 : x.mregs = (s.plane p).mregs) (h4 : x.rq = (s.plane p).rq) (h5 : x.outs = (s.plane p).outs) : SameArch s (s.setPlane p x) := by
  have key : ∀ q, ((s.setPlane p x).plane q = s.plane q) ∨ ((s.setPlane p x).plane q = x ∧ s.plane q = s.plane p) := by
    intro q
    by_cases h : planeKey q = planeKey p
    · right; constructor
      · simp [State.plane, State.setPlane, Store.getD, h]
      · simp [State.plane, h]
    · left; exact State.plane_setPlane_other s x h
  refine ⟨rfl, rfl, rfl, rfl, fun q n => ?_, fun q n => ?_, fun q n => ?_, fun q => ?_, fun q => ?_, rfl, rfl, rfl, rfl, rfl⟩ <;>
    rcases key q with h | ⟨h, k⟩ <;> rw [h] <;> simp_all [Plane.sreg, Plane.vreg, Plane.mreg]

theorem SameArch.modPlane (s : State) (p : PlaneId) (f : Plane → Plane) (h : ∀ x, (f x).sregs = x.sregs ∧ (f x).vregs = x.vregs ∧
    (f x).mregs = x.mregs ∧ (f x).rq = x.rq ∧ (f x).outs = x.outs) : SameArch s (s.modPlane p f) :=
  SameArch.setPlane s p _ (h _).1 (h _).2.1 (h _).2.2.1 (h _).2.2.2.1 (h _).2.2.2.2

theorem SameArch.setTile (s : State) (i : Nat) (x : Tile) : SameArch s (s.setTile i x) :=
  .of_planes rfl rfl rfl rfl rfl rfl rfl rfl rfl rfl

theorem SameArch.modLaunch (s : State) (l : Nat) (f : Launch → Launch) : SameArch s (s.modLaunch l f) := by
  apply SameArch.of_planes <;> simp

theorem SameArch.askRung (s : State) (l r fid : Nat) : SameArch s (s.askRung l r fid) := .modLaunch ..

theorem SameArch.defaultAction (s : State) (f : FaultRec) : SameArch s (s.defaultAction f) := by
  simp only [State.defaultAction]
  split
  · exact .refl s
  · exact .askRung ..
  · exact .refl s

/-- Taking a fault. -/
theorem SameArch.raise (s : State) (cls : FCls) (lid : Nat) (c : Option PlaneId) (w : PlaneId) (src : FSrc) (code : Nat) (req : Bool)
    (blk slot ch ord : Nat) (info : W64) (n : Bool) : SameArch s (s.raise cls lid c w src code req blk slot ch ord info n).2 := by
  simp only [State.raise, State.fresh]
  split
  · exact .of_planes rfl rfl rfl rfl rfl rfl rfl rfl rfl rfl
  · exact SameArch.trans (t := { s with seqNo := s.seqNo + 1, faults := _ }) (.of_planes rfl rfl rfl rfl rfl rfl rfl rfl rfl rfl) (.defaultAction _ _)

/-- A fault raised at firing. -/
theorem SameArch.blockFault (s : State) (pl : PlaneId) (cls : FCls) (code slot : Nat) (info : W64) :
    SameArch s (s.blockFault pl cls code slot info) := by
  simp only [State.blockFault]
  split
  · exact .refl s
  · exact SameArch.trans (.raise ..) (.modPlane _ _ _ fun _ => ⟨rfl, rfl, rfl, rfl, rfl⟩)

theorem SameArch.setRun (s : State) (pl : PlaneId) (r : BlockRun) : SameArch s (s.setRun pl r) :=
  .modPlane _ _ _ fun _ => ⟨rfl, rfl, rfl, rfl, rfl⟩

/-- A fold of updates that each keep the rest. -/
theorem SameArch.foldl {α : Type} (f : State → α → State) (h : ∀ s a, SameArch s (f s a)) (l : List α) (s : State) :
    SameArch s (l.foldl f s) := by
  induction l generalizing s with
  | nil => exact .refl s
  | cons a t ih => exact (h s a).trans (ih _)

/-- A place in the issue group of a tile. -/
theorem SameArch.issue {s t : State} {pl : PlaneId} {c : ICls} (h : s.issue pl c = some t) : SameArch s t := by
  simp only [State.issue] at h
  split at h
  · exact nomatch h
  · split at h
    · split at h
      · cases h
        refine SameArch.trans (SameArch.foldl _ ?_ _ s) (.setTile ..)
        rintro s ⟨p, d⟩
        simp only
        split
        · exact .modPlane _ _ _ fun _ => ⟨rfl, rfl, rfl, rfl, rfl⟩
        · split
          · exact .refl s
          · exact .modPlane _ _ _ fun _ => ⟨rfl, rfl, rfl, rfl, rfl⟩
      · exact nomatch h
    · have key : ∀ (b : Bool) (u : State), (if b = true then some u else none) = some t → SameArch s u → SameArch s t := by
        intro b u hb hu; cases b <;> simp at hb; exact hb ▸ hu
      exact key _ _ h (.setTile ..)

/-- An event counted. -/
theorem SameArch.count (s : State) (pl : PlaneId) (code : Nat) (blk : BitVec 16) (slot : Nat) : SameArch s (s.count pl code blk slot) := by
  simp only [State.count]
  split
  · exact .refl s
  · refine SameArch.foldl _ ?_ _ s
    intro s n
    split
    · exact .setTile ..
    · exact .refl s

theorem SameArch.takePlace {s t : State} {pl : PlaneId} {i : Instr} {blk : BitVec 16} {slot : Nat}
    (h : s.takePlace pl i blk slot = some t) : SameArch s t := by
  simp only [State.takePlace, Option.map_eq_some_iff] at h
  obtain ⟨u, hu, rfl⟩ := h
  refine (SameArch.issue hu).trans ?_
  cases issueOf i <;> simp only <;> split <;> (try split) <;>
    first
    | exact .count ..
    | exact SameArch.trans (.count ..) (.count ..)

/-- What firing leaves. -/
theorem SameArch.fireOut (s : State) (pl : PlaneId) (r : BlockRun) (slot : Nat) (o : FR) : SameArch s (s.fireOut pl r slot o) := by
  simp only [State.fireOut]
  split
  · exact .blockFault ..
  · split
    · exact .setRun ..
    · exact .blockFault ..
  · split
    · exact .setRun ..
    · exact .blockFault ..
  · split
    · exact .blockFault ..
    · exact .setRun ..

theorem SameArch.fireNull (s : State) (pl : PlaneId) (r : BlockRun) (slot : Nat) (i : Instr) : SameArch s (s.fireNull pl r slot i) := by
  simp only [State.fireNull]
  split
  · split
    · exact .setRun ..
    · exact .blockFault ..
  · exact .setRun ..
  · exact .setRun ..

/-- The shared frame of every tile instruction. -/
theorem SameArch.fireWord {i : Instr} {s t : State} {k : FX → FR} (h : fireWord i s k = .next t) : SameArch s t := by
  simp only [Machine.fireWord] at h
  split at h
  · cases h; exact .refl s
  · split at h
    · split at h
      · cases h; exact .refl s
      · split at h
        · cases h; exact .refl s
        · split at h <;> cases h <;> exact .setRun ..
        · split at h
          · split at h
            · cases h; exact .refl s
            · cases h; exact (SameArch.takePlace ‹_›).trans (.fireNull ..)
          · cases h; exact .fireNull ..
        · split at h
          · cases h; exact .refl s
          · split at h <;> cases h
            · exact (SameArch.takePlace ‹_›).trans (.blockFault ..)
            · exact (SameArch.takePlace ‹_›).trans (.fireOut ..)
    · cases h; exact .refl s

end Sys2Proof.Machine
end

