-- ==== Sys2Proof/Laws/Requests.lean ====
section
/-!
SUPPORT. Requests of a plane that stand in its own queue: what `ready?` and `streamReady` say of them, and that an event
about one acts in place (`onReq`); when a stream's server owes nothing (`catchUp`).
-/
namespace Sys2Proof.Laws
open Sys2Proof Sys2Proof.Machine

/-- A request that stands in its plane's queue is away nowhere. -/
theorem awayReq_of_here {s : State} {pl : PlaneId} {rid : Nat} {r : Req} (h : s.req? pl rid = some r) : s.awayReq pl rid = none := by
  unfold State.awayReq; rw [h, Option.isSome_some, if_pos rfl]
/-- An event about such a request acts on the state as it is. -/
theorem onReq_of_here {s : State} {pl : PlaneId} {rid : Nat} {r : Req} {f : State → State} (h : s.req? pl rid = some r) : s.onReq pl rid f = f s := by
  unfold State.onReq; rw [awayReq_of_here h]
/-- What `ready?` answers stands in the plane's queue, and the plane acts for its launch. -/
theorem ready?_here {s : State} {pl : PlaneId} {rid l : Nat} {x : Launch} {r : Req} (h : s.ready? pl rid = some (l, x, r)) :
    s.planeActs pl = some (l, x) ∧ s.req? pl rid = some r := by
  unfold State.ready? at h; split at h <;> try contradiction
  split at h <;> try contradiction
  split at h <;> simp_all
/-- So does what `streamReady` answers, which is a stream request of stream i. -/
theorem streamReady_here {s : State} {pl : PlaneId} {rid l i : Nat} {x : Launch} {r : Req} {st : Stream} (h : s.streamReady pl rid = some (l, x, r, i, st)) :
    s.planeActs pl = some (l, x) ∧ s.req? pl rid = some r ∧ r.kind.isStream = true ∧ x.streamOf r.handle = some (i, st) := by
  revert h
  unfold State.streamReady
  generalize s.planeActs pl = o
  generalize s.req? pl rid = q
  intro h
  rcases o with _ | ⟨l', x'⟩
  · cases h
  rcases q with _ | r'
  · cases h
  dsimp only at h
  obtain ⟨hk, h⟩ := Option.ite_none_right_eq_some.mp h
  have hk := ((Bool.and_eq_true _ _).mp hk).2
  split at h
  · rename_i hs
    simp only [Option.some.injEq, Prod.mk.injEq] at h
    obtain ⟨rfl, rfl, rfl, rfl, rfl⟩ := h
    exact ⟨rfl, rfl, hk, hs⟩
  · cases h

/-- A stream to which its server owes nothing is caught up. -/
theorem catchUp_of_owes_nothing {s : State} {l i : Nat} {x : Launch} (h : s.launch? l = some x) (hu : ∀ q ∈ x.unset, q.1 ≠ i)
    (ho : x.owed.contains i = false) : s.catchUp l i = s := by
  have hm : (x.unset.filter fun q => decide (q.1 = i)) = [] := List.filter_eq_nil_iff.mpr fun q hq => by simpa using hu q hq
  unfold State.catchUp
  rw [h]; dsimp only
  cases x.streams[i]? with
  | none => rfl
  | some st => dsimp only; rw [hm, ho]; rfl

end Sys2Proof.Laws
end

