-- ==== Sys2Proof/Tests/Slice0.lean ====
section
/-!
SUPPORT. The model's own tests: ill-formed terms that the checks refuse, words written out from the spec's encodings, and
for each statement states that meet its hypotheses.
-/
namespace Sys2Proof.Tests
open Sys2Proof Sys2Proof.Machine

set_option Elab.async false

/-! ### A small state in which one tile instruction can fire -/

/-- Instruction `i` stands in slot 0 of the block that plane 0 of tile (0, 1) has mapped, with these operands. -/
def at0 (i : Instr) (a b c : Val) : State :=
  let r : BlockRun :=
    { words := [encode i], consts := List.replicate 15 7#64, len := 8, opA := [(0, a)], opB := [(0, b)], opC := [(0, c)],
      pred := [(0, scalarVal (if prOf i = .onTrue then 1#64 else 0#64) .u64)],
      waves := if (linkOf i).isSome then List.replicate 32 .opened else [] }
  let f : Firing := { task := 0, kind := .aligned, block := 0#16, run := some r }
  State.reset.setPlane ⟨0, 1, 0⟩ { level := .handler, own := 0xF#4, firing := some f }

/-- What the instruction in that slot sees, where it fires. -/
def fx (i : Instr) (s : State) : Option FX :=
  match (s.plane s.cur.pl).firing with
  | none => none
  | some f =>
    match f.run with
    | none => none
    | some r =>
      match r.fit i s.cur.slot, s.takePlace s.cur.pl i f.block s.cur.slot with
      | .go a b c, some t =>
        if f.st = .running ∧ r.done.contains s.cur.slot = false ∧ (needsHandler i && decide ((s.plane s.cur.pl).level = .user)) = false then
          some { s := t, pl := s.cur.pl, p := t.plane s.cur.pl, f := f, r := r, slot := s.cur.slot, a := a, b := b, c := c }
        else none
      | _, _ => none

theorem fx_fires {i : Instr} {s : State} {x : FX} (h : fx i s = some x) : Fires i s x := by
  simp only [fx] at h
  split at h
  · exact nomatch h
  · split at h
    · exact nomatch h
    · split at h
      · split at h
        · rename_i hc
          cases h
          exact ⟨rfl, rfl, by assumption, hc.1, by assumption, hc.2.1, by assumption, by assumption, rfl, hc.2.2⟩
        · exact nomatch h
      · exact nomatch h

/-- Whether `i` fires on those operands and what it sees meets `p`. -/
def meets (i : Instr) (a b c : Val) (p : Instr → FX → Bool) : Bool := (fx i (at0 i a b c)).elim false (p i)

theorem witness {is : List Instr} {a b c : Val} {p : Instr → FX → Bool} (h : (is.all fun i => meets i a b c p) = true) :
    ∀ i ∈ is, ∃ s x, Fires i s x ∧ p i x = true := by
  intro i hi
  have hm := List.all_eq_true.mp h i hi
  simp only [meets] at hm
  cases hx : fx i (at0 i a b c) with
  | none => simp [hx] at hm
  | some x => exact ⟨_, x, fx_fires hx, by simpa [hx] using hm⟩

theorem witnessIn {i : Instr} {s : State} {p : FX → Bool} (h : (fx i s).elim false p = true) : ∃ s x, Fires i s x ∧ p x = true := by
  cases hx : fx i s with
  | none => simp [hx] at h
  | some x => exact ⟨s, x, fx_fires hx, by simpa [hx] using h⟩

def sc (n : Nat) : Val := scalarVal (BitVec.ofNat 64 n) .u64
def vc (ty : ETy) (f : Nat → Nat) (m : W64 := allOnes) : Val := vecVal (mkLanes fun j => BitVec.ofNat 64 (f j)) ty m
/-- Both operands are SCALAR with these values. -/
def sees (a b : Nat) (x : FX) : Bool := decide (x.a.s64 = some (BitVec.ofNat 64 a)) && decide (x.b.s64 = some (BitVec.ofNat 64 b))
/-- The targets of two results are free. -/
def frees (ta tb : Tgt) (x : FX) : Bool := ((x.r.mark x.slot).putAll [(ta, .null), (tb, .null)]).isSome

/-! ### Witnesses: tile words on their operands -/

theorem wit_ScalarArithmetic : ∀ i ∈ ([.add .always .d64 .none (.a 2), .sub .always .d64 .none (.a 2), .mul .always .sx32 .none (.b 3),
    .mulh .always .d64 .none .none, .mulhu .always .d64 .none .none, .min .always .zx32 .none .none, .max .always .d64 .none .none,
    .minu .always .d64 .none .none, .maxu .always .d64 .none .none, .div .always .d64 .none .none, .divu .always .d64 .none .none,
    .rem .always .d64 .none .none, .remu .onTrue .sx32 .none .none, .and .always .d64 .none .none, .or .always .d64 .none .none,
    .xor .always .d64 .none .none, .andn .always .d64 .none .none, .shl .always .d64 .none .none, .shr .always .d64 .none .none,
    .sra .always .d64 .none .none, .rotl .always .d64 .none .none, .rotr .onFalse .d64 .none .none] : List Instr),
    ∃ s x, Fires i s x ∧ (sees (2 ^ 64 - 1) 3 x && frees (.a 2) (.b 3) x) = true :=
  witness (a := sc (2 ^ 64 - 1)) (b := sc 3) (c := sc 0) (by decide)
theorem wit_ScalarArithmetic_by_zero : ∀ i ∈ ([.div .always .d64 .none .none, .divu .always .d64 .none .none, .rem .always .d64 .none .none,
    .remu .always .sx32 .none .none] : List Instr), ∃ s x, Fires i s x ∧ (sees (2 ^ 63) (2 ^ 32) x && frees .none .none x) = true :=
  witness (a := sc (2 ^ 63)) (b := sc (2 ^ 32)) (c := sc 0) (by decide)

theorem wit_ScalarFunctions_one : ∀ i ∈ ([.neg .always .d64 .none .none, .abs .always .d64 .none .none, .not .always .d64 .none .none,
    .clz .always .d64 .none .none, .ctz .always .d64 .none .none, .popc .always .d64 .none .none, .brev .always .d64 .none .none,
    .bswap .always .d64 .none .none, .exts .always .b .none .none, .extz .always .w .none .none] : List Instr),
    ∃ s x, Fires i s x ∧ (sees 0 0 x && frees .none .none x) = true :=
  witness (a := sc 0) (b := sc 3) (c := sc 0) (by decide)
theorem wit_ScalarFunctions_three : ∀ i ∈ ([.madd .always .d64 .none .none, .addc .always .d64 (.b 3) (.a 2), .subb .always .d64 .none .none,
    .lea .always 3#2 .none .none, .bfx .always true .none .none, .bfi .always .none .none, .tst .always .lt false .none (.p 4),
    .tst .always .eq true .none .none] : List Instr),
    ∃ s x, Fires i s x ∧ (sees (2 ^ 64 - 1) (2 ^ 64 - 1) x && x.c.s64.isSome && frees (.a 2) (.b 3) x) = true :=
  witness (a := sc (2 ^ 64 - 1)) (b := sc (2 ^ 64 - 1)) (c := sc 1) (by decide)

theorem wit_ImmediateForms : ∀ i ∈ ([.addi .always 0x1FFF#13 .none, .andi .always 0x1000#13 .none, .ori .always 0#13 .none, .xori .always 5#13 .none,
    .shli .always 63#13 .none, .shri .always 64#13 .none, .srai .always 1#13 (.c 5)] : List Instr),
    ∃ s x, Fires i s x ∧ (sees (2 ^ 63) 0 x && frees (.c 5) .none x) = true :=
  witness (a := sc (2 ^ 63)) (b := sc 0) (c := sc 0) (by decide)
theorem wit_MoviAndConst : ∀ i ∈ ([.movi .always 0x1000#13 (.a 1), .const .always 14#4 (.b 1), .null .always .none (.c 1), .nop .onTrue] : List Instr),
    ∃ s x, Fires i s x ∧ (frees (.a 1) (.b 1) x && frees (.c 1) .none x) = true :=
  witness (a := sc 0) (b := sc 0) (c := sc 0) (by decide)
theorem wit_NopDoesNothing : (0x01800000#32).extractLsb' 24 8 = 0x01#8 ∧ (0x01800000#32).extractLsb' 22 2 = wrPR .onFalse := by decide

theorem wit_MovesAndExits : ∀ i ∈ ([.mov .always (.a 1) (.b 1), .null .always .none .none, .sel .always .none .none, .get .always 63#6 none .none,
    .getv .always 15#4 (some .f32) .none, .getm .always 7#3 .none, .put .always 63#6, .putm .always 0#3, .br .always 0x1FFF#13, .bri .always,
    .call .always 1#13, .ret .always, .tend .always, .pyield .always 0#13] : List Instr), ∃ s x, Fires i s x ∧
    (x.a.s64.isSome && x.b.s64.isSome && decide (x.a.bits.toNat % 8 = 0) && decide (x.c.s64 = some (if usesOf i = 3 then 1#64 else 0#64)) && frees (.a 1) (.b 1) x && decide (x.r.exits = []) && !writesS x.r.effs 63 &&
      !writesM x.r.effs 0 && decide ((x.p.sreg 63).toNat % 8 = 0)) = true :=
  witness (a := sc 8) (b := sc 3) (c := sc 1) (by decide)
theorem wit_MovesAndExits_other : ∃ s x, Fires (.sel .always .none .none) s x ∧ (decide (x.c.s64 = some 2#64) && frees .none .none x) = true :=
  witnessIn (s := at0 (.sel .always .none .none) (sc 8) (sc 3) (sc 2)) (by decide)
theorem wit_MovesAndExits_putv : ∃ s x, Fires (.putv .always 15#4 true) s x ∧
    (decide (x.a.shape = .vector) && !writesV x.r.effs 15) = true :=
  witnessIn (s := at0 (.putv .always 15#4 true) (vc .u8 id 5#64) (sc 3) (sc 2)) (by decide)

/-- An actor record on tile (0, 1) with one task whose rates on channel 0 are 1. -/
def actor0 : ActorRec :=
  { col := 0, row := 1, plane := 0, repl := 1, colwise := false, eosp := 0, align := 0x1#16, timer := 0x2#16, fault := 0x4#16, dlin := none,
    own := 15#4, nbr := 0#4, level := 1, npol := 0#32, shBase := 0, shSize := 4096, roEnd := 0, ident := 9#64, code := 0, clen := 0, ninit := 0,
    tasks := [{ entry := 64#16, bind := 0, kind := .aligned, svcr := 1, irate := [1], orate := [1] }] }
/-- A channel from output 0 of actor 0 to input 0 of actor 0 (a loop), SCALAR. -/
def chan0 : ChanRec :=
  { pkind := 0, prod := 0, pep := 0, ckind := 0, cons := 0, cep := 0, shape := 0, dtag := 7, prio := 0, fifo := 0, fcol := 0, frow := 0 }
def launch0 : Launch :=
  { rcd := [], st := .live, glade := 0, queue := 0, asid := 1#16, tenant := 0, img := { width := 4, actors := [actor0], chans := [chan0] } }
def glade0 : Glade := { nisl := 1 }
/-- Launch 0 runs in glade 0, and its actor is on plane 0 of tile (0, 1), between firings. -/
def base : State :=
  let s := (State.reset.setGlade 0 glade0).setLaunch 0 launch0
  s.setPlane ⟨0, 1, 0⟩ { launch := some 0, level := .handler, own := 0xF#4, shSize := 4096 }

/-- Instruction `i` in slot 0 of a block of that actor's task, with these operands; `g` sets what the firing holds. -/
def inTask (i : Instr) (a b : Val) (g : Firing → Firing) : State :=
  let r : BlockRun :=
    { words := [encode i], consts := [], len := 8, opA := [(0, a)], opB := [(0, b)], opC := [(0, sc 0)],
      waves := if (linkOf i).isSome then List.replicate 32 .opened else [] }
  base.modPlane ⟨0, 1, 0⟩ fun p => { p with firing := some (g { task := 0, kind := .aligned, block := 64#16, run := some r }) }

def datum0 : Datum := ⟨.scalar, [5#64], .u64, 1#64⟩
/-- A fault that a read of launch 0 raised, answered on channel 0: bit 35 of its first word says so. -/
def fault0 : FaultRec :=
  { fid := 7, cls := .shape, glade := 0, lid := 0, words := [0x800000000#64, 2#64], src := .request ⟨0, 1, 0⟩ 3, input := none, st := .taken }

theorem wit_Channels_recv : ∃ s x, Fires (.recv .always 0#4 0#2 (.a 1)) s x ∧ (decide (x.f.kind ≠ .control) &&
    decide ((Store.getD x.f.consumed 0 [])[0]? = some (.data datum0)) && decide (x.task.map (fun q => q.1.fault.getLsbD 0) = some false)
      && frees (.a 1) .none x) = true :=
  witnessIn (s := inTask (.recv .always 0#4 0#2 (.a 1)) (sc 0) (sc 0) fun f => { f with consumed := [(0, [.data datum0])] }) (by decide)
theorem wit_Channels_recv_control : ∃ s x, Fires (.recv .always 0#4 0#2 .none) s x ∧ (decide (x.f.kind = .control) &&
    decide ((Store.getD x.f.consumed 0 [])[0]? = some (.ctl .eos)) && frees .none .none x) = true :=
  witnessIn (s := inTask (.recv .always 0#4 0#2 .none) (sc 0) (sc 0) fun f => { f with kind := .control, consumed := [(0, [.ctl .eos])] }) (by decide)
theorem wit_Channels_send : ∃ s x, Fires (.send .always 0#4) s x ∧ (decide (x.outShape 0 = some (shapeCode x.a.shape)) &&
    decide (x.sentOn 0 < x.orate 0)) = true :=
  witnessIn (s := inTask (.send .always 0#4) (sc 5) (sc 0) id) (by decide)
theorem wit_Channels_sendc : ∃ s x, Fires (.sendc .always 0#4 6#4) s x ∧ (!x.ctlSentOn 0) = true :=
  witnessIn (s := inTask (.sendc .always 0#4 6#4) (sc 5) (sc 0) id) (by decide)
theorem wit_Channels_send_null : ∃ s x, Fires (.sendc .always 0#4 7#4) s x ∧ decide (x.sentOn 0 < x.orate 0) = true :=
  witnessIn (s := inTask (.sendc .always 0#4 7#4) (sc 5) (sc 0) id) (by decide)
theorem wit_Channels_timer : ∃ s x, Fires (.timer .always 1#4 true) s x ∧ (sees 9 0 x && decide (x.p.timers = []) && decide (x.r.effs = []) &&
    decide (x.task.map (fun q => q.1.timer.getLsbD 1) = some true)) = true :=
  witnessIn (s := inTask (.timer .always 1#4 true) (sc 9) (sc 0) id) (by decide)
theorem wit_Channels_svc : ∃ s x, Fires (.svc .always 2#4 127#7) s x ∧ (sees 9 0 x && decide (x.r.effs = []) &&
    decide (x.task.map (fun q => decide (x.f.svcs < q.2.svcr)) = some true)) = true :=
  witnessIn (s := inTask (.svc .always 2#4 127#7) (sc 9) (sc 0) id) (by decide)
theorem wit_Channels_fread : ∃ s x, Fires (.fread .always 2#4 1#2 .none) s x ∧ (decide (Store.getD x.f.consumed 2 [] = [.fault 7 [1#64, 2#64]]) &&
    decide (x.task.map (fun q => q.1.fault.getLsbD 2) = some true) && decide (x.task.map (fun q => decide (q.2.irate.getD 2 0 ≠ 0)) = some true)) = true :=
  witnessIn (s := (inTask (.fread .always 2#4 1#2 .none) (sc 9) (sc 0) fun f => { f with consumed := [(2, [.fault 7 [1#64, 2#64]])] }).setLaunch 0
    { launch0 with img := { launch0.img with actors := [{ actor0 with tasks := [{ entry := 64#16, bind := 0, kind := .aligned, svcr := 1, irate := [1, 0, 1], orate := [1] }] }] } })
    (by decide)
theorem wit_Channels_other : ∀ i ∈ ([.rdcyc .always .none .none, .rdid .always 0#4 .none, .rdid .always 2#4 .none, .rdid .always 9#4 .none,
    .rdperf .always (.ctr 3#2) .none, .wrperf .always 3#2 false, .trap .always 4095#12, .brkt .always 0#12, .blaze .always true] : List Instr),
    ∃ s x, Fires i s x ∧ (x.a.s64.isSome && decide (x.a.bits.toNat % 256 < 12) && x.p.own.getLsbD 3 && frees .none .none x) = true :=
  witness (a := sc 11) (b := sc 3) (c := sc 0) (by decide)
theorem wit_System_onFault : ∀ i ∈ ([.hresume .always, .habort .always, .repair .always] : List Instr), ∃ s x, Fires i s x ∧
    (decide (x.f.fid = some 7) && decide (x.s.fault? 7 = some fault0) && !x.actsTwice && !x.f.acted && decide (fault0.respCh = some 0)) = true := by
  have h : (([.hresume .always, .habort .always, .repair .always] : List Instr).all fun i =>
      (fx i { inTask i (sc 5) (sc 1) (fun f => { f with fid := some 7 }) with faults := [fault0] }).elim false fun x =>
        decide (x.f.fid = some 7) && decide (x.s.fault? 7 = some fault0) && !x.actsTwice && !x.f.acted &&
          decide (fault0.respCh = some 0)) = true := by decide
  exact fun i hi => witnessIn (List.all_eq_true.mp h i hi)
theorem wit_System_repair_null : ∃ s x, Fires (.repair .always) s x ∧ (decide (x.f.fid = some 7) && decide (x.b.s64 = some 1#64)) = true :=
  witnessIn (s := { inTask (.repair .always) (sc 5) (sc 1) (fun f => { f with fid := some 7 }) with faults := [fault0] }) (by decide)
theorem wit_System_repair : ∃ s x, Fires (.repair .always) s x ∧ (decide (x.f.fid = some 7) && decide (x.b.s64 = some 0#64) &&
    decide (x.s.inShape ⟨0, 1, 0⟩ 0 = some (shapeCode x.a.shape))) = true :=
  witnessIn (s := { inTask (.repair .always) (sc 5) (sc 0) (fun f => { f with fid := some 7 }) with faults := [fault0] }) (by decide)

/-- The operands that the instruction uses are data of the type. -/
def isV (i : Instr) (ty : ETy) (x : FX) : Bool :=
  x.a.isData ty && (decide (usesOf i < 2) || x.b.isData ty) && (decide (usesOf i < 3) || x.c.isData ty) && frees .none .none x

theorem wit_VectorIntegers : ∀ i ∈ ([.vabs .always .i8 .none .none, .vneg .always .i8 .none .none, .vclz .always .i8 .none .none,
    .vpopc .always .i8 .none .none, .vshl .always .i8 .none .none, .vshr .always .i8 .none .none, .vsra .always .i8 .none .none,
    .vadd .always .i8 .none .none, .vsub .always .i8 .none .none, .vmul .always .i8 .none .none, .vmulh .always .i8 .none .none,
    .vdiv .always .i8 .none .none, .vand .always .i8 .none .none, .vor .always .i8 .none .none, .vxor .always .i8 .none .none,
    .vmin .always .i8 .none .none, .vmax .always .i8 .none .none, .vfma .always .i8 .none .none, .vfms .always .i8 .none .none,
    .vceq .always .i8 .none .none, .vcne .always .i8 .none .none, .vclt .always .i8 .none .none, .vcle .always .i8 .none .none,
    .vclamp .always .i8 .none .none, .vshuf .always .i8 .none .none, .vrsum .always .i8 .none .none, .vrmin .always .i8 .none .none,
    .vrmax .always .i8 .none .none, .vscan .always .i8 .none .none, .vdedup .always .i8 .none .none] : List Instr),
    ∃ s x, Fires i s x ∧ (intTy.contains .i8 && isV i .i8 x) = true :=
  witness (a := vc .i8 (fun j => if j = 0 then 2 ^ 64 - 128 else j)) (b := vc .i8 (fun _ => 2 ^ 64 - 1)) (c := vc .i8 (fun _ => 0)) (by decide)
theorem wit_VectorFloats : ∀ i ∈ ([.vabs .always .f32 .none .none, .vneg .always .f32 .none .none, .vsqrt .always .f32 .none .none,
    .vrcp .always .f32 .none .none, .vrsq .always .f32 .none .none, .vexp2 .always .f32 .none .none, .vlog2 .always .f32 .none .none,
    .vsin .always .f32 .none .none, .vcos .always .f32 .none .none, .vtanh .always .f32 .none .none, .vsigm .always .f32 .none .none,
    .vadd .always .f32 .none .none, .vsub .always .f32 .none .none, .vmul .always .f32 .none .none, .vdiv .always .f32 .none .none,
    .vmin .always .f32 .none .none, .vmax .always .f32 .none .none, .vfma .always .f32 .none .none, .vfms .always .f32 .none .none,
    .vamax .always .f32 .none .none] : List Instr),
    ∃ s x, Fires i s x ∧ (fltTy.contains .f32 && isV i .f32 x) = true :=
  witness (a := vc .f32 (fun _ => 0x3F800000)) (b := vc .f32 (fun _ => 0x40000000)) (c := vc .f32 (fun _ => 0)) (by decide)
/-- Under PROPAGATE the sum of 1 and 2 is no fault in any lane. -/
theorem wit_VectorFloats_lanes : ∀ j < 64, addF 0#32 (fmtOf .f32) (laneF 0#32 .f32 (laneAt (mkLanes fun _ => 0x3F800000#64) j))
    (laneF 0#32 .f32 (laneAt (mkLanes fun _ => 0x40000000#64) j)) = .ok 0x40400000 := by decide
theorem wit_MaskLogic : ∀ i ∈ ([.mand .always .none .none, .mor .always .none .none, .mnot .always .none .none, .mpopc .always .none .none,
    .vbcast .always .i8 .none .none, .viota .always .i8 .none .none] : List Instr), ∃ s x, Fires i s x ∧ (decide (x.a.s64 = some allOnes) && x.b.s64.isSome && frees .none .none x) = true :=
  witness (a := .dat ⟨.mask, [allOnes], .u64, 1#64⟩) (b := .dat ⟨.mask, [0#64], .u64, 1#64⟩) (c := sc 0) (by decide)
theorem wit_VectorMoves : ∀ i ∈ ([.vext .always .f32 .none .none, .vrot .always .f32 .none .none, .vins .always .f32 .none .none, .vfilt .always .f32 .none .none,
    .vexpd .always .f32 .none .none] : List Instr),
    ∃ s x, Fires i s x ∧ (x.a.isData .f32 && decide (x.b.s64 = some 65#64) && x.c.s64.isSome && frees .none .none x) = true :=
  witness (a := vc .f32 id) (b := sc 65) (c := sc 1) (by decide)
theorem wit_VectorMoves_vsel : ∃ s x, Fires (.vsel .always .f32 .none .none) s x ∧ (x.a.isData .f32 && x.b.isData .f32 && decide (x.c.s64 = some 1#64)) = true :=
  witnessIn (s := at0 (.vsel .always .f32 .none .none) (vc .f32 id) (vc .f32 id) (sc 1)) (by decide)
theorem wit_ReductionsAndFilters_vcvt : ∃ s x, Fires (.vcvt .always .i8 .none .none) s x ∧ (decide (x.a.shape = .vector) &&
    (List.range 64).all fun j => match cvtLane x.p.npol x.a.tag .i8 (laneAt x.a.lanes j) with | .ok v => decide (v = laneAt x.a.lanes j) | .error _ => false) = true :=
  witnessIn (s := at0 (.vcvt .always .i8 .none .none) (vc .i8 id) (sc 65) (sc 1)) (by decide)
/-- 1 and 2 in every lane, with a quiet NaN in lane 0 of the first operand where `nan`; NPOL STRICT where `strict`. -/
def atF (i : Instr) (nan strict : Bool) : State :=
  let s := at0 i (vc .f32 fun j => if nan && j == 0 then 0x7FC00000 else 0x3F800000) (vc .f32 fun _ => 0x40000000) (vc .f32 fun _ => 0x40000000)
  if strict then s.modPlane ⟨0, 1, 0⟩ fun p => { p with npol := 8#32 } else s
def fltCmp : List Instr := [.vceq .always .f32 .none .none, .vcne .always .f32 .none .none, .vclt .always .f32 .none .none, .vcle .always .f32 .none .none]
theorem wit_ComparesAndClamp_floats : ∀ nan : Bool, ∀ i ∈ .vclamp .always .f32 .none .none :: fltCmp, (fx i (atF i nan false)).elim false (fun x => x.a.isData .f32 && x.b.isData .f32 &&
    (decide (usesOf i < 3) || x.c.isData .f32) && decide (nanmOf x.p.npol ≠ .strict) && frees .none .none x) = true := by decide +kernel
/-- The NaN of lane 0 under STRICT: the compares fault, and so does lane 0 of the clamp. -/
theorem wit_ComparesAndClamp_strict : ∀ i ∈ .vclamp .always .f32 .none .none :: fltCmp, (fx i (atF i true true)).elim false (fun x => x.a.isData .f32 && x.b.isData .f32 &&
    decide (nanmOf x.p.npol = .strict) && (match laneF x.p.npol .f32 (laneAt x.a.lanes 0) with | .nan _ _ => true | _ => false) &&
    decide (minmaxF x.p.npol fF32 true (codeF x.p.npol .f32 (laneAt x.a.lanes 0)) (codeF x.p.npol .f32 (laneAt x.b.lanes 0)) = .arith)) = true := by decide +kernel
theorem wit_ReductionsAndFilters_floats : ∀ i ∈ ([.vrsum .always .f32 .none .none, .vrmin .always .f32 .none .none, .vrmax .always .f32 .none .none, .vscan .always .f32 .none .none] : List Instr),
    (fx i (atF i false false)).elim false (fun x => x.a.isData .f32 && frees .none .none x && (List.range 64).all fun j =>
      decide (laneF x.p.npol .f32 (laneAt x.a.lanes j) = .fin false (2 ^ 23) (-23))) = true := by decide +kernel
theorem wit_ReductionsAndFilters_strict : (fx (.vrsum .always .f32 .none .none) (atF (.vrsum .always .f32 .none .none) true true)).elim false (fun x =>
    x.a.isData .f32 && decide (sumLanes x.p.npol .f32 (activeLanes x.a) = .arith)) = true := by decide +kernel
/-- 2^0 · 3 and −2^2 · 1, both exponents at least −1. -/
theorem wit_ReductionsAndFilters_exact : ∀ t ∈ [(false, 3, 0), (true, 1, 2)], (-1 : Int) ≤ t.2.2 := by decide

theorem wit_SortedKeys : ∀ i ∈ ([.vmrg .always .u8 .none .none, .visx .always .u8 .none .none] : List Instr), ∃ s x, Fires i s x ∧
    (x.a.isData .u8 && x.b.isData .u8 && decide (prefLen x.a.lmask = some 2) && decide (prefLen x.b.lmask = some 1) &&
      ordered true .u8 (keyRun x.a 2) && ordered true .u8 (keyRun x.b 1) && ordered false .u8 (keyRun x.a 2) && ordered false .u8 (keyRun x.b 1)) = true :=
  witness (a := vc .u8 (fun j => j) 3#64) (b := vc .u8 (fun j => j + 1) 1#64) (c := sc 0) (by decide)
theorem wit_SortedKeys_unordered : ∃ s x, Fires (.vmrg .always .u8 .none .none) s x ∧ (decide (prefLen x.a.lmask = some 2) && !ordered false .u8 (keyRun x.a 2)) = true :=
  witnessIn (s := at0 (.vmrg .always .u8 .none .none) (vc .u8 (fun j => 9 - j) 3#64) (vc .u8 (fun j => j + 1) 1#64) (sc 0)) (by decide)
theorem wit_SortedKeys_draws : ∃ s x, Fires (.rngx .always .none .none) s x ∧ (x.a.isData .u64 && x.b.isData .u64) = true :=
  witnessIn (s := at0 (.rngx .always .none .none) (vc .u64 id) (vc .u64 fun j => if j = 0 then 2 ^ 64 - 1 else 0) (sc 0)) (by decide)

/-- The plane owns the sparse accumulator, which holds one entry. -/
def ownsAcc (i : Instr) (a b : Val) : State :=
  (inTask i a b id).setTile (tileIx 0 1) { saccOwner := some 0, sacc := [(3, 4#64)], saccTy := some .u32, codebook := 0x3C00#256 }
theorem wit_Sparse : ∀ i ∈ ([.saccz .always, .sacc .always .u32, .saccf .always .none .none] : List Instr), ∃ s x, Fires i s x ∧
    (x.ownsSacc && !x.saccTwice && (decide (usesOf i < 2) || (decide (x.a.shape = .vector) && x.b.isData .u32 && (saccGo 0#32 .u32 x.a x.b [0, 1] x.tile.sacc).isSome)) && decide (x.tile.saccTy = some .u32) &&
      ((List.range 64).all fun j => decide ((laneAt x.a.lanes j).toNat % 2 ^ 32 < 4096)) && frees .none .none x) = true := by
  have h : (([.saccz .always, .sacc .always .u32, .saccf .always .none .none] : List Instr).all fun i =>
      (fx i (ownsAcc i (vc .u32 (fun j => 4095 - j) 3#64) (vc .u32 id 3#64))).elim false fun x =>
        (x.ownsSacc && !x.saccTwice && (decide (usesOf i < 2) || (decide (x.a.shape = .vector) && x.b.isData .u32 && (saccGo 0#32 .u32 x.a x.b [0, 1] x.tile.sacc).isSome)) && decide (x.tile.saccTy = some .u32) &&
          ((List.range 64).all fun j => decide ((laneAt x.a.lanes j).toNat % 2 ^ 32 < 4096)) && frees .none .none x)) = true := by decide
  exact fun i hi => witnessIn (List.all_eq_true.mp h i hi)
theorem wit_Sparse_not_owner : ∃ s x, Fires (.saccz .always) s x ∧ (!x.ownsSacc) = true :=
  witnessIn (s := at0 (.saccz .always) (sc 0) (sc 0) (sc 0)) (by decide)
theorem wit_Quantised : ∀ i ∈ ([.cbset .always, .vqnt .always .f32 .none .none, .vamax .always .f32 .none .none, .vdqnt .always .none .none] : List Instr), ∃ s x, Fires i s x ∧
    (decide (x.a.shape = .vector) && x.a.isData .f32 && x.p.own.getLsbD 1 && !unscalable (elems 0#32 .f32 x.a) &&
      x.b.s64.isSome && (match laneF 0#32 .f32 0x3F800000#64 with | .fin .. => true | _ => false) && frees .none .none x) = true :=
  witness (a := vc .f32 fun _ => 0x3F800000) (b := sc 0x3F800000) (c := sc 0) (by decide)
set_option maxRecDepth 4000 in
theorem wit_Quantised_vcbq : ∃ s x, Fires (.vcbq .always .f32 .none .none) s x ∧ (x.a.isData .f32 && x.p.own.getLsbD 1 &&
    (cbEmax x.tile.codebook).isSome && decide ((maxMag ((elems 0#32 .f32 x.a).filterMap id)).1 ≠ 0) && frees .none .none x) = true :=
  witnessIn (s := ownsAcc (.vcbq .always .f32 .none .none) (vc .f32 fun _ => 0x3F800000) (sc 0)) (by decide)

/-! ### Witnesses: requests and local accesses -/

def lk0 : Link := ⟨0#5, 0#4, 0#4⟩
theorem wit_MemoryForms : ∀ i ∈ ([.ld .always lk0 .d 15#4, .ldw .always lk0 .d 0#4, .ldc .always lk0 .d 0#4, .feq .always lk0 .d 0#4, .fempty .always lk0 .d,
    .ldl .always lk0 .d 0#6, .ldn .always lk0 .d 0#6, .st .always lk0 .d, .stf .always lk0 .d, .sts .always lk0 .d, .stl .always lk0 .d, .stn .always lk0 .d,
    .aadd .always lk0 true 0#4, .aand .always lk0 true 0#4, .aor .always lk0 true 0#4, .axor .always lk0 true 0#4, .amin .always lk0 true 0#4,
    .amax .always lk0 true 0#4, .aswap .always lk0 true 0#4, .cas .always lk0 true 0#4, .uadd .always lk0 true, .uand .always lk0 true,
    .uor .always lk0 true, .uxor .always lk0 true, .umin .always lk0 true, .umax .always lk0 true, .ufadd .always lk0,
    .fence .always lk0 .sys, .xfence .always lk0 .mtx .fab, .sbar .always lk0, .barwt .always lk0 0#4, .pref .always lk0 true, .wback .always lk0,
    .setbud .always lk0, .bararv .always lk0, .barinit .always lk0, .barexp .always lk0, .copy .always lk0 0#4, .mmpost .always lk0] : List Instr),
    ∃ s x, Fires i s x ∧ (decide (x.a.s64 = some (if 0 < usesOf i then BitVec.ofNat 64 (2 ^ 48 - 64) else 0#64)) && x.b.s64.isSome && x.c.s64.isSome && decide ((2 ^ 48 - 64) % 2 ^ 48 % widAlign .d = 0) &&
      decide (x.b.shape ≠ .vector) && !widVec .d && decide (x.p.level = .handler)) = true :=
  witness (a := sc (2 ^ 48 - 64)) (b := sc 255) (c := sc 1) (by decide)
theorem wit_MisalignedAddress : ∀ i ∈ ([.ld .always lk0 .d 15#4, .ldw .always lk0 .d 0#4, .ldc .always lk0 .d 0#4, .feq .always lk0 .d 0#4, .fempty .always lk0 .d,
    .ldl .always lk0 .d 0#6, .ldn .always lk0 .d 0#6, .st .always lk0 .d, .stf .always lk0 .d, .sts .always lk0 .d, .stl .always lk0 .d, .stn .always lk0 .d,
    .aadd .always lk0 true 0#4, .aswap .always lk0 true 0#4, .uadd .always lk0 true, .bararv .always lk0, .barinit .always lk0, .barexp .always lk0,
    .copy .always lk0 0#4, .mmpost .always lk0] : List Instr), ∃ s x, Fires i s x ∧ (decide (x.a.s64 = some 4#64) && x.b.s64.isSome && decide (4 % 2 ^ 48 % widAlign .d ≠ 0)) = true :=
  witness (a := sc 4) (b := sc 255) (c := sc 1) (by decide)

def streamRec0 : StreamRec :=
  { ver := 1, back := 0, fsz := false, esz := 3, hostp := false, hostr := 0#4, nrd := 0, log2e := 4, nfrm := 2, start := 0#32, base := 0x10000,
    stall := 0#32, handle := 5, pcol := 0, pedge := false, port := 0, lead := 0#32, writer := 0, rdrs := [0], etag := 7 }
def stream0 : Stream := { sr := streamRec0, hwm := 0#32, tail := 0#32, rd := [0#32], rel := [0#32], front := 0#32 }
def streamTask (i : Instr) (a b : Val) : State :=
  (inTask i a b id).setLaunch 0 { launch0 with img := { launch0.img with streams := [streamRec0] }, streams := [stream0] }
theorem wit_StreamForms : ∀ i ∈ ([.swr .always lk0 .d, .swrEos .always lk0 .d, .srd .always lk0 .d 0#4, .srel .always lk0, .srew .always lk0,
    .spos .always lk0 0#4, .srelFrc .always lk0] : List Instr), ∃ s x, Fires i s x ∧ (decide (x.a.s64 = some 5#64) && decide (x.b.s64 = some 0#64) &&
      decide ((x.s.actorOf x.pl).map (fun q => q.2.1.streamOf 5) = some (some (0, stream0))) && decide (streamRec0.writer = x.p.actor) &&
      decide (eszWidth 3 = .d) && (streamRec0.readerOf x.p.actor).isSome && decide (x.c.s64 = some 0#64) && decide (x.b.shape ≠ .vector)) = true := by
  have h : (([.swr .always lk0 .d, .swrEos .always lk0 .d, .srd .always lk0 .d 0#4, .srel .always lk0, .srew .always lk0,
      .spos .always lk0 0#4, .srelFrc .always lk0] : List Instr).all fun i => (fx i (streamTask i (sc 5) (sc 0))).elim false fun x => (decide (x.a.s64 = some 5#64) && decide (x.b.s64 = some 0#64) &&
      decide ((x.s.actorOf x.pl).map (fun q => q.2.1.streamOf 5) = some (some (0, stream0))) && decide (streamRec0.writer = x.p.actor) &&
      decide (eszWidth 3 = .d) && (streamRec0.readerOf x.p.actor).isSome && decide (x.c.s64 = some 0#64) && decide (x.b.shape ≠ .vector))) = true := by decide
  exact fun i hi => witnessIn (List.all_eq_true.mp h i hi)

/-! ### Witnesses: privilege, nulls, predicates -/

/-- The firing, the block and the issue place of the instruction in slot 0. -/
def slot0 (s : State) : Option (Firing × BlockRun) := (s.plane s.cur.pl).firing.bind fun f => f.run.map fun r => (f, r)
/-- The plane of `at0` at USER level. -/
def asUser (s : State) : State := s.modPlane ⟨0, 1, 0⟩ fun p => { p with level := .user }
theorem wit_HandlerOnly : ∀ i ∈ ([.fread .always 0#4 0#2 .none, .repair .always, .hresume .always, .habort .always, .srelFrc .always lk0, .blaze .always true] : List Instr),
    let s := asUser (at0 i (sc 1) (sc 1) (sc 1))
    ((s.plane s.cur.pl).level = .user) ∧ (slot0 s).elim false (fun q => decide (q.1.st = .running) && !q.2.done.contains 0 &&
      (match q.2.fit i 0 with | .go _ _ _ => true | _ => false) && (s.takePlace s.cur.pl i q.1.block 0).isSome) = true := by decide
theorem wit_NullOperands : ∀ i ∈ ([.add .always .d64 .none .none, .sel .always .none .none, .send .always 0#4, .st .always lk0 .d, .bri .always] : List Instr),
    let s := at0 i .null (sc 1) (sc 1)
    (slot0 s).elim false (fun q => decide (q.1.st = .running) && !q.2.done.contains 0 && (match q.2.fit i 0 with | .null => true | _ => false) &&
      (decide (classOf i ≠ .pure) || (s.takePlace s.cur.pl i q.1.block 0).isSome) && ((q.2.mark 0).putAll ((tgtsOf i).map fun t => (t, Val.null))).isSome &&
      decide (Store.get? q.2.opA 0 = some .null) && (Store.get? q.2.opB 0).isSome && (Store.get? q.2.opC 0).isSome &&
      (linkOf i).all fun lk => decide (q.2.waves.getD lk.seq.toNat .opened = .opened)) = true := by decide
/-- A predicated output whose predicate has not come. -/
theorem wit_NullOperands_no_predicate : ∃ (i : Instr) (r : BlockRun), prOf i = .onTrue ∧ classOf i = .out ∧ Store.get? r.pred 0 = none ∧ 0 < usesOf i ∧
    Store.get? r.opA 0 = some .null ∧ ∀ pr tb ta, i ≠ .sel pr tb ta :=
  ⟨.put .onTrue 0#6, { words := [encode (.put .onTrue 0#6)], consts := [], len := 8, opA := [(0, .null)] }, by decide, by decide, rfl, by decide, rfl, by simp⟩
/-- The predicate that has arrived is false. -/
def notTrue (i : Instr) : State :=
  (at0 i (sc 1) (sc 1) (sc 1)).modPlane ⟨0, 1, 0⟩ fun p => { p with firing := p.firing.map fun f => { f with run := f.run.map fun r => { r with pred := [(0, sc 0)] } } }
theorem wit_PredicateSkips : ∀ i ∈ ([.add .onTrue .d64 .none .none, .put .onTrue 0#6, .st .onTrue lk0 .d, .br .onTrue 1#13] : List Instr),
    (slot0 (notTrue i)).elim false (fun q => decide (q.1.st = .running) && !q.2.done.contains 0 && decide (prOf i ≠ .always) &&
      decide (Store.get? q.2.pred 0 = some (sc 0)) && decide (prOf i = .onTrue) && (linkOf i).all fun lk => decide (q.2.waves.getD lk.seq.toNat .opened = .opened)) = true := by
  decide

theorem wit_FiringKeepsArchitecture : ∃ i s t, i.hasWord = true ∧ isBorder i = false ∧ exec i s = .next t ∧ t ≠ s :=
  ⟨.movi .always 5#13 .none, at0 (.movi .always 5#13 .none) (sc 0) (sc 0) (sc 0), _, rfl, rfl, rfl, by decide⟩

/-! ### Ill-formed terms: every check refuses one, and the decoder refuses its word -/

/-- One ill-formed term for each check of `Instr.wf`. -/
def illFormed : List Instr :=
  [.rdid .always 10#4 .none, .vadd .always .e4m3 .none .none, .vsub .always .e5m2 .none .none, .vmul .always .e4m3 .none .none,
   .vfma .always .e4m3 .none .none, .vfms .always .e4m3 .none .none, .vmin .always .e4m3 .none .none, .vmax .always .e4m3 .none .none,
   .vabs .always .e4m3 .none .none, .vneg .always .e4m3 .none .none, .vdiv .always .e4m3 .none .none, .vsqrt .always .u64 .none .none,
   .vrcp .always .i8 .none .none, .vrsq .always .i8 .none .none, .vexp2 .always .i8 .none .none, .vlog2 .always .i8 .none .none,
   .vsin .always .e4m3 .none .none, .vcos .always .i8 .none .none, .vtanh .always .i8 .none .none, .vsigm .always .i8 .none .none,
   .vmulh .always .f16 .none .none, .vand .always .f16 .none .none, .vor .always .f32 .none .none, .vxor .always .f32 .none .none,
   .vshl .always .f32 .none .none, .vshr .always .f32 .none .none, .vsra .always .f32 .none .none, .vclz .always .f32 .none .none,
   .vpopc .always .f32 .none .none, .vceq .always .e4m3 .none .none, .vcne .always .e4m3 .none .none, .vclt .always .e4m3 .none .none,
   .vcle .always .e4m3 .none .none, .vrsum .always .e4m3 .none .none, .vrmin .always .e4m3 .none .none, .vrmax .always .e4m3 .none .none,
   .vscan .always .e4m3 .none .none, .viota .always .f16 .none .none, .vclamp .always .e4m3 .none .none, .vmrg .always .f16 .none .none,
   .visx .always .f16 .none .none, .vdedup .always .f16 .none .none, .sacc .always .i8, .stf .always lk0 .q, .srd .always lk0 .l 0#4,
   .swr .always lk0 .l, .swrEos .always lk0 .l, .xfence .always lk0 .mtx .mtx, .vamax .always .e4m3 .none .none, .vqnt .always .i8 .none .none,
   .vcbq .always .u8 .none .none]
theorem test_wf_refuses : ∀ i ∈ illFormed, i.wf = false ∧ decodeTableWord 32 (encode i).toNat = none := by decide
theorem test_wf_accepts : (Instr.wf (.rdid .always 9#4 .none) && Instr.wf (.vadd .always .f32 .none .none) && Instr.wf (.stf .always lk0 .d) &&
    Instr.wf (.srd .always lk0 .v 0#4) && Instr.wf (.xfence .always lk0 .mtx .fab)) = true := by decide
/-- R135, R125, R126, R136: an unassigned opcode, PR 11, a reserved target kind, a slot with kind none, a width code 7, a channel above 15. -/
theorem test_decode_refuses : ∀ w ∈ ([0x00000000, 0x5F000000, 0x01C00000, 0x020001C0, 0x02000001, 0xB40001C0, 0xB40000D0, 0x01000001] : List Nat),
    decodeTableWord 32 w = none := by decide

/-! ### Words of the spec's own listings (02, 11, 14 and the worked encodings of 06 to 11, 14), bit by bit -/

theorem test_decode_control : decodeTableWord 32 0x020000C4 = some (.movi .always 0#13 (.c 4#6)) ∧
    decodeTableWord 32 0x02080041 = some (.movi .always 0x400#13 (.a 1#6)) ∧
    decodeTableWord 32 0x0B000082 = some (.recv .always 0#4 0#2 (.b 2#6)) ∧
    decodeTableWord 32 0x05090042 = some (.get .always 9#6 none (.a 2#6)) ∧
    decodeTableWord 32 0x15000000 = some (.tend .always) := by decide
theorem test_decode_scalar : decodeTableWord 32 0x20008843 = some (.add .always .d64 (.a 4#6) (.a 3#6)) ∧
    decodeTableWord 32 0x2C010A46 = some (.addc .always .d64 (.b 5#6) (.a 6#6)) ∧
    decodeTableWord 32 0x2B0C0054 = some (.lea .always 3#2 .none (.a 20#6)) := by decide
theorem test_decode_vector : decodeTableWord 32 0x81280084 = some (.vbcast .always .f32 .none (.b 4#6)) ∧
    decodeTableWord 32 0x7F280045 = some (.vcle .always .f32 .none (.a 5#6)) ∧
    decodeTableWord 32 0x8D000086 = some (.mnot .always .none (.b 6#6)) ∧
    decodeTableWord 32 0x8F289047 = some (.vfilt .always .f32 (.a 8#6) (.a 7#6)) ∧
    decodeTableWord 32 0x831C008F = some (.vins .always .u64 .none (.b 15#6)) ∧
    decodeTableWord 32 0xA61C0051 = some (.rngx .always .none (.a 17#6)) := by decide
theorem test_decode_memory : decodeTableWord 32 0xB80000C0 = some (.stf .always ⟨0#5, 0#4, 0#4⟩ .d) ∧
    decodeTableWord 32 0xB50002C0 = some (.st .always ⟨0#5, 0#4, 1#4⟩ .d) ∧
    decodeTableWord 32 0xCB422245 = some (.srd .onTrue ⟨1#5, 1#4, 1#4⟩ .h 5#4) ∧
    decodeTableWord 32 0xCD4002C1 = some (.srelFrc .onTrue ⟨0#5, 0#4, 1#4⟩) := by decide
theorem test_decode_sync : decodeTableWord 32 0xD2022208 = some (.xfence .always ⟨1#5, 1#4, 1#4⟩ .fab .cpy) ∧
    decodeTableWord 32 0xD50222C0 = some (.barexp .always ⟨1#5, 1#4, 1#4⟩) ∧
    decodeTableWord 32 0xD40622C0 = some (.bararv .always ⟨3#5, 1#4, 1#4⟩) ∧
    decodeTableWord 32 0xD60820C9 = some (.barwt .always ⟨4#5, 1#4, 0#4⟩ 9#4) ∧
    decodeTableWord 32 0xD70420C7 = some (.copy .always ⟨2#5, 1#4, 0#4⟩ 7#4) ∧
    decodeTableWord 32 0xD74422C7 = some (.copy .onTrue ⟨2#5, 1#4, 1#4⟩ 7#4) := by decide
theorem test_decode_system : decodeTableWord 32 0xE0000200 = some (.mmpost .always ⟨0#5, 0#4, 1#4⟩) ∧
    decodeTableWord 32 0xE0022000 = some (.mmpost .always ⟨1#5, 1#4, 0#4⟩) ∧
    decodeTableWord 32 0xF8400000 = some (.hresume .onTrue) ∧
    decodeTableWord 32 0xF2800000 = some (.repair .onFalse) ∧
    decodeTableWord 32 0xF5050200 = some (.svc .always 5#4 1#7) := by decide
theorem test_decode_border : decodeTableWord 32 0x00C5B50B = some (.jinvr 10#5 11#5 12#5) ∧
    decodeTableWord 32 0x0069528B = some (.jwaitw 5#5 18#5 6#5) ∧
    decodeTableWord 32 0x00C5C50B = some (.jcmdKill 10#5 11#5 12#5) ∧
    decodeTableWord 32 0x00C5E50B = some (.jctxsave 10#5 11#5 12#5) ∧
    decodeTableWord 32 0x00C5F50B = some (.jctxload 10#5 11#5 12#5) := by decide

/-! ### One step on one value -/

/-- The value that instruction `i` puts at operand A of slot 1, on these operands, in the step that the table word takes. -/
def result (i : Instr) (a b c : Val) : Option Val :=
  match step { at0 i a b c with agenda := [.fire ⟨0, 1, 0⟩ 0] } with
  | .next t => (t.plane ⟨0, 1, 0⟩).firing.bind fun f => f.run.bind fun r => Store.get? r.opA 1
  | _ => none
theorem test_add_wraps : result (.add .always .d64 .none (.a 1)) (sc (2 ^ 64 - 1)) (sc 2) (sc 0) = some (scalarVal 1#64 .i64) := by decide
theorem test_sub_sx32 : result (.sub .always .sx32 .none (.a 1)) (sc 1) (sc 2) (sc 0) = some (scalarVal allOnes .i32) := by decide
theorem test_div_least_by_minus_one : result (.div .always .d64 .none (.a 1)) (sc (2 ^ 63)) (sc (2 ^ 64 - 1)) (sc 0) = some (scalarVal (BitVec.ofNat 64 (2 ^ 63)) .i64) := by
  decide
theorem test_shl_full_width : result (.shl .always .zx32 .none (.a 1)) (sc 5) (sc 32) (sc 0) = some (scalarVal 5#64 .u32) := by decide
theorem test_addi_negative : result (.addi .always 0x1FFF#13 (.a 1)) (sc 0) (sc 0) (sc 0) = some (scalarVal allOnes .i64) := by decide
theorem test_tst_unsigned : result (.tst .always .ltu false .none (.a 1)) (sc 1) (sc (2 ^ 64 - 1)) (sc 0) = some (sc 1) := by decide
theorem test_vadd_inactive_lane_is_zero : (result (.vadd .always .u8 .none (.a 1)) (vc .u8 (fun _ => 255) 1#64) (vc .u8 (fun _ => 2)) (sc 0)) =
    some (vc .u8 (fun j => if j = 0 then 1 else 0) 1#64) := by decide
theorem test_popcount : result (.mpopc .always .none (.a 1)) (sc (2 ^ 64 - 1)) (sc 0) (sc 0) = some (sc 64) := by decide
/-- A placed word is the next move. -/
theorem test_step_places_word : ∀ w ∈ ([0x15000000, 0x20008843, 0x00C5B50B] : List Nat), (State.reset.withFetchWord 32 w).agenda.length = 1 := by decide

/-! ### Witnesses: firings and the fabric -/

/-- Launch 0 on plane 0 of its glade; `f` and `g` change the launch and the actor's plane. -/
def launch1 : Launch := { launch0 with plane := some 0 }
def pl0 : PlaneId := ⟨0, 1, 0⟩
def world (f : Launch → Launch) (g : Plane → Plane) : State :=
  let s := (State.reset.setGlade 0 glade0).setLaunch 0 (f launch1)
  s.setPlane pl0 (g { launch := some 0, level := .handler, own := 0xF#4, shSize := 4096 })
/-- The step's operands: plane `pl0`, launch 0, and what `f` sets. -/
def curAt (s : State) (f : Ctx → Ctx) : State := { s with cur := f { s.cur with pl := pl0, l := 0 } }
def tok0 : Token := .data datum0
def ep0 (ts : List Token) : Endpoint := { slots := ts.map fun t => (0, t) }
def task0 : TaskRec := { entry := 64#16, bind := 0, kind := .aligned, svcr := 1, irate := [1], orate := [1] }
def ctlTask : TaskRec := { task0 with kind := .control, entry := 72#16 }

theorem wit_FiringsStart_task : ∃ (s : State), s.actorOf s.cur.pl = some (0, launch1, actor0) ∧ s.choose launch1 actor0 s.cur.pl (s.plane s.cur.pl) = some (.task 0) ∧
    actor0.tasks[0]? = some task0 ∧ actor0.isFaultTask task0 = false :=
  ⟨curAt (world id fun p => { p with ins := [(0, ep0 [tok0])] }) id, by decide⟩
theorem wit_FiringsStart_control : ∃ (s : State) (x : Launch) (a : ActorRec), s.actorOf s.cur.pl = some (0, x, a) ∧ s.choose x a s.cur.pl (s.plane s.cur.pl) = some (.step .eos [0]) ∧
    a.tasks.zipIdx.find? (fun q => decide (q.1.kind = .control)) = some (ctlTask, 1) := by
  let a : ActorRec := { actor0 with tasks := [task0, ctlTask] }
  let f (x : Launch) : Launch := { x with img := { x.img with actors := [a] } }
  exact ⟨curAt (world f fun p => { p with ins := [(0, ep0 [.ctl .eos])] }) id, f launch1, a, by decide⟩
theorem wit_FiringsStart_no_control_task : ∃ (s : State), s.actorOf s.cur.pl = some (0, launch1, actor0) ∧
    s.choose launch1 actor0 s.cur.pl (s.plane s.cur.pl) = some (.step .sot [0]) ∧ actor0.tasks.zipIdx.find? (fun q => decide (q.1.kind = .control)) = none :=
  ⟨curAt (world id fun p => { p with ins := [(0, ep0 [.ctl .sot])] }) id, by decide⟩

def run0 : BlockRun := { words := [0x15000000#32], consts := [], len := 8, done := [0], exits := [.tend] }
def firing0 : Firing := { task := 0, kind := .aligned, block := 64#16, run := some run0, consumed := [(0, [tok0])] }
theorem wit_BlockCommits : ∃ (s : State) (f : Firing) (r : BlockRun), s.planeGoes s.cur.pl = true ∧ (s.plane s.cur.pl).firing = some f ∧ f.st = .running ∧ f.run = some r ∧ r.outsDone = true ∧ r.exits = [.tend] :=
  ⟨curAt (world id fun p => { p with firing := some firing0 }) id, firing0, run0, by decide⟩
/-- A predicated PUT whose predicate never comes. -/
theorem wit_BlockCommits_stuck : ∃ (s : State) (f : Firing) (r : BlockRun), s.planeGoes s.cur.pl = true ∧ (s.plane s.cur.pl).firing = some f ∧ f.st = .running ∧ f.run = some r ∧ r.outsDone = false ∧ r.canMove = false := by
  let r : BlockRun := { run0 with words := [encode (.put .onTrue 0#6)], done := [], exits := [] }
  exact ⟨curAt (world id fun p => { p with firing := some { firing0 with run := some r } }) id, { firing0 with run := some r }, r, by decide⟩

def req0 : Req := { rid := 3, kind := .ld, wd := .d, resp := some 0, a := 0x20000#64, b := 0#64, c := 0#64, lanes := [], block := 64#16, slot := 0, budget := 16#8, st := .waiting }
theorem wit_WavesAreAdmitted : ∃ (s : State) (r : BlockRun) (w : Wave), ((s.plane s.cur.pl).firing.bind (·.run)) = some r ∧ r.pend.find? (fun w => decide (w.slot = s.cur.slot)) = some w ∧
    s.planeGoes s.cur.pl = true ∧ r.linkMet w.lk = true ∧ (∀ t ∈ r.span w.lk, r.waves.getD t .opened ≠ .admitted) ∧ w.lcl = none := by
  let w : Wave := { slot := 0, lk := lk0, kind := some .ld, lcl := none, tgt := 0, req := req0 }
  let r : BlockRun := { run0 with waves := List.replicate 32 .opened, pend := [w] }
  exact ⟨curAt (world id fun p => { p with firing := some { firing0 with run := some r } }) fun c => { c with slot := 0 }, r, w, by decide⟩
theorem wit_WavesAreAdmitted_yield : ∃ (s : State) (f : Firing) (l : Nat) (x : Launch) (a : ActorRec) (ready : List Nat) (since : W64), (s.plane s.cur.pl).firing = some f ∧ s.actorOf s.cur.pl = some (l, x, a) ∧
    f.st = .yielding ready since ∧ x.runs = true ∧ (s.plane s.cur.pl).stopped = false ∧ (s.plane s.cur.pl).paused = false ∧
    x.blazeOf s.cur.pl (s.plane s.cur.pl) = none ∧ 64 ≤ (s.cycle x.glade - since).toNat :=
  ⟨(curAt (world id fun p => { p with firing := some { firing0 with run := none, st := .yielding [1] 0#64 } }) id).setGlade 0 { glade0 with cycle := 64#64 },
    { firing0 with run := none, st := .yielding [1] 0#64 }, 0, launch1, actor0, [1], 0#64, by decide⟩

/-- A launch whose image holds one node of a kind, fed by channel 0 of another node; channel 1 leaves it. -/
def node1 (k : Nat) (mode : Bool) : NodeRec :=
  { nkind := k, mode := mode, eosp := 0, npath := 1, col := 1, row := 1, slot := 0, depth := 3, ident := 0#64 }
def link1 (p c : Nat) : ChanRec :=
  { pkind := 1, prod := p, pep := 0, ckind := 1, cons := c, cep := 0, shape := 0, dtag := 7, prio := 0, fifo := 0, fcol := 0, frow := 0 }
def nodeLaunch (k : Nat) (mode : Bool) (nd : Node) : Launch :=
  { launch1 with img := { width := 4, nodes := [node1 k mode, node1 4 false], chans := [link1 0 1, { link1 0 1 with pep := 1, cep := 1 }] }, nodes := [(0, nd)] }
def nodeState (k : Nat) (mode : Bool) (ins : List (Nat × List Token)) : State :=
  { curAt ((State.reset.setGlade 0 glade0).setLaunch 0 (nodeLaunch k mode { ins := ins.map fun q => (q.1, ep0 q.2) })) id with cur := { State.reset.cur with l := 0, n := 0 } }
def num (n : Nat) : Datum := ⟨.scalar, [BitVec.ofNat 64 n], .u64, 1#64⟩

theorem wit_TokensAreDelivered : ∃ (s : State) (x : Launch) (r : ChanRec) (ts : List Token), s.launch? s.cur.l = some x ∧ x.img.chans[s.cur.n]? = some r ∧ r.pkind = 1 ∧ r.ckind = 1 ∧
    x.onFabric = true ∧ Store.getD (Store.getD x.chans s.cur.n {}).flight s.cur.k [] = tok0 :: ts ∧ (s.consEp x r s.cur.k).slots.length < 4 := by
  let x : Launch := { nodeLaunch 0 true {} with chans := [(0, { flight := [(0, [tok0])] })] }
  exact ⟨curAt ((State.reset.setGlade 0 glade0).setLaunch 0 x) fun c => { c with n := 0, k := 0 }, x, link1 0 1, [], by decide⟩
theorem wit_NodesForward_steer : ∃ (s : State) (x : Launch) (r : NodeRec) (nd : Node), s.nodeReady s.cur.l s.cur.n = some (x, r, nd) ∧ nd.eosOut = false ∧ r.nkind = 0 ∧ nd.head 0 = some tok0 ∧
    tok0.ctl? = none ∧ nd.head 1 = some (.data (num 1)) ∧ (num 1).bits.toNat ≤ r.npath ∧ s.roomFor s.cur.l (x.outChans 1 s.cur.n 1) tok0 = true :=
  ⟨nodeState 0 false [(0, [tok0]), (1, [.data (num 1)])], _, _, _, rfl, by decide⟩
theorem wit_NodesForward_merge : ∃ (s : State) (x : Launch) (r : NodeRec) (nd : Node), s.nodeReady s.cur.l s.cur.n = some (x, r, nd) ∧ nd.eosOut = false ∧ r.nkind = 1 ∧ r.mode = true ∧ r.eosp = 0 ∧
    mergeCtl 0 (nd.paths r.npath) = .none ∧ nd.head (r.npath + 1) = some (.data (num 1)) ∧ (num 1).bits.toNat ≤ r.npath ∧ nd.head 1 = some tok0 ∧
    s.roomFor s.cur.l (x.outChans 1 s.cur.n 0) tok0 = true :=
  ⟨nodeState 1 true [(1, [tok0]), (2, [.data (num 1)])], _, _, _, rfl, by decide⟩
theorem wit_NodesForward_filter : ∀ v ∈ [0, 1], ∃ (s : State) (x : Launch) (r : NodeRec) (nd : Node), s.nodeReady s.cur.l s.cur.n = some (x, r, nd) ∧ nd.eosOut = false ∧ r.nkind = 2 ∧ r.mode = false ∧
    nd.head 0 = some tok0 ∧ nd.head 1 = some (.data (num v)) ∧ s.roomFor s.cur.l (x.outChans 1 s.cur.n 0) tok0 = true := by
  intro v _
  exact ⟨nodeState 2 false [(0, [tok0]), (1, [.data (num v)])], _, _, _, rfl, rfl, rfl, rfl, rfl, rfl, rfl⟩
theorem wit_NodesForward_delay : ∃ (s : State) (x : Launch) (r : NodeRec) (nd : Node), s.nodeReady s.cur.l s.cur.n = some (x, r, nd) ∧ nd.eosOut = false ∧ r.nkind = 4 ∧
    nd.head 0 = some tok0 ∧ nd.buf = [] ∧ s.roomFor s.cur.l (x.outChans 1 s.cur.n 0) tok0 = true :=
  ⟨nodeState 4 false [(0, [tok0])], _, _, _, rfl, by decide⟩
theorem wit_NodesForward_intersect : ∀ q ∈ [(5, 5), (5, 7), (7, 5)], ∃ (s : State) (x : Launch) (r : NodeRec) (nd : Node), s.nodeReady s.cur.l s.cur.n = some (x, r, nd) ∧ r.nkind = 3 ∧ nd.eosOut = false ∧
    isectBad nd = none ∧ nd.head 0 = some (.data (num q.1)) ∧ nd.head 1 = some (.data (num q.2)) ∧ r.mode = false := by
  intro q hq
  refine ⟨nodeState 3 false [(0, [.data (num q.1)]), (1, [.data (num q.2)])], _, _, _, rfl, rfl, rfl, ?_, rfl, rfl, rfl⟩
  simp only [List.mem_cons, List.not_mem_nil, or_false] at hq
  rcases hq with rfl | rfl | rfl <;> decide

theorem wit_OutsideTokensArrive_response : ∃ (s : State) (q : Place), s.planeActs s.cur.pl = some (0, launch1) ∧ (s.plane s.cur.pl).resp.find? (fun q => decide (q.ch = s.cur.n)) = some q ∧
    q.tok = some tok0 ∧ s.inputFree s.cur.pl s.cur.n = true :=
  ⟨curAt (world id fun p => { p with resp := [{ rid := 3, ch := 0, tok := some tok0 }] }) fun c => { c with n := 0 }, { rid := 3, ch := 0, tok := some tok0 }, by decide⟩
theorem wit_OutsideTokensArrive_timer : ∃ (s : State), s.planeActs s.cur.pl = some (0, launch1) ∧ s.actorOf s.cur.pl = some (0, launch1, actor0) ∧
    (s.plane s.cur.pl).timers[s.cur.k]? = some (0, 9#64) ∧ 9#64 ≤ s.cycle launch1.glade ∧ s.inputFree s.cur.pl 0 = true ∧ actor0.dlin = none :=
  ⟨(curAt (world id fun p => { p with timers := [(0, 9#64)] }) fun c => { c with k := 0 }).setGlade 0 { glade0 with cycle := 9#64 }, by decide⟩
theorem wit_OutsideTokensArrive_fault : ∃ (s : State) (fs : List FaultRec) (rest : List FaultRec) (f : FaultRec), s.faults = fs ++ f :: rest ∧ (∀ y ∈ fs, y.glade ≠ s.cur.g ∨ y.st ≠ .queued) ∧ f.glade = s.cur.g ∧
    f.st = .queued ∧ f.input = some (pl0, 0) ∧ s.inputFree pl0 0 = true ∧ (s.planeActs pl0).isSome = true ∧ (s.plane pl0).launch = some f.lid :=
  ⟨{ curAt (world id id) (fun c => { c with g := 0 }) with faults := [fault0, { fault0 with fid := 8, input := some (pl0, 0), st := .queued }] },
    [fault0], [], { fault0 with fid := 8, input := some (pl0, 0), st := .queued }, by decide⟩
theorem wit_GraphCompletes : ∃ (s : State) (x : Launch), s.launch? s.cur.l = some x ∧ x.st = .live ∧ x.onFabric = true ∧ x.rung = none ∧ s.graphDone x = true ∧ s.bank = [] := by
  let f (x : Launch) : Launch := { x with img := { width := 4 } }
  exact ⟨curAt (world f fun p => { p with launch := none }) id, f launch1, by decide⟩

/-! ### Witnesses: streams -/

def fifoRec : StreamRec := { streamRec0 with back := 1 }
/-- A FIFO with five elements written and read, of which two are released. -/
def fifo0 : Stream := { sr := fifoRec, hwm := 5#32, tail := 2#32, rd := [5#32], rel := [2#32], front := 0#32 }
def sreq (k : ReqKind) (b c : Nat) : Req := { req0 with kind := k, a := 5#64, b := BitVec.ofNat 64 b, c := BitVec.ofNat 64 c }
def withStream (st : Stream) (x : Launch) : Launch := { x with img := { x.img with streams := [st.sr] }, streams := [st] }
/-- The plane's request `r` to that stream. -/
def streamState (st : Stream) (r : Req) : State := curAt (world (withStream st) fun p => { p with rq := [r] }) fun c => { c with rid := 3 }

theorem wit_Streams_ready : ∀ k ∈ [ReqKind.swr false, .swr true, .srd, .srel, .srelFrc, .srew, .spos],
    (streamState fifo0 (sreq k 1 3)).streamReady pl0 3 = some (0, withStream fifo0 launch1, sreq k 1 3, 0, fifo0) := by decide
theorem wit_StreamWrites : ∃ (s : State) (key : Nat) (b : Bool), s.catchUp 0 0 = s ∧ s.streamReady s.cur.pl s.cur.rid = some (0, withStream fifo0 launch1, sreq (.swr false) 7 0, 0, fifo0) ∧
    fifo0.closed = false ∧ before fifo0.hwm fifo0.bound = true ∧ fifo0.sr.isFifo = true ∧ fifo0.earlier fifo0.hwm = none ∧
    s.streamKey 0 (withStream fifo0 launch1) fifo0.sr (fifo0.offset fifo0.hwm) true = (.ok key b, s) ∧ isPeer key = false :=
  ⟨streamState fifo0 (sreq (.swr false) 7 0), sramKey 0 (0x10000 + 40), true, by decide +kernel, by decide, by decide, by decide, by decide, by decide, rfl, by decide⟩
theorem wit_StreamWrites_full : before { fifo0 with hwm := 32#32 }.hwm { fifo0 with hwm := 32#32 }.bound = false ∧
    (streamState { fifo0 with hwm := 32#32 } (sreq (.swr false) 7 0)).streamReady pl0 3 =
      some (0, withStream { fifo0 with hwm := 32#32 } launch1, sreq (.swr false) 7 0, 0, { fifo0 with hwm := 32#32 }) := by decide
theorem wit_StreamCloses : (streamState fifo0 (sreq (.swr true) 0 0)).streamReady pl0 3 = some (0, withStream fifo0 launch1, sreq (.swr true) 0 0, 0, fifo0) ∧
    fifo0.closed = false ∧ fifo0.sr.isFifo = true ∧ ({ fifo0 with sr := streamRec0 } : Stream).sr.isFifo = false ∧
    ({ fifo0 with sr := streamRec0 } : Stream).offset 5#32 % 8 = 0 := by decide
theorem wit_StreamReads_behind : let st := { fifo0 with rd := [1#32] }
    (streamState st (sreq .srd 0 0)).readerIx pl0 st = 0 ∧ before (st.rdOf 0) st.tail = true ∧ (sreq .srd 0 0).b ≠ 1#64 ∧ (sreq .srd 0 0).pos = none ∧
    (streamState st (sreq .srd 0 0)).streamReady pl0 3 = some (0, withStream st launch1, sreq .srd 0 0, 0, st) := by decide
theorem wit_StreamReads_past_end : let st := { fifo0 with closed := true, endp := 5#32 }
    before (st.rdOf 0) st.tail = false ∧ st.closed = true ∧ before (st.rdOf 0) st.endp = false ∧
    (streamState st (sreq .srd 0 0)).streamReady pl0 3 = some (0, withStream st launch1, sreq .srd 0 0, 0, st) := by decide
theorem wit_StreamReads_element : let st : Stream := { fifo0 with rd := [3#32] }
    let x := withStream st launch1
    let s := (streamState st (sreq .srd 0 0)).setHomeBit (sramKey 0 (0x10000 + 24) / 8) true
    let asked := ((s.setStream 0 0 { st with rd := [4#32], served := true }).modReq pl0 3 fun q => { q with pos := some (3#32, 0) }).modReq pl0 3 fun q => { q with b := 1#64 }
    s.catchUp 0 0 = s ∧ s.streamReady pl0 3 = some (0, x, sreq .srd 0 0, 0, st) ∧ before (st.rdOf 0) st.tail = false ∧ st.closed = false ∧
    before (st.rdOf 0) st.bound = true ∧ st.sr.isFifo = true ∧
    asked.streamKey 0 x st.sr (st.offset 3#32) false = (.ok (sramKey 0 (0x10000 + 24)) true, asked) ∧ isPeer (sramKey 0 (0x10000 + 24)) = false ∧
    (∀ w ∈ elemWords st.sr (sramKey 0 (0x10000 + 24)), asked.viewBit committedObs w = true) ∧ asked.demandRead (sramKey 0 (0x10000 + 24)) = (false, asked) := by decide +kernel
/-- A line of DRAM with uncorrectable data. -/
theorem wit_StreamReads_uncorrectable : let s := curAt (world id id) fun c => { c with flag2 := true }
    (s.demandRead 0x40000).1 = true := by decide +kernel
theorem wit_StreamCursors : fifo0.forced.getLsbD 0 = false ∧ before (fifo0.rdOf 0) (fifo0.relOf 0 + 3#32) = false ∧
    before (fifo0.rdOf 0) (fifo0.relOf 0 + 4#32) = true ∧ before 2#32 fifo0.tail = false ∧ before fifo0.hwm 2#32 = false ∧
    before 1#32 fifo0.tail = true ∧ before fifo0.hwm 6#32 = true ∧ { fifo0 with forced := 1#4 }.forced.getLsbD 0 = true := by decide
theorem wit_RewindMovesReadCursor : before (fifo0.rdOf 0 - 4#32) (fifo0.relOf 0) = true ∧ before (fifo0.rdOf 0 - 3#32) (fifo0.relOf 0) = false ∧
    fifo0.forced.getLsbD 0 = false ∧ (streamState fifo0 (sreq .srew 3 0)).streamReady pl0 3 = some (0, withStream fifo0 launch1, sreq .srew 3 0, 0, fifo0) := by decide

def server (st : Stream) (g : Plane → Plane) : State := curAt (world (withStream st) g) fun c => { c with n := 0 }
theorem wit_StreamServer_recycle : let st : Stream := { fifo0 with hwm := 20#32, tail := 16#32, rd := [16#32], rel := [16#32] }
    let s := server st id
    s.launch? 0 = some (withStream st launch1) ∧ before st.tail (st.sr.frameStart st.front + BitVec.ofNat 32 (2 ^ st.sr.log2e)) = false ∧
    (withStream st launch1).st.isLive = true ∧ s.slotThere (withStream st launch1) st.sr st.fslot = true ∧ s.streamReads 0 5 (fun _ => true) = [] := by decide
theorem wit_StreamServer_stall : let st : Stream := { fifo0 with stallCnt := 1100001 }
    let s := server st fun p => { p with rq := [{ sreq (.swr false) 7 0 with st := .windowFull }] }
    let x : Launch := withStream st launch1
    let s := s.setLaunch 0 { x with img := { x.img with actors := [actor0], chans := [chan0, { chan0 with pkind := 6, cep := 2 }] } }
    s.parkedWrite 0 5 = some (pl0, { sreq (.swr false) 7 0 with st := .windowFull }) ∧ st.sr.stallLimit < st.stallCnt := by decide
/-- A stream whose producer and first reader are at the host. -/
def hostStream : Stream := { fifo0 with sr := { fifoRec with hostp := true, hostr := 1#4 } }
/-- Its launch's graph lies at 0x40000 of a space that maps its first GiB to the first GiB of DRAM; word k of the descriptor is full. -/
def hostLaunch : Launch := { withStream hostStream launch1 with graph := 0x40000#64, asid := 1#16 }
def hostServer (k w : Nat) : State :=
  let s := (server hostStream id).setLaunch 0 hostLaunch
  let m := Memory.writeBytes (Memory.writeBytes s.mem 0x100000 (toLE 8 0x101001)) 0x101000 (toLE 8 0xF)
  ({ s with asids := [(1, ⟨0x100000, 0⟩)], frames := [(4, { st := .owned }), (16, { st := .owned })], mem := Memory.writeBytes m (0x40000 + 8 * k) (toLE 8 w) } : State).setHomeBit (0x40000 / 8 + k) true
theorem wit_HostEndpoint_publish : ((hostServer 1 7).catchUp 0 0).descWord hostLaunch 0 1 = some (0x40008, 7, true) ∧ hostStream.sr.hostp = true ∧
    (hostServer 1 7).launch? 0 = some hostLaunch := by decide +kernel
theorem wit_HostEndpoint_release : ((hostServer 3 (5 + 4 * 2 ^ 32)).catchUp 0 0).descWord hostLaunch 0 3 = some (0x40018, 5 + 4 * 2 ^ 32, true) ∧ hostStream.sr.hostr.getLsbD 0 = true ∧
    0 ≤ hostStream.sr.nrd ∧ (hostServer 3 (5 + 4 * 2 ^ 32)).launch? 0 = some hostLaunch := by decide +kernel
/-- Cursors of a host reader: before its release, at it without and with a forced release, and short of the forced one. -/
theorem wit_HostEndpoint_cursors : hostStream.sr.nrd < hostStream.rd.length ∧ hostStream.sr.nrd < hostStream.rel.length ∧ hostStream.sr.nrd < 4 ∧
    before 3#32 4#32 = true ∧ before 4#32 4#32 = false ∧ hostStream.forced.getLsbD 0 = false ∧ ({ hostStream with forced := 1#4 } : Stream).forced.getLsbD 0 = true ∧
    before 1#32 (hostStream.relOf 0) = true ∧ before 2#32 (hostStream.relOf 0) = false := by decide
theorem wit_StreamServer_held_position : let r : Req := { sreq .srd 0 0 with st := .readHeld 0#64, pos := some (5#32, 0) }
    (server fifo0 fun p => { p with rq := [r] }).req? pl0 3 = some r ∧ (withStream fifo0 launch1).streamOf r.handle = some (0, fifo0) := by decide
theorem wit_StreamServer_held : let r : Req := { sreq .srd 0 0 with st := .readHeld 0#64, a := 9#64 }
    let s := (server fifo0 fun p => { p with rq := [r] }).setGlade 0 { glade0 with cycle := 1100001#64 }
    s.req? pl0 3 = some r ∧ (s.plane pl0).launch = some 0 ∧ r.budget ≠ 255#8 ∧ glade0.parkTimeout < ((1100001#64) - 0#64).toNat ∧
    ((withStream fifo0 launch1).streamOf r.handle).isNone = true := by decide

/-! ### Witnesses: requests at the home unit -/

/-- A window of the tile's port maps 64 KiB pages 2 and 3 of the launch's space to frames 4 and 5, IMM; the launch is irrevocable. -/
def win0 : WinEnt := { vbase := 0x20000, npg := 2, pfrm := 4, wr := true, imm := true, v := true, lid := 0, asid := 1#16 }
def irrev1 : Launch := { launch1 with st := .irrevocable, irrev := true }
def memState (r : Req) (fe : BitVec 8) : State :=
  let s := curAt (world (fun _ => irrev1) fun p => { p with rq := [r], budget := 16#8 }) fun c => { c with rid := 3 }
  { s.setPort (tilePort pl0) { wins := [(0, win0)] } with side := if fe = 0#8 then [] else [(0x40000 / 64, { fe := fe }), (0x50000 / 64, { fe := fe })] }
/-- A request for the word at 0x20000 or, in the other page, at 0x30000. -/
def mreq (k : ReqKind) (hi : Bool) : Req := { req0 with kind := k, a := if hi then 0x30000#64 else 0x20000#64, b := 9#64, c := 4#64 }
def mkey (hi : Bool) : Nat := if hi then 0x50000 else 0x40000
def mva (hi : Bool) : Nat := if hi then 0x30000 else 0x20000

/-- The launch's copy of its record, wherever it lies, meets the first 0xF000 bytes of at most one of the two pages. -/
theorem outside_args (lid : Nat) : ∃ hi : Bool, mva hi + 0xF000 ≤ argBase lid ∨ argBase lid + 128 ≤ mva hi := by
  by_cases h : mva false + 0xF000 ≤ argBase lid ∨ argBase lid + 128 ≤ mva false
  · exact ⟨false, h⟩
  · exact ⟨true, by simp [mva] at *; omega⟩
/-- An access that does not meet the copy goes to the tables. -/
theorem xlate1_outside {lid va n : Nat} (h : va + n ≤ argBase lid ∨ argBase lid + 128 ≤ va) (hn : 0 < n) (s : State) (x : Launch) (port : Nat) (w : Bool) :
    s.xlate1 lid x port va n w = s.xlate port x.asid va w := by
  rw [State.xlate1, if_neg (by omega), if_neg (by omega)]
/-- A window entry that covers an address translates an access there. -/
theorem xlate_window {s : State} {lid port va n : Nat} {x : Launch} {w : Bool} {e : WinEnt} (h : va + n ≤ argBase lid ∨ argBase lid + 128 ≤ va) (hn : 0 < n) (hn' : n ≤ 64)
    (hp : s.port port = { wins := [(0, e)] }) (hf : (e.v && decide (e.asid = x.asid) && decide (e.vbase ≤ va) && decide (va < e.vbase + e.npg * 2 ^ 16) && (!w || e.wr)) = true) :
    s.xlateFor lid x port va n w = (.ok [(va, paKey (e.pfrm * 2 ^ 16 + (va - e.vbase)), e.imm)], s) := by
  have hF : ([(0, e)] : Store WinEnt).find? (fun (_, e) => e.v && decide (e.asid = x.asid) && decide (e.vbase ≤ va) && decide (va < e.vbase + e.npg * 2 ^ 16) && (!w || e.wr)) = some (0, e) :=
    List.find?_cons_of_pos hf
  rw [State.xlateFor, if_pos hn', Nat.min_eq_left hn', State.xlateEach, xlate1_outside h hn]
  simp only [State.xlate, hp]
  rw [hF]; rfl

/-- What the statements about requests ask of a state, but for the form. -/
def meetsReq (k : ReqKind) (hi : Bool) (fe : BitVec 8) : Bool :=
  let r := mreq k hi
  let s := memState r fe
  let ps := partsOf r.bytes [(mva hi, mkey hi, true)]
  decide (s.ready? s.cur.pl s.cur.rid = some (0, irrev1, r)) && !s.holdsRange (tilePort pl0) irrev1.asid (va48 r.a) r.bytes &&
    decide (va48 r.a = mva hi) && decide (r.bytes = 8) && !s.userDesc pl0 ps &&
    !s.cur.flag && !s.cur.flag2 && s.fo.twin.isNone && !isPeer (mkey hi) && !isHost (mkey hi) && irrev1.irrev && s.wordsOk k ps &&
    decide ((s.plane pl0).level = .handler) && (s.flushFor pl0 k ps).condHolds (actorObs s pl0 0) k ps && !s.banked (s.gladeOf 0) (mkey hi / 64 * 64) &&
    s.barq.isEmpty && Memory.wf s.mem && !isArg (mkey hi)

/-- An access to the free page through the window. -/
theorem xlate_mem {s : State} (hp : s.port (tilePort pl0) = { wins := [(0, win0)] }) {x : Launch} (hx : x.asid = irrev1.asid) (hi w : Bool) {d n : Nat} (hn : 0 < n) (hn' : n ≤ 64)
    (hd : d + n ≤ 0xF000) (h : mva hi + 0xF000 ≤ argBase 0 ∨ argBase 0 + 128 ≤ mva hi) :
    s.xlateFor 0 x (tilePort pl0) (mva hi + d) n w = (.ok [(mva hi + d, mkey hi + d, true)], s) := by
  have hk : paKey (win0.pfrm * 2 ^ 16 + (mva hi + d - win0.vbase)) = mkey hi + d := by
    have ha : win0.pfrm * 2 ^ 16 + (mva hi + d - win0.vbase) = mkey hi + d := by cases hi <;> simp [win0, mva, mkey] <;> omega
    have hl : mkey hi < 0x60000 := by cases hi <;> decide
    rw [ha, paKey, show (mkey hi + d) / 2 ^ 50 = 0 by omega]
    rfl
  have := xlate_window (s := s) (lid := 0) (x := x) (w := w) (e := win0) (va := mva hi + d) (n := n) (by omega) hn hn' hp
    (by rw [hx]; cases hi <;> cases w <;> simp [win0, mva, irrev1, launch1, launch0] <;> omega)
  rw [hk] at this
  exact this

theorem wit_RequestsArePerformed : ∀ q ∈ ([(.ld, 0), (.feq, 0), (.ldw, 255), (.ldc, 255), (.st, 0), (.stf, 0), (.sts, 0), (.fempty, 255)] : List (ReqKind × Nat)),
    ∃ hi, meetsReq q.1 hi (BitVec.ofNat 8 q.2) = true ∧ (memState (mreq q.1 hi) (BitVec.ofNat 8 q.2)).xlateFor 0 irrev1 (tilePort pl0) (mva hi) 8 q.1.writes =
      (.ok [(mva hi, mkey hi, true)], memState (mreq q.1 hi) (BitVec.ofNat 8 q.2)) := by
  intro q hq
  obtain ⟨hi, h⟩ := outside_args 0
  refine ⟨hi, ?_, xlate_mem rfl rfl hi _ (d := 0) (n := 8) (by decide) (by decide) (by decide) h⟩
  have all : (([(.ld, 0), (.feq, 0), (.ldw, 255), (.ldc, 255), (.st, 0), (.stf, 0), (.sts, 0), (.fempty, 255)] : List (ReqKind × Nat)).all fun q =>
    meetsReq q.1 true (BitVec.ofNat 8 q.2) && meetsReq q.1 false (BitVec.ofNat 8 q.2)) = true := by decide +kernel
  have := List.all_eq_true.mp all q hq
  cases hi <;> simp_all
/-- A store of a launch that is not irrevocable, to an IMM page: the form that is held. -/
theorem wit_RequestsHeld : ∃ hi, let s := (memState (mreq .st hi) 0#8).setLaunch 0 { irrev1 with st := .live, irrev := false }
    s.ready? pl0 3 = some (0, { irrev1 with st := .live, irrev := false }, mreq .st hi) ∧ ReqKind.st.anchors = true ∧
    s.xlateFor 0 { irrev1 with st := .live, irrev := false } (tilePort pl0) (mva hi) 8 true = (.ok [(mva hi, mkey hi, true)], s) := by
  obtain ⟨hi, h⟩ := outside_args 0
  exact ⟨hi, by cases hi <;> decide +kernel, rfl, xlate_mem rfl rfl hi _ (d := 0) (n := 8) (by decide) (by decide) (by decide) h⟩
/-- StoreFrame's own hypotheses: the store of wit_RequestsArePerformed, of 8 bytes. -/
theorem wit_StoreFrame : ∃ hi, meetsReq .st hi 0#8 = true ∧ (mreq .st hi).bytes ≤ 64 ∧ Memory.wf (memState (mreq .st hi) 0#8).mem = true ∧
    (memState (mreq .st hi) 0#8).xlateFor 0 irrev1 (tilePort pl0) (mva hi) 8 true = (.ok [(mva hi, mkey hi, true)], memState (mreq .st hi) 0#8) := by
  obtain ⟨hi, h⟩ := outside_args 0
  refine ⟨hi, ?_, ?_, ?_, xlate_mem rfl rfl hi _ (d := 0) (n := 8) (by decide) (by decide) (by decide) h⟩ <;> cases hi <;> decide +kernel
theorem wit_RequestsPark : ∃ (g : Glade), (memState (mreq .ldw false) 0#8).glade? irrev1.glade = some g ∧ g.park.length < 2 ^ g.poolLog ∧ (mreq .ldw false).budget ≠ 0#8 ∧
    (mreq .ldw false).resp.isSome = true ∧ { mreq .ldw false with budget := 0#8 }.budget = 0#8 ∧ (mreq .stf false).resp.isSome = true :=
  ⟨glade0, by decide⟩
theorem wit_RequestsPark_full : ∃ (g : Glade), (memState (mreq .ldw false) 0#8 |>.setGlade 0 { glade0 with poolLog := 0, park := [{ glade := 0, keys := [], pl := pl0, rid := 9, lid := 0, ver := 0#16, va := 0, asid := 1#16, form := 0, wid := 3, nw := 1, left := 1, data := 0#64, rch := 0, stamp := 0#64 }] }).glade? irrev1.glade = some g ∧
    2 ^ g.poolLog ≤ g.park.length := ⟨_, rfl, by decide⟩
/-- A fence, an SBAR or an XFENCE with nothing before it. -/
theorem wit_RequestsArePerformed_fences : ∀ k ∈ [ReqKind.fence .tile, .fence .dev, .fence .sys, .sbar, .xfence .fab .cpy, .xfence .lnk .fab, .xfence .cpy .fab, .xfence .mtx .fab, .xfence .hst .fab],
    let s := memState (mreq k false) 0#8
    s.ready? pl0 3 = some (0, irrev1, mreq k false) ∧ reqsBefore (s.plane pl0).rq 3 = [] ∧ (k ≠ .sbar → s.fenceDone pl0 [] k = true) := by decide +kernel
theorem wit_RequestsArePerformed_spos : (streamState fifo0 (sreq .spos 1 0)).ready? pl0 3 = some (0, withStream fifo0 launch1, sreq .spos 1 0) ∧
    (streamState fifo0 (sreq .spos 1 0)).streamReady pl0 3 = some (0, withStream fifo0 launch1, sreq .spos 1 0, 0, fifo0) := by decide +kernel
/-- PREF and WBACK of a line of the window; PREF of an address in no window and no table entry. -/
theorem wit_RequestsArePerformed_pref : (∀ k ∈ [ReqKind.pref true, .pref false, .wback], let s := memState (mreq k false) 0#8
      s.ready? pl0 3 = some (0, irrev1, mreq k false) ∧ s.invalHolds (tilePort pl0) irrev1.asid (va48 (mreq k false).a) = false ∧
      s.xlate (tilePort pl0) irrev1.asid (va48 (mreq k false).a) false = (.ok (mkey false) true, s)) ∧
    ∃ lvl s1, let r : Req := { mreq (.pref true) false with a := 0x70000#64 }
      let s : State := { memState r 0#8 with asids := [(1, ⟨0x100000, 0⟩)] }
      s.ready? pl0 3 = some (0, irrev1, r) ∧ s.xlate (tilePort pl0) irrev1.asid (va48 r.a) false = (.notPresent lvl, s1) ∧
        (s1.port (tilePort pl0)).drops ≠ BitVec.allOnes 48 :=
  ⟨by decide +kernel, 3, _, by decide +kernel, rfl, by decide +kernel⟩
theorem wit_AtomicsArePerformed : ∀ q ∈ ([(.atom .add true, 0), (.atom .cas true, 0), (.atom .swap true, 0), (.upd .add true, 0)] : List (ReqKind × Nat)),
    ∃ hi, meetsReq q.1 hi (BitVec.ofNat 8 q.2) = true ∧ (memState (mreq q.1 hi) (BitVec.ofNat 8 q.2)).xlateFor 0 irrev1 (tilePort pl0) (mva hi) 8 q.1.writes =
      (.ok [(mva hi, mkey hi, true)], memState (mreq q.1 hi) (BitVec.ofNat 8 q.2)) := by
  intro q hq
  obtain ⟨hi, h⟩ := outside_args 0
  refine ⟨hi, ?_, xlate_mem rfl rfl hi _ (d := 0) (n := 8) (by decide) (by decide) (by decide) h⟩
  have all : (([(.atom .add true, 0), (.atom .cas true, 0), (.atom .swap true, 0), (.upd .add true, 0)] : List (ReqKind × Nat)).all fun q =>
    meetsReq q.1 true (BitVec.ofNat 8 q.2) && meetsReq q.1 false (BitVec.ofNat 8 q.2)) = true := by decide +kernel
  have := List.all_eq_true.mp all q hq
  cases hi <;> simp_all
/-- The word holds 0: a CAS with comparand 9 does not find it, one with comparand 0 does. -/
theorem wit_AtomicsArePerformed_cas : ∀ hi, leNat ((memState (mreq (.atom .cas true) hi) 0#8).readParts (actorObs (memState (mreq (.atom .cas true) hi) 0#8) pl0 0)
    (partsOf 8 [(mva hi, mkey hi, true)])) = 0 ∧ (mreq (.atom .cas true) hi).b.toNat % 2 ^ 64 = 9 := by decide +kernel
theorem wit_AtomicValues : ∃ w old x y, old < 2 ^ w ∧ x < 2 ^ w ∧ y < 2 ^ w ∧ w = 64 ∧ old = 2 ^ 64 - 1 ∧ x = 2 ^ 63 ∧ y = 0 := ⟨64, 2 ^ 64 - 1, 2 ^ 63, 0, by decide⟩

/-- A line of glade 0's bank with the sum of two additions for the word at its start. -/
def bank0 : BankLine := { glade := 0, line := 0x40000 / 64, va := 0x20000, upd := some { op := .add, d := true, mask := 0xFF#64, delta := 7#8 :: List.replicate 63 0#8 } }
theorem wit_LinesGoHome : ∃ (s : State), (s.bank.filter fun b => decide (b.glade = s.cur.g) && decide (b.line = s.cur.n)) = [bank0] ∧ bank0.effs = [.delta .add true 0x40000 7#64] :=
  ⟨{ memState (mreq .ld false) 0#8 with bank := [bank0], cur := { (memState (mreq .ld false) 0#8).cur with g := 0, n := 0x40000 / 64 } }, by decide⟩
def uent0 (c : Bool) : UEnt := { glade := 0, lid := 0, ver := 0#16, cut := 0, committed := c, va := 0x20000, eff := .bytes 0x40000 [1#8] }
theorem wit_LinesGoHome_fold : ∃ (s : State), (s.under.filter fun e => e.committed && decide (e.eff.line = s.cur.n)) ≠ [] ∧
    (∀ e ∈ s.under, e.eff.line = s.cur.n → e.committed = true) ∧ s.scrubbing s.cur.n = false ∧ (s.setFrame 4 { st := .scrubbing }).scrubbing s.cur.n = true :=
  ⟨{ memState (mreq .ld false) 0#8 with under := [uent0 true], cur := { (memState (mreq .ld false) 0#8).cur with n := 0x40000 / 64 } }, by decide⟩
theorem wit_LinesGoHome_timeout : (memState (mreq .ld false) 0#8).glade? 0 = some glade0 := by decide +kernel

/-! ### Witnesses: launches, cuts, barriers, copies -/

/-- Launch 0 in a state of R93, with its step's operands. -/
def launchState (f : Launch → Launch) : State := curAt (world f id) id
theorem wit_LaunchesProceed_held : ∃ (s : State) (x : Launch), s.launch? s.cur.l = some x ∧ x.st = .held ∧ s.isOldest s.cur.l x = true :=
  ⟨launchState fun x => { x with st := .held }, { launch1 with st := .held }, by decide +kernel⟩
theorem wit_LaunchesProceed_commit : ∃ (s : State) (x : Launch), s.launch? s.cur.l = some x ∧ s.members x = [(s.cur.l, x)] ∧ s.mayCommit [(s.cur.l, x)] = true ∧ s.fo.twin = none :=
  ⟨launchState fun x => { x with st := .done }, { launch1 with st := .done }, by decide +kernel⟩
theorem wit_LaunchesProceed_oldest : ∃ (s : State) (x : Launch), s.launch? s.cur.l = some x ∧ x.st = .oldestOnly ∧ x.rung = none ∧ s.isOldest s.cur.l x = true :=
  ⟨launchState fun x => { x with st := .oldestOnly, plane := none }, { launch1 with st := .oldestOnly, plane := none }, by decide +kernel⟩
theorem wit_LaunchesProceed_cadence : ∃ (s : State) (x : Launch), s.launch? s.cur.l = some x ∧ x.takesCuts = true ∧ x.cad ≠ 0 ∧
    x.cadTaken < (s.cycle x.glade - x.startCycle).toNat / (x.cad * 65536) :=
  ⟨(launchState fun x => { x with cad := 1 }).setGlade 0 { glade0 with cycle := 65536#64 }, { launch1 with cad := 1 }, by decide +kernel⟩
theorem wit_RungsAreTaken : ∀ q ∈ ([(2, 0, 8, false), (3, 7, 8, false), (4, 0, 8, false), (2, 8, 8, false), (3, 0, 8, true)] : List (Nat × Nat × Nat × Bool)),
    let x : Launch := { launch1 with rung := some q.1, used := q.2.1, rbud := q.2.2.1, irrev := q.2.2.2, st := if q.2.2.2 then .irrevocable else .live }
    (launchState fun _ => x).launch? 0 = some x ∧ rungApplies x q.1 = true ∧
      ((q.1 = 4 ∨ (2 ≤ q.1 ∧ (x.irrev = true ∨ x.rbud ≤ x.used))) ∨ (q.1 = 2 ∧ x.irrev = false ∧ x.used < x.rbud) ∨ (q.1 = 3 ∧ x.irrev = false ∧ x.used < x.rbud)) := by
  decide +kernel
/-- A launch and another member of its group, which has run and whose budget is spent or not. -/
def groupState (spent : Bool) : State :=
  (launchState fun x => { x with rung := some 3, rbud := 8, group := 5 }).setLaunch 1
    { launch1 with plane := none, ticket := 1#32, rbud := 8, used := if spent then 8 else 0, group := 5 }
theorem wit_RungsAreTaken_group : ∀ spent, ∃ x y, (groupState spent).launch? 0 = some x ∧ x.rung = some 3 ∧ rungApplies x 3 = true ∧
    (groupState spent).members x = [(0, x), (1, y)] ∧ y.st.isLive = true ∧ (y.rbud ≤ y.used ↔ spent = true) := by
  intro spent
  exact ⟨{ launch1 with rung := some 3, rbud := 8, group := 5 }, { launch1 with plane := none, ticket := 1#32, rbud := 8, used := if spent then 8 else 0, group := 5 },
    by cases spent <;> decide +kernel⟩
theorem wit_RungsAreTaken_report : ({ launchState id with faults := [fault0] } : State).fault? 7 = some fault0 ∧
    ({ launchState id with faults := [fault0] } : State).launch? 0 = some launch1 ∧ launch1.st.isLive = true := by decide +kernel

/-- A SNAP blaze has come to the actor's input; a PRE blaze to a node's. -/
def cutLaunch (x : Launch) : Launch :=
  { x with img := { x.img with chans := [{ chan0 with pkind := 2 }], nodes := [node1 4 false] }, cuts := [{ kind := .snap, num := 1 }] }
theorem wit_BlazesAndWatching_actor : ∃ (s : State) (x : Launch), s.launch? s.cur.l = some x ∧ x.onFabric = true ∧ s.cur.elem = .actor pl0 ∧
    x.blazeOf pl0 (s.plane pl0) = some (.snap, 1) ∧ (s.plane pl0).launch = some 0 ∧ s.quiet pl0 = true :=
  ⟨curAt (world cutLaunch fun p => { p with ins := [(0, { blazes := [(.snap, 1)] })] }) fun c => { c with elem := .actor pl0, cut := .snap }, cutLaunch launch1, by decide +kernel⟩
theorem wit_BlazesAndWatching_node : ∃ (s : State) (x : Launch), s.launch? s.cur.l = some x ∧ x.onFabric = true ∧ s.cur.elem = .node 0 ∧ 0 < x.img.nodes.length ∧
    blazeAt x.cuts (.node 0) ((x.nodeIns 0).map fun q => Node.inp (Store.getD x.nodes 0 {}) q.1) = some (.snap, 1) :=
  ⟨curAt (world cutLaunch id) fun c => { c with elem := .node 0, cut := .snap }, cutLaunch launch1, by decide +kernel⟩
theorem wit_BlazesAndWatching_arm : ∃ (s : State), s.cur.ep = .actor pl0 0 ∧ s.actorOf pl0 = some (0, launch1, actor0) ∧ s.mayDebug launch1 = true :=
  ⟨curAt (world id id) fun c => { c with ep := .actor pl0 0 }, by decide +kernel⟩
theorem wit_BlazesAndWatching_full : ({ armed := List.replicate 3 (0#48, false) } : Endpoint).armed.length < 4 ∧
    4 ≤ ({ armed := List.replicate 4 (0#48, false) } : Endpoint).armed.length := by decide
def ovf0 : Ovf := { pl := pl0, blk := 64#16, slot := 3, cycle := 9#64, ver := 1#16, ticket := 7#32 }
def sample0 : Sample := { blk := 64#16, slot := 3, pl := pl0, ctr := 2, ver := 1#16, cycle := 9#64, ticket := 7#32 }
/-- Counter 2 of tile 96 has overflowed; the ring of glade 0 holds `k` samples. -/
def sampleState (k : Nat) : State :=
  (({ world id id with cur := { (world id id).cur with n := 96, k := 2 } } : State).setTile 96 { perf := [(2, { ovf := some ovf0 })] }).setGlade 0
    { glade0 with samples := List.replicate k sample0 }
theorem wit_BlazesAndWatching_sample : (sampleState 0).cur.flag = false ∧ (Store.getD ((sampleState 0).tile 96).perf 2 {}).ovf = some ovf0 ∧
    (sampleState 0).glade? ((sampleState 0).gladeOf ovf0.pl.col) = some { glade0 with samples := [] } ∧ 0 < sampleRing := by decide +kernel
theorem wit_BlazesAndWatching_sample_lost : ∃ g, (sampleState sampleRing).glade? 0 = some g ∧ sampleRing ≤ g.samples.length :=
  ⟨_, rfl, by simp⟩
theorem wit_BlazesAndWatching_drain : ∃ g, (sampleState 1).glade? 0 = some g ∧ ((sampleState 1).tenant g.tenant).confidential = false := ⟨_, rfl, by decide +kernel⟩
theorem wit_BlazesAndWatching_trail : ∀ b : Bool, ∃ (s : State), s.launch? s.cur.l = some launch1 ∧ s.mayDebug launch1 = true ∧ s.cur.n ≠ 0 ∧ s.trail = none ∧ s.cur.flag2 = b :=
  fun b => ⟨curAt (world id id) fun c => { c with n := 10, flag2 := b }, by cases b <;> decide +kernel⟩
theorem wit_BlazesAndWatching_trail_end : ∀ last ∈ [none, some []], ∃ (s : State) (t : Trail), s.launch? s.cur.l = some launch1 ∧ s.mayDebug launch1 = true ∧ s.trail = some t ∧
    t.lid = s.cur.l ∧ t.start = (if s.cur.flag2 then .actor s.cur.pl else s.cur.elem) ∧ t.back = s.cur.flag ∧ t.window = s.cur.n ∧ t.reason = none ∧ t.last = last ∧ s.cur.n ≠ 0 := by
  intro last h
  refine ⟨{ curAt (world id id) fun c => { c with n := 10, elem := .node 0 } with trail := some { lid := 0, start := .node 0, back := false, window := 10, since := 0#64, base := [], last := last } },
    { lid := 0, start := .node 0, back := false, window := 10, since := 0#64, base := [], last := last }, ?_⟩
  simp only [List.mem_cons, List.not_mem_nil, or_false] at h
  rcases h with rfl | rfl <;> decide +kernel

/-- A barrier object of the launch at 0x40000, with CNT 2 and one arrival in phase 3. -/
def bar0 : BarObj := { pend := 0, ver := 0, cnt := 2, arr := 1, phase := 3, init := true }
def barReq (k : ReqKind) (hi : Bool) (t b : Nat) : Req := { req0 with kind := k, a := BitVec.ofNat 64 (mva hi + t), b := BitVec.ofNat 64 b }
def barState (k : ReqKind) (hi : Bool) (t b : Nat) (o : BarObj) : State := (memState (barReq k hi t b) 0#8).setBar (mkey hi) o
/-- What the barrier statement asks, but for the object and the request. -/
def meetsBar (k : ReqKind) (hi : Bool) (t b : Nat) (o : BarObj) : Bool :=
  let s := barState k hi t b o
  decide (s.ready? s.cur.pl s.cur.rid = some (0, irrev1, barReq k hi t b)) && !s.invalHolds (tilePort pl0) irrev1.asid (va48 (barReq k hi t b).a / 16 * 16) &&
    decide (va48 (barReq k hi t b).a / 16 * 16 = mva hi) && !isPeer (mkey hi) && !isHost (mkey hi) && decide (s.bar (mkey hi) = o)
theorem xlate_bar (k : ReqKind) (t b : Nat) (o : BarObj) (w : Bool) : ∃ hi, (barState k hi t b o).xlate1 0 irrev1 (tilePort pl0) (mva hi) 16 w = (.ok (mkey hi) true, barState k hi t b o) := by
  obtain ⟨hi, h⟩ := outside_args 0
  refine ⟨hi, ?_⟩
  rw [xlate1_outside (by omega) (by decide)]
  have hp : (barState k hi t b o).port (tilePort pl0) = { wins := [(0, win0)] } := rfl
  have hF : ([(0, win0)] : Store WinEnt).find? (fun (_, e) => e.v && decide (e.asid = irrev1.asid) && decide (e.vbase ≤ mva hi) &&
      decide (mva hi < e.vbase + e.npg * 2 ^ 16) && (!w || e.wr)) = some (0, win0) := by cases hi <;> cases w <;> decide +kernel
  have hk : paKey (win0.pfrm * 2 ^ 16 + (mva hi - win0.vbase)) = mkey hi := by cases hi <;> decide +kernel
  simp only [State.xlate, hp, hF, hk]; rfl
theorem wit_Barriers_init : ∃ hi, let o : BarObj := { bar0 with init := false }
    let s := barState .barinit hi 0 0xFFFF o
    meetsBar .barinit hi 0 0xFFFF o = true ∧ s.xlate1 0 irrev1 (tilePort pl0) (mva hi) 16 true = (.ok (mkey hi) true, s) ∧ (0xFFFF : Nat) % 2 ^ 16 ≠ 0 ∧ s.barHeld (mkey hi) = [] := by
  obtain ⟨hi, h⟩ := xlate_bar .barinit 0 0xFFFF { bar0 with init := false } true
  exact ⟨hi, by cases hi <;> decide +kernel, h, by decide, by cases hi <;> decide +kernel⟩
theorem wit_Barriers : ∀ q ∈ ([(.barexp, 0, 2 ^ 48 - 1), (.bararv, 0, 0), (.barwt, 0, 0), (.barwt, 3, 0)] : List (ReqKind × Nat × Nat)),
    ∃ hi, let s := barState q.1 hi q.2.1 q.2.2 bar0
    meetsBar q.1 hi q.2.1 q.2.2 bar0 = true ∧ s.xlate1 0 irrev1 (tilePort pl0) (mva hi) 16 q.1.writes = (.ok (mkey hi) true, s) ∧ bar0.init = true ∧ bar0.ver = irrev1.ver.toNat ∧
    bar0.arr ≠ bar0.cnt ∧ bar0.open_ 0 = true ∧ bar0.open_ 3 = false ∧ (barReq q.1 hi q.2.1 q.2.2).budget ≠ 0#8 ∧ s.barCount (edgeOfKey (mkey hi)) < barDepth := by
  intro q hq
  obtain ⟨hi, h⟩ := xlate_bar q.1 q.2.1 q.2.2 bar0 q.1.writes
  refine ⟨hi, ?_, h, rfl, by decide +kernel, by decide, by decide +kernel, by decide +kernel, (by decide : (16#8 : BitVec 8) ≠ 0#8), ?_⟩
  all_goals
    simp only [List.mem_cons, List.not_mem_nil, or_false] at hq
    rcases hq with rfl | rfl | rfl | rfl <;> cases hi <;> decide +kernel
theorem wit_Barriers_timeout : let r : Req := { barReq .barwt false 3 0 with st := .barHeld 0#64 }
    let e : BarEnt := ⟨5, .request pl0 3, 0x40000⟩
    let s : State := ({ memState r 0#8 with barq := [e] } : State).setGlade 0 { glade0 with cycle := 1100001#64 }
    ((s.barq.filter fun e => decide (e.edge = 5))[0]?) = some e ∧ s.req? pl0 3 = some r ∧ (s.plane pl0).launch = some 0 ∧ s.launch? 0 = some irrev1 ∧
    s.glade? irrev1.glade = some { glade0 with cycle := 1100001#64 } ∧ r.budget ≠ 255#8 ∧ glade0.parkTimeout < ((1100001#64) - 0#64).toNat := by decide +kernel

/-- A phase that ends, with one wait on it that opens; one that does not end. -/
theorem wit_Barriers_phase : ∀ hi, let o : BarObj := { bar0 with arr := 2 }
    let r : Req := { barReq .barwt hi 3 0 with st := .barHeld 0#64 }
    let s : State := { ((memState r 0#8).setBar (mkey hi) o) with barq := [⟨edgeOfKey (mkey hi), .request pl0 3, mkey hi⟩] }
    s.bar (mkey hi) = o ∧ o.init = true ∧ o.arr = o.cnt ∧ o.pend = 0 ∧ s.barHeld (mkey hi) = [(pl0, r)] ∧
    { o with phase := 4, arr := 0 }.open_ 3 = true ∧ bar0.arr ≠ bar0.cnt := by decide +kernel

/-- A copy of n bytes in mode DATA from one page of the window to the other. -/
def cw0 (hi : Bool) (n : Nat) : List W64 :=
  [BitVec.ofNat 64 (mva hi), BitVec.ofNat 64 (mva hi + 0x8000), BitVec.ofNat 64 n, 0#64, 0#64, 0#64, 0#64, 0#64]
def copyReq (n : Nat) : Req := { req0 with kind := .copy, lanes := cw0 false n }
theorem wit_CopiesRun_accept : ∀ n ∈ [0, 100], let s := memState (copyReq n) 0#8
    s.ready? s.cur.pl s.cur.rid = some (0, irrev1, copyReq n) ∧ (s.copies.filter fun c => decide (c.engine = edgeIx pl0.col pl0.row)).length < copyDepth ∧ (copyReq n).lanes ≠ [] ∧ copyOk (copyReq n).lanes = true ∧
    cwBaddr (copyReq n).lanes = 0 ∧ (cwLen (copyReq n).lanes = 0 ↔ n = 0) := by decide +kernel
/-- A copy whose barrier lies in the window. -/
theorem wit_CopiesRun_barrier : ∃ hi, let s := memState req0 0#8
    let cw : List W64 := [0x20000#64, 0x28000#64, 100#64, BitVec.ofNat 64 (mva hi + 16), 0#64, 0#64, 0#64, 0#64]
    cwBaddr cw ≠ 0 ∧ s.xlate1 0 irrev1 (tilePort pl0) (cwBaddr cw) 16 true = (.ok (mkey hi + 16) true, s) := by
  obtain ⟨hi, h⟩ := outside_args 0
  have hb : cwBaddr [0x20000#64, 0x28000#64, 100#64, BitVec.ofNat 64 (mva hi + 16), 0#64, 0#64, 0#64, 0#64] = mva hi + 16 := by cases hi <;> decide +kernel
  refine ⟨hi, by rw [hb]; omega, ?_⟩
  simp only [hb]
  rw [xlate1_outside (by omega) (by decide)]
  cases hi <;> decide +kernel
def job0 (hi : Bool) : CopyJob :=
  { cid := 6, engine := 0, glade := 0, lid := 0, pl := pl0, ch := 0, rid := 3, cw := cw0 hi 100, promise := 5#64, budget := 16#8, block := 64#16, slot := 0 }
def copyState (hi : Bool) : State := { memState req0 0#8 with copies := [job0 hi], cur := { (memState req0 0#8).cur with n := 6 } }
theorem wit_CopiesRun_line : ∃ hi, ∃ bs bits, let s := copyState hi
    s.launch? 0 = some irrev1 ∧ irrev1.goesOn = true ∧ s.copyRead (job0 hi) irrev1 (tilePort pl0) 64 = (.got bs bits [⟨mva hi, mkey hi, true, 64⟩], s) ∧
    s.copyXlate (job0 hi) irrev1 (tilePort pl0) true [(mva hi + 0x8000, 64)] = (.ok [(mva hi + 0x8000, mkey hi + 0x8000, true)], [⟨mva hi + 0x8000, mkey hi + 0x8000, true, 64⟩], s) ∧
    min (64 - (cwDaddr (job0 hi).cw + 0) % 64) (cwLen (job0 hi).cw - 0) = 64 ∧ cwMode (job0 hi).cw = 0 ∧ cwBaddr (job0 hi).cw = 0 ∧ irrev1.irrev = true ∧
    s.liveDesc [⟨mva hi + 0x8000, mkey hi + 0x8000, true, 64⟩] = false ∧ s.twinPart 0 irrev1 [⟨mva hi + 0x8000, mkey hi + 0x8000, true, 64⟩] = false ∧
    s.invalHolds (tilePort pl0) irrev1.asid (cwDaddr (job0 hi).cw) = false := by
  obtain ⟨hi, h⟩ := outside_args 0
  have hx (w : Bool) (d : Nat) (hd : d + 64 ≤ 0xF000) : (copyState hi).copyXlate (job0 hi) irrev1 (tilePort pl0) w [(mva hi + d, 64)] =
      (.ok [(mva hi + d, mkey hi + d, true)], [⟨mva hi + d, mkey hi + d, true, 64⟩], copyState hi) := by
    show (match (copyState hi).xlateFor 0 irrev1 (tilePort pl0) (mva hi + d) 64 w with | (.ok ps, s) => _ | (.notPresent a l, s) => _ | (.prot, s) => _) = _
    rw [xlate_mem rfl rfl hi w (by decide) (by decide) hd h]; rfl
  refine ⟨hi, (copyState hi).readParts (copyObs (job0 hi)) [⟨mva hi, mkey hi, true, 64⟩],
    (copyState hi).readBits (copyObs (job0 hi)) [⟨mva hi, mkey hi, true, 64⟩], rfl, rfl, ?_, hx true 0x8000 (by decide), ?_⟩
  · have hc : cwCodec (job0 hi).cw = 0 := by cases hi <;> decide +kernel
    have hl : lineParts (cwSaddr (job0 hi).cw + (job0 hi).done) 64 = [(mva hi, 64)] := by cases hi <;> decide +kernel
    have hm : cwMode (job0 hi).cw = 0 := by cases hi <;> decide +kernel
    have hx' := hx false 0 (by decide)
    simp only [Nat.add_zero] at hx'
    have hd : (copyState hi).demandReads [mkey hi] = (false, copyState hi) := by cases hi <;> decide +kernel
    simp only [State.copyRead, hc, hl, hx', hm, List.map, hd]
    rw [if_neg (by cases hi <;> decide +kernel), if_neg (by cases hi <;> decide +kernel)]
  · cases hi <;> decide +kernel
theorem wit_CopiesRun_missed : ∃ (s : State) (c : CopyJob), s.copies.find? (fun c => decide (c.cid = s.cur.n)) = some c ∧ c.stopped = false ∧ c.owed = false ∧ c.promise < s.cycle c.glade ∧ c.missed = false :=
  ⟨(copyState false).setGlade 0 { glade0 with cycle := 6#64 }, job0 false, by decide +kernel⟩
theorem wit_CopyLinesLand : Memory.wf (copyState false).mem = true ∧ (copyState false).launch? (job0 false).lid = some irrev1 ∧ cwMode (job0 false).cw = 0 ∧
    (copyState false).barq = [] := by decide +kernel

/-! ### Witnesses: the matrix sequencer -/

/-- An INT8 region of one tile whose route 0 leads to input 0 of actor 0. -/
def region0 : RegionRec := { col := 0, row := 0, wc := 0, h := 0, acct := 0, npol := 0x8800#32, steer := none, routes := [some (0, 0)] }
def bound0 : Region := { lid := 0, rr := region0, acc := some 1, m := some 1, n := 1, cmd := some 4 }
/-- An MM of 1 × 1 × 1 with CLR and DRN, ACC 1, its operands at 0x20000 or 0x30000 and 64 bytes on. -/
def mm0 (hi : Bool) : List W64 :=
  [0x0001000000000118#64, 0x100010001#64, BitVec.ofNat 64 (mva hi), BitVec.ofNat 64 (mva hi + 64), 0#64, 0#64, 0x4000000040#64, 0#64]
def mrec0 (hi : Bool) (st : MSt) : MRec := { mid := 4, lid := 0, pl := pl0, block := 64#16, slot := 0, cw := mm0 hi, st := st, region := some 0 }
def matState (hi : Bool) (st : MSt) (q : Region) : State :=
  let s := memState { req0 with kind := .mmpost, a := 0#64 } 0#8
  let s := { s with mem := Memory.writeBytes s.mem (localKey 96 0) (bytesOfWords (mm0 hi)), cur := { s.cur with g := 0, n := 0, k := 0 } }
  s.setGlade 0 { glade0 with seqr := [mrec0 hi st], regions := [q] }
def matLaunch : Launch := { irrev1 with img := { irrev1.img with regions := [region0] } }

theorem wit_MatrixRuns_accept : let s := (matState false .queued { bound0 with acc := none, cmd := none }).setGlade 0 { glade0 with regions := [{ bound0 with acc := none, cmd := none }] }
    let r : Req := { req0 with kind := .mmpost, a := 0#64 }
    s.ready? s.cur.pl s.cur.rid = some (0, irrev1, r) ∧ s.recordAt pl0 r.a = mm0 false ∧
    mOk (mm0 false) (({ glade0 with regions := [{ bound0 with acc := none, cmd := none }] } : Glade).regionsOf 0) [] = true := by decide +kernel
theorem wit_MatrixRuns_dispatch : let q : Region := { bound0 with acc := none, m := none, n := 0, cmd := none }
    let g : Glade := { glade0 with seqr := [mrec0 false .queued], regions := [q] }
    (matState false .queued q).glade? 0 = some g ∧ (matState false .queued q).launch? 0 = some irrev1 ∧ irrev1.onFabric = true ∧ mKind (mm0 false) = 0 ∧
    g.eligible 0 = some (mrec0 false .queued, some 0) ∧ g.regions[0]? = some q ∧ q.acc = none := by decide +kernel
theorem wit_MatrixRuns_run : (matState false .running bound0).regionRun 0 0 = some (bound0, mrec0 false .running, irrev1) ∧ mKind (mm0 false) = 0 ∧
    bound0.nextChunk < mChunks (mm0 false) ∧ bound0.draining = false ∧ bound0.weights = none := by decide +kernel

/-- A region whose command has pinned the two lines of its chunk. -/
def pinned0 : Region := { bound0 with pinned := [(0x20000, List.replicate 64 1#8), (0x20040, List.replicate 64 2#8)] }
theorem fetched_eq {α : Type} {q : Except Fetched α × State} {v : α} {s : State} (h : q.1.toOption = some v) (h' : q.2 = s) : q = (.ok v, s) := by
  obtain ⟨e | e, t⟩ := q
  · exact nomatch h
  · simp_all [Except.toOption]
theorem wit_MatrixRuns_chunk : ∃ as bs accs, let s := matState false .running pinned0
    s.regionRun 0 0 = some (pinned0, mrec0 false .running, irrev1) ∧
    s.mBlocks (mrec0 false .running) irrev1 0x8800#32 .int8 (mAaddr (mm0 false)) (mAscl (mm0 false)) (mLda (mm0 false)) 0 (List.range (mM (mm0 false))) = (.ok as, s) ∧
    s.mBlocks (mrec0 false .running) irrev1 0x8800#32 .int8 (mBaddr (mm0 false)) (mBscl (mm0 false)) (mLdb (mm0 false)) 0 (List.range (mN (mm0 false))) = (.ok bs, s) ∧
    accsAfter region0 pinned0.accs (mM (mm0 false)) (mN (mm0 false)) (as.map fun b => b.take (mK (mm0 false) - 64 * 0)) (bs.map fun b => b.take (mK (mm0 false) - 64 * 0)) = some accs ∧
    region0.fmtA = .int8 ∧ region0.fmtB = .int8 :=
  ⟨[List.replicate 64 (decodeElem 0x8800#32 .int8 0#256 1 0)], [List.replicate 64 (decodeElem 0x8800#32 .int8 0#256 2 0)],
    (accsAfter region0 [] 1 1 [[decodeElem 0x8800#32 .int8 0#256 1 0]] [[decodeElem 0x8800#32 .int8 0#256 2 0]]).getD [], by decide +kernel,
    fetched_eq (by decide +kernel) (by decide +kernel), fetched_eq (by decide +kernel) (by decide +kernel), by decide +kernel⟩
def draining0 : Region := { bound0 with draining := true, nextChunk := 1, accs := [(0, 7#32)] }
theorem wit_MatrixRuns_drain : (matState false .running draining0).regionRun 0 0 = some (draining0, mrec0 false .running, irrev1) ∧ draining0.draining = true ∧ draining0.brkStop = false ∧
    draining0.drainPos < accTiles (draining0.m.getD 0) draining0.n ∧ draining0.rr.route 0 = some (0, 0) ∧ irrev1.planeOf 0 0 = some pl0 := by decide +kernel
theorem wit_MatrixRuns_route : draining0.nextRoute (mm0 false) = some (.ok (0, false)) := rfl
theorem wit_MatrixRuns_complete : ∃ (g : Glade), (matState false .completed draining0).glade? 0 = some g ∧ g.seqr.find? (fun m => decide (m.mid = 4)) = some (mrec0 false .completed) ∧
    (matState false .completed draining0).launch? 0 = some irrev1 ∧ irrev1.onFabric = true ∧ mCen (mm0 false) = false :=
  ⟨{ glade0 with seqr := [mrec0 false .completed], regions := [draining0] }, by decide +kernel⟩

/-! ### Witnesses: border cores, the launch unit, translation -/

/-- Address space 1 of the operator maps its first GiB to the first GiB of DRAM; frames 4 and 5 are its own; island 0 runs glade 0, whose
queue 3 is bound. -/
def tab : State :=
  { (State.reset.setGlade 0 { glade0 with binds := [(3, (0, 1#16))] }).setIsland 0 { first := 0, nisl := 1, st := .active } with
    asids := [(1, ⟨0x100000, 0⟩)], frames := [(4, { st := .owned }), (5, { st := .owned }), (16, { st := .owned })],
    mem := Memory.writeBytes (Memory.writeBytes [] 0x100000 (toLE 8 0x101001)) 0x101000 (toLE 8 0xF) }
/-- Core 0 of `tab` with these registers in address space 1. -/
def coreSt (mode : CMode) (x : List (Nat × W64)) (s : State := tab) : State :=
  { s.setCore 0 { mode := mode, x := x, asid := 1#16 } with cur := { s.cur with core := 0 } }
/-- A minimal launch record at address a. -/
def withRecord (a : Nat) (s : State) : State := { s with mem := Memory.writeBytes s.mem a [1#8] }

theorem wit_BorderWords_off : ((coreSt .m []).setIsland 0 { st := .disabled }).coreOff 0 = true ∧ (coreSt .m []).coreOff 0 = false := by decide +kernel
theorem wit_BorderWords_user : ((coreSt .u []).core 0).wait = none ∧ (coreSt .u []).coreOff 0 = false ∧ ((coreSt .u []).core 0).mode = .u := by decide +kernel
theorem wit_BorderWords_jlaunch : let s := withRecord 0x40000 (coreSt .m [(10, 0x40000#64), (11, 3#64)])
    (s.core 0).wait = none ∧ (s.core 0).mode ≠ .u ∧ s.islandOpen 0 = true ∧ (((s.core 0).reg 10).toNat % 128 = 0) ∧ ((s.core 0).reg 11).toNat < 16 ∧
    ((s.fwRead 1#16 0x40000 128).map fun r => recBits r 3 0) = some 1 ∧ ((s.glade? 0).map fun g => ((Store.get? g.binds 3).isSome, (Store.getD g.queues 3 []).length)) = some (true, 0) := by decide +kernel
theorem wit_BorderWords_closed : let s := (coreSt .m []).setIsland 0 {}
    s.islandOpen 0 = false ∧ s.byTicketNo (s.coreGlade 0) 0#32 = none := by decide +kernel
/-- The core names launch 0 by its ticket. -/
def ticketSt (st : LState) (b : Nat) : State :=
  (coreSt .m [(10, 7#64), (11, BitVec.ofNat 64 b)]).setLaunch 0 { launch1 with st := st, ver := 1#16, ticket := 7#32 }
theorem wit_BorderWords_ticket : ∀ b ∈ [0, 1, 2, 3, 5], ∃ l x, (ticketSt .live b).byTicketNo ((ticketSt .live b).coreGlade 0) 7#32 = some (l, x) ∧ x.st = .live ∧ x.mayCut = true ∧
    x.stopHeld = false ∧ (ticketSt .live b).mayDebug x = true ∧ ((ticketSt .live b).tenant x.tenant).confidential = false := by
  intro b hb
  refine ⟨0, { launch1 with ver := 1#16, ticket := 7#32 }, ?_⟩
  simp only [List.mem_cons, List.not_mem_nil, or_false] at hb
  rcases hb with rfl | rfl | rfl | rfl | rfl <;> decide +kernel
theorem wit_BorderWords_resume : let s := (coreSt .m [(10, 7#64), (11, 4#64)]).setLaunch 0 { launch1 with ver := 1#16, ticket := 7#32, stopHeld := true }
    s.byTicketNo (s.coreGlade 0) 7#32 = some (0, { launch1 with ver := 1#16, ticket := 7#32, stopHeld := true }) := by decide +kernel
theorem wit_BorderWords_ctxsave : ∃ v t, (ticketSt .live 0x1000).ctxSave 1#16 0 0x1000 = (some v, t) ∧ 0x1000 % 4096 = 0 :=
  ⟨0#64, ticketSt .live 0x1000, by decide +kernel⟩
theorem wit_BorderWords_ctxload : ∃ n t, ((coreSt .m []).setIsland 0 {}).ctxLoad 0 0 1#16 0 3 = (some n, t) := ⟨1, (coreSt .m []).setIsland 0 {}, by decide +kernel⟩
theorem wit_BorderWords_jinvr : (0x30000 % 2 ^ 48 % 2 ^ 16 = 0) ∧ (0x10001 / 2 ^ 16 ≠ 0) ∧ (0x30001 % 2 ^ 48 % 2 ^ 16 ≠ 0) := by decide
/-- The 24 doorbells, wherever they lie, leave one of 25 words free. -/
theorem outside_doorbells : ∃ j < 25, ∀ g < 24, BitVec.ofNat 64 (0x40000 + 8 * j) ≠ Config.doorbell g := by
  refine Classical.byContradiction fun h => ?_
  have hs : ((List.range 25).map fun j => BitVec.ofNat 64 (0x40000 + 8 * j)) ⊆ (List.range 24).map Config.doorbell := by
    intro a ha
    obtain ⟨j, hj, rfl⟩ := List.mem_map.mp ha
    refine Classical.byContradiction fun hn => h ⟨j, List.mem_range.mp hj, fun g hg e => hn ?_⟩
    exact List.mem_map.mpr ⟨g, List.mem_range.mpr hg, e.symm⟩
  have := List.Nodup.length_le_of_subset (by decide +kernel) hs
  simp at this
/-- A full and an empty word that is no doorbell. -/
theorem wit_BorderWords_jwaitw (full : Bool) : ∃ a key, let s := (if full then (coreSt .m []).setHomeBit (key / 8) true else coreSt .m [])
    s.waitKey 0 1#16 a true = some key ∧ a.toNat % 8 = 0 ∧ s.coreWordFull key = full ∧ s.barq = [] := by
  obtain ⟨j, hj, h⟩ := outside_doorbells
  have all : ∀ full : Bool, ∀ j < 25, let s := (if full then (coreSt .m []).setHomeBit ((0x40000 + 8 * j) / 8) true else coreSt .m [])
    (s.fwKey 1#16 ((BitVec.ofNat 64 (0x40000 + 8 * j)).toNat % 2 ^ 48) true).map (·.1) = some (0x40000 + 8 * j) ∧
      (BitVec.ofNat 64 (0x40000 + 8 * j)).toNat % 8 = 0 ∧ s.coreWordFull (0x40000 + 8 * j) = full ∧ s.barq = [] ∧ s.coreGlade 0 < 24 := by decide +kernel
  obtain ⟨h1, h2, h3, h4, h5⟩ := all full j hj
  refine ⟨BitVec.ofNat 64 (0x40000 + 8 * j), 0x40000 + 8 * j, ?_, h2, h3, h4⟩
  show State.waitKey _ 0 1#16 _ true = _
  have hd : State.doorAt (if full then (coreSt .m []).setHomeBit ((0x40000 + 8 * j) / 8) true else coreSt .m []) 0 (BitVec.ofNat 64 (0x40000 + 8 * j)) = none := by
    rw [State.doorAt, if_neg (h _ h5)]
    exact List.find?_eq_none.mpr fun g hg => by simpa using h g (List.mem_range.mp hg)
  rw [State.waitKey, hd]
  exact h1

def callPlane (s : State) (c : CallEntry) : State := s.setPlane pl0 { ring := [c] }
theorem wit_BorderServices_call : let s := callPlane (coreSt .m []) ⟨1, 2#64, 3, 0#16⟩
    (s.core 0).wait = none ∧ (s.core 0).serving = none ∧ s.nextRing 0 = some (planeKey pl0) ∧ planeOfKey (planeKey pl0) = pl0 ∧ (s.plane pl0).ring = [⟨1, 2#64, 3, 0#16⟩] ∧
    (s.core 0).isSpent (s.core 0).slice = false ∧ s.hasCall 0 (s.core 0).slice = true ∧ Store.getD (s.core 0).svc 1 0#64 = 0#64 ∧
    Store.getD ({ s.core 0 with svc := [(1, 0x1000#64)] } : Core).svc 1 0#64 ≠ 0#64 := by decide +kernel
/-- The routine has returned; it has not. -/
theorem wit_BorderServices_answer : ∀ back : Bool, let pc := if back then 8#64 else 0x1000#64
    let s := callPlane ((coreSt .m []).setCore 0 { serving := some (pl0, 8#64), pc := pc }) ⟨1, 2#64, 3, 0#16⟩
    (s.core 0).wait = none ∧ (s.core 0).isSpent (s.core 0).slice = false ∧ s.coreOff 0 = false ∧ (s.core 0).serving = some (pl0, 8#64) ∧ (s.core 0).pc = pc ∧
    (s.plane pl0).ring = [⟨1, 2#64, 3, 0#16⟩] := by decide +kernel
/-- The tenant of the core's slice has no call, the operator has one; the core has run the operator before, or not. -/
theorem wit_BorderServices_switch : ∀ ran : Bool, let s := callPlane ((coreSt .m []).setCore 0 { slice := 7, others := if ran then [(0, { pc := 8#64 })] else [] }) ⟨1, 2#64, 3, 0#16⟩
    s.hasCall 0 (s.core 0).slice = false ∧ (s.core 0).wait = none ∧
    (nextAround (s.core 0).slice ((s.callers 0).filter fun t => !(s.core 0).isSpent t && s.hasCall 0 t)).getD 0 ≠ (s.core 0).slice := by decide +kernel
theorem wit_BorderServices_idle : (coreSt .m []).hasCall 0 ((coreSt .m []).core 0).slice = false := by decide +kernel
theorem wit_BorderServices_period : let s := (coreSt .m []).setGlade 0 { glade0 with cycle := BitVec.ofNat 64 budgetPeriod }
    (s.cycle (s.coreGlade 0)).toNat / budgetPeriod ≠ (s.core 0).period := by decide +kernel
theorem wit_BorderServices_wait : let s := ((coreSt .m []).setCore 0 { wait := some (.word 5 0x40000#64 10 true 0#64) }).setGlade 0 { glade0 with cycle := 10#64 }
    (s.core 0).wait = some (.word 5 0x40000#64 10 true 0#64) ∧ 10 ≠ 0 ∧ 10 ≤ (s.cycle (s.coreGlade 0) - 0#64).toNat := by decide +kernel

/-- A queue of glade 0 whose head has an image in a plane of the glade. -/
def qent0 (ok : Bool) : QEnt := { rcd := [1#8, (if ok then 0#8 else 0x80#8), 0#8], seq := 0, core := 0 }
def queueSt (es : List QEnt) : State :=
  let g : Glade := { glade0 with binds := [(3, (0, 1#16))], queues := [(3, es)], resident := [⟨0, 0#64, 1#16, launch1.img⟩] }
  { tab.setGlade 0 g with cur := { tab.cur with g := 0, n := 3 } }
theorem wit_LaunchUnit_check : ∃ (g : Glade), (queueSt [qent0 true]).glade? 0 = some g ∧ Store.getD g.queues 3 [] = [qent0 true] ∧ Store.get? g.binds 3 = some (0, 1#16) ∧
    headGroup [qent0 true] = ([qent0 true], true, false) ∧ (qent0 true).ctx = none ∧ (qent0 true).img = none ∧
    ((queueSt [qent0 true]).checkRecord 0 3 g 1#16 (qent0 true).rcd).toOption = some launch1.img := ⟨_, rfl, by decide +kernel⟩
theorem wit_LaunchUnit_bad : ∃ (g : Glade), (queueSt [qent0 false]).glade? 0 = some g ∧ headGroup [qent0 false] = ([qent0 false], true, false) ∧
    ((queueSt [qent0 false]).checkRecord 0 3 g 1#16 (qent0 false).rcd).toOption = none := ⟨_, rfl, by decide +kernel⟩
theorem wit_LaunchUnit_start : let e : QEnt := { qent0 true with img := some launch1.img }
    ∃ (g : Glade), (queueSt [e]).glade? 0 = some g ∧ (queueSt [e]).starting 0 = [] ∧ (queueSt [e]).nextQueue g = some 3 ∧ e.ctx = none ∧
    (((queueSt [e]).letIn 0 3 0 1#16 [e]).setQueue 0 3 []).fo.twin = none := ⟨_, rfl, by decide +kernel⟩
/-- A ring of glade 0 at 0x40000 whose word with TAIL and RST is full. -/
def ringSt (rst : Bool) : State :=
  { tab.setHomeBit (0x40010 / 8) true with
    host := { tab.host with rings := [⟨0, 0x40000#64, 1#16, 0, 0, 0⟩] }, cur := { tab.cur with g := 0, k := 0 },
    mem := Memory.writeBytes (Memory.writeBytes tab.mem 0x40000 [1#8]) 0x40010 (toLE 8 (if rst then 2 ^ 63 else 0)) }
theorem wit_LaunchUnit_ring : ∀ rst : Bool, (ringSt rst).ringOf 0 0 = some ⟨0, 0x40000#64, 1#16, 0, 0, 0⟩ ∧
    ((ringSt rst).ringHead ⟨0, 0x40000#64, 1#16, 0, 0, 0⟩).map (fun h => (recBits h 191 191, recBits h 9 8)) = some (if rst then 1 else 0, 0) ∧
    ((ringSt rst).ringTake ⟨0, 0x40000#64, 1#16, 0, 0, 0⟩).1 = true := by decide +kernel
theorem wit_LaunchUnit_table : let s (ix : Nat) (t : Option (List W32)) : State := { tab with fo := { tab.fo with tabCyc := 64, tabIx := ix, pendTable := t } }
    64 ≤ (s 15 (some [])).fo.tabCyc ∧ ((s 15 (some [])).fo.tabIx + 1) % 16 = 0 ∧ ((s 14 none).fo.tabIx + 1) % 16 ≠ 0 := by decide +kernel

def leaf0 : Leaf := { asid := 1#16, va := 0, size := 2 ^ 16, pa := 0, w := true, imm := true }
/-- The access that prompts is at 8: a leaf is cached there, or none is; the tables map the first GiB as one leaf, and no more. -/
theorem wit_Translation_ahead : let s := tab.setPort 0 { cache := [leaf0] }
    ((s.port 0).cache.any fun l => decide (l.asid = 1#16) && decide (l.va ≤ 8) && decide (8 < l.va + l.size)) = true ∧
    (tab.port 0).wins = [] ∧ (tab.port 0).cache = [] ∧ tab.walk 1#16 0x40000 = .leaf { leaf0 with size := 2 ^ 30 } ∧ 8 < 2 ^ 30 ∧
    tab.walk 1#16 (2 ^ 39) = .notPresent 3 ∧ tab.walk 1#16 0x60000 = .malformed := by decide +kernel
/-- The prompting access lies outside the leaf that the fetch would give. -/
theorem wit_Translation_ahead_outside : ∃ f, tab.walk 1#16 0x40000 = .leaf f ∧ f.va + f.size ≤ 2 ^ 30 := ⟨_, (wit_Translation_ahead).2.2.2.1, by decide⟩
def inval0 : Inval := { iid := 5, core := 0, base := 0, len := 2 ^ 16, asid := 1#16, todo := [0], active := [], acks := 0 }
theorem wit_Translation_inval : let s : State := { tab.setPort 0 { cache := [leaf0] } with invals := [inval0] }
    s.invals.find? (fun v => decide (v.iid = 5)) = some inval0 ∧ inval0.todo.contains 0 = true ∧ { inval0 with active := [0] }.active.contains 0 = true := by decide +kernel
def prq0 : PrqEnt := { ix := 2, va := 0x20000, asid := 1#16, glade := 0, lid := 0, kind := 0, level := 0, port := 0, ticket := 0#32, ver := 0#16, stamp := 0#64, shared := false }
def prqSt (val : W64) : State :=
  let s := (world id fun p => { p with rq := [{ req0 with st := .pageHeld 2 }] }).setGlade 0 { glade0 with cycle := 110001#64 }
  { s with prq := { ents := [prq0] }, cur := { s.cur with k := 2, val := val } }
theorem wit_Translation_scan : ∃ (g : Glade), (prqSt 0#64).prq.ents.find? (fun e => decide (e.ix = 2)) = some prq0 ∧ (prqSt 0#64).glade? prq0.glade = some g ∧
    g.quick < ((prqSt 0#64).cycle prq0.glade - prq0.stamp).toNat ∧ (prqSt 0#64).holders 2 = [(0, launch1)] ∧ launch1.plane.isSome = true ∧ launch1.scanned = none ∧
    launch1.preHeld = false ∧ launch1.planes.all (prqSt 0#64).canDrain = true ∧ (prqSt 0#64).matrixStill 0 launch1 g = true := ⟨_, rfl, rfl, by decide +kernel⟩
theorem wit_Translation_answers : ∀ a ∈ [0, 1, 2], (prqSt (BitVec.ofNat 64 (2 + 256 * a))).answered (BitVec.ofNat 64 (2 + 256 * a)) = some prq0 ∧
    answerAct (BitVec.ofNat 64 (2 + 256 * a)) = a := by decide +kernel
theorem wit_Translation_refused : answerAct 0x302#64 = 3 ∧ (prqSt 1#64).answered 1#64 = none := by decide +kernel
theorem wit_Translation_scrub : let s : State := { tab.setFrame 4 { st := .scrubbing } with fo := { tab.fo with st := .up } }
    s.fo.st = .up ∧ (s.frame 4).st = .scrubbing ∧ (∀ e ∈ s.under, inFrame 4 (e.eff.line * 64) = false) ∧ (s.frame 4).mark = false := by decide +kernel
theorem wit_Translation_page : let s : State := { tab with glades := [], paged := [{ asid := 1#16, va := 0x50000, bits := [], bytes := [] }] }
    s.walk 1#16 0x40000 = .leaf { leaf0 with size := 2 ^ 30 } ∧ s.bank = [] ∧ s.under = [] ∧ s.glades = [] ∧ s.launches = [] ∧ (s.frame 5).st = .owned ∧
    (s.frame 5).tenant = 0 ∧ Store.get? s.asids 1 = some ⟨0x100000, 0⟩ ∧
    s.paged.find? (fun q => decide (q.asid = 1#16) && decide (q.va = 0x50000)) = some { asid := 1#16, va := 0x50000, bits := [], bytes := [] } := by decide +kernel

/-! ### Witnesses: the host, links, the Forester, the firmware's calls -/

/-- Window 0 of the aperture reaches address space 1 from address 0, with V, W and P. -/
def hostSt (o n : Nat) (bs : List Byte) : State :=
  { tab with host := { tab.host with wins := [(0, BitVec.ofNat 64 (2 ^ 48 + 7))] }, cur := { tab.cur with n := o, k := n, bytes := bs } }
theorem wit_HostAccesses : ∃ t, let s := hostSt 0x40000 8 (List.replicate 8 1#8)
    s.hostWin 0x40000 = (BitVec.ofNat 64 (2 ^ 48 + 7), 0x40000) ∧ s.hostXlate (s.hostWin 0x40000).1 0x40000 false = (.ok 0x40000 true, t) ∧
    s.hostXlate (s.hostWin 0x40000).1 0x40000 true = (.ok 0x40000 true, t) ∧ t.hostWordsOk 0x40000 0x40000 8 = true ∧ isHost 0x40000 = false ∧ s.cur.flag = false ∧ s.cur.flag2 = false ∧
    winV (s.hostWin 0x40000).1 = true ∧ winW (s.hostWin 0x40000).1 = true ∧ winP (s.hostWin 0x40000).1 = true ∧ 0x40000 % 64 + 8 ≤ 64 :=
  ⟨tab.cacheLeaf ioPort { leaf0 with size := 2 ^ 30 } |> fun t => { t with host := (hostSt 0 0 []).host, cur := (hostSt 0x40000 8 (List.replicate 8 1#8)).cur }, by decide +kernel⟩
/-- An access of the requester waits; an invalidation holds its next write. -/
theorem wit_HostAccesses_held : let s : State := hostSt 0x40000 8 (List.replicate 8 1#8)
    let h : State := { s with invals := [⟨5, 0, 0, 2 ^ 48, 1#16, [], [ioPort], 0⟩] }
    s.host.held = [] ∧ (∃ b ∈ ({ s.host with held := [s.cur.hostAcc .plainRead] } : HostIf).held, b.who = s.cur.rid) ∧
    (h.hostXlate (h.hostWin 0x40000).1 0x40000 true).1 = .held ∧ winW (h.hostWin 0x40000).1 = true := by decide +kernel
theorem wit_HostAccesses_probe : ((0x80000 / 16 * 8 = 0x40000) ∧ 0x80000 % 16 = 0 ∧ 0x80000 < 2 ^ 39) := by decide
theorem wit_HostAccesses_none : winV (State.reset.hostWin 0).1 = false ∧ ¬(0 < 65 ∧ 65 ≤ 64 ∧ 0 % 64 + 65 ≤ 64 ∧ 0 < 2 ^ 38) := by decide +kernel
theorem wit_HostAccesses_readonly : let s : State := { tab with host := { tab.host with wins := [(0, BitVec.ofNat 64 (2 ^ 48 + 1))] } }
    winV (s.hostWin 0).1 = true ∧ winW (s.hostWin 0).1 = false := by decide +kernel

theorem wit_Links_training : ({ tab with cur := { tab.cur with k := 17, masks := [6#16] } } : State).cur.masks = [6#16] ∧ (6#16 : BitVec 16) &&& 1#16 = 0#16 ∧ (6#16 : BitVec 16) &&& 3#16 ≠ 0#16 ∧ ((tab.slink 17).up = false) := by decide +kernel
theorem wit_Links_flit : ∀ n ∈ [0, 7, 8], ((tab.setSlink 0 { up := true, link := 2, fails := n }).slink 0).up = true := by decide +kernel
/-- A window maps the page to peer 3, link 0 is up, and link 0 leads there. -/
def peerSt (r : Req) : State :=
  let s := (memState r 0#8).setPort (tilePort pl0) { wins := [(0, { win0 with pfrm := (2 ^ 50 + 3 * 2 ^ 44) / 2 ^ 16 })] }
  { s.setSlink 0 { up := true, link := 2 } with fo := { s.fo with routes := [(3, 1#18)] } }
theorem wit_Links_peer : ∀ q ∈ ([(.ld, false), (.st, true), (.ld, true)] : List (ReqKind × Bool)), ∃ hi, ∃ key, let r := mreq q.1 hi
    (peerSt r).ready? pl0 3 = some (0, irrev1, r) ∧ (peerSt r).xlateFor 0 irrev1 (tilePort pl0) (mva hi) 8 q.1.writes = (.ok [(mva hi, key, true)], peerSt r) ∧
    (peerSt r).holdsRange (tilePort pl0) irrev1.asid (va48 r.a) r.bytes = false ∧ (peerSt r).fo.twin = none ∧ (peerSt r).wordsOk q.1 (partsOf 8 [(mva hi, key, true)]) = true ∧
    (peerSt r).userDesc pl0 (partsOf 8 [(mva hi, key, true)]) = false ∧ (peerSt r).twinBars 0 irrev1 r (partsOf 8 [(mva hi, key, true)]) = false ∧
    isPeer key = true ∧ (peerSt r).peerLinks (peerOf key) ≠ [] ∧ ((peerSt r).setSlink 0 {}).peerLinks (peerOf key) = [] := by
  intro q hq
  obtain ⟨hi, h⟩ := outside_args 0
  have hp : (peerSt (mreq q.1 hi)).port (tilePort pl0) = { wins := [(0, { win0 with pfrm := (2 ^ 50 + 3 * 2 ^ 44) / 2 ^ 16 })] } := rfl
  have hx := xlate_window (s := peerSt (mreq q.1 hi)) (lid := 0) (x := irrev1) (w := q.1.writes) (va := mva hi) (n := 8) (by omega) (by decide) (by decide) hp (by cases hi <;> cases q.1.writes <;> decide +kernel)
  have hk : paKey ((2 ^ 50 + 3 * 2 ^ 44) / 2 ^ 16 * 2 ^ 16 + (mva hi - win0.vbase)) = 2 ^ 60 + 3 * 2 ^ 44 + (mva hi - 0x20000) := by cases hi <;> decide +kernel
  refine ⟨hi, 2 ^ 60 + 3 * 2 ^ 44 + (mva hi - 0x20000), ?_, by rw [← hk]; exact hx, ?_⟩
  all_goals
    simp only [List.mem_cons, List.not_mem_nil, or_false] at hq
    rcases hq with rfl | rfl | rfl <;> cases hi <;> decide +kernel
theorem wit_Links_retry : ∃ (g : Glade), let r : Req := { mreq .ldw false with st := .retryAt 5#64 3 }
    let s := (peerSt r).setGlade 0 { glade0 with cycle := 5#64 }
    s.planeActs pl0 = some (0, irrev1) ∧ s.req? pl0 3 = some r ∧ s.glade? 0 = some g ∧ 5#64 ≤ s.cycle irrev1.glade := ⟨{ glade0 with cycle := 5#64 }, by decide +kernel⟩
def coll0 : Coll := { tenant := 0, core := 0, desc := 0#64, asid := 1#16, op := 0, ty := .i64, src := 0x40000#64, dst := 0x40040#64, list := [255], donew := 0x40080#64, count := 1 }
theorem wit_Links_collective : let s : State := { tab with links := { tab.links with colls := [coll0] }, cur := { tab.cur with k := 0, flag := true } }
    s.links.colls[0]? = some coll0 ∧ (s.fwRead 1#16 0x40000 8).map List.length = some 8 ∧ s.cur.flag = true ∧ (∀ p ∈ coll0.list, p = 255) ∧
    (s.fwWrite 1#16 0x40040 (toLE 8 0)).1 = true ∧ s.fwKey 1#16 0x40080 false = some (0x40080, true) ∧ (elemsOf 8 1 (toLE 8 5)).length = 1 := by decide +kernel

/-- The Forester runs. -/
def up : State := { tab with fo := { tab.fo with st := .up, ticks := 110000#64 } }
theorem wit_ForesterSteps : State.reset.fo.st = .off ∧ up.fo.st = .up ∧ ({ up with fo := { up.fo with st := .down } } : State).fo.st = .down ∧
    110000 ≤ (up.fo.ticks - (up.island 0).stepAt).toNat ∧ (up.frame 0).ce = [] ∧ (0 : Nat) < dramFrames := by decide +kernel
/-- A whole layout of sequence 1 that has not been applied, and one torn in its commit record. -/
def journal0 (ok : Bool) : List JRec := [{ commit := false, seq := 1, island := 3, first := 3, nisl := 1 }, { commit := true, seq := 1, nprep := 0, ok := ok }]
theorem wit_ForesterSteps_layout : let s : State := { up with fo := { up.fo with st := .down, journal := journal0 true } }
    layoutWhole s.fo.journal (topSeq s.fo.journal) = true ∧ s.fo.lastSeq < topSeq s.fo.journal ∧ layoutWhole (journal0 false) (topSeq (journal0 false)) = false := by decide +kernel
theorem wit_ForesterSteps_measured : let s : State := ({ up with fo := { up.fo with spdm := .session, peer := 7 } } : State).setTenant 7 { confidential := true, loads := [1#8] }
    s.measBlock 4 ≠ [] := by decide +kernel
theorem wit_ForesterSteps_power_least : let s := up.setIsland 0 { st := .active, capw := 100, fcur := 8, fmin := 8 }
    (s.island 0).capw < 101 ∧ (s.island 0).fcur ≤ (s.island 0).fmin := by decide +kernel
theorem wit_ForesterSteps_power : let s := up.setIsland 0 { st := .active, capw := 100, fcur := 12 }
    (s.island 0).capw < 101 ∧ (s.island 0).fmin < (s.island 0).fcur ∧ 89 * 10 < (s.island 0).capw * 9 ∧ (s.island 0).fcur < 16 := by decide +kernel
theorem wit_ForesterSteps_session : ∀ n ∈ [7, 8], let s : State := ({ up with fo := { up.fo with spdm := .session, peer := 7 }, cur := { up.cur with n := n } } : State).setTenant 7 { confidential := true }
    s.fo.st = .up ∧ s.fo.spdm = .session ∧ (s.fo.peer = s.cur.n ↔ n = 7) ∧ s.fo.cert = none ∧ (s.tenant 7).confidential = true ∧ (s.tenant 7).shared.length < 256 := by decide +kernel
theorem wit_ForesterSteps_spdm : ∀ q ∈ [SpdmSt.version, .caps, .negotiated, .exchanging, .session], ({ up with fo := { up.fo with spdm := q } } : State).fo.spdm = q := by
  decide +kernel

/-- A management request of an authenticated session with these arguments. -/
def mgmt (args : List Nat) (s : State := up) : State :=
  { s with cur := { s.cur with mreq := { len := 8 * args.length, args := args.map (BitVec.ofNat 64), authenticated := true } },
           fo := { s.fo with cert := some [], spdm := .session } }
theorem wit_Management_session : up.operatorSession (mgmt []).cur.mreq = false ∧ (mgmt []).operatorSession (mgmt []).cur.mreq = true := by decide +kernel
theorem wit_Management : (mgmt [0, 300 + 10 * 2 ^ 10]).operatorSession (mgmt [0, 300 + 10 * 2 ^ 10]).cur.mreq = true ∧ (mgmt [0, 300 + 10 * 2 ^ 10]).cur.mreq.mver = 1#4 ∧
    (mgmt [0, 300 + 10 * 2 ^ 10]).cur.mreq.len = 8 * (mgmt [0, 300 + 10 * 2 ^ 10]).cur.mreq.args.length ∧ (mgmt []).cur.mreq.reserved = 0#64 ∧ up.fo.st = .up := by decide +kernel
/-- What each refusal asks: no session, another version, a length that does not fit, a reserved bit, a CODE that names no command. -/
theorem wit_Management_refused : let s (f : MgmtReq → MgmtReq) : State := { mgmt [] with cur := { (mgmt []).cur with mreq := f (mgmt []).cur.mreq } }
    (s id).cur.mreq.unknown = none ∧ (s fun r => { r with authenticated := false }).operatorSession (s fun r => { r with authenticated := false }).cur.mreq = false ∧
    (s fun r => { r with mver := 2#4 }).operatorSession (s fun r => { r with mver := 2#4 }).cur.mreq = true ∧
    (s fun r => { r with len := 8 }).cur.mreq.len ≠ 8 * (s fun r => { r with len := 8 }).cur.mreq.args.length ∧
    (s fun r => { r with reserved := 0x1000#64 }).operatorSession (s fun r => { r with reserved := 0x1000#64 }).cur.mreq = true ∧
    ∀ c ∈ [0#8, 0x10#8, 0xFF#8], (s fun r => { r with code := some c }).cur.mreq.code = some c ∧ (s fun r => { r with code := some c }).cur.mreq.unknown = some c.toNat := by decide +kernel
/-- Islands 0 and 1 are one glade; a word names island 0 alone. -/
theorem wit_Management_cut : let s := (up.setIsland 0 { first := 0, nisl := 2, st := .active }).setIsland 1 { first := 0, nisl := 2, st := .active }
    1 < 24 ∧ (s.island 0).st = .active ∧ (s.island 1).st = .active ∧ (s.island 0).first = (s.island 1).first ∧ 0 ∈ wordIslands 0 ∧ 1 ∉ wordIslands 0 := by decide +kernel
theorem wit_Management_layout : (mgmt [0]).layoutRange [0] = true ∧ (mgmt [0]).pending = false ∧ (mgmt [0]).changes [0] ((mgmt [0]).fo.lastSeq + 1) = [] ∧
    (mgmt [1]).changes [1] ((mgmt [1]).fo.lastSeq + 1) ≠ [] ∧ (mgmt [1]).layoutRange [1] = true ∧ (mgmt [1]).cur.flag = false ∧
    ∀ p ∈ (mgmt [1]).changes [1] ((mgmt [1]).fo.lastSeq + 1), ((mgmt [1]).island p.island).st ≠ .active := by decide +kernel
theorem wit_Management_power : 80 ≤ bitsOf (300 + 10 * 2 ^ 10) 9 0 ∧ bitsOf (300 + 10 * 2 ^ 10) 9 0 ≤ 360 ∧ 8 ≤ bitsOf (300 + 10 * 2 ^ 10) 14 10 ∧
    bitsOf (300 + 10 * 2 ^ 10) 14 10 ≤ 16 ∧ bitsOf (300 + 10 * 2 ^ 10) 63 21 = 0 ∧ (up.island 0).st ≠ .pending ∧
    (List.range 24).foldl (fun n j => if (({ up with fo := { up.fo with islands := [] } } : State).island j).st = .disabled then n else n + (if j = 0 then 80 else 262)) 0 ≤ 6288 := by decide +kernel
theorem wit_Management_table : let e : Nat := 4 + 4 * 2 ^ 5 + 4 * 2 ^ 10 + 4 * 2 ^ 15
    e < 2 ^ 20 ∧ tabWeight (BitVec.ofNat 32 e) 0 + tabWeight (BitVec.ofNat 32 e) 1 + tabWeight (BitVec.ofNat 32 e) 2 + tabWeight (BitVec.ofNat 32 e) 3 = 16 ∧
    ∀ p < 4, tabWeight (BitVec.ofNat 32 e) p ≠ 0 := by decide +kernel
theorem wit_Management_glade : ∃ (g : Glade), up.glade? 0 = some g ∧ up.gladeIdle 0 = true ∧ up.isTenant 0 = true ∧ Store.get? up.fo.tenants 1 = none ∧
    0 + (Store.del (up.core 0).budgets 0).foldl (fun m q => m + q.2) 0 ≤ 1100000 ∧ up.fo.fuseSvn ≤ 0 ∧ 0 ≤ up.fo.svn := ⟨_, rfl, by decide +kernel⟩
theorem wit_Management_twin : ∃ (p : Glade) (q : Glade), let s := up.setGlade 1 glade0
    s.glade? 0 = some p ∧ s.glade? 1 = some q ∧ p.nisl = q.nisl ∧ p.tenant = q.tenant ∧ s.gladeIdle 0 = true ∧ s.gladeIdle 1 = true ∧
      (s.island 0).st ≠ .pending ∧ (s.island 1).st ≠ .pending :=
  ⟨{ glade0 with binds := [(3, (0, 1#16))] }, glade0, by decide +kernel⟩

/-- Core 0 calls the Forester with these values in a0, a1, a2. -/
def call (code a b d : Nat) (s : State := up) : State :=
  coreSt .m [(10, BitVec.ofNat 64 a), (11, BitVec.ofNat 64 b), (12, BitVec.ofNat 64 d), (17, BitVec.ofNat 64 code)] s
theorem wit_AbiCalls_frames : let s := call 0x4643 0x60000 1 0
    s.fo.st = .up ∧ (s.core 0).wait = none ∧ ((s.core 0).reg 17).toNat = 0x4643 ∧ (s.core 0).caller = 0 ∧ (s.frame 6).st = .free ∧ (s.frame 4).st ≠ .free ∧
    (s.frame 4).st = .owned ∧ (s.frame 4).tenant = 0 ∧ 0x60000 / 2 ^ 16 + 1 ≤ dramFrames := by decide +kernel
theorem wit_AbiCalls_asid : let s := call 0x4153 2 0x100000 0
    Store.get? s.asids 2 = none ∧ 0x100000 % 4096 = 0 ∧ (s.frame 16).st = .owned ∧ (s.frame 16).tenant = (s.core 0).caller := by decide +kernel
theorem wit_AbiCalls_queue : ∃ (g : Glade), (call 0x5142 0 2 1).glade? 0 = some g ∧ g.tenant = 0 ∧ Store.getD g.queues 2 [] = [] ∧ Store.get? (call 0x5142 0 2 1).asids 1 = some ⟨0x100000, 0⟩ :=
  ⟨{ glade0 with binds := [(3, (0, 1#16))] }, by decide +kernel⟩
theorem wit_AbiCalls_ring : let s := withRecord 0x40000 (call 0x5247 0x40000 0 0)
    (s.fwRead 1#16 0x40000 64).map ringOk = some true ∧ 0x40000 % 4096 = 0 ∧ (s.tenantImm 0 1#16 0x40000 true).isSome = true ∧ (s.glade? 0).isSome = true ∧
    s.host.rings = [] ∧ (ringBytes 0 + 65535 + 0x40000 % 2 ^ 16) / 2 ^ 16 = 1 := by decide +kernel
theorem wit_AbiCalls_host_range : ∀ q ∈ Store.del ((call 0x484D 15 0x1000 0x1000).tenant 0).hostRanges 15, overlaps 0x1000 0x1000 q.2.1 q.2.2 = false := by decide +kernel
/-- A collective of one element whose list names this device alone. -/
def collSt : State :=
  let s := call 0x434C 0x40000 0 0
  { s with mem := Memory.writeBytes (Memory.writeBytes s.mem 0x40000 (bytesOfWords
      [BitVec.ofNat 64 (1 + 3 * 2 ^ 6 + 2 ^ 16), 0x40100#64, 0x40140#64, 0x40180#64, 0x401C0#64, 1#64, 0#64, 0#64])) 0x40180 [255#8] }
theorem wit_AbiCalls_collective : (collSt.collOf (collSt.core 0) 0 0 0x40000#64).map (fun q => (q.list, q.count, q.ty)) = some ([255], 1, .i64) ∧ collSt.fo.abi ≠ 1 ∧
    collSt.links.colls.length < 16 ∧ ({ up with fo := { up.fo with abi := 1 } } : State).fo.abi = 1 := by decide +kernel
theorem wit_AbiCalls_notice : (call 0x4E57 0x40000 0 0).tenantImm 0 1#16 0x40000 false = some 0x40000 ∧ (call 0x4E57 0x40000 0 0).tenantImm 0 1#16 0x4001F true = some 0x4001F ∧
    (call 0x5051 0 0x40000 0).ownsGlade 0 0 = true ∧ ((call 0x4E52 0 0 0).tenant 0).notices = [] := by decide +kernel
theorem wit_AbiCalls_notice_read : (((call 0x4E52 0 0 0).setTenant 0 { notices := [5#64] }).tenant 0).notices = [5#64] := by decide +kernel

/-! ### Witnesses: the machine as a whole -/

theorem wit_StepRuns_slot : ∃ (s : State) (f : Firing) (r : BlockRun), s.agenda = [.fire pl0 0] ∧ (s.plane pl0).firing = some f ∧ f.run = some r ∧ r.words[0]? = some 0x20008843#32 ∧
    decodeTile 0x20008843#32 = .ok (.add .always .d64 (.a 4) (.a 3)) := ⟨State.reset.withFetchWord 32 0x20008843, _, _, rfl, rfl, rfl, rfl, rfl⟩
theorem wit_StepRuns_core : let s := State.reset.withFetchWord 32 (encode (.jfence 1#5 0#5 0#5)).toNat
    s.agenda = [.core 0] ∧ (s.core 0).wait = none ∧ s.coreOff 0 = false ∧ decodeBorderBytes (Memory.readBytes s.mem (coreKey 0 (s.core 0).pc.toNat) 4) = .ok (.jfence 1#5 0#5 0#5, []) := ⟨rfl, rfl, rfl, rfl⟩
theorem wit_StepRuns_event : ({ State.reset with agenda := [.event .taskFiring {}] } : State).agenda = [.event .taskFiring {}] ∧ Instr.taskFiring.hasWord = false := by decide +kernel
theorem wit_StepRuns_default : State.reset.agenda = [] ∧ State.reset.default = .event .powerOnBoot State.reset.cur ∧ Instr.powerOnBoot.hasWord = false := ⟨rfl, rfl, rfl⟩
theorem wit_StepKeepsInv : ∃ s t, s.Inv ∧ step s = .next t := ⟨State.reset.withFetchWord 32 0x02080041, _, by unfold State.Inv; decide +kernel, rfl⟩

/-- R321's field map by hand: ASID 0x42, address 0x7F40_0000_0010, level 1, column 2, bottom edge, ticket 5, version 7. -/
theorem test_page_request_entry :
    (PrqEnt.bits ⟨2, 0x7F4000000010, 0x42#16, 0, 0, 0, 1, portIx 2 1 0, 5#32, 7#16, 9#64, false⟩) =
      0x8000000000000009000000000000000700000005008200800042_7F4000000010#256 := by decide +kernel

end Sys2Proof.Tests
end

/-!
PROOF. What a step runs: the move that is next, and for each kind of move the one way in which it runs an instruction.
-/
namespace Sys2Proof.Machine

/-! ### The agenda -/

/-- The head of the agenda moves, and the agenda moves on (assumption 1). -/
theorem step_of_agenda_cons {s : State} {m : Move} {rest : List Move} (h : s.agenda = m :: rest) :
    step s = ({ s with agenda := rest } : State).move m := by
  rw [step, h]

/-- An empty agenda makes the default move. -/
theorem step_of_agenda_nil {s : State} (h : s.agenda = []) : step s = s.move s.default := by
  rw [step, h]

/-! ### The moves that run an instruction -/

/-- The slot of a mapped block runs the instruction of its word (R134). -/
theorem move_fire_of_decodeTile {s : State} {pl : PlaneId} {slot : Nat} {f : Firing} {r : BlockRun} {w : W32} {i : Instr}
    (hf : (s.plane pl).firing = some f) (hr : f.run = some r) (hw : r.words[slot]? = some w) (hd : decodeTile w = .ok i) :
    s.move (.fire pl slot) = exec i { s with cur := { s.cur with pl := pl, slot := slot } } := by
  have hword : ((s.plane pl).firing.bind fun f => f.run.bind fun r => r.words[slot]?) = some w := by
    rw [hf, Option.bind_some, hr, Option.bind_some, hw]
  simp only [State.move, State.fireSlot, hword, hd]

@[simp] theorem State.withCur_core (s : State) (x : Ctx) (c : Nat) : ({ s with cur := x } : State).core c = s.core c := rfl
@[simp] theorem State.withCur_coreOff (s : State) (x : Ctx) (c : Nat) : ({ s with cur := x } : State).coreOff c = s.coreOff c := rfl
@[simp] theorem State.withCur_coreBytes (s : State) (x : Ctx) (c : Nat) : ({ s with cur := x } : State).coreBytes c = s.coreBytes c := rfl

/-- A core that neither waits nor is powered down runs the instruction at its pc, whatever a read of memory meets (R251). -/
theorem coreWord_of_decodeBorderBytes {s : State} {c : Nat} {i : Instr} {bs : List Byte} (corr unc : Bool)
    (hwait : (s.core c).wait = none) (hon : s.coreOff c = false) (hd : decodeBorderBytes (s.coreBytes c) = .ok (i, bs)) :
    s.coreWord c corr unc = exec i { s with cur := { s.cur with core := c, flag := corr, flag2 := unc, tear := false } } := by
  have hsteps : ((s.core c).wait.isSome || s.coreOff c) = false := by simp [hwait, hon]
  simp only [State.coreWord, State.withCur_core, State.withCur_coreOff, State.withCur_coreBytes, hsteps, hd,
    Bool.false_eq_true, if_false]

/-- A step of the machine runs its instruction on the operands that the move sets. -/
theorem move_event_of_no_word {i : Instr} (h : i.hasWord = false) (s : State) (x : Ctx) :
    s.move (.event i x) = exec i { s with cur := x } := by
  simp only [State.move, h, Bool.false_eq_true, if_false]

/-- Settles O56: the move that is next, and then the lemma of its kind. -/
theorem stepRunsDecodedWords : Obligations.StepRunsDecodedWords := by
  intro s i rest
  refine ⟨?slot, ?core, ?event, ?default⟩
  case slot =>
    intro pl slot f r w ha hf hr hw hd
    rw [step_of_agenda_cons ha]
    exact move_fire_of_decodeTile hf hr hw hd
  case core =>
    intro c ha hwait hon hd
    rw [step_of_agenda_cons ha]
    exact coreWord_of_decodeBorderBytes false false hwait hon hd
  case event =>
    intro x ha hword
    rw [step_of_agenda_cons ha]
    exact move_event_of_no_word hword _ x
  case default =>
    intro x ha hdef hword
    rw [step_of_agenda_nil ha, hdef]
    exact move_event_of_no_word hword s x

end Sys2Proof.Machine

/-!
PROOF. How firings start (01 R21, R22, R25, R27), and how tokens reach their endpoints: over a channel (R18, R94), through a
node (R32 to R36), and from outside the channels (R24, R163, R334); the step of a graph that is complete (R28).
-/
namespace Sys2Proof.Machine

/-! ### The start of a firing -/

theorem exec_taskFiring (s : State) : exec .taskFiring s = .next (s.taskFiring s.cur.pl) := rfl
theorem exec_controlStep (s : State) : exec .controlStep s = .next (s.controlStep s.cur.pl) := rfl

/-- The task that R21 chooses starts on the tokens of its rates; only a fault task's firing names a fault. -/
theorem State.taskFiring_of_choose {s : State} {pl : PlaneId} {l ix : Nat} {x : Launch} {a : ActorRec} {t : TaskRec}
    (ha : s.actorOf pl = some (l, x, a)) (hc : s.choose x a pl (s.plane pl) = some (.task ix)) (ht : a.tasks[ix]? = some t)
    (hf : a.isFaultTask t = false) :
    s.taskFiring pl = s.startFiring pl
      { task := ix, kind := t.kind, block := t.entry,
        consumed := ((List.range 16).filter fun j => decide (t.irate.getD j 0 ≠ 0)).map fun j => (j, taskTokens x a (s.plane pl) t j) } := by
  simp only [State.taskFiring, ha, hc, ht, hf, Bool.false_eq_true, if_false]

/-- A control task fires on the head control tokens (R25). -/
theorem State.controlStep_of_task {s : State} {pl : PlaneId} {l ix : Nat} {x : Launch} {a : ActorRec} {t : TaskRec} {k : Ctl}
    {ins : List Nat} (ha : s.actorOf pl = some (l, x, a)) (hc : s.choose x a pl (s.plane pl) = some (.step k ins))
    (ht : a.tasks.zipIdx.find? (fun q => decide (q.1.kind = .control)) = some (t, ix)) :
    s.controlStep pl = s.startFiring pl
      { task := ix, kind := .control, block := t.entry,
        consumed := a.aligned.map fun j => (j, [Token.ctl (if ins.contains j then k else .eos)]) } := by
  simp only [State.controlStep, ha, hc, ht]

/-- Without a control task the control token passes through, and the step counts as a firing (R25, R250). -/
theorem State.controlStep_of_no_task {s : State} {pl : PlaneId} {l : Nat} {x : Launch} {a : ActorRec} {k : Ctl}
    {ins : List Nat} (ha : s.actorOf pl = some (l, x, a)) (hc : s.choose x a pl (s.plane pl) = some (.step k ins))
    (ht : a.tasks.zipIdx.find? (fun q => decide (q.1.kind = .control)) = none) :
    s.controlStep pl = (((((x.outsOf (s.plane pl).actor).foldl (fun s o => s.sendOut pl o (.ctl k)) s).popCtl pl k ins).count
      pl 7 0#16 0).settle pl) := by
  simp only [State.controlStep, ha, hc, ht]

/-- Settles O22: the chosen step is a task, or a control step with or without a control task. -/
theorem firingsStart : Obligations.FiringsStart := by
  intro s l ix x a t pl p ha
  refine ⟨?task, fun k ins hc => ⟨?control, ?passes⟩⟩
  case task =>
    intro hc ht hf
    rw [exec_taskFiring, State.taskFiring_of_choose ha hc ht hf]
  case control =>
    intro ht
    rw [exec_controlStep, State.controlStep_of_task ha hc ht]
  case passes =>
    intro ht
    rw [exec_controlStep, State.controlStep_of_no_task ha hc ht]

/-! ### Delivery over a channel -/

theorem exec_tokenDelivery (s : State) : exec .tokenDelivery s = .next (s.deliver s.cur.l s.cur.n s.cur.k) := rfl

/-- The head of a flight towards a consumer copy leaves the channel (R18). -/
def State.dropFlight (s : State) (l ci j : Nat) (ts : List Token) : State :=
  s.modLaunch l fun x =>
    let c := Store.getD x.chans ci {}
    { x with chans := Store.set x.chans ci { c with flight := Store.set c.flight j ts } }

/-- What delivery does after the token has landed: an actor looks at the heads of its inputs (R25 to R27). -/
def State.settleConsumer (s : State) (x : Launch) (r : ChanRec) (j : Nat) : State :=
  match r.ckind with
  | 0 => match x.planeOf r.cons j with
    | some pl => s.settle pl
    | none => s
  | _ => s

theorem State.settleConsumer_of_actor {s : State} {x : Launch} {r : ChanRec} {j : Nat} {pl : PlaneId} (hk : r.ckind = 0)
    (hp : x.planeOf r.cons j = some pl) : s.settleConsumer x r j = s.settle pl := by
  simp only [State.settleConsumer, hk, hp]

theorem State.settleConsumer_of_other {s : State} {x : Launch} {r : ChanRec} {j : Nat} (hk : r.ckind ≠ 0) :
    s.settleConsumer x r j = s := by
  unfold State.settleConsumer
  split
  · contradiction
  · rfl

/-- The oldest token of a flight, no blaze, enters an endpoint with a free slot (R18, R94). -/
theorem State.deliver_of_free {s u : State} {l ci j : Nat} {x : Launch} {r : ChanRec} {t : Token} {ts : List Token}
    (hr : (s.launch? l).bind (fun x => x.img.chans[ci]?) = some r)
    (hu : u = if r.pkind = 0 then s.flushOut l r.prod r.pep else s) (hx : u.launch? l = some x) (hon : x.onFabric = true)
    (hfl : Store.getD (Store.getD x.chans ci {}).flight j [] = t :: ts) (hb : ∀ k n, t ≠ .blaze k n)
    (hfree : (u.consEp x r j).slots.length < 4) :
    s.deliver l ci j = ((u.dropFlight l ci j ts).land l x r j t).settleConsumer x r j := by
  simp only [State.deliver, hr, ← hu, hx, hon, hfl, Bool.not_true, Bool.false_eq_true, if_false]
  cases t with
  | blaze k n => exact absurd rfl (hb k n)
  | data d => rw [if_pos hfree]; rfl
  | null => rw [if_pos hfree]; rfl
  | ctl k => rw [if_pos hfree]; rfl
  | fault fid ws => rw [if_pos hfree]; rfl

/-- After a delivery the comparator registers armed with the token's ordinal are no longer armed (R96). -/
theorem Endpoint.mem_armed_take (e : Endpoint) (c : Nat) (drop : Bool) (t : Token) (o : BitVec 48 × Bool) :
    o ∈ (e.take c drop t).armed ↔ o ∈ e.armed ∧ o.1 ≠ e.ord := by
  simp [Endpoint.take]

/-- Settles O25: delivery where a slot is free, and what the endpoint takes. -/
theorem tokensAreDelivered : Obligations.TokensAreDelivered := by
  refine ⟨?delivered, fun e c t => ⟨rfl, rfl, rfl, rfl, e.mem_armed_take c false t⟩⟩
  intro s x r t ts l ci j u landed hr hx hon hfl hb hfree
  have hdel := State.deliver_of_free hr rfl hx hon hfl hb hfree
  refine ⟨fun hk => ?other, fun pl hk hp => ?actor⟩
  case other =>
    rw [exec_tokenDelivery, hdel, State.settleConsumer_of_other hk]
    rfl
  case actor =>
    rw [exec_tokenDelivery, hdel, State.settleConsumer_of_actor hk hp]
    rfl

/-! ### Nodes -/

theorem exec_steerNode (s : State) : exec .steerNode s = .next (s.steerStep s.cur.l s.cur.n) := rfl
theorem exec_mergeNode (s : State) : exec .mergeNode s = .next (s.mergeStep s.cur.l s.cur.n) := rfl
theorem exec_filterNode (s : State) : exec .filterNode s = .next (s.filterStep s.cur.l s.cur.n) := rfl
theorem exec_delayNode (s : State) : exec .delayNode s = .next (s.delayStep s.cur.l s.cur.n) := rfl
theorem exec_intersectNode (s : State) : exec .intersectNode s = .next (s.intersectStep s.cur.l s.cur.n) := rfl

@[simp] theorem Token.ctl?_data (d : Datum) : (Token.data d).ctl? = none := rfl
@[simp] theorem Token.num_data (d : Datum) : (Token.data d).num = some d.bits.toNat := rfl
@[simp] theorem Token.coord_data (d : Datum) : (Token.data d).coord = some (d.tag, d.bits) := rfl

/-- The control kind that an input shows is that of its head. -/
theorem Node.headCtl_inp {nd : Node} {k : Nat} {t : Token} (h : nd.head k = some t) : (nd.inp k).headCtl = t.ctl? := by
  unfold Node.head at h
  unfold Endpoint.headCtl
  cases hs : (nd.inp k).slots with
  | nil => rw [hs] at h; cases h
  | cons q qs => rw [hs] at h; cases h; rfl

/-- A token for one output goes out where its channels have room. -/
theorem State.nodeSend_of_room {s : State} {l n o : Nat} {x : Launch} {t : Token} (nd : Node)
    (h : s.roomFor l (x.outChans 1 n o) t = true) :
    s.nodeSend l n x nd [(o, t)] = (s.setNode l n nd).pushAll l (x.outChans 1 n o) t := by
  simp [State.nodeSend, h]

section
variable {s : State} {l n : Nat} {x : Launch} {r : NodeRec} {nd : Node} {t : Token} {v : Datum}

/-- A steer node sends its data token on the output that the steering value names (R32). -/
theorem State.steerStep_of_data (hn : s.nodeReady l n = some (x, r, nd)) (he : nd.eosOut = false) (hk : r.nkind = 0)
    (h0 : nd.head 0 = some t) (hc : t.ctl? = none) (h1 : nd.head 1 = some (.data v)) (hp : v.bits.toNat ≤ r.npath) :
    s.steerStep l n = s.nodeSend l n x (nd.popAll [0, 1]) [(v.bits.toNat, t)] := by
  simp [State.steerStep, hn, he, hk, h0, hc, h1, Nat.not_lt.mpr hp]

/-- A merge in STEER mode sends the head of the path that the steering value names (R33). -/
theorem State.mergeStep_of_steer (hn : s.nodeReady l n = some (x, r, nd)) (he : nd.eosOut = false) (hk : r.nkind = 1)
    (hm : r.mode = true) (hpol : r.eosp = 0) (hctl : mergeCtl 0 (nd.paths r.npath) = .none)
    (hst : nd.head (r.npath + 1) = some (.data v)) (hp : v.bits.toNat ≤ r.npath) (hh : nd.head v.bits.toNat = some t)
    (hc : t.ctl? = none) :
    s.mergeStep l n = s.nodeSend l n x (nd.popAll [v.bits.toNat, r.npath + 1]) [(0, t)] := by
  simp [State.mergeStep, hn, he, hk, hm, hpol, hctl, hst, hh, hc, Nat.not_lt.mpr hp]

/-- A filter sends its data token where the predicate is not zero (R34). -/
theorem State.filterStep_of_true (hn : s.nodeReady l n = some (x, r, nd)) (he : nd.eosOut = false) (hk : r.nkind = 2)
    (h0 : nd.head 0 = some t) (hc : t.ctl? = none) (h1 : nd.head 1 = some (.data v)) (hv : v.bits.toNat ≠ 0) :
    s.filterStep l n = s.nodeSend l n x (nd.popAll [0, 1]) [(0, t)] := by
  simp only [State.filterStep, hn, he, hk, h0, hc, h1, Token.ctl?_data, Token.num_data, ne_eq, not_true_eq_false,
    Bool.false_eq_true, if_false, if_pos hv]

/-- A filter in DROP mode discards its data token where the predicate is zero (R34). -/
theorem State.filterStep_of_false (hn : s.nodeReady l n = some (x, r, nd)) (he : nd.eosOut = false) (hk : r.nkind = 2)
    (hm : r.mode = false) (h0 : nd.head 0 = some t) (hc : t.ctl? = none) (h1 : nd.head 1 = some (.data v))
    (hv : v.bits.toNat = 0) : s.filterStep l n = s.setNode l n (nd.popAll [0, 1]) := by
  simp only [State.filterStep, hn, he, hk, hm, h0, hc, h1, hv, Token.ctl?_data, Token.num_data, ne_eq, not_true_eq_false,
    Bool.false_eq_true, if_false]

/-- A delay node that holds nothing passes a data token through where there is room (R36). -/
theorem State.delayStep_of_empty (hn : s.nodeReady l n = some (x, r, nd)) (he : nd.eosOut = false) (hk : r.nkind = 4)
    (h0 : nd.head 0 = some t) (hc : t.ctl? = none) (hbuf : nd.buf = []) (hroom : s.roomFor l (x.outChans 1 n 0) t = true) :
    s.delayStep l n = s.nodeSend l n x { nd.pop 0 with buf := [], eosOut := false } [(0, t)] := by
  have hpop : (nd.pop 0).eosOut = false := he
  simp [State.delayStep, hn, hk, h0, hc, hbuf, hroom, hpop]

/-! ### The intersect node -/

variable {a b : Datum}

/-- With data at both heads no input is at EOS (R27). -/
theorem Node.pastEos_of_data (h0 : nd.head 0 = some (.data a)) (h1 : nd.head 1 = some (.data b)) : nd.pastEos = none := by
  simp [Node.pastEos, Node.headCtl_inp h0, Node.headCtl_inp h1]

/-- What an intersect node does with a coordinate that only one input shows: it drops it, or in the outer mode sends it. -/
def State.isectOne (s : State) (l n : Nat) (x : Launch) (r : NodeRec) (nd : Node) (b : Bool) (t : Token) : State :=
  if r.mode then s.isectSend l n x (nd.takeCoord (!b) b) t (if b then noOrd else nd.posA) (if b then nd.posB else noOrd)
  else s.setNode l n (nd.takeCoord (!b) b)

theorem State.isectOne_of_inner (hm : r.mode = false) (b : Bool) (t : Token) :
    s.isectOne l n x r nd b t = s.setNode l n (nd.takeCoord (!b) b) := by
  simp only [State.isectOne, hm, Bool.false_eq_true, if_false]

/-- With a sound coordinate at each input an intersect node compares them (R35). -/
theorem State.intersectStep_of_data (hn : s.nodeReady l n = some (x, r, nd)) (hk : r.nkind = 3) (he : nd.eosOut = false)
    (hbad : isectBad nd = none) (h0 : nd.head 0 = some (.data a)) (h1 : nd.head 1 = some (.data b)) :
    s.intersectStep l n =
      if intOf a.tag a.bits < intOf a.tag b.bits then s.isectOne l n x r nd false (.data a)
      else if intOf a.tag b.bits < intOf a.tag a.bits then s.isectOne l n x r nd true (.data b)
      else s.isectSend l n x (nd.takeCoord true true) (.data a) nd.posA nd.posB := by
  simp [State.intersectStep, State.isectOne, hn, hk, he, hbad, h0, h1, Node.pastEos_of_data h0 h1]

end

/-- Settles O26: the step of each kind of node, with room on the output that it sends on. -/
theorem nodesForward : Obligations.NodesForward := by
  refine ⟨?forward, ?intersect⟩
  case forward =>
    intro s x r nd t v l n k room sends hn he
    refine ⟨?steer, ?merge, ?passes, ?drops, ?delay⟩
    case steer =>
      intro hk h0 hc h1 hp hroom
      rw [exec_steerNode, State.steerStep_of_data hn he hk h0 hc h1 hp, State.nodeSend_of_room _ hroom]
    case merge =>
      intro hk hm hpol hctl hst hp hh hc hroom
      rw [exec_mergeNode, State.mergeStep_of_steer hn he hk hm hpol hctl hst hp hh hc, State.nodeSend_of_room _ hroom]
    case passes =>
      intro hk h0 hc h1 hv hroom
      rw [exec_filterNode, State.filterStep_of_true hn he hk h0 hc h1 hv, State.nodeSend_of_room _ hroom]
    case drops =>
      intro hk hm h0 hc h1 hv
      rw [exec_filterNode, State.filterStep_of_false hn he hk hm h0 hc h1 hv]
    case delay =>
      intro hk h0 hc hbuf hroom
      rw [exec_delayNode, State.delayStep_of_empty hn he hk h0 hc hbuf hroom, State.nodeSend_of_room _ hroom]
  case intersect =>
    intro s x r nd a b l n hn hk he hbad h0 h1
    have hstep := State.intersectStep_of_data hn hk he hbad h0 h1
    refine ⟨fun heq => ?equal, fun hlt hm => ?dropA, fun hlt hm => ?dropB⟩
    case equal =>
      rw [exec_intersectNode, hstep, if_neg (by omega), if_neg (by omega)]
      rfl
    case dropA =>
      rw [exec_intersectNode, hstep, if_pos hlt, State.isectOne_of_inner hm]
      rfl
    case dropB =>
      rw [exec_intersectNode, hstep, if_neg (by omega), if_pos hlt, State.isectOne_of_inner hm]
      rfl

/-! ### Tokens from outside the channels -/

theorem exec_responseDelivery (s : State) : exec .responseDelivery s = .next (s.respDeliver s.cur.pl s.cur.n) := rfl
theorem exec_timerDue (s : State) : exec .timerDue s = .next (s.timerDue s.cur.pl s.cur.k) := rfl
theorem exec_faultDelivery (s : State) : exec .faultDelivery s = .next (s.faultDeliver s.cur.g) := rfl

/-- The oldest place of a response channel gives its token up where the input has a free slot (R24). -/
theorem State.respDeliver_of_token {s : State} {pl : PlaneId} {ch l : Nat} {x : Launch} {q : Place} {t : Token}
    (hact : s.planeActs pl = some (l, x)) (hq : (s.plane pl).resp.find? (fun q => decide (q.ch = ch)) = some q)
    (ht : q.tok = some t) (hfree : s.inputFree pl ch = true) :
    s.respDeliver pl ch = (s.modPlane pl fun p => { p with resp := p.resp.erase q }).arriveAt pl ch t := by
  simp only [State.respDeliver, hact, hq, ht, hfree, if_true]

/-- A timer that is due sends the cycle that it was set for (R163); its actor has no service deadline here. -/
theorem State.timerDue_of_due {s : State} {pl : PlaneId} {k l ch : Nat} {due : W64} {x : Launch} {a : ActorRec}
    (hact : s.planeActs pl = some (l, x)) (ha : s.actorOf pl = some (l, x, a)) (hk : (s.plane pl).timers[k]? = some (ch, due))
    (hdue : due ≤ s.cycle x.glade) (hfree : s.inputFree pl ch = true) (hd : a.dlin = none) :
    s.timerDue pl k = (s.modPlane pl fun p => { p with timers := p.timers.eraseIdx k }).arriveAt pl ch
      (.data ⟨.scalar, [due], .u64, 1#64⟩) := by
  have hwait : ¬(s.cycle x.glade < due ∨ (!s.inputFree pl ch) = true) := by
    rw [hfree]
    exact not_or.mpr ⟨BitVec.not_lt.mpr hdue, by decide⟩
  simp only [State.timerDue, hact, ha, hk, if_neg hwait, hd, reduceCtorEq, if_false]

/-- Whether an entry of a glade's exception queue can be delivered: its fault input has a free slot, on a plane that acts for
the launch of the fault (R334). -/
def State.faultFits (s : State) (g : Nat) (f : FaultRec) : Bool :=
  f.glade = g && decide (f.st = .queued) && (match f.input with
    | some (pl, ch) => s.inputFree pl ch && (s.planeActs pl).isSome && decide ((s.plane pl).launch = some f.lid)
    | none => false)

theorem State.faultFits_eq_false {s : State} {g : Nat} {f : FaultRec} (h : f.glade ≠ g ∨ f.st ≠ .queued) :
    s.faultFits g f = false := by
  rcases h with h | h <;> simp [State.faultFits, h]

theorem State.faultFits_of_free {s : State} {g : Nat} {f : FaultRec} {q : PlaneId} {ch : Nat} (hg : f.glade = g)
    (hq : f.st = .queued) (hin : f.input = some (q, ch)) (hfree : s.inputFree q ch = true)
    (hact : (s.planeActs q).isSome = true) (hl : (s.plane q).launch = some f.lid) : s.faultFits g f = true := by
  simp [State.faultFits, hg, hq, hin, hfree, hact, hl]

/-- The oldest entry that fits is delivered, and the queue takes a held fault in its place (R334). -/
theorem State.faultDeliver_of_find {s : State} {g : Nat} {f : FaultRec} {q : PlaneId} {ch : Nat}
    (hf : s.faults.find? (s.faultFits g) = some f) (hin : f.input = some (q, ch)) :
    s.faultDeliver g = ((s.modFault f.fid fun r => { r with st := .delivered }).refill g).arriveAt q ch (.fault f.fid f.words) := by
  simp only [State.faultDeliver]
  split
  next f' hf' =>
    obtain rfl : f' = f := Option.some.inj (hf'.symm.trans hf)
    simp only [hin]
  next hnone => exact absurd (hnone.symm.trans hf) nofun

/-- Settles O27: a response, a timer's token and a fault token, each at its input. -/
theorem outsideTokensArrive : Obligations.OutsideTokensArrive := by
  intro s l x a pl p
  refine ⟨?response, ?timer, ?fault⟩
  case response =>
    intro q t hact hq ht hfree
    rw [exec_responseDelivery, State.respDeliver_of_token hact hq ht hfree]
  case timer =>
    intro ch due hact ha hk hdue hfree hd
    rw [exec_timerDue, State.timerDue_of_due hact ha hk hdue hfree hd]
  case fault =>
    intro fs rest f q ch hfs hold hg hst hin hfree hact hl
    have hfind : s.faults.find? (s.faultFits s.cur.g) = some f := by
      rw [hfs, List.find?_append, List.find?_eq_none.mpr fun y hy => by simp [State.faultFits_eq_false (hold y hy)],
        List.find?_cons_of_pos (State.faultFits_of_free hg hst hin hfree hact hl)]
      rfl
    rw [exec_faultDelivery, State.faultDeliver_of_find hfind hin]

/-! ### A graph that is complete -/

theorem exec_graphCompletion (s : State) : exec .graphCompletion s = .next (s.complete s.cur.l) := rfl

/-- An empty bank owes home nothing. -/
theorem State.flushBank_of_empty {s : State} (h : s.bank = []) (keep : Bool) (pick : BankLine → Bool) :
    s.flushBank keep pick = s := by
  simp only [State.flushBank, h, List.filter_nil, List.filterMap_nil, List.foldl_nil]
  rw [← h]

/-- A launch whose graph is complete is DONE and leaves its planes (R28, R305), if it has no bank lines to write home. -/
theorem State.complete_of_graphDone {s : State} {l : Nat} {x : Launch} (hx : s.launch? l = some x)
    (hst : x.st = .live ∨ x.st = .irrevocable) (hon : x.onFabric = true) (hrung : x.rung = none) (hdone : s.graphDone x = true)
    (hflush : s.flushLaunch l = s) :
    s.complete l = (s.modLaunch l fun y => { y with st := .done, cuts := [], preAgain := false }).unload l := by
  have hmay : (x.st = .live ∨ x.st = .irrevocable) ∧ x.onFabric = true ∧ x.rung.isNone = true ∧ s.graphDone x = true :=
    ⟨hst, hon, by rw [hrung]; rfl, hdone⟩
  simp only [State.complete, hx, if_pos hmay, hflush, if_pos hst]

/-- Settles O28: an empty bank has no lines of the launch to write home. -/
theorem graphCompletes : Obligations.GraphCompletes := by
  intro s x l hx hst hon hrung hdone hbank
  have hflush : s.flushLaunch l = s := State.flushBank_of_empty hbank ..
  rw [exec_graphCompletion, State.complete_of_graphDone hx hst hon hrung hdone hflush]

end Sys2Proof.Machine

/-!
PROOF. What a null predicate or operand does to an instruction of a block (02 R43, R44; 08 R149).
-/
namespace Sys2Proof.Machine

/-! ### Every tile instruction fires in the shared frame -/

/-- A tile instruction is `fireWord` with an action of its own, which matters only where no operand is null. -/
theorem exec_eq_fireWord {i : Instr} (hword : i.hasWord = true) (hborder : isBorder i = false) (s : State) :
    ∃ k, exec i s = fireWord i s k := by
  -- the hypotheses leave the instructions that have a word and are no border core's
  cases i <;> cases hword <;> cases hborder
  all_goals
    dsimp only [exec]
    exact ⟨_, rfl⟩

/-! ### When an instruction is null -/

/-- What stands at one of an instruction's operand slots; a slot that it does not use reads zero. -/
def operandAt (used : Prop) [Decidable used] (m : Store Val) (slot : Nat) : Option Val :=
  if used then Store.get? m slot else some (.dat zeroDatum)

/-- An operand is null, and the instruction does not wait for the others (R44, R149). -/
def BlockRun.nullOperand (r : BlockRun) (i : Instr) (slot : Nat) : Bool :=
  let oa := operandAt (0 < usesOf i) r.opA slot
  let ob := operandAt (1 < usesOf i) r.opB slot
  let oc := operandAt (2 < usesOf i) r.opC slot
  (decide (oa = some .null) || decide (ob = some .null) || decide (oc = some .null)) &&
    (!waitsAll i || (oa.isSome && ob.isSome && oc.isSome))

theorem operandAt_of_used {used : Prop} [Decidable used] (h : used) (m : Store Val) (slot : Nat) :
    operandAt used m slot = Store.get? m slot := if_pos h

theorem operandAt_isSome {used : Prop} [Decidable used] {m : Store Val} {slot : Nat} (h : (Store.get? m slot).isSome = true) :
    (operandAt used m slot).isSome = true := by
  unfold operandAt
  split
  · exact h
  · rfl

/-- SEL alone waits for all its operands (R149). -/
theorem waitsAll_eq_false {i : Instr} (h : ∀ pr tb ta, i ≠ .sel pr tb ta) : waitsAll i = false := by
  unfold waitsAll
  split
  · exact absurd rfl (h _ _ _)
  · rfl

theorem BlockRun.nullOperand_of_get? {r : BlockRun} {i : Instr} {slot : Nat}
    (hwait : (∀ pr tb ta, i ≠ .sel pr tb ta) ∨
      ((Store.get? r.opA slot).isSome = true ∧ (Store.get? r.opB slot).isSome = true ∧ (Store.get? r.opC slot).isSome = true))
    (hnull : (0 < usesOf i ∧ Store.get? r.opA slot = some .null) ∨ (1 < usesOf i ∧ Store.get? r.opB slot = some .null) ∨
      (2 < usesOf i ∧ Store.get? r.opC slot = some .null)) :
    r.nullOperand i slot = true := by
  refine (Bool.and_eq_true _ _).mpr ⟨?null, ?wait⟩
  case null =>
    obtain ⟨hu, h⟩ | ⟨hu, h⟩ | ⟨hu, h⟩ := hnull <;> simp [operandAt_of_used hu, h]
  case wait =>
    obtain hsel | ⟨ha, hb, hc⟩ := hwait
    · simp [waitsAll_eq_false hsel]
    · simp [operandAt_isSome ha, operandAt_isSome hb, operandAt_isSome hc]

/-- A null operand makes an instruction null where it is unpredicated, where its predicate has come with the value that
fires it, and, of an output, where its predicate has not come (R44). -/
theorem BlockRun.fit_of_nullOperand {r : BlockRun} {i : Instr} {slot : Nat} (h : r.nullOperand i slot = true)
    (hpred : prOf i = .always ∨ (∃ d, Store.get? r.pred slot = some (.dat d) ∧ d.bits.getLsbD 0 = decide (prOf i = .onTrue)) ∨
      (Store.get? r.pred slot = none ∧ (classOf i = .out ∨ classOf i = .wave))) :
    r.fit i slot = .null := by
  unfold BlockRun.fit
  split
  · exact if_pos h
  · rename_i hp
    obtain hal | ⟨d, hd, hbit⟩ | ⟨hnone, hout⟩ := hpred
    · exact absurd hal hp
    · simp only [hd]
      rw [if_pos hbit]
      exact if_pos h
    · simp only [hnone]
      exact if_pos ((Bool.and_eq_true _ _).mpr ⟨h, by simpa using hout⟩)

/-! ### What a null instruction leaves -/

/-- Instruction `i` of slot `cur.slot` is nullified in the step of plane `cur.pl`: the slot has not fired, and its predicate
or an operand is null. -/
structure Nullified (i : Instr) (s : State) (f : Firing) (r : BlockRun) : Prop where
  firing : (s.plane s.cur.pl).firing = some f
  running : f.st = .running
  run : f.run = some r
  fresh : r.done.contains s.cur.slot = false
  null : r.fit i s.cur.slot = .null

/-- One that is pure takes its place in the issue group. -/
theorem Nullified.fireWord_pure {i : Instr} {s s1 : State} {f : Firing} {r : BlockRun} (h : Nullified i s f r) (k : FX → FR)
    (hc : classOf i = .pure) (hplace : s.takePlace s.cur.pl i f.block s.cur.slot = some s1) :
    fireWord i s k = .next (s1.fireNull s.cur.pl r s.cur.slot i) := by
  obtain ⟨hf, hst, hr, hd, hnull⟩ := h
  simp only [fireWord, hf, hst, hr, hd, hnull, hc, hplace, Bool.false_eq_true, if_false]

/-- An output or an exit takes none. -/
theorem Nullified.fireWord_output {i : Instr} {s : State} {f : Firing} {r : BlockRun} (h : Nullified i s f r) (k : FX → FR)
    (hc : classOf i ≠ .pure) : fireWord i s k = .next (s.fireNull s.cur.pl r s.cur.slot i) := by
  obtain ⟨hf, hst, hr, hd, hnull⟩ := h
  simp only [fireWord, hf, hst, hr, hd, hnull, Bool.false_eq_true, if_false]

theorem State.fireNull_pure {i : Instr} {r r' : BlockRun} {slot : Nat} (s : State) (pl : PlaneId) (hc : classOf i = .pure)
    (hput : (r.mark slot).putAll ((tgtsOf i).map fun t => (t, Val.null)) = some r') : s.fireNull pl r slot i = s.setRun pl r' := by
  simp only [State.fireNull, hc, hput]

theorem State.fireNull_wave {i : Instr} (s : State) (pl : PlaneId) (r : BlockRun) (slot : Nat) (hc : classOf i = .wave) :
    s.fireNull pl r slot i = s.setRun pl ((r.nullWave i).mark slot) := by
  simp only [State.fireNull, hc]

theorem State.fireNull_unordered {i : Instr} (s : State) (pl : PlaneId) (r : BlockRun) (slot : Nat)
    (hc : classOf i = .out ∨ classOf i = .exit) : s.fireNull pl r slot i = s.setRun pl (r.mark slot) := by
  obtain hc | hc := hc <;> simp only [State.fireNull, hc]

/-- An open wave of a nullified instruction becomes nullified, so that it keeps its place in the wave order (R44, R130). -/
theorem BlockRun.nullWave_of_opened {r : BlockRun} {i : Instr} {lk : Link} (hl : linkOf i = some lk)
    (ho : r.waves.getD lk.seq.toNat .opened = .opened) : r.nullWave i = r.setWave lk.seq.toNat .nullified := by
  simp only [BlockRun.nullWave, hl, ho, if_true]

/-- NULL sends null to both its targets (R148). -/
theorem exec_null_of_fires {s : State} {x : FX} {pr : PR} {tb ta : Tgt} (h : Fires (.null pr tb ta) s x)
    (hfree : x.free [(ta, .null), (tb, .null)]) : exec (.null pr tb ta) s = .next (x.out [(ta, .null), (tb, .null)] []) := by
  calc exec (.null pr tb ta) s
    _ = fireWord (.null pr tb ta) s fun _ => .go [(ta, .null), (tb, .null)] [] := rfl
    _ = .next (x.out [(ta, .null), (tb, .null)] []) := by rw [fireWord_fires h, fireOut_go [] hfree]

/-- Settles O18: NULL, when a null operand makes an instruction null, and what that leaves of each class. -/
theorem nullOperands : Obligations.NullOperands := by
  intro i s s1 x f r pr tb ta hword hborder pl slot
  refine ⟨exec_null_of_fires, fun hpred hwait hnull => ?fits, fun hf hst hr hd hfit => ?leaves⟩
  case fits =>
    exact BlockRun.fit_of_nullOperand (BlockRun.nullOperand_of_get? hwait hnull) hpred
  case leaves =>
    have hnull : Nullified i s f r := ⟨hf, hst, hr, hd, hfit⟩
    obtain ⟨k, hk⟩ := exec_eq_fireWord hword hborder s
    rw [hk]
    refine ⟨fun r' hc hplace hput => ?pure, fun lk hc hl ho => ?wave, fun hc => ?unordered⟩
    case pure =>
      rw [hnull.fireWord_pure k hc hplace, State.fireNull_pure s1 _ hc hput]
    case wave =>
      rw [hnull.fireWord_output k (by simp [hc]), State.fireNull_wave s _ r _ hc, BlockRun.nullWave_of_opened hl ho]
      rfl
    case unordered =>
      rw [hnull.fireWord_output k (by obtain hc | hc := hc <;> simp [hc]), State.fireNull_unordered s _ r _ hc]

end Sys2Proof.Machine

/-!
PROOF. How a block ends: it commits in one step where it is complete, and is F_BLOCK_ILLEGAL where it is stuck (02 R45; 07 R132).
-/
namespace Sys2Proof.Machine

theorem exec_blockCommit (s : State) : exec .blockCommit s = .next (s.blockCommit s.cur.pl) := rfl

/-- The effects of a block in the order in which they come into force: by slot, and those of the wave sequence last, in
wave order (R132). -/
def BlockRun.commitOrder (r : BlockRun) : List (Nat × Eff) :=
  sortEffs (r.effs.filter fun q => !q.2.isWave) ++ r.effs.filter fun q => q.2.isWave

section
variable {s : State} {pl : PlaneId} {f : Firing} {r : BlockRun} (hgo : s.planeGoes pl = true)
  (hf : (s.plane pl).firing = some f) (hst : f.st = .running) (hr : f.run = some r)
include hgo hf hst hr

/-- A block whose outputs are done and of which one exit has fired commits. -/
theorem State.blockCommit_of_complete {e : ExitKind} (hout : r.outsDone = true) (he : r.exits = [e]) :
    s.blockCommit pl =
      ((r.commitOrder.foldl (fun t q => t.commitEff pl f q.1 q.2)
        (s.modPlane pl fun p => { p with firing := some { f with run := none } })).count pl 6 f.block 0).takeExit pl e := by
  simp only [State.blockCommit, hf, hgo, hst, hr, hout, he, Bool.not_true, Bool.false_eq_true, if_false]
  rfl

/-- A block that is not complete and can make no progress is illegal. -/
theorem State.blockCommit_of_stuck (hout : r.outsDone = false) (hmove : r.canMove = false) :
    s.blockCommit pl = s.blockFault pl .blockIllegal 0 0 0#64 := by
  simp only [State.blockCommit, hf, hgo, hst, hr, hout, hmove, Bool.not_true, Bool.false_eq_true, if_false]

end

/-- Settles O23: the block is complete, or it is stuck. -/
theorem blockCommits : Obligations.BlockCommits := by
  refine ⟨?complete, ?stuck⟩
  case complete =>
    intro s f r e pl hgo hf hst hr hout he
    rw [exec_blockCommit, State.blockCommit_of_complete hgo hf hst hr hout he]
    rfl
  case stuck =>
    intro s f r hgo hf hst hr hout hmove
    rw [exec_blockCommit, State.blockCommit_of_stuck hgo hf hst hr hout hmove]

end Sys2Proof.Machine

/-!
PROOF. What a stream's server does with requests for elements: writes and closes (03 R53, R54) and reads (R55 to R57).
-/
namespace Sys2Proof.Machine

/-! ### A step of a request that stands at its server -/

/-- A step of a request that the server may serve acts where the request stands, on its plane (R323). -/
theorem State.onReq_of_streamReady {s : State} {pl : PlaneId} {rid l i : Nat} {x : Launch} {r : Req} {st : Stream}
    (h : s.streamReady pl rid = some (l, x, r, i, st)) (f : State → State) : s.onReq pl rid f = f s := by
  obtain ⟨-, hreq, -⟩ := Laws.streamReady_here h
  exact Laws.onReq_of_here hreq

theorem exec_streamWrite (s : State) :
    exec .streamWrite s = .next ((s.onReq s.cur.pl s.cur.rid fun s => s.streamWrite s.cur.pl s.cur.rid).wake []) := rfl
theorem exec_streamClose (s : State) :
    exec .streamClose s = .next ((s.onReq s.cur.pl s.cur.rid fun s => s.streamClose s.cur.pl s.cur.rid).wake []) := rfl
theorem exec_streamRead (s : State) :
    exec .streamRead s = .next ((s.onReq s.cur.pl s.cur.rid fun s => s.streamRead s.cur.pl s.cur.rid).wake []) := rfl
theorem exec_streamRelease (s : State) :
    exec .streamRelease s = .next ((s.onReq s.cur.pl s.cur.rid fun s => s.streamRelease s.cur.pl s.cur.rid).wake []) := rfl
theorem exec_streamRewind (s : State) :
    exec .streamRewind s = .next ((s.onReq s.cur.pl s.cur.rid fun s => s.streamRewind s.cur.pl s.cur.rid).wake []) := rfl
theorem exec_forcedRelease (s : State) :
    exec .forcedRelease s = .next ((s.onReq s.cur.pl s.cur.rid fun s => s.forcedRelease s.cur.pl s.cur.rid).wake []) := rfl

/-- What only a global stream can meet does not come about where it does not come about for a global stream. -/
theorem not_and_eq_false_of_imp {b c : Bool} (h : b = false → c = false) : (!b && c) = false := by
  cases b with
  | false => exact h rfl
  | true => rfl

/-! ### Writes (R53) -/

/-- The bytes that a write leaves at its element's place: zero bytes fill up the slot of a FIFO (R52). -/
def StreamRec.placeOf (r : StreamRec) (data : List Byte) : List Byte :=
  let bs := data.take (eszBytes r.esz)
  if r.isFifo then bs ++ List.replicate (r.stepBytes - bs.length) 0#8 else bs

/-- The words that become full with the element at a key: none before the last element of its word is there (R53). -/
def StreamRec.filledBy (r : StreamRec) (key : Nat) : List Nat :=
  if r.isFifo || decide ((key + r.stepBytes) % 8 = 0) || decide (8 ≤ r.stepBytes) then elemWords r key else []

/-- The server stores an element at a key and sets its words full. -/
def State.storeElement (s : State) (r : StreamRec) (key : Nat) (data : List Byte) : State :=
  let home := s.foldIn key (r.placeOf data).length
  (r.filledBy key).foldl (fun s w => s.setHomeBit w true)
    { home with mem := Memory.writeBytes home.mem key (r.placeOf data) }

/-- A stream to which one more element has been written. -/
def Stream.written (st : Stream) : Stream := { st with hwm := st.hwm + 1#32, stallCnt := 0, served := true }

section
variable {s s1 : State} {pl : PlaneId} {rid l i key : Nat} {imm : Bool} {x : Launch} {r : Req} {st : Stream}
  (h : s.streamReady pl rid = some (l, x, r, i, st)) (hopen : st.closed = false)
include h hopen

/-- A write finds the window full and is parked. -/
theorem State.streamWrite_of_full (hk : r.kind = .swr false) (hfull : before st.hwm st.bound = false) :
    s.streamWrite pl rid = s.setReq pl rid .windowFull := by
  unfold State.streamWrite
  rw [h]
  dsimp only
  rw [if_neg (not_not_intro hk), if_neg (by simp [hopen]), if_pos (by simp [hfull])]

/-- A write with room puts its element at the place of position HWM. -/
theorem State.streamWrite_of_room (hk : r.kind = .swr false) (hroom : before st.hwm st.bound = true)
    (hfirst : st.earlier st.hwm = none)
    (hfree : st.sr.isFifo = false → (s.catchUp l i).holdsRange (streamPort x st.sr) x.asid
      (streamVa st.sr (st.offset st.hwm)) (eszBytes st.sr.esz) = false)
    (hkey : (s.catchUp l i).streamKey l x st.sr (st.offset st.hwm) true = (.ok key imm, s1)) (hpeer : isPeer key = false) :
    s.streamWrite pl rid =
      (((s1.storeElement st.sr key r.data).setStream l i st.written).retire pl rid).wake (st.sr.filledBy key) := by
  unfold State.streamWrite
  rw [h]
  dsimp only
  rw [if_neg (not_not_intro hk), if_neg (by simp [hopen]), if_neg (by simp [hroom]),
    if_neg (by simp [not_and_eq_false_of_imp hfree]), hkey]
  dsimp only
  rw [if_neg (not_not_intro hpeer), if_neg (by simp), hfirst]
  rfl

end

/-! ### Closes (R54) -/

/-- Whether a read is kept for a position that is not before END: it is parked, or its server holds it. -/
def Req.keptFrom (e : W32) (q : Req) : Bool :=
  (match q.st with | .parked | .readHeld _ => true | _ => false) &&
    (match q.pos with | some (p, _) => !before p e | none => false)

/-- The kept reads of positions that no element will reach are answered with NULL. -/
def State.nullLate (s : State) (l handle : Nat) (e : W32) : State :=
  (s.streamReads l handle (Req.keptFrom e)).foldl
    (fun s q => s.onReq q.1 q.2.rid fun s => (s.unpark q.1 q.2.rid).finish q.1 q.2 .null) s

/-- A stream that its producer has closed. -/
def Stream.ended (st : Stream) : Stream := { st with closed := true, endp := st.hwm, stallCnt := 0, served := true }

/-- A close after whole words fixes END and answers the late reads. -/
theorem State.streamClose_of_wholeWords {s : State} {pl : PlaneId} {rid l i : Nat} {x : Launch} {r : Req} {st : Stream}
    (h : s.streamReady pl rid = some (l, x, r, i, st)) (hopen : st.closed = false) (hk : r.kind = .swr true)
    (hwhole : st.sr.isFifo = true ∨ st.offset st.hwm % 8 = 0)
    (hhere : st.sr.isFifo = false → ((s.catchUp l i).keyAt x.asid (streamVa st.sr (st.offset st.hwm))).any isPeer = false) :
    s.streamClose pl rid = ((((s.catchUp l i).setStream l i st.ended).retire pl rid).nullLate l r.handle st.hwm).wake [] := by
  have hpart : (if st.sr.isFifo = true then 0 else st.offset st.hwm % 8) = 0 := by
    obtain hw | hw := hwhole <;> simp [hw]
  unfold State.streamClose
  rw [h]
  dsimp only
  rw [if_neg (not_not_intro hk), if_neg (by simp [hopen]), if_neg (not_not_intro (not_and_eq_false_of_imp hhere)), hpart]
  rfl

/-- Settles O29: a write with room, a write on a full window, and a close. -/
theorem streamWritesAndCloses : Obligations.StreamWritesAndCloses := by
  intro s s1 l x r i st key imm pl rid s0 h hopen
  refine ⟨?room, ?full, ?close⟩
  case room =>
    intro hk hroom hfirst hfree hkey hpeer
    rw [exec_streamWrite, State.onReq_of_streamReady h, State.streamWrite_of_room h hopen hk hroom hfirst hfree hkey hpeer]
    rfl
  case full =>
    intro hk hfull
    rw [exec_streamWrite, State.onReq_of_streamReady h, State.streamWrite_of_full h hopen hk hfull]
  case close =>
    intro hk hwhole hhere
    rw [exec_streamClose, State.onReq_of_streamReady h, State.streamClose_of_wholeWords h hopen hk hwhole hhere]
    rfl

/-! ### Reads (R55 to R57) -/

/-- A stream of which reader j has taken the next position. -/
def Stream.taken (st : Stream) (j : Nat) : Stream := { st with rd := st.rd.set j (st.rdOf j + 1#32), served := true }

/-- Reader j's request takes the position of its read cursor, which advances. -/
def State.takePos (s : State) (l i : Nat) (pl : PlaneId) (rid j : Nat) (st : Stream) : State :=
  (s.setStream l i (st.taken j)).modReq pl rid fun q => { q with pos := some (st.rdOf j, j) }

/-- A request's read has passed the test against TAIL. -/
def State.passTail (s : State) (pl : PlaneId) (rid : Nat) : State := s.modReq pl rid fun q => { q with b := 1#64 }

/-- The server answers a read whose element is full: with the element, or with the fault that its memory meets (R374). -/
def State.answerElement (s : State) (pl : PlaneId) (r : Req) (sr : StreamRec) (key : Nat) : State :=
  let t := (s.demandRead key).2
  if (s.demandRead key).1 then t.reqFault pl r .memUncorr 0 0#64
  else t.finish pl r (streamToken ((tyOf (BitVec.ofNat 4 sr.etag)).getD .u64) r.wd (t.view committedObs key (eszBytes sr.esz)))

section
variable {s s3 : State} {pl : PlaneId} {rid l i j key : Nat} {imm : Bool} {x : Launch} {r : Req} {st : Stream} {p : W32}
  (h : s.streamReady pl rid = some (l, x, r, i, st)) (hk : r.kind = .srd) (hnew : r.pos = none)
  (hj : (s.catchUp l i).readerIx pl st = j) (hp : st.rdOf j = p)
include h hk hnew hj hp

/-- A new read of a position before TAIL is F_STREAM_BEHIND. -/
theorem State.streamRead_of_behind (hb : r.b ≠ 1#64) (hbehind : before p st.tail = true) :
    s.streamRead pl rid = (((s.catchUp l i).takePos l i pl rid j st).reqFault pl { r with pos := some (p, j) } .streamBehind 0
      (streamInfo r.handle j p)).unforceAt l i j := by
  subst hj hp
  unfold State.streamRead
  rw [h]
  dsimp only
  rw [if_neg (not_not_intro hk)]
  simp only [hnew]
  rw [if_pos (by simp [hb, hbehind])]
  rfl

/-- A read at or past END of a closed stream answers NULL. -/
theorem State.streamRead_of_pastEnd (htail : before p st.tail = false) (hclosed : st.closed = true)
    (hend : before p st.endp = false) :
    s.streamRead pl rid =
      (((s.catchUp l i).takePos l i pl rid j st).finish pl { r with pos := some (p, j) } .null).unforceAt l i j := by
  subst hj hp
  unfold State.streamRead
  rw [h]
  dsimp only
  rw [if_neg (not_not_intro hk)]
  simp only [hnew]
  rw [if_neg (by simp [htail]), if_pos (by simp [hclosed, hend])]
  rfl

/-- A read of a position of the window whose words are full is answered. -/
theorem State.streamRead_of_full (htail : before p st.tail = false) (hlive : st.closed = false ∨ before p st.endp = true)
    (hbound : before p st.bound = true)
    (hfree : st.sr.isFifo = false → (((s.catchUp l i).takePos l i pl rid j st).passTail pl rid).holdsRange
      (streamPort x st.sr) x.asid (streamVa st.sr ((st.taken j).offset p)) (eszBytes st.sr.esz) = false)
    (hkey : (((s.catchUp l i).takePos l i pl rid j st).passTail pl rid).streamKey l x st.sr ((st.taken j).offset p) false =
      (.ok key imm, s3))
    (hpeer : isPeer key = false) (hfull : ∀ w ∈ elemWords st.sr key, s3.viewBit committedObs w = true) :
    s.streamRead pl rid = (s3.answerElement pl { r with pos := some (p, j), b := 1#64 } st.sr key).unforceAt l i j := by
  subst hj hp
  simp only [State.takePos, Stream.taken, State.passTail] at hfree hkey
  unfold State.streamRead
  rw [h]
  dsimp only
  rw [if_neg (not_not_intro hk)]
  simp only [hnew]
  rw [if_neg (by simp [htail]), if_neg (by obtain hl | hl := hlive <;> simp [hl]), if_neg (by simp [hbound]),
    if_neg (by simp [not_and_eq_false_of_imp hfree]), hkey]
  dsimp only
  rw [if_neg (by simp [hpeer]), if_pos (List.all_eq_true.mpr hfull)]
  unfold State.answerElement
  obtain ⟨_ | _, s4⟩ := s3.demandRead key <;> rfl

end

/-- Settles O30: a read behind TAIL, one past END, and one of an element that is there. -/
theorem streamReads : Obligations.StreamReads := by
  intro s s3 s4 l x r i st key imm pl rid s0 j p st1 took r1 asked h hk hnew
  refine ⟨?behind, ?pastEnd, ?element⟩
  case behind =>
    intro hbehind hb
    rw [exec_streamRead, State.onReq_of_streamReady h, State.streamRead_of_behind h hk hnew rfl rfl hb hbehind]
    rfl
  case pastEnd =>
    intro htail hclosed hend
    rw [exec_streamRead, State.onReq_of_streamReady h, State.streamRead_of_pastEnd h hk hnew rfl rfl htail hclosed hend]
    rfl
  case element =>
    intro htail hlive hbound hfree hkey hpeer hfull r2
    have hread := State.streamRead_of_full h hk hnew rfl rfl htail hlive hbound hfree hkey hpeer hfull
    refine ⟨fun hd => ?sound, fun hd => ?uncorrectable⟩
    case sound =>
      rw [exec_streamRead, State.onReq_of_streamReady h, hread, State.answerElement, hd]
      rfl
    case uncorrectable =>
      rw [exec_streamRead, State.onReq_of_streamReady h, hread, State.answerElement, hd]
      rfl

end Sys2Proof.Machine

/-!
PROOF. How the cursors of a stream move: releases and the tail, forced releases, rewinds (03 R58, R60, R63).
-/
namespace Sys2Proof.Machine

/-! ### Releases and the tail -/

/-- The tail and its reader among readers 0 to n (R58). -/
def Stream.tailAmong (st : Stream) (n : Nat) : Nat × W32 :=
  ((List.range (n + 1)).map fun j => (j, st.relOf j)).foldl
    (fun (a, t) (j, q) => if (st.hwm - t).toNat < (st.hwm - q).toNat then (j, q) else (a, t)) (0, st.relOf 0)

theorem Stream.tailOf_eq_tailAmong (st : Stream) : st.tailOf = st.tailAmong st.sr.nrd := rfl

theorem Stream.tailAmong_zero (st : Stream) : st.tailAmong 0 = (0, st.relOf 0) := by
  simp [Stream.tailAmong]

theorem Stream.tailAmong_succ (st : Stream) (n : Nat) :
    st.tailAmong (n + 1) =
      if (st.hwm - (st.tailAmong n).2).toNat < (st.hwm - st.relOf (n + 1)).toNat then (n + 1, st.relOf (n + 1))
      else st.tailAmong n := by
  rw [Stream.tailAmong, List.range_succ, List.map_append, List.foldl_append]
  rfl

/-- Reader j holds the tail among readers 0 to n: none is farther behind HWM, and each lower one is less far. -/
structure Stream.HoldsTail (st : Stream) (n j : Nat) : Prop where
  reader : j ≤ n
  farthest : ∀ k ≤ n, (st.hwm - st.relOf k).toNat ≤ (st.hwm - st.relOf j).toNat
  lowest : ∀ k < j, (st.hwm - st.relOf k).toNat < (st.hwm - st.relOf j).toNat

theorem Stream.HoldsTail.zero (st : Stream) : st.HoldsTail 0 0 where
  reader := Nat.le_refl 0
  farthest _ hk := Nat.le_zero.mp hk ▸ Nat.le_refl _
  lowest k hk := absurd hk (Nat.not_lt_zero k)

/-- A further reader that is farther behind takes the tail over. -/
theorem Stream.HoldsTail.succ_of_lt {st : Stream} {n j : Nat} (h : st.HoldsTail n j)
    (hlt : (st.hwm - st.relOf j).toNat < (st.hwm - st.relOf (n + 1)).toNat) : st.HoldsTail (n + 1) (n + 1) := by
  have hlow : ∀ k < n + 1, (st.hwm - st.relOf k).toNat < (st.hwm - st.relOf (n + 1)).toNat := fun k hk =>
    Nat.lt_of_le_of_lt (h.farthest k (Nat.le_of_lt_succ hk)) hlt
  refine ⟨Nat.le_refl _, fun k hk => ?_, hlow⟩
  obtain hk | rfl := Nat.lt_or_eq_of_le hk
  · exact Nat.le_of_lt (hlow k hk)
  · exact Nat.le_refl _

/-- One that is not leaves it where it is. -/
theorem Stream.HoldsTail.succ_of_le {st : Stream} {n j : Nat} (h : st.HoldsTail n j)
    (hle : (st.hwm - st.relOf (n + 1)).toNat ≤ (st.hwm - st.relOf j).toNat) : st.HoldsTail (n + 1) j := by
  refine ⟨Nat.le_succ_of_le h.reader, fun k hk => ?_, h.lowest⟩
  obtain hk | rfl := Nat.lt_or_eq_of_le hk
  · exact h.farthest k (Nat.le_of_lt_succ hk)
  · exact hle

/-- The tail is the release cursor of the reader that holds it, by induction on the number of readers. -/
theorem Stream.exists_holdsTail (st : Stream) (n : Nat) : ∃ j, st.HoldsTail n j ∧ st.tailAmong n = (j, st.relOf j) := by
  induction n with
  | zero => exact ⟨0, .zero st, st.tailAmong_zero⟩
  | succ n ih =>
    obtain ⟨j, hj, htail⟩ := ih
    rw [st.tailAmong_succ n, htail]
    by_cases hlt : (st.hwm - st.relOf j).toNat < (st.hwm - st.relOf (n + 1)).toNat
    · exact ⟨n + 1, hj.succ_of_lt hlt, if_pos hlt⟩
    · exact ⟨j, hj.succ_of_le (Nat.le_of_not_lt hlt), if_neg hlt⟩

section
variable {s : State} {pl : PlaneId} {rid l i : Nat} {x : Launch} {r : Req} {st : Stream}
  (h : s.streamReady pl rid = some (l, x, r, i, st))
include h

/-- A release by a reader that has been force-released has no effect (R58). -/
theorem State.streamRelease_of_forced (hk : r.kind = .srel) (hf : st.forced.getLsbD (s.readerIx pl st) = true) :
    s.streamRelease pl rid = (s.setStream l i { st with served := true }).retire pl rid := by
  unfold State.streamRelease
  rw [h]
  dsimp only
  rw [if_neg (not_not_intro hk), if_pos hf]

/-- A release past the read cursor is F_SHAPE (R58). -/
theorem State.streamRelease_of_unread (hk : r.kind = .srel) (hf : st.forced.getLsbD (s.readerIx pl st) = false)
    (hq : before (st.rdOf (s.readerIx pl st)) (st.relOf (s.readerIx pl st) + r.b.setWidth 32) = true) :
    s.streamRelease pl rid = s.reqFault pl r .shape 0 0#64 := by
  unfold State.streamRelease
  rw [h]
  dsimp only
  rw [if_neg (not_not_intro hk), if_neg (by simp [hf]), if_pos hq]

/-- Any other release moves the release cursor and TAIL (R58). -/
theorem State.streamRelease_of_read (hk : r.kind = .srel) (hf : st.forced.getLsbD (s.readerIx pl st) = false)
    (hq : before (st.rdOf (s.readerIx pl st)) (st.relOf (s.readerIx pl st) + r.b.setWidth 32) = false) :
    s.streamRelease pl rid = (s.setStream l i (Stream.retail { st with
      rel := st.rel.set (s.readerIx pl st) (st.relOf (s.readerIx pl st) + r.b.setWidth 32), served := true })).retire pl rid := by
  unfold State.streamRelease
  rw [h]
  dsimp only
  rw [if_neg (not_not_intro hk), if_neg (by simp [hf]), if_neg (by simp [hq])]

/-- A forced release to a position before TAIL or past HWM is F_SHAPE (R63). -/
theorem State.forcedRelease_of_outside (hk : r.kind = .srelFrc)
    (hq : before (r.c.setWidth 32) st.tail = true ∨ before st.hwm (r.c.setWidth 32) = true) :
    s.forcedRelease pl rid = s.reqFault pl r .shape 0 0#64 := by
  unfold State.forcedRelease
  rw [h]
  dsimp only
  rw [if_neg (not_not_intro hk), if_pos (Bool.or_eq_true_iff.mpr hq)]

/-- A stream of which reader j has been force-released to position q (R63). -/
def Stream.forceTo (st : Stream) (j : Nat) (q : W32) : Stream :=
  Stream.retail { st with
    rel := st.rel.set j q
    forced := if before (st.rdOf j) q then st.forced ||| (1#4 <<< j) else st.forced &&& ~~~(1#4 <<< j)
    served := true }

/-- Any other forced release moves the cursor of the reader that it names (R63). -/
theorem State.forcedRelease_of_inside (hk : r.kind = .srelFrc) (htail : before (r.c.setWidth 32) st.tail = false)
    (hhwm : before st.hwm (r.c.setWidth 32) = false) :
    s.forcedRelease pl rid = (s.setStream l i (st.forceTo (r.b.toNat % 4) (r.c.setWidth 32))).retire pl rid := by
  unfold State.forcedRelease
  rw [h]
  dsimp only
  rw [if_neg (not_not_intro hk), if_neg (by simp [htail, hhwm])]
  rfl

/-- A rewind to before the release cursor is F_SHAPE (R60). -/
theorem State.streamRewind_of_released (hk : r.kind = .srew)
    (hq : before (st.rdOf (s.readerIx pl st) - r.b.setWidth 32) (st.relOf (s.readerIx pl st)) = true) :
    s.streamRewind pl rid = s.reqFault pl r .shape 0 0#64 := by
  unfold State.streamRewind
  rw [h]
  dsimp only
  rw [if_neg (not_not_intro hk), if_pos (by simp [hq])]

/-- Any other rewind, outside a forced release, sets the read cursor back (R60). -/
theorem State.streamRewind_of_unreleased (hk : r.kind = .srew)
    (hq : before (st.rdOf (s.readerIx pl st) - r.b.setWidth 32) (st.relOf (s.readerIx pl st)) = false)
    (hf : st.forced.getLsbD (s.readerIx pl st) = false) :
    s.streamRewind pl rid = (s.setStream l i { st with
      rd := st.rd.set (s.readerIx pl st) (st.rdOf (s.readerIx pl st) - r.b.setWidth 32), served := true }).retire pl rid := by
  unfold State.streamRewind
  rw [h]
  dsimp only
  rw [if_neg (not_not_intro hk), if_neg (by simp [hq, hf])]

end

/-- Settles O31: each release, and the reader that holds the tail. -/
theorem streamCursors : Obligations.StreamCursors := by
  refine ⟨?releases, fun st => ?tail⟩
  case releases =>
    intro s l x r i st pl rid j leaves bad h
    refine ⟨fun hk hf => ?frozen, fun hk hf => ⟨fun hq => ?unread, fun hq => ?moves⟩,
      fun hk => ⟨fun hq => ?outside, fun htail hhwm => ?inside⟩⟩
    case frozen =>
      dsimp only [leaves]
      rw [exec_streamRelease, State.onReq_of_streamReady h, State.streamRelease_of_forced h hk hf]
    case unread =>
      dsimp only [bad]
      rw [exec_streamRelease, State.onReq_of_streamReady h, State.streamRelease_of_unread h hk hf hq]
    case moves =>
      dsimp only [leaves]
      rw [exec_streamRelease, State.onReq_of_streamReady h, State.streamRelease_of_read h hk hf hq]
    case outside =>
      dsimp only [bad]
      rw [exec_forcedRelease, State.onReq_of_streamReady h, State.forcedRelease_of_outside h hk hq]
    case inside =>
      dsimp only [leaves]
      rw [exec_forcedRelease, State.onReq_of_streamReady h, State.forcedRelease_of_inside h hk htail hhwm]
      rfl
  case tail =>
    obtain ⟨j, hj, htail⟩ := st.exists_holdsTail st.sr.nrd
    refine ⟨j, hj.reader, ?_, hj.farthest, hj.lowest⟩
    rw [Stream.retail, st.tailOf_eq_tailAmong, htail]

/-! ### What a rewind leaves alone (R60) -/

/-- The streams of a launch. -/
def State.streamsOf (s : State) (l : Nat) : Option (List Stream) := (s.launch? l).map (·.streams)

theorem State.streamsOf_congr {s t : State} (h : t.launches = s.launches) (l : Nat) : t.streamsOf l = s.streamsOf l := by
  simp only [State.streamsOf, State.launch?, h]

theorem State.streamsOf_modLaunch (s : State) (k l : Nat) {f : Launch → Launch} (hf : ∀ x, (f x).streams = x.streams) :
    (s.modLaunch k f).streamsOf l = s.streamsOf l := by
  unfold State.modLaunch
  split
  next x hx =>
    by_cases hl : l = k
    · subst hl
      simp [State.streamsOf, hx, hf]
    · rw [State.streamsOf, State.launch?_setLaunch_other _ _ hl, State.streamsOf]
  next => rfl

/-- A rung of recovery asked for is a mark on the launch. -/
theorem State.streamsOf_askRung (s : State) (k n fid l : Nat) : (s.askRung k n fid).streamsOf l = s.streamsOf l :=
  s.streamsOf_modLaunch k l fun x => by
    split
    · split <;> rfl
    · rfl

theorem State.streamsOf_defaultAction (s : State) (f : FaultRec) (l : Nat) : (s.defaultAction f).streamsOf l = s.streamsOf l := by
  unfold State.defaultAction
  split
  · rfl
  · exact s.streamsOf_askRung ..
  · rfl

theorem State.streamsOf_raise (s : State) (cls : FCls) (lid : Nat) (c : Option PlaneId) (w : PlaneId) (src : FSrc) (code : Nat)
    (req : Bool) (blk slot ch ord : Nat) (info : W64) (n : Bool) (l : Nat) :
    (s.raise cls lid c w src code req blk slot ch ord info n).2.streamsOf l = s.streamsOf l := by
  simp only [State.raise, State.fresh]
  split
  · rfl
  · exact State.streamsOf_defaultAction ..

@[simp] theorem State.refill_launches (s : State) (g : Nat) : (s.refill g).launches = s.launches :=
  foldl_keeps (·.launches) _ (fun t (f : FaultRec) => t.modFault_launches f.fid _) _ s

@[simp] theorem State.dropFault_launches (s : State) (fid : Nat) : (s.dropFault fid).launches = s.launches := by
  unfold State.dropFault
  split
  · exact State.refill_launches ..
  · rfl

/-- A fault at performing changes no stream. -/
theorem State.streamsOf_reqFault (s : State) (pl : PlaneId) (r : Req) (cls : FCls) (code : Nat) (info : W64) (l : Nat) :
    (s.reqFault pl r cls code info).streamsOf l = s.streamsOf l := by
  have hraised := s.streamsOf_raise cls ((s.plane pl).launch.getD 0) (some pl) pl (.request pl r.rid) code r.resp.isSome
    r.block.toNat r.slot (r.resp.getD 0) (if r.resp.isSome then s.placeOrd pl r.rid (r.resp.getD 0) else 0) info false l
  refine (State.streamsOf_congr ?_ l).trans hraised
  simp only [State.reqFault, apply_ite State.launches, State.dropFault_launches, State.setReq_launches, ite_self]

@[simp] theorem State.putDesc_planes (s : State) (x : Launch) (i : Nat) (st : Stream) (pick : Nat → Bool) :
    (s.putDesc x i st pick).planes = s.planes := by
  unfold State.putDesc
  dsimp only
  split
  · exact (foldl_keeps (·.planes) _ (fun t k => by split <;> rfl) _ _).trans (s.foldIn_planes ..)
  · rfl
  · rfl

@[simp] theorem State.setStream_planes (s : State) (l i : Nat) (st : Stream) : (s.setStream l i st).planes = s.planes := by
  unfold State.setStream
  split
  · rfl
  · exact State.putDesc_planes ..

theorem State.req?_congr {s t : State} (h : t.planes = s.planes) (p : PlaneId) (k : Nat) : t.req? p k = s.req? p k := by
  simp only [State.req?, State.plane, h]

theorem State.req?_retire_other (s : State) (pl p : PlaneId) {rid k : Nat} (hk : k ≠ rid) :
    (s.retire pl rid).req? p k = s.req? p k := by
  have hpick : ∀ q : Req, (q.rid ≠ rid ∧ q.rid = k) ↔ q.rid = k := fun q => and_iff_right_of_imp fun hq => hq ▸ hk
  by_cases hp : planeKey p = planeKey pl
  · have hplane : ∀ t : State, t.plane p = t.plane pl := fun t => by simp only [State.plane, hp]
    simp only [State.req?, State.retire, hplane, State.plane_modPlane, List.find?_filter, decide_eq_true_eq, hpick]
  · simp only [State.req?, State.retire, State.modPlane, State.plane_setPlane_other _ _ hp]

theorem State.planeActs_launch? {s : State} {pl : PlaneId} {l : Nat} {x : Launch} (h : s.planeActs pl = some (l, x)) :
    s.launch? l = some x := by
  unfold State.planeActs at h
  dsimp only at h
  split at h
  next => cases h
  next k _ =>
    split at h
    next => cases h
    next y hy =>
      obtain ⟨-, h⟩ := Option.ite_none_right_eq_some.mp h
      cases h
      exact hy

/-- Settles O55: a rewind that is refused, and one that is taken. -/
theorem rewindMovesReadCursor : Obligations.RewindMovesReadCursor := by
  intro s l x r i st pl j q h hk
  refine ⟨fun hq => ⟨?refused, ?streams⟩, fun hq hf => ⟨?taken, fun p k hk' => ?positions⟩⟩
  case refused =>
    rw [exec_streamRewind, State.onReq_of_streamReady h, State.streamRewind_of_released h hk hq]
  case streams =>
    obtain ⟨hacts, -⟩ := Laws.streamReady_here h
    calc (s.reqFault pl r .shape 0 0#64).streamsOf l
      _ = s.streamsOf l := s.streamsOf_reqFault ..
      _ = some x.streams := by rw [State.streamsOf, State.planeActs_launch? hacts]; rfl
  case taken =>
    rw [exec_streamRewind, State.onReq_of_streamReady h, State.streamRewind_of_unreleased h hk hq hf]
  case positions =>
    rw [State.req?_retire_other _ _ _ hk', State.req?_congr (s.setStream_planes ..)]

end Sys2Proof.Machine

/-!
PROOF. What a stream's server does of itself: recycling, stalls and the timeout of held reads (03 R59, R62; 14 R284), and
the words of host endpoints (R64).
-/
namespace Sys2Proof.Machine

/-! ### Recycling, stalls and held reads -/

theorem exec_frameRecycle (s : State) :
    exec .frameRecycle s = .next (((s.frameRecycle s.cur.l s.cur.n).supply s.cur.l s.cur.n).wake []) := rfl
theorem exec_streamStall (s : State) : exec .streamStall s = .next (s.streamStall s.cur.l s.cur.n) := rfl
theorem exec_heldStreamReadTimeout (s : State) :
    exec .heldStreamReadTimeout s = .next (s.onReq s.cur.pl s.cur.rid fun s => s.heldReadTimeout s.cur.pl s.cur.rid) := rfl

/-- The first position after the front frame. -/
def Stream.nextFront (st : Stream) : W32 := st.sr.frameStart st.front + BitVec.ofNat 32 (2 ^ st.sr.log2e)

/-- Whether a read was accepted into a frame before a position, and has no data yet (R59). -/
def Req.readsBefore (next : W32) (q : Req) : Bool :=
  decide (q.b = 1#64) && (match q.pos with | some (p, _) => before p next | none => false)

/-- The elements of a recycled frame that the last cut's save keeps: those of a frame that its TAIL has not passed (R91). -/
def Stream.keptBy (st : Stream) (cut : Option W32) (es : List (W32 × List W64)) : List (W32 × List W64) :=
  match cut with
  | some t => if st.sr.hostp || before (st.nextFront - 1#32) t then [] else es
  | none => []

theorem Stream.keptBy_some (st : Stream) (t : W32) (es : List (W32 × List W64)) :
    st.keptBy (some t) es = if st.sr.hostp = true ∨ before (st.nextFront - 1#32) t = true then [] else es := by
  simp only [Stream.keptBy, Bool.or_eq_true]

/-- A stream whose front frame has been given up, its elements `es` going to the save or the log. -/
def Stream.recycled (st : Stream) (cut : Option W32) (es : List (W32 × List W64)) : Stream :=
  { st with
    front := st.nextFront
    fslot := (st.fslot + 1) % st.sr.nfrm
    save := st.save ++ st.keptBy cut es
    log := st.log ++ (if st.sr.hostp then es else [])
    attempt := st.attempt.filter fun q => !before q.1 st.nextFront }

/-- A frame wholly before TAIL, with no read under way and all its pages there, is emptied and given up (R59). -/
theorem State.frameRecycle_of_passed {s : State} {l i : Nat} {x : Launch} {st : Stream} (hx : s.launch? l = some x)
    (hst : x.streams[i]? = some st) (htail : before st.tail st.nextFront = false) (hlive : x.st.isLive = true)
    (hthere : s.slotThere x st.sr st.fslot = true) (hreads : s.streamReads l st.sr.handle (Req.readsBefore st.nextFront) = []) :
    s.frameRecycle l i =
      ((((s.catchUp l i).emptySlot x st.sr st.fslot).2.setStream l i
        (st.recycled (x.cutTail i) ((s.catchUp l i).frontElems x st))).wake ((s.catchUp l i).slotParked x st.sr st.fslot)) := by
  have hgo : (before st.tail st.nextFront || !(s.streamReads l st.sr.handle (Req.readsBefore st.nextFront)).isEmpty ||
      !x.st.isLive || !s.slotThere x st.sr st.fslot) = false := by
    rw [htail, hreads, hlive, hthere]; rfl
  unfold State.frameRecycle
  rw [hx]
  dsimp only
  rw [hst]
  dsimp only
  exact if_neg (ne_true_of_eq_false hgo)

/-- A write parked longer than STALL raises F_STREAM_STALL, and the count restarts (R62). -/
theorem State.streamStall_of_long {s : State} {l i : Nat} {x : Launch} {st : Stream} {pl : PlaneId} {r : Req}
    (hx : s.launch? l = some x) (hst : x.streams[i]? = some st) (hpark : s.parkedWrite l st.sr.handle = some (pl, r))
    (hlong : st.sr.stallLimit < st.stallCnt) :
    s.streamStall l i =
      let f := s.raise .streamStall l (some pl) pl (.stall pl r.rid) 0 false r.block.toNat r.slot 0 0
        (streamInfo st.sr.handle st.tailOf.1 st.tail)
      let t := f.2.setStream l i { st with stallCnt := 0 }
      if (t.fault? f.1).map (·.st) = some FSt.reported then t.dropFault f.1 else t := by
  unfold State.streamStall
  rw [hx, Option.bind_some, hst]
  dsimp only
  rw [hpark]
  dsimp only
  rw [if_neg (Nat.not_le_of_lt hlong)]

/-- The address that the timeout of a held read names: that of its element in a global stream. -/
def Launch.heldInfo (x : Launch) (r : Req) : W64 :=
  match x.streamOf r.handle, r.pos with
  | some (_, st), some (p, _) => if st.sr.isFifo then 0#64 else BitVec.ofNat 64 (streamVa st.sr (st.offset p))
  | _, _ => 0#64

theorem Launch.heldInfo_of_none {x : Launch} {r : Req} (h : x.streamOf r.handle = none ∨ r.pos = none) :
    x.heldInfo r = 0#64 := by
  unfold Launch.heldInfo
  split
  next hs hp =>
    obtain h | h := h
    · exact absurd (hs.symm.trans h) nofun
    · exact absurd (hp.symm.trans h) nofun
  next => rfl

/-- A read held longer than the park timeout is F_PARK_BUDGET with code 1 (R284). -/
theorem State.heldReadTimeout_of_long {s : State} {pl : PlaneId} {rid l : Nat} {x : Launch} {r : Req} {g : Glade} {t : W64}
    (hr : s.req? pl rid = some r) (hl : (s.plane pl).launch = some l) (hx : s.launch? l = some x) (hg : s.glade? x.glade = some g)
    (hst : r.st = .readHeld t) (hb : r.budget ≠ 255#8) (hlong : g.parkTimeout < (g.cycle - t).toNat) :
    s.heldReadTimeout pl rid = s.reqFault pl r .parkBudget 1 (x.heldInfo r) := by
  unfold State.heldReadTimeout
  rw [hr, hl, Option.bind_some, hx]
  dsimp only
  rw [hst, hg]
  dsimp only
  rw [if_pos ⟨hb, hlong⟩]
  rfl

/-- Settles O32: the recycling of a frame, a stall, and a held read. -/
theorem streamServerSteps : Obligations.StreamServerSteps := by
  intro s x st l i hx hst
  refine ⟨?recycle, ?stall, ?held⟩
  case recycle =>
    intro next s0 es kept htail hlive hthere hreads
    have hkept : st.keptBy (x.cutTail i) es = kept := by
      dsimp only [kept]
      cases x.cutTail i with
      | none => rfl
      | some t => exact st.keptBy_some t es
    rw [exec_frameRecycle, State.frameRecycle_of_passed hx hst htail hlive hthere hreads, Stream.recycled, hkept]
    rfl
  case stall =>
    intro pl r hpark hlong f t
    rw [exec_streamStall, State.streamStall_of_long hx hst hpark hlong]
  case held =>
    intro r g t hr hl hg hrst hb hlong faults
    have hstep : faults (x.heldInfo r) := by
      dsimp only [faults]
      rw [exec_heldStreamReadTimeout, Laws.onReq_of_here hr, State.heldReadTimeout_of_long hr hl hx hg hrst hb hlong]
    refine ⟨fun k y p j hs hp => ?element, fun hnone => ?noElement⟩
    case element =>
      have hinfo : x.heldInfo r = if y.sr.isFifo = true then 0#64 else BitVec.ofNat 64 (streamVa y.sr (y.offset p)) := by
        rw [Launch.heldInfo, hs, hp]
      rwa [← hinfo]
    case noElement => rwa [← Launch.heldInfo_of_none hnone]

/-! ### The words of host endpoints (R64) -/

theorem exec_hostHwmPublish (s : State) : exec .hostHwmPublish s = .next ((s.hwmPublish s.cur.l s.cur.n).wake []) := rfl
theorem exec_hostReaderRelease (s : State) :
    exec .hostReaderRelease s = .next ((s.hostRelease s.cur.l s.cur.n s.cur.k).wake []) := rfl

section
variable {s : State} {l i a w : Nat} {x : Launch} {st : Stream} (hx : s.launch? l = some x) (hst : x.streams[i]? = some st)
include hx hst

/-- A filled word 1 of a host producer gives HWM (R64). -/
theorem State.hwmPublish_of_filled (hw : (s.catchUp l i).descWord x i 1 = some (a, w, true)) (hp : st.sr.hostp = true) :
    s.hwmPublish l i = (s.catchUp l i).consumeWord l i 1 a { st with hwm := BitVec.ofNat 32 w, served := true } := by
  unfold State.hwmPublish
  rw [hx, Option.bind_some, hst, Option.map_some]
  dsimp only
  rw [hw]
  exact if_pos hp

/-- A filled cursor word of host reader j gives its cursors (R58, R64). -/
theorem State.hostRelease_of_filled {j : Nat} (hw : (s.catchUp l i).descWord x i (3 + j) = some (a, w, true))
    (hr : st.sr.hostr.getLsbD j = true) (hj : j ≤ st.sr.nrd) :
    s.hostRelease l i j = (s.catchUp l i).consumeWord l i (3 + j) a
      { st.hostCursors j (BitVec.ofNat 32 w) (BitVec.ofNat 32 (w / 2 ^ 32)) with served := true } := by
  unfold State.hostRelease
  rw [hx, Option.bind_some, hst, Option.map_some]
  dsimp only
  rw [hw]
  exact if_pos ⟨hr, hj⟩

end

/-- The server consumes a word: it becomes empty, and takes what the server then holds (R64). -/
theorem State.consumeWord_of_launch {s : State} {l : Nat} {x : Launch} (i k a : Nat) (y : Stream) (hx : s.launch? l = some x) :
    s.consumeWord l i k a y =
      ((((s.foldIn a 8).setHomeBit (a / 8) false).setStream l i y).putDesc x i y (fun n => n == k)).wake [a / 8] := by
  unfold State.consumeWord
  rw [hx]

/-- A stream of which the server has taken a host reader's read cursor. -/
def Stream.readTo (st : Stream) (j : Nat) (rd : W32) : Stream := { st with rd := st.rd.set j rd }
/-- A stream of which reader j is no longer force-released. -/
def Stream.unforced (st : Stream) (j : Nat) : Stream := { st with forced := st.forced &&& ~~~(1#4 <<< j) }
/-- A stream of which reader j has released what lies before a position. -/
def Stream.releaseTo (st : Stream) (j : Nat) (rel : W32) : Stream := ({ st with rel := st.rel.set j rel } : Stream).retail

theorem Stream.rdOf_readTo {st : Stream} {j : Nat} (rd : W32) (h : j < st.rd.length) : (st.readTo j rd).rdOf j = rd := by
  simp [Stream.readTo, Stream.rdOf, h]

theorem Stream.relOf_releaseTo {st : Stream} {j : Nat} (rel : W32) (h : j < st.rel.length) :
    (st.releaseTo j rel).relOf j = rel := by
  simp [Stream.releaseTo, Stream.retail, Stream.relOf, h]

theorem Stream.forced_unforced (st : Stream) {j : Nat} (h : j < 4) : (st.unforced j).forced.getLsbD j = false := by
  simp [Stream.unforced, h]

section
variable {st : Stream} {j : Nat} {rd rel : W32}

/-- A word whose release cursor lies past its read cursor has no effect (assumption 42). -/
theorem Stream.hostCursors_of_past (h : before rd rel = true) : st.hostCursors j rd rel = st := if_pos h

/-- A reader that is not force-released gives both cursors. -/
theorem Stream.hostCursors_of_free (h : before rd rel = false) (hf : st.forced.getLsbD j = false) :
    st.hostCursors j rd rel = (st.readTo j rd).releaseTo j rel := by
  unfold Stream.hostCursors
  rw [if_neg (by simp [h])]
  simp only [hf, Bool.false_and, Bool.false_eq_true, if_false]
  rfl

/-- One short of its forced release cursor gives its read cursor alone. -/
theorem Stream.hostCursors_of_short (h : before rd rel = false) (hf : st.forced.getLsbD j = true)
    (hshort : before rd (st.relOf j) = true) : st.hostCursors j rd rel = st.readTo j rd := by
  unfold Stream.hostCursors
  rw [if_neg (by simp [h])]
  simp only [hf, hshort, Bool.not_true, Bool.and_false, Bool.false_eq_true, if_false, if_true]
  rfl

/-- One that has come to it ends the forced release, and gives both. -/
theorem Stream.hostCursors_of_come (h : before rd rel = false) (hf : st.forced.getLsbD j = true)
    (hcome : before rd (st.relOf j) = false) (hj : j < 4) :
    st.hostCursors j rd rel = ((st.readTo j rd).unforced j).releaseTo j rel := by
  have hcleared : ((st.readTo j rd).unforced j).forced.getLsbD j = false := Stream.forced_unforced _ hj
  unfold Stream.hostCursors
  rw [if_neg (by simp [h])]
  simp only [hf, hcome, Bool.not_false, Bool.and_true, if_true]
  exact if_neg (ne_true_of_eq_false hcleared)

end

/-- Settles O33: the words that a server takes, what taking one does, and the cursors of a host reader. -/
theorem hostEndpointSteps : Obligations.HostEndpointSteps := by
  refine ⟨?words, fun s x l i k a y hx => State.consumeWord_of_launch i k a y hx, ?cursors⟩
  case words =>
    intro s x st a w l i j s0 put hx hst
    refine ⟨fun hw hp => ?publish, fun hw hr hj => ?release⟩
    case publish => rw [exec_hostHwmPublish, State.hwmPublish_of_filled hx hst hw hp]
    case release => rw [exec_hostReaderRelease, State.hostRelease_of_filled hx hst hw hr hj]
  case cursors =>
    intro st j rd rel hj hrd hrel hn t
    have hjr : j < st.rd.length := Nat.lt_of_le_of_lt hj hrd
    have hjl : j < st.rel.length := Nat.lt_of_le_of_lt hj hrel
    have hj4 : j < 4 := Nat.lt_of_le_of_lt hj hn
    refine ⟨Stream.hostCursors_of_past, fun h => ?_⟩
    cases hf : st.forced.getLsbD j with
    | false =>
      have ht : t = (st.readTo j rd).releaseTo j rel := Stream.hostCursors_of_free h hf
      rw [ht]
      exact ⟨Stream.rdOf_readTo rd hjr, rfl, fun _ => ⟨Stream.relOf_releaseTo rel hjl, rfl, rfl⟩, nofun, nofun⟩
    | true =>
      cases hc : before rd (st.relOf j) with
      | true =>
        have ht : t = st.readTo j rd := Stream.hostCursors_of_short h hf hc
        rw [ht]
        exact ⟨Stream.rdOf_readTo rd hjr, rfl, nofun, fun _ _ => ⟨rfl, rfl, rfl⟩, nofun⟩
      | false =>
        have ht : t = ((st.readTo j rd).unforced j).releaseTo j rel := Stream.hostCursors_of_come h hf hc hj4
        rw [ht]
        exact ⟨Stream.rdOf_readTo rd hjr, rfl, nofun, nofun,
          fun _ _ => ⟨Stream.relOf_releaseTo rel hjl, Stream.forced_unforced _ hj4⟩⟩

end Sys2Proof.Machine

/-!
PROOF. Blazes that reach an element (21 R342), and what watches the fabric: comparators (05 R96), samples of the event
counters (R98, R100), and trail walks (R99).
-/
namespace Sys2Proof.Machine

/-! ### Blazes (R342) -/

theorem exec_blazeArrival (s : State) : exec .blazeArrival s = .next (s.blazeArrive s.cur.l s.cur.elem s.cur.cut) := rfl

theorem Launch.nodeBlaze_eq (x : Launch) (m : Nat) (nd : Node) :
    x.nodeBlaze m nd = blazeAt x.cuts (.node m) ((x.nodeIns m).map fun q => nd.inp q.1) := rfl

section
variable {s : State} {l n : Nat} {x : Launch} {k : CutKind} (hx : s.launch? l = some x) (hon : x.onFabric = true)
include hx hon

/-- A quiet actor copy whose inputs all hold the blaze records; then the sequencer may, and the cut may end. -/
theorem State.blazeArrive_of_actor {pl : PlaneId} (hb : x.blazeOf pl (s.plane pl) = some (k, n))
    (hl : (s.plane pl).launch = some l) (hq : s.quiet pl = true) :
    s.blazeArrive l (.actor pl) k = ((s.recordActor l x pl k n).recordMatrix l k).finishCut l k := by
  simp only [State.blazeArrive, hx, hon, hb, hl, hq, Bool.not_true, Bool.false_eq_true, and_self, if_true, if_false]

/-- A node whose inputs all hold the blaze records, and the rest follows as for an actor. -/
theorem State.blazeArrive_of_node {m : Nat} (hm : m < x.img.nodes.length)
    (hb : x.nodeBlaze m (Store.getD x.nodes m {}) = some (k, n)) :
    s.blazeArrive l (.node m) k = ((s.recordNode l x m k n).recordMatrix l k).finishCut l k := by
  simp only [State.blazeArrive, hx, hon, hb, hm, Bool.not_true, Bool.false_eq_true, and_self, if_true, if_false]

end

/-! ### Comparators (R96) -/

theorem exec_breakpointComparatorArm (s : State) :
    exec .breakpointComparatorArm s = .next (s.arm s.cur.ep (s.cur.val.setWidth 48) s.cur.flag) := rfl

theorem Endpoint.arm_of_room {e : Endpoint} (h : e.armed.length < 4) (o : BitVec 48) (pre : Bool) :
    e.arm o pre = { e with armed := e.armed ++ [(o, pre)] } := if_pos h

theorem Endpoint.arm_of_full {e : Endpoint} (h : 4 ≤ e.armed.length) (o : BitVec 48) (pre : Bool) : e.arm o pre = e :=
  if_neg (Nat.not_lt.mpr h)

/-- An input of a plane that a launch holds is armed in place, where that launch may be debugged (R371). -/
theorem State.arm_of_held {s : State} {pl : PlaneId} {l : Nat} {x : Launch} {a : ActorRec} (ha : s.actorOf pl = some (l, x, a))
    (hd : s.mayDebug x = true) (ch : Nat) (o : BitVec 48) (pre : Bool) :
    s.arm (.actor pl ch) o pre = s.modPlane pl fun p => { p with ins := Store.set p.ins ch ((p.inp ch).arm o pre) } := by
  simp only [State.arm, ha, hd, if_true]

/-! ### Samples of the event counters (R98, R100) -/

theorem exec_eventCounterOverflow_take {s : State} (h : s.cur.flag = false) :
    exec .eventCounterOverflow s = .next (s.takeSample s.cur.n s.cur.k) :=
  congrArg Host.Outcome.next (if_neg (ne_true_of_eq_false h))

theorem exec_eventCounterOverflow_drain {s : State} (h : s.cur.flag = true) :
    exec .eventCounterOverflow s = .next (s.drainSamples s.cur.g) :=
  congrArg Host.Outcome.next (if_pos h)

theorem State.modGlade_of_glade? {s : State} {i : Nat} {g : Glade} (h : s.glade? i = some g) (f : Glade → Glade) :
    s.modGlade i f = s.setGlade i (f g) := by
  rw [State.modGlade, h]

/-- The counter of a tile no longer stands at its overflow. -/
def State.clearOvf (s : State) (ix n : Nat) : State :=
  s.setTile ix { s.tile ix with perf := Store.set (s.tile ix).perf n { Store.getD (s.tile ix).perf n {} with ovf := none } }

/-- The sample of counter n that an overflow leaves. -/
def Ovf.sample (v : Ovf) (n : Nat) : Sample :=
  { blk := v.blk, slot := v.slot, pl := v.pl, ctr := n, ver := v.ver, cycle := v.cycle, ticket := v.ticket }

/-- A glade's ring after one more sample: a full ring counts it as lost. -/
def Glade.sampled (g : Glade) (v : Sample) : Glade :=
  if g.samples.length < sampleRing then { g with samples := g.samples ++ [v] } else { g with lost := g.lost + 1 }

theorem Glade.sampled_of_room {g : Glade} (v : Sample) (h : g.samples.length < sampleRing) :
    g.sampled v = { g with samples := g.samples ++ [v] } := if_pos h

theorem Glade.sampled_of_full {g : Glade} (v : Sample) (h : sampleRing ≤ g.samples.length) :
    g.sampled v = { g with lost := g.lost + 1 } := if_neg (Nat.not_lt.mpr h)

/-- The sample goes to the ring of the glade in whose columns the tile lies. -/
theorem State.takeSample_of_overflow {s : State} {ix n : Nat} {v : Ovf} {g : Glade}
    (hv : (Store.getD (s.tile ix).perf n {}).ovf = some v) (hg : s.glade? (s.gladeOf v.pl.col) = some g) :
    s.takeSample ix n = (s.clearOvf ix n).setGlade (s.gladeOf v.pl.col) (g.sampled (v.sample n)) := by
  have hg' : (s.clearOvf ix n).glade? ((s.clearOvf ix n).gladeOf v.pl.col) = some g := hg
  simp only [State.takeSample, hv]
  exact State.modGlade_of_glade? hg' _

/-- The debugger takes every sample of a ring that it may read. -/
theorem State.drainSamples_of_open {s : State} {i : Nat} {g : Glade} (hg : s.glade? i = some g)
    (hopen : (s.tenant g.tenant).confidential = false) :
    s.drainSamples i =
      State.setGlade { s with debugger := s.debugger ++ g.samples.map Sample.words } i { g with samples := [] } := by
  simp only [State.drainSamples, hg, hopen, Bool.false_and, Bool.false_eq_true, if_false]
  exact State.modGlade_of_glade? (s := { s with debugger := s.debugger ++ g.samples.map Sample.words }) hg _

/-! ### Trail walks (R99) -/

theorem exec_trailWalk (s : State) :
    exec .trailWalk s = .next (s.trailWalk s.cur.l (if s.cur.flag2 then .actor s.cur.pl else s.cur.elem) s.cur.flag s.cur.n) := rfl

/-- Whether a trail is the walk with these operands, not yet done. -/
structure Trail.Awaits (t : Trail) (l : Nat) (e : Elem) (back : Bool) (w : Nat) : Prop where
  lid : t.lid = l
  start : t.start = e
  back : t.back = back
  window : t.window = w
  reason : t.reason = none

section
variable {s : State} {l w : Nat} {x : Launch} {e : Elem} {back : Bool} (hx : s.launch? l = some x)
  (hd : s.mayDebug x = true) (hw : w ≠ 0)
include hx hd hw

/-- A first step opens the window on the counters as they are. -/
theorem State.trailWalk_of_none (ht : s.trail = none) :
    s.trailWalk l e back w =
      { s with trail := some { lid := l, start := e, back := back, window := w, since := s.cycle x.glade, base := s.chanCounts x } } := by
  simp only [State.trailWalk, hx, Option.filter_some, hd, ht, hw, if_true, if_false]

variable {t : Trail} (ht : s.trail = some t) (hawaits : t.Awaits l e back w)
include ht hawaits

/-- Within the window a step leaves everything as it is. -/
theorem State.trailWalk_of_within (hlast : t.last = none) : s.trailWalk l e back w = s := by
  obtain ⟨rfl, rfl, rfl, rfl, hreason⟩ := hawaits
  simp only [State.trailWalk, hx, Option.filter_some, hd, ht, hw, hreason, hlast, Option.isNone_none, and_self, if_true, if_false]

/-- Past the window a step walks, and leaves the lines and why the walk ended. -/
theorem State.trailWalk_of_past (hlast : t.last ≠ none) :
    s.trailWalk l e back w =
      { s with trail := some { t with lines := (s.trailGo x t 64 e []).1, reason := some (s.trailGo x t 64 e []).2 } } := by
  have hpast : t.last.isNone = false := Option.isNone_eq_false_iff.mpr (Option.isSome_iff_ne_none.mpr hlast)
  obtain ⟨rfl, rfl, rfl, rfl, hreason⟩ := hawaits
  simp only [State.trailWalk, hx, Option.filter_some, hd, ht, hw, hreason, hpast, Bool.false_eq_true, and_self, if_true, if_false]

end

/-- Settles O40: an arriving blaze, and each of the watchers. -/
theorem blazesAndWatching : Obligations.BlazesAndWatching := by
  refine ⟨?blazes, fun s l x ar => ⟨?armed, ?room, ?full, ?sample, ?drain, ?trail⟩⟩
  case blazes =>
    intro s x n l k hx hon
    refine ⟨fun pl he hb hl hq => ?actor, fun m he hm hb => ?node⟩
    case actor => rw [exec_blazeArrival, he, State.blazeArrive_of_actor hx hon hb hl hq]
    case node =>
      rw [← Launch.nodeBlaze_eq] at hb
      rw [exec_blazeArrival, he, State.blazeArrive_of_node hx hon hm hb]
  case armed =>
    intro q ch hep ha hd
    rw [exec_breakpointComparatorArm, hep, State.arm_of_held ha hd]
  case room =>
    intro e hroom o b
    rw [Endpoint.arm_of_room hroom]
  case full => exact fun e hfull o b => Endpoint.arm_of_full hfull o b
  case sample =>
    rintro hflag t v g rfl hv hg put
    refine ⟨fun hroom => ?kept, fun hfull => ?lost⟩
    case kept =>
      rw [exec_eventCounterOverflow_take hflag, State.takeSample_of_overflow hv hg, Glade.sampled_of_room _ hroom]
      rfl
    case lost =>
      rw [exec_eventCounterOverflow_take hflag, State.takeSample_of_overflow hv hg, Glade.sampled_of_full _ hfull]
      rfl
  case drain =>
    intro hflag g hg hopen
    rw [exec_eventCounterOverflow_drain hflag, State.drainSamples_of_open hg hopen]
  case trail =>
    intro y hy hd hw e
    refine ⟨fun ht => ?opens, fun t ht hlid hstart hback hwindow hreason => ?ends⟩
    case opens => rw [exec_trailWalk, State.trailWalk_of_none hy hd hw ht]
    case ends =>
      have hawaits : t.Awaits s.cur.l e s.cur.flag s.cur.n := ⟨hlid, hstart, hback, hwindow, hreason⟩
      refine ⟨fun hlast => ?within, fun hlast => ?past⟩
      case within => rw [exec_trailWalk, State.trailWalk_of_within hy hd hw ht hawaits hlast]
      case past => rw [exec_trailWalk, State.trailWalk_of_past hy hd hw ht hawaits hlast]

end Sys2Proof.Machine

/-!
PROOF. Scalar arithmetic (08 R165, R166; 06 R102): what the operations give at both targets, modulo 2^w and extended.
-/
namespace Sys2Proof.Machine

/-! ### What a pure instruction puts at its targets -/

/-- Where instruction `i` fires on `x` and its targets are free, it puts `oa` at target A, `ob` at target B and leaves no
effect for commit. -/
def Puts (i : Instr) (s : State) (x : FX) (tb ta : Tgt) (oa ob : Val) : Prop :=
  Fires i s x → x.free [(ta, oa), (tb, ob)] → exec i s = .next (x.out [(ta, oa), (tb, ob)] [])

section
variable {i : Instr} {s : State} {x : FX} {tb ta : Tgt} {sw : SW} {a b c : W64}

/-- An instruction of the shared frame puts what its action answers. -/
theorem Puts.of_action {k : FX → FR} {oa ob : Val} (hi : exec i s = fireWord i s k) (hk : k x = .go [(ta, oa), (tb, ob)] []) :
    Puts i s x tb ta oa ob := by
  intro hfires hfree
  rw [hi, fireWord_fires hfires, hk, fireOut_go [] hfree]

/-- One value at both targets (R165). -/
theorem Puts.of_outBoth {k : FX → FR} {o : Val} (hi : exec i s = fireWord i s k) (hk : k x = outBoth tb ta o) :
    Puts i s x tb ta o o := .of_action hi hk

/-! ### Operand forms (R143) -/

theorem need1_of_s64 (k : W64 → FR) (ha : x.a.s64 = some a) : need1 x k = k a := by
  simp only [need1, ha]

theorem need2_of_s64 (k : W64 → W64 → FR) (ha : x.a.s64 = some a) (hb : x.b.s64 = some b) : need2 x k = k a b := by
  simp only [need2, ha, hb]

theorem need3_of_s64 (k : W64 → W64 → W64 → FR) (ha : x.a.s64 = some a) (hb : x.b.s64 = some b) (hc : x.c.s64 = some c) :
    need3 x k = k a b c := by
  simp only [need3, ha, hb, hc]

/-- A scalar instruction of one operand puts what its action on that operand answers. -/
theorem Puts.need1 {k : W64 → FR} {oa ob : Val} (hi : exec i s = fireWord i s fun x => need1 x k) (ha : x.a.s64 = some a)
    (hk : k a = .go [(ta, oa), (tb, ob)] []) : Puts i s x tb ta oa ob :=
  .of_action hi ((need1_of_s64 k ha).trans hk)

/-- One of two operands. -/
theorem Puts.need2 {k : W64 → W64 → FR} {oa ob : Val} (hi : exec i s = fireWord i s fun x => need2 x k)
    (ha : x.a.s64 = some a) (hb : x.b.s64 = some b) (hk : k a b = .go [(ta, oa), (tb, ob)] []) : Puts i s x tb ta oa ob :=
  .of_action hi ((need2_of_s64 k ha hb).trans hk)

/-- One of three operands. -/
theorem Puts.need3 {k : W64 → W64 → W64 → FR} {oa ob : Val} (hi : exec i s = fireWord i s fun x => need3 x k)
    (ha : x.a.s64 = some a) (hb : x.b.s64 = some b) (hc : x.c.s64 = some c) (hk : k a b c = .go [(ta, oa), (tb, ob)] []) :
    Puts i s x tb ta oa ob :=
  .of_action hi ((need3_of_s64 k ha hb hc).trans hk)

/-- An operation of one operand, whose number at w bits is `r`. -/
theorem Puts.scal1 {op : Nat → Nat → Int} {r : Int} (hi : exec i s = fireWord i s (scal1 sw tb ta op)) (ha : x.a.s64 = some a)
    (hr : op (swWidth sw) (a.toNat % 2 ^ swWidth sw) = r) :
    Puts i s x tb ta (scalarVal (swExtend sw r) (swTag sw)) (scalarVal (swExtend sw r) (swTag sw)) := by
  subst hr
  exact .need1 hi ha rfl

/-- An operation of two operands, whose number at w bits is `r`. -/
theorem Puts.scal2 {op : Nat → Nat → Nat → Int} {r : Int} (hi : exec i s = fireWord i s (scal2 sw tb ta op))
    (ha : x.a.s64 = some a) (hb : x.b.s64 = some b)
    (hr : op (swWidth sw) (a.toNat % 2 ^ swWidth sw) (b.toNat % 2 ^ swWidth sw) = r) :
    Puts i s x tb ta (scalarVal (swExtend sw r) (swTag sw)) (scalarVal (swExtend sw r) (swTag sw)) := by
  subst hr
  exact .need2 hi ha hb rfl

end

/-! ### The operations at w bits -/

section
variable (w u v : Nat)

theorem opMin_eq_ite : opMin w u v = if sgn w u ≤ sgn w v then sgn w u else sgn w v := Int.min_def ..
theorem opMax_eq_ite : opMax w u v = if sgn w u ≤ sgn w v then sgn w v else sgn w u := Int.max_def ..
theorem opMinu_eq_ite : opMinu w u v = if u ≤ v then (u : Int) else v := by
  rw [opMinu, Nat.min_def, apply_ite (Nat.cast : Nat → Int)]
theorem opMaxu_eq_ite : opMaxu w u v = if u ≤ v then (v : Int) else u := by
  rw [opMaxu, Nat.max_def, apply_ite (Nat.cast : Nat → Int)]

variable {v} in
/-- Division by zero (R102). -/
theorem opDiv_zero (h : v = 0) :
    opDiv w u v = -1 ∧ opDivu w u v = (2 ^ w : Nat) - 1 ∧ opRem w u v = u ∧ opRemu w u v = u :=
  ⟨if_pos h, if_pos h, if_pos h, if_pos h⟩

variable {v} in
/-- Division by another number (R102). -/
theorem opDiv_of_ne_zero (h : v ≠ 0) :
    opDiv w u v = (sgn w u).tdiv (sgn w v) ∧ opDivu w u v = (u / v : Nat) ∧
      opRem w u v = (sgn w u).tmod (sgn w v) ∧ opRemu w u v = (u % v : Nat) :=
  ⟨if_neg h, if_neg h, if_neg h, if_neg h⟩

theorem opShl_eq_mul : opShl w u v = (u * 2 ^ (v % w) : Nat) := by rw [opShl, Nat.shiftLeft_eq]
theorem opShr_eq_div : opShr w u v = (u / 2 ^ (v % w) : Nat) := by rw [opShr, Nat.shiftRight_eq_div_pow]
theorem opRotl_eq_or : opRotl w u v = (u * 2 ^ (v % w) ||| u / 2 ^ (w - v % w) : Nat) := by
  rw [opRotl, Nat.shiftLeft_eq, Nat.shiftRight_eq_div_pow]
theorem opRotr_eq_or : opRotr w u v = (u / 2 ^ (v % w) ||| u * 2 ^ (w - v % w) : Nat) := by
  rw [opRotr, Nat.shiftLeft_eq, Nat.shiftRight_eq_div_pow]

end

/-- Settles O1: each operation puts the number of its equation at w bits. -/
theorem scalarArithmetic : Obligations.ScalarArithmetic := by
  refine ⟨?arithmetic, ?division, ?logic⟩
  case arithmetic =>
    intro pr sw tb ta s x a b ha hb w u v gives
    exact ⟨Puts.scal2 (op := opAdd) rfl ha hb rfl, Puts.scal2 (op := opSub) rfl ha hb rfl,
      Puts.scal2 (op := opMul) rfl ha hb rfl, Puts.scal2 (op := opMulh) rfl ha hb rfl,
      Puts.scal2 (op := opMulhu) rfl ha hb rfl, Puts.scal2 rfl ha hb (opMin_eq_ite w u v),
      Puts.scal2 rfl ha hb (opMax_eq_ite w u v), Puts.scal2 rfl ha hb (opMinu_eq_ite w u v),
      Puts.scal2 rfl ha hb (opMaxu_eq_ite w u v)⟩
  case division =>
    intro pr sw tb ta s x a b ha hb w u v gives
    refine ⟨fun hv => ?zero, fun hv => ?nonzero⟩
    case zero =>
      obtain ⟨hdiv, hdivu, hrem, hremu⟩ := opDiv_zero w u hv
      exact ⟨Puts.scal2 rfl ha hb hdiv, Puts.scal2 rfl ha hb hdivu, Puts.scal2 rfl ha hb hrem, Puts.scal2 rfl ha hb hremu⟩
    case nonzero =>
      obtain ⟨hdiv, hdivu, hrem, hremu⟩ := opDiv_of_ne_zero w u hv
      exact ⟨Puts.scal2 rfl ha hb hdiv, Puts.scal2 rfl ha hb hdivu, Puts.scal2 rfl ha hb hrem, Puts.scal2 rfl ha hb hremu⟩
  case logic =>
    intro pr sw tb ta s x a b ha hb w u v n gives
    exact ⟨Puts.scal2 (op := opAnd) rfl ha hb rfl, Puts.scal2 (op := opOr) rfl ha hb rfl,
      Puts.scal2 (op := opXor) rfl ha hb rfl, Puts.scal2 (op := opAndn) rfl ha hb rfl,
      Puts.scal2 rfl ha hb (opShl_eq_mul w u v), Puts.scal2 rfl ha hb (opShr_eq_div w u v),
      Puts.scal2 (op := opSra) rfl ha hb rfl, Puts.scal2 rfl ha hb (opRotl_eq_or w u v),
      Puts.scal2 rfl ha hb (opRotr_eq_or w u v)⟩

end Sys2Proof.Machine

/-!
PROOF. Scalar functions of one and three operands, carries, addresses, bit fields and tests (06 R102; 08 R156, R166 to R171).
-/
namespace Sys2Proof.Machine

/-! ### Masks bit by bit -/

/-- A number built bit by bit, as a sum. -/
theorem foldl_bits_eq_sum (f : Nat → Bool) (l : List Nat) :
    l.foldl (fun acc j => if f j then acc + 2 ^ j else acc) 0 = (l.map fun j => (f j).toNat * 2 ^ j).sum := by
  have hstep (acc j : Nat) : (if f j then acc + 2 ^ j else acc) = acc + (f j).toNat * 2 ^ j := by cases f j <;> simp
  simp only [hstep, List.sum_eq_foldl, List.foldl_map]

theorem sum_bits_lt (f : Nat → Bool) (n : Nat) : ((List.range n).map fun j => (f j).toNat * 2 ^ j).sum < 2 ^ n := by
  induction n with
  | zero => exact Nat.one_pos
  | succ n ih =>
    have hbit : (f n).toNat * 2 ^ n ≤ 1 * 2 ^ n := Nat.mul_le_mul_right _ (Bool.toNat_le _)
    simp only [List.range_succ, List.map_append, List.sum_append, List.map_cons, List.map_nil, List.sum_singleton, Nat.pow_succ]
    omega

/-- The bits of a number built bit by bit. -/
theorem testBit_sum_bits (f : Nat → Bool) (n j : Nat) :
    (((List.range n).map fun j => (f j).toNat * 2 ^ j).sum).testBit j = (decide (j < n) && f j) := by
  induction n with
  | zero => simp
  | succ n ih =>
    have hlt := sum_bits_lt f n
    simp only [List.range_succ, List.map_append, List.sum_append, List.map_cons, List.map_nil, List.sum_singleton]
    rw [Nat.add_comm, Nat.mul_comm, Nat.testBit_two_pow_mul_add _ hlt]
    obtain hj | rfl | hj := Nat.lt_trichotomy j n
    · rw [if_pos hj, ih]
      simp [hj, Nat.lt_succ_of_lt hj]
    · cases f j <;> simp
    · have hpos : j - n ≠ 0 := by omega
      rw [if_neg (by omega), Nat.testBit_lt_two_pow (Nat.lt_of_le_of_lt (Bool.toNat_le _) (Nat.one_lt_two_pow hpos))]
      simp [Nat.not_lt.mpr hj]

/-- A bit of a mask built from a predicate on lane numbers. -/
@[simp] theorem getLsbD_mkMask (f : Nat → Bool) (j : Nat) : (mkMask f).getLsbD j = (decide (j < 64) && f j) := by
  rw [mkMask, foldl_bits_eq_sum, BitVec.getLsbD_ofNat, testBit_sum_bits]
  cases decide (j < 64) <;> rfl

/-- A word is the mask of its bits. -/
theorem eq_mkMask {m : W64} {f : Nat → Bool} (h : ∀ j < 64, m.getLsbD j = f j) : m = mkMask f :=
  BitVec.eq_of_getLsbD_eq fun j hj => by rw [getLsbD_mkMask, h j hj, decide_eq_true hj, Bool.true_and]

/-! ### Counts and reversals (R102) -/

theorem clz_eq {w u k : Nat} (h : u = 0 ∧ k = w ∨ 2 ^ (w - 1 - k) ≤ u ∧ u < 2 ^ (w - k) ∧ k < w) : clz w u = k := by
  obtain ⟨rfl, rfl⟩ | ⟨hlo, hhi, hk⟩ := h
  · rfl
  · have hu : u ≠ 0 := Nat.ne_of_gt (Nat.lt_of_lt_of_le (Nat.two_pow_pos _) hlo)
    have hlog : Nat.log2 u = w - 1 - k :=
      (Nat.log2_eq_iff hu).mpr ⟨hlo, by rwa [show w - 1 - k + 1 = w - k by omega]⟩
    rw [clz, if_neg hu, hlog]
    omega

/-- A number whose low k + 1 bits are 2^k has no bit below bit k, and has bit k. -/
theorem testBit_eq_false_of_mod {u k j : Nat} (h : u % 2 ^ (k + 1) = 2 ^ k) (hj : j < k) : u.testBit j = false := by
  have hbit := Nat.testBit_mod_two_pow u (k + 1) j
  rw [h, Nat.testBit_two_pow_of_ne (by omega)] at hbit
  simpa [show j < k + 1 by omega] using hbit.symm

theorem testBit_eq_true_of_mod {u k : Nat} (h : u % 2 ^ (k + 1) = 2 ^ k) : u.testBit k = true := by
  have hbit := Nat.testBit_mod_two_pow u (k + 1) k
  rw [h, Nat.testBit_two_pow_self] at hbit
  simpa using hbit.symm

theorem ctz_eq {w u k : Nat} (h : u = 0 ∧ k = w ∨ u % 2 ^ (k + 1) = 2 ^ k ∧ k < w) : ctz w u = k := by
  obtain ⟨rfl, rfl⟩ | ⟨hmod, hk⟩ := h
  · have hfind : (List.range k).find? (fun j => (0 : Nat).testBit j) = none := by simp
    rw [ctz, hfind, Option.getD_none]
  · have hfind : (List.range w).find? (fun j => u.testBit j) = some k := by
      rw [List.find?_range_eq_some]
      refine ⟨testBit_eq_true_of_mod hmod, List.mem_range.mpr hk, fun j hj => ?_⟩
      simp [testBit_eq_false_of_mod hmod hj]
    rw [ctz, hfind, Option.getD_some]

theorem length_filter_eq_sum (p : Nat → Bool) (l : List Nat) : (l.filter p).length = (l.map fun j => (p j).toNat).sum := by
  induction l with
  | nil => rfl
  | cons j t ih => cases hj : p j <;> simp [hj, ih, Nat.add_comm]

theorem popc_eq_sum (w u : Nat) : popc w u = ((List.range w).map fun j => u / 2 ^ j % 2).sum := by
  simp only [popc, length_filter_eq_sum, Nat.toNat_testBit]

theorem opBrev_eq_sum (w u : Nat) :
    opBrev w u = (((List.range w).map fun j => u / 2 ^ (w - 1 - j) % 2 * 2 ^ j).sum : Nat) := by
  rw [opBrev, foldl_bits_eq_sum]
  simp only [Nat.toNat_testBit]

theorem opBswap_eq_sum (w u : Nat) :
    opBswap w u = (((List.range (w / 8)).map fun j => u / 256 ^ (w / 8 - 1 - j) % 256 * 256 ^ j).sum : Nat) := by
  rw [opBswap, List.sum_eq_foldl, List.foldl_map]
  simp only [Nat.pow_mul, Nat.reducePow]

/-! ### Carries, addresses and bit fields (R168 to R170) -/

theorem carryOut_eq_ite (w u v z : Nat) : carryOut w u v z = if decide (2 ^ w ≤ u + v + z) then 1#64 else 0#64 := by
  simp only [carryOut, decide_eq_true_eq]

theorem borrowOut_eq_ite (u v z : Nat) : borrowOut u v z = if decide (u < v + z) then 1#64 else 0#64 := by
  have hneg : ((u : Int) - v - z < 0) ↔ u < v + z := by omega
  simp only [borrowOut, hneg, decide_eq_true_eq]

theorem ofNat_toNat_mul (b : W64) (n : Nat) : BitVec.ofNat 64 (b.toNat * n) = b * BitVec.ofNat 64 n := by
  rw [BitVec.ofNat_mul, BitVec.ofNat_toNat, BitVec.setWidth_eq]

theorem fieldPos_eq (c : W64) : fieldPos c = c.toNat % 64 := by
  simp [fieldPos, bitsOf]

theorem fieldLen_eq (c : W64) : fieldLen c = c.toNat / 256 % 64 + 1 := by
  simp [fieldLen, bitsOf]

/-- A field of `n` bits of `b` inserted into `a` at `p`, bit by bit (R170). -/
theorem insertField_eq_mkMask (a b : W64) (p n : Nat) :
    (a &&& ~~~BitVec.ofNat 64 ((2 ^ n - 1) <<< p)) ||| (BitVec.ofNat 64 (b.toNat <<< p) &&& BitVec.ofNat 64 ((2 ^ n - 1) <<< p)) =
      mkMask fun j => if p ≤ j ∧ j < p + n then b.getLsbD (j - p) else a.getLsbD j := by
  refine eq_mkMask fun j hj => ?_
  have hfield : (BitVec.ofNat 64 ((2 ^ n - 1) <<< p)).getLsbD j = decide (p ≤ j ∧ j < p + n) := by
    have hlen : p ≤ j ∧ j < p + n ↔ j ≥ p ∧ j - p < n := by omega
    rw [BitVec.getLsbD_ofNat, Nat.testBit_shiftLeft, Nat.testBit_two_pow_sub_one, decide_eq_true hj, Bool.true_and,
      ← Bool.decide_and, decide_eq_decide]
    exact hlen.symm
  rw [BitVec.getLsbD_or, BitVec.getLsbD_and, BitVec.getLsbD_and, BitVec.getLsbD_not, hfield, decide_eq_true hj]
  by_cases hin : p ≤ j ∧ j < p + n
  · have hbit : (BitVec.ofNat 64 (b.toNat <<< p)).getLsbD j = b.getLsbD (j - p) := by
      rw [BitVec.getLsbD_ofNat, Nat.testBit_shiftLeft, BitVec.testBit_toNat, decide_eq_true hj, decide_eq_true hin.1,
        Bool.true_and, Bool.true_and]
    simp only [hbit, hin, and_self, if_true, decide_true, Bool.not_true, Bool.and_false, Bool.false_or, Bool.and_true]
  · simp only [hin, if_false, decide_false, Bool.not_false, Bool.and_true, Bool.and_false, Bool.or_false]

/-! ### Tests (R156) -/

/-- TST answers 1 where its condition holds of its operands at w bits, and 0 where it does not. -/
theorem Puts.tst {pr : PR} {cond : Cond} {w32 : Bool} {tb ta : Tgt} {s : State} {x : FX} {a b r : W64} {p : Prop}
    (ha : x.a.s64 = some a) (hb : x.b.s64 = some b)
    (hp : testCond cond (if w32 then 32 else 64) (a.toNat % 2 ^ (if w32 then 32 else 64)) (b.toNat % 2 ^ (if w32 then 32 else 64))
      = true ↔ p)
    (hr : p ∧ r = 1#64 ∨ ¬p ∧ r = 0#64) :
    Puts (.tst pr cond w32 tb ta) s x tb ta (scalarVal r .u64) (scalarVal r .u64) := by
  refine .need2 rfl ha hb ?_
  obtain ⟨h, rfl⟩ | ⟨h, rfl⟩ := hr
  · exact congrArg (fun r => outBoth tb ta (scalarVal r .u64)) (if_pos (hp.mpr h))
  · exact congrArg (fun r => outBoth tb ta (scalarVal r .u64)) (if_neg (mt hp.mp h))

/-- Settles O2: the equation of each operation at w bits, and of the second results and bit fields. -/
theorem scalarFunctions : Obligations.ScalarFunctions := by
  refine ⟨?one, ?three, ?tests⟩
  case one =>
    intro pr sw xw tb ta s x a ha w u puts gives
    exact ⟨Puts.scal1 (op := opNeg) rfl ha rfl, Puts.scal1 (op := opAbs) rfl ha rfl, Puts.scal1 (op := opNot) rfl ha rfl,
      fun k hk => Puts.scal1 (op := opClz) rfl ha (congrArg Nat.cast (clz_eq hk)),
      fun k hk => Puts.scal1 (op := opCtz) rfl ha (congrArg Nat.cast (ctz_eq hk)),
      Puts.scal1 (op := opPopc) rfl ha (congrArg Nat.cast (popc_eq_sum w u)),
      Puts.scal1 rfl ha (opBrev_eq_sum w u), Puts.scal1 rfl ha (opBswap_eq_sum w u),
      Puts.need1 rfl ha rfl, Puts.need1 rfl ha rfl⟩
  case three =>
    intro pr sw s2 sx tb ta s x a b c ha hb hc w u v z pos len ipos ilen puts same flag
    refine ⟨?madd, ?addc, ?subb, ?lea, ?bfx, ?bfi⟩
    case madd => exact Puts.need3 rfl ha hb hc rfl
    case addc =>
      refine Puts.need3 rfl ha hb hc ?_
      dsimp only
      rw [carryOut_eq_ite]
      rfl
    case subb =>
      refine Puts.need3 rfl ha hb hc ?_
      dsimp only
      rw [borrowOut_eq_ite]
      rfl
    case lea =>
      refine Puts.need2 rfl ha hb ?_
      rw [ofNat_toNat_mul]
      rfl
    case bfx =>
      refine Puts.need2 rfl ha hb ?_
      rw [fieldPos_eq, fieldLen_eq, Nat.shiftRight_eq_div_pow]
      rfl
    case bfi =>
      refine Puts.need3 rfl ha hb hc ?_
      dsimp only
      rw [fieldPos_eq, fieldLen_eq, insertField_eq_mkMask]
      rfl
  case tests =>
    intro pr w32 tb ta s x a b ha hb w u v gives
    exact ⟨fun r => Puts.tst ha hb decide_eq_true_iff, fun r => Puts.tst ha hb decide_eq_true_iff,
      fun r => Puts.tst ha hb decide_eq_true_iff, fun r => Puts.tst ha hb decide_eq_true_iff,
      fun r => Puts.tst ha hb decide_eq_true_iff, fun r => Puts.tst ha hb decide_eq_true_iff,
      fun r => Puts.tst ha hb decide_eq_true_iff, fun r => Puts.tst ha hb decide_eq_true_iff⟩

end Sys2Proof.Machine

/-!
PROOF. Lane-wise operations on integers and floats (06 R101, R107; 09 R173, R174, R176, R177, R179).
-/
namespace Sys2Proof.Machine

/-! ### Element types -/

theorem tyInt_of_mem_intTy {ty : ETy} (h : ty ∈ intTy) : tyInt ty = true := List.contains_iff_mem.mpr h

theorem tyInt_of_mem_fltTy {ty : ETy} (h : ty ∈ fltTy) : tyInt ty = false := by
  have hall : ∀ t ∈ fltTy, tyInt t = false := by decide
  exact hall ty h

/-! ### What a lane-wise instruction gives -/

section
variable {i : Instr} {s : State} {x : FX} {tb ta : Tgt} {ty : ETy} {act : W64}

/-- Integer lanes: the active lanes hold their numbers in canonical form, the others 0 (R101, R174). -/
theorem Puts.of_vecOut_int {k : FX → FR} {op : Nat → LR} {r : Nat → Int} (hi : exec i s = fireWord i s k)
    (hk : k x = vecOut tb ta ty act op) (hop : ∀ j, op j = laneInt ty (r j)) :
    Puts i s x tb ta (vecVal (mkLanes fun j => if bitAt act j then canon ty (r j) else 0#64) ty act)
      (vecVal (mkLanes fun j => if bitAt act j then canon ty (r j) else 0#64) ty act) :=
  .of_outBoth hi (hk.trans (vecOut_int tb ta ty fun j _ _ => hop j))

/-- An instruction raises F_ARITH where it fires (R107). -/
def RaisesArith (i : Instr) (s : State) (x : FX) : Prop :=
  Fires i s x → exec i s = .next (x.s.blockFault x.pl .arith 0 x.slot 0#64)

theorem RaisesArith.of_action {k : FX → FR} (hi : exec i s = fireWord i s k) (hk : k x = .fault .arith 0 0#64) :
    RaisesArith i s x := by
  intro hfires
  rw [hi, fireWord_fires hfires, hk, fireOut_fault]

/-- A lane-wise instruction whose lane operation is `lane`: its codes stand in the active lanes, and it raises F_ARITH where
an active lane does (R107, R174). -/
def GivesLanes (i : Instr) (s : State) (x : FX) (tb ta : Tgt) (ty : ETy) (act : W64) (lane : Nat → LR) : Prop :=
  (∀ g : Nat → Nat, (∀ j < 64, bitAt act j = true → lane j = .ok (g j)) →
    let o := vecVal (mkLanes fun j => if bitAt act j then BitVec.ofNat 64 (g j) else 0#64) ty act
    Puts i s x tb ta o o) ∧
  (∀ j < 64, bitAt act j = true → lane j = .arith → RaisesArith i s x)

theorem GivesLanes.of_vecOut {k : FX → FR} {op lane : Nat → LR} (hi : exec i s = fireWord i s k)
    (hk : k x = vecOut tb ta ty act op) (hop : ∀ j, op j = lane j) : GivesLanes i s x tb ta ty act lane := by
  obtain rfl : op = lane := funext hop
  exact ⟨fun _ hg => .of_outBoth hi (hk.trans (vecOut_ok tb ta ty hg)),
    fun _ hj hb harith => .of_action hi (hk.trans (vecOut_arith tb ta ty hj hb harith))⟩

/-! ### Data operands (R173) -/

theorem data1_of_isData (k : FR) (ha : x.a.isData ty = true) : data1 ty x k = k := if_pos ha

theorem data2_of_isData (k : FR) (ha : x.a.isData ty = true) (hb : x.b.isData ty = true) : data2 ty x k = k :=
  if_pos (Bool.and_eq_true_iff.mpr ⟨ha, hb⟩)

theorem data3_of_isData (k : FR) (ha : x.a.isData ty = true) (hb : x.b.isData ty = true) (hc : x.c.isData ty = true) :
    data3 ty x k = k :=
  if_pos (Bool.and_eq_true_iff.mpr ⟨Bool.and_eq_true_iff.mpr ⟨ha, hb⟩, hc⟩)

theorem vec1_eq_vecOut (f : W32 → W64 → LR) (ha : x.a.isData ty = true) :
    vec1 ty tb ta f x = vecOut tb ta ty x.a.lmask fun j => f x.p.npol (laneAt x.a.lanes j) :=
  data1_of_isData _ ha

theorem vec3_eq_vecOut (f : W32 → W64 → W64 → W64 → LR) (ha : x.a.isData ty = true) (hb : x.b.isData ty = true)
    (hc : x.c.isData ty = true) :
    vec3 ty tb ta f x = vecOut tb ta ty (x.a.lmask &&& x.b.lmask &&& x.c.lmask) fun j =>
      f x.p.npol (laneAt x.a.lanes j) (laneAt x.b.lanes j) (laneAt x.c.lanes j) :=
  data3_of_isData _ ha hb hc

/-- A count operand is any VECTOR (R176). -/
theorem shiftVec_eq_vecOut (op : Nat → Nat → Nat → Int) (ha : x.a.isData ty = true) (hb : x.b.shape = .vector) :
    shiftVec op ty tb ta x = vecOut tb ta ty x.a.lmask fun j =>
      laneInt ty (op (tyWidth ty) (lowBits (tyWidth ty) (laneAt x.a.lanes j)) (lowBits 6 (laneAt x.b.lanes j))) :=
  if_pos (Bool.and_eq_true_iff.mpr ⟨ha, decide_eq_true hb⟩)

/-- Two operands of an integer type. -/
theorem vec2_eq_vecOut_int (fi : Nat → Nat → Nat → Int) (ff : W32 → Fmt → FV → FV → LR) (hty : tyInt ty = true)
    (ha : x.a.isData ty = true) (hb : x.b.isData ty = true) :
    vec2 ty tb ta fi ff x = vecOut tb ta ty (x.a.lmask &&& x.b.lmask) fun j => laneInt ty
      (fi (tyWidth ty) (lowBits (tyWidth ty) (laneAt x.a.lanes j)) (lowBits (tyWidth ty) (laneAt x.b.lanes j))) := by
  simp only [vec2, data2_of_isData _ ha hb, hty, if_true, act2]

/-- One operand of a floating-point type. -/
theorem GivesLanes.vec1 {f : W32 → W64 → LR} {lane : Nat → LR} (hi : exec i s = fireWord i s (vec1 ty tb ta f))
    (ha : x.a.isData ty = true) (hop : ∀ j, f x.p.npol (laneAt x.a.lanes j) = lane j) :
    GivesLanes i s x tb ta ty x.a.lmask lane :=
  .of_vecOut hi (vec1_eq_vecOut f ha) hop

/-- Two operands of a floating-point type. -/
theorem vec2_eq_vecOut_float (fi : Nat → Nat → Nat → Int) (ff : W32 → Fmt → FV → FV → LR) (hty : tyInt ty = false)
    (ha : x.a.isData ty = true) (hb : x.b.isData ty = true) :
    vec2 ty tb ta fi ff x = vecOut tb ta ty (x.a.lmask &&& x.b.lmask) fun j =>
      ff x.p.npol (fmtOf ty) (laneF x.p.npol ty (laneAt x.a.lanes j)) (laneF x.p.npol ty (laneAt x.b.lanes j)) := by
  simp only [vec2, data2_of_isData _ ha hb, hty, Bool.false_eq_true, if_false, act2]

theorem GivesLanes.vec2 {fi : Nat → Nat → Nat → Int} {ff : W32 → Fmt → FV → FV → LR} {lane : Nat → LR}
    (hi : exec i s = fireWord i s (vec2 ty tb ta fi ff)) (hty : tyInt ty = false) (ha : x.a.isData ty = true)
    (hb : x.b.isData ty = true)
    (hop : ∀ j, ff x.p.npol (fmtOf ty) (laneF x.p.npol ty (laneAt x.a.lanes j)) (laneF x.p.npol ty (laneAt x.b.lanes j)) = lane j) :
    GivesLanes i s x tb ta ty (x.a.lmask &&& x.b.lmask) lane :=
  .of_vecOut hi (vec2_eq_vecOut_float fi ff hty ha hb) hop

end

/-! ### The operation of one lane -/

/-- The action of VMIN and VMAX (R177). -/
def minmaxVec (mx : Bool) (ty : ETy) (tb ta : Tgt) (x : FX) : FR :=
  data2 ty x (vecOut tb ta ty (act2 x) fun j => minmaxLane mx ty x.p.npol (laneAt x.a.lanes j) (laneAt x.b.lanes j))

theorem exec_vmin (pr : PR) (ty : ETy) (tb ta : Tgt) (s : State) :
    exec (.vmin pr ty tb ta) s = fireWord (.vmin pr ty tb ta) s (minmaxVec false ty tb ta) := rfl
theorem exec_vmax (pr : PR) (ty : ETy) (tb ta : Tgt) (s : State) :
    exec (.vmax pr ty tb ta) s = fireWord (.vmax pr ty tb ta) s (minmaxVec true ty tb ta) := rfl

theorem minmaxVec_eq_vecOut {ty : ETy} {x : FX} (mx : Bool) (tb ta : Tgt) (ha : x.a.isData ty = true) (hb : x.b.isData ty = true) :
    minmaxVec mx ty tb ta x = vecOut tb ta ty (x.a.lmask &&& x.b.lmask) fun j =>
      minmaxLane mx ty x.p.npol (laneAt x.a.lanes j) (laneAt x.b.lanes j) :=
  data2_of_isData _ ha hb

section
variable {ty : ETy} (np : W32) (a b c : W64)

theorem minmaxLane_int (mx : Bool) (h : tyInt ty = true) : minmaxLane mx ty np a b =
    laneInt ty (if mx then (if intOf ty a ≤ intOf ty b then intOf ty b else intOf ty a)
      else if intOf ty a ≤ intOf ty b then intOf ty a else intOf ty b) := by
  simp only [minmaxLane, h, if_true, Int.max_def, Int.min_def]

theorem minmaxLane_float (mx : Bool) (h : tyInt ty = false) :
    minmaxLane mx ty np a b = minmaxF np (fmtOf ty) mx (codeF np ty a) (codeF np ty b) := by
  simp only [minmaxLane, h, Bool.false_eq_true, if_false]

theorem signLane_abs_int (h : tyInt ty = true) :
    signLane false ty np a = laneInt ty (if tySigned ty then ((intOf ty a).natAbs : Int) else intOf ty a) := by
  simp only [signLane, h, Bool.false_eq_true, if_true, if_false]

theorem signLane_neg_int (h : tyInt ty = true) : signLane true ty np a = laneInt ty (-(intOf ty a)) := by
  simp only [signLane, h, if_true]

theorem fmaLane_int (sub : Bool) (h : tyInt ty = true) : fmaLane sub ty np a b c =
    laneInt ty ((lowBits (tyWidth ty) a : Int) * lowBits (tyWidth ty) b +
      (if sub then -(lowBits (tyWidth ty) c : Int) else lowBits (tyWidth ty) c)) := by
  simp only [fmaLane, h, if_true]

theorem fmaLane_float (sub : Bool) (h : tyInt ty = false) : fmaLane sub ty np a b c =
    fmaF np (fmtOf ty) (laneF np ty a) (laneF np ty b) (if sub then negFV (laneF np ty c) else laneF np ty c) := by
  simp only [fmaLane, h, Bool.false_eq_true, if_false]

end

/-- An operation of two operands that depends on the sign of the type (R176). -/
theorem opSel_apply (ty : ETy) (f g : Nat → Nat → Nat → Int) (w u v : Nat) :
    opSel ty f g w u v = if tySigned ty then f w u v else g w u v := by
  cases h : tySigned ty <;> simp [opSel, h]

/-- Settles O6: each instruction is lane-wise, and its lane operation has the stated number. -/
theorem vectorIntegers : Obligations.VectorIntegers := by
  intro pr ty tb ta s x hmem w u z gives m1 m2 m3
  have hty := tyInt_of_mem_intTy hmem
  refine ⟨fun ha => ?one, fun ha hb => ?two, fun ha hb hc => ?three⟩
  case one =>
    refine ⟨Puts.of_vecOut_int rfl (vec1_eq_vecOut _ ha) fun j => signLane_abs_int _ _ hty,
      Puts.of_vecOut_int rfl (vec1_eq_vecOut _ ha) fun j => signLane_neg_int _ _ hty,
      Puts.of_vecOut_int rfl (vec1_eq_vecOut _ ha) fun j => rfl, Puts.of_vecOut_int rfl (vec1_eq_vecOut _ ha) fun j => rfl,
      fun hb => ?shifts⟩
    case shifts =>
      intro n
      exact ⟨Puts.of_vecOut_int rfl (shiftVec_eq_vecOut _ ha hb) fun j => congrArg (laneInt ty) (opShl_eq_mul w _ _),
        Puts.of_vecOut_int rfl (shiftVec_eq_vecOut _ ha hb) fun j => congrArg (laneInt ty) (opShr_eq_div w _ _),
        Puts.of_vecOut_int rfl (shiftVec_eq_vecOut _ ha hb) fun j => rfl⟩
  case two =>
    have hvec2 := fun fi ff => vec2_eq_vecOut_int (tb := tb) (ta := ta) fi ff hty ha hb
    exact ⟨Puts.of_vecOut_int rfl (hvec2 opAdd addF) fun j => rfl, Puts.of_vecOut_int rfl (hvec2 opSub _) fun j => rfl,
      Puts.of_vecOut_int rfl (hvec2 opMul mulF) fun j => rfl,
      Puts.of_vecOut_int rfl (hvec2 _ _) fun j => congrArg (laneInt ty) (opSel_apply ty opMulh opMulhu w _ _),
      Puts.of_vecOut_int rfl (hvec2 _ _) fun j => congrArg (laneInt ty) (opSel_apply ty opDiv opDivu w _ _),
      Puts.of_vecOut_int rfl (hvec2 opAnd _) fun j => rfl, Puts.of_vecOut_int rfl (hvec2 opOr _) fun j => rfl,
      Puts.of_vecOut_int rfl (hvec2 opXor _) fun j => rfl,
      Puts.of_vecOut_int (exec_vmin ..) (minmaxVec_eq_vecOut false _ _ ha hb) fun j => minmaxLane_int _ _ _ false hty,
      Puts.of_vecOut_int (exec_vmax ..) (minmaxVec_eq_vecOut true _ _ ha hb) fun j => minmaxLane_int _ _ _ true hty⟩
  case three =>
    exact ⟨Puts.of_vecOut_int rfl (vec3_eq_vecOut _ ha hb hc) fun j => fmaLane_int _ _ _ _ false hty,
      Puts.of_vecOut_int rfl (vec3_eq_vecOut _ ha hb hc) fun j => fmaLane_int _ _ _ _ true hty⟩

/-- Settles O7: each instruction is lane-wise, and its lane operation is the stated one. -/
theorem vectorFloats : Obligations.VectorFloats := by
  intro pr ty tb ta s x hmem np f v c gives m1 m2 m3 minus
  have hty := tyInt_of_mem_fltTy hmem
  refine ⟨fun ha => ?one, fun ha hb => ?two, fun ha hb hc => ?three⟩
  case one =>
    exact ⟨GivesLanes.vec1 rfl ha fun _ => rfl, GivesLanes.vec1 rfl ha fun _ => rfl,
      GivesLanes.vec1 rfl ha fun _ => rfl, GivesLanes.vec1 rfl ha fun _ => rfl, GivesLanes.vec1 rfl ha fun _ => rfl,
      GivesLanes.vec1 rfl ha fun _ => rfl, GivesLanes.vec1 rfl ha fun _ => rfl, GivesLanes.vec1 rfl ha fun _ => rfl,
      GivesLanes.vec1 rfl ha fun _ => rfl, GivesLanes.vec1 rfl ha fun _ => rfl, GivesLanes.vec1 rfl ha fun _ => rfl⟩
  case two =>
    exact ⟨GivesLanes.vec2 (ff := addF) rfl hty ha hb fun _ => rfl, GivesLanes.vec2 rfl hty ha hb fun _ => rfl,
      GivesLanes.vec2 (ff := mulF) rfl hty ha hb fun _ => rfl, GivesLanes.vec2 (ff := divF) rfl hty ha hb fun _ => rfl,
      GivesLanes.of_vecOut (exec_vmin ..) (minmaxVec_eq_vecOut false _ _ ha hb) fun j => minmaxLane_float _ _ _ false hty,
      GivesLanes.of_vecOut (exec_vmax ..) (minmaxVec_eq_vecOut true _ _ ha hb) fun j => minmaxLane_float _ _ _ true hty⟩
  case three =>
    exact ⟨GivesLanes.of_vecOut rfl (vec3_eq_vecOut _ ha hb hc) fun j => fmaLane_float _ _ _ _ false hty,
      GivesLanes.of_vecOut rfl (vec3_eq_vecOut _ ha hb hc) fun j => fmaLane_float _ _ _ _ true hty⟩

end Sys2Proof.Machine

/-!
PROOF. Moves and permutes of lanes (06 R101; 09 R174, R181).
-/
namespace Sys2Proof.Machine

/-- Bits 5:0 of a word, which name a lane. -/
theorem lowBits_six (w : W64) : lowBits 6 w = w.toNat % 64 := rfl

/-- Settles O9: each move on its operands. -/
theorem vectorMoves : Obligations.VectorMoves := by
  intro pr ty tb ta s x puts l m
  refine ⟨fun a ha => ⟨Puts.need1 rfl ha rfl, Puts.need1 rfl ha rfl⟩, fun hdata => 
    ⟨fun b hb => ⟨?vext, ?vrot, fun c hc => ?vins⟩, fun hdata' c hc => ?vsel, fun hshape => ?vshuf⟩⟩
  case vext =>
    refine Puts.of_outBoth (execVext.eq_def ..) ?_
    simp only [hb, data1_of_isData _ hdata, lowBits_six]
    rfl
  case vrot =>
    refine Puts.of_outBoth (execVrot.eq_def ..) ?_
    simp only [hb, data1_of_isData _ hdata, lowBits_six]
    rfl
  case vins =>
    refine Puts.of_outBoth (execVins.eq_def ..) ?_
    simp only [hb, hc, data1_of_isData _ hdata, lowBits_six]
    rfl
  case vsel =>
    refine Puts.of_outBoth (execVsel.eq_def ..) ?_
    simp only [hc, data2_of_isData _ hdata hdata']
    rfl
  case vshuf =>
    intro q
    refine Puts.of_outBoth (execVshuf.eq_def ..) ?_
    simp only [hdata, hshape, lowBits_six, decide_true, Bool.and_self, if_true]
    rfl

end Sys2Proof.Machine

/-!
PROOF. The decoder gives back what the encoder wrote (07 R124 to R126, R134; 11 R251).
-/
namespace Sys2Proof.Laws.RoundTrip

/-- The encoder and the decoder agree on every instruction: an instruction with a word has its own lemma, and a step of the
machine has no word. -/
theorem statement_of_instr (i : Instr) : Statement i := by
  by_cases hword : i.hasWord = false
  · exact eventStep hword
  · cases i with
    | nop => apply nop | movi => apply movi | const => apply const | mov => apply mov | get => apply get
    | put => apply put | getv => apply getv | putv => apply putv | getm => apply getm | putm => apply putm
    | recv => apply recv | send => apply send | sendc => apply sendc | null => apply null | tst => apply tst
    | sel => apply sel | br => apply br | bri => apply bri | call => apply call | ret => apply ret | tend => apply tend
    | timer => apply timer | rdcyc => apply rdcyc | rdid => apply rdid | pyield => apply pyield | add => apply add
    | sub => apply sub | addi => apply addi | mul => apply mul | mulh => apply mulh | mulhu => apply mulhu
    | div => apply div | divu => apply divu | rem => apply rem | remu => apply remu | madd => apply madd
    | lea => apply lea | addc => apply addc | subb => apply subb | neg => apply neg | abs => apply abs
    | and => apply and | or => apply or | xor => apply xor | andn => apply andn | not => apply not | shl => apply shl
    | shr => apply shr | sra => apply sra | rotl => apply rotl | rotr => apply rotr | shli => apply shli
    | shri => apply shri | srai => apply srai | andi => apply andi | ori => apply ori | xori => apply xori
    | clz => apply clz | ctz => apply ctz | popc => apply popc | brev => apply brev | bswap => apply bswap
    | bfx => apply bfx | bfi => apply bfi | min => apply min | max => apply max | minu => apply minu
    | maxu => apply maxu | exts => apply exts | extz => apply extz | vadd => apply vadd | vsub => apply vsub
    | vmul => apply vmul | vfma => apply vfma | vfms => apply vfms | vmin => apply vmin | vmax => apply vmax
    | vabs => apply vabs | vneg => apply vneg | vdiv => apply vdiv | vsqrt => apply vsqrt | vrcp => apply vrcp
    | vrsq => apply vrsq | vexp2 => apply vexp2 | vlog2 => apply vlog2 | vsin => apply vsin | vcos => apply vcos
    | vtanh => apply vtanh | vsigm => apply vsigm | vmulh => apply vmulh | vand => apply vand | vor => apply vor
    | vxor => apply vxor | vshl => apply vshl | vshr => apply vshr | vsra => apply vsra | vclz => apply vclz
    | vpopc => apply vpopc | vceq => apply vceq | vcne => apply vcne | vclt => apply vclt | vcle => apply vcle
    | vsel => apply vsel | vbcast => apply vbcast | vext => apply vext | vins => apply vins | vshuf => apply vshuf
    | vrot => apply vrot | vrsum => apply vrsum | vrmin => apply vrmin | vrmax => apply vrmax | vscan => apply vscan
    | vcvt => apply vcvt | mand => apply mand | mor => apply mor | mnot => apply mnot | mpopc => apply mpopc
    | vfilt => apply vfilt | vexpd => apply vexpd | viota => apply viota | vclamp => apply vclamp | vmrg => apply vmrg
    | visx => apply visx | vdedup => apply vdedup | sacc => apply sacc | saccf => apply saccf | saccz => apply saccz
    | rngx => apply rngx | ldl => apply ldl | stl => apply stl | ldn => apply ldn | stn => apply stn | ld => apply ld
    | st => apply st | ldw => apply ldw | ldc => apply ldc | stf => apply stf | sts => apply sts
    | fempty => apply fempty | feq => apply feq | aadd => apply aadd | aand => apply aand | aor => apply aor
    | axor => apply axor | amin => apply amin | amax => apply amax | aswap => apply aswap | cas => apply cas
    | uadd => apply uadd | uand => apply uand | uor => apply uor | uxor => apply uxor | umin => apply umin
    | umax => apply umax | ufadd => apply ufadd | srd => apply srd | swr => apply swr | swrEos => apply swrEos
    | srel => apply srel | srelFrc => apply srelFrc | srew => apply srew | spos => apply spos | fence => apply fence
    | sbar => apply sbar | xfence => apply xfence | barinit => apply barinit | bararv => apply bararv
    | barexp => apply barexp | barwt => apply barwt | copy => apply copy | pref => apply pref | wback => apply wback
    | setbud => apply setbud | mmpost => apply mmpost | vamax => apply vamax | vqnt => apply vqnt | vdqnt => apply vdqnt
    | vcbq => apply vcbq | cbset => apply cbset | trap => apply trap | fread => apply fread | repair => apply repair
    | blaze => apply blaze | brkt => apply brkt | svc => apply svc | rdperf => apply rdperf | wrperf => apply wrperf
    | hresume => apply hresume | habort => apply habort | jlaunch => apply jlaunch | jfence => apply jfence
    | jquery => apply jquery | jinvr => apply jinvr | jcmdKill => apply jcmdKill | jcmdPre => apply jcmdPre
    | jcmdSnap => apply jcmdSnap | jcmdStop => apply jcmdStop | jcmdResume => apply jcmdResume | jwaitw => apply jwaitw
    | jctxsave => apply jctxsave | jctxload => apply jctxload
    | _ => exact absurd rfl hword

end Sys2Proof.Laws.RoundTrip

namespace Sys2Proof.Machine

/-- Settles O58: the lemma of each instruction. -/
theorem decodeEncode : Obligations.DecodeEncode := Laws.RoundTrip.statement_of_instr

/-! ### Words of the spec's examples -/

/-- Settles O57: each word is the encoder's of its instruction, which the decoder gives back. -/
theorem encodingsDecode : Obligations.EncodingsDecode := by
  refine ⟨?movi, ?moviOperandC, ?add, ?tend⟩
  case movi => exact decodeEncode (.movi .always 0x400#13 (.a 1#6)) rfl rfl
  case moviOperandC => exact decodeEncode (.movi .always 0#13 (.c 4#6)) rfl rfl
  case add => exact decodeEncode (.add .always .d64 (.a 4#6) (.a 3#6)) rfl rfl
  case tend => exact decodeEncode (.tend .always) rfl rfl

end Sys2Proof.Machine

/-!
PROOF. An instruction whose predicate comes with the other value (02 R43; 07 R128).
-/
namespace Sys2Proof.Machine

/-- A predicate that has come with the value that does not fire the instruction skips it, whatever its operands are. -/
theorem BlockRun.fit_of_other_predicate {r : BlockRun} {i : Instr} {slot : Nat} {d : Datum} (hp : prOf i ≠ .always)
    (hd : Store.get? r.pred slot = some (.dat d)) (hbit : d.bits.getLsbD 0 ≠ decide (prOf i = .onTrue)) :
    r.fit i slot = .skip := by
  unfold BlockRun.fit
  split
  · exact absurd ‹_› hp
  · simp only [hd]
    exact if_neg hbit

/-- The instructions with wave fields are those of the wave order. -/
theorem classOf_of_linkOf {i : Instr} {lk : Link} (h : linkOf i = some lk) : classOf i = .wave := by
  cases i <;> cases h <;> rfl

theorem BlockRun.nullWave_of_linkOf_none {r : BlockRun} {i : Instr} (h : linkOf i = none) : r.nullWave i = r := by
  simp only [BlockRun.nullWave, h]

/-- A skipped instruction is done and has no effect; one of the wave order nullifies its wave. -/
theorem fireWord_of_skip {i : Instr} {s : State} {f : Firing} {r : BlockRun} (k : FX → FR)
    (hf : (s.plane s.cur.pl).firing = some f) (hst : f.st = .running) (hr : f.run = some r)
    (hd : r.done.contains s.cur.slot = false) (hskip : r.fit i s.cur.slot = .skip) :
    fireWord i s k = .next (s.setRun s.cur.pl ((r.nullWave i).mark s.cur.slot)) := by
  have hclass : classOf i ≠ .wave → r.nullWave i = r := fun hc =>
    BlockRun.nullWave_of_linkOf_none (Option.eq_none_iff_forall_ne_some.mpr fun _ hl => hc (classOf_of_linkOf hl))
  simp only [fireWord, hf, hst, hr, hd, hskip, Bool.false_eq_true, if_false]
  split
  · rfl
  · rw [hclass ‹_›]

/-- Settles O19: the predicate skips the instruction, which then is done, and nullifies its wave where it has one. -/
theorem predicateSkips : Obligations.PredicateSkips := by
  intro i s f r d hword hborder hf hst hr hd hp hpred hbit
  obtain ⟨k, hk⟩ := exec_eq_fireWord hword hborder s
  have hskip := fireWord_of_skip k hf hst hr hd (BlockRun.fit_of_other_predicate hp hpred hbit)
  refine ⟨fun hl => ?unordered, fun lk hl ho => ?wave⟩
  case unordered => rw [hk, hskip, BlockRun.nullWave_of_linkOf_none hl]
  case wave =>
    rw [hk, hskip, BlockRun.nullWave_of_opened hl ho]
    rfl

end Sys2Proof.Machine

/-!
PROOF. What firing leaves as it was, and what a commit writes to registers (07 R132; 08 R152, R157; 21 R336).
-/
namespace Sys2Proof.Machine

/-- Settles O20: every tile instruction fires in the shared frame, which keeps the architecture. -/
theorem firingKeepsArchitecture : Obligations.FiringKeepsArchitecture := by
  intro i s t hword hborder hexec
  obtain ⟨k, hk⟩ := exec_eq_fireWord hword hborder s
  exact SameArch.fireWord (hk.symm.trans hexec)

/-! ### Registers at commit -/

@[simp] theorem Store.getD_set_same {α : Type} (m : Store α) (k : Nat) (v d : α) : Store.getD (Store.set m k v) k d = v := by
  simp [Store.getD]

theorem Store.getD_set_other {α : Type} (m : Store α) {k j : Nat} (v d : α) (h : j ≠ k) :
    Store.getD (Store.set m k v) j d = Store.getD m j d := by
  simp [Store.getD, Store.get?_set_other m v h]

/-- An update of a plane leaves every other plane and the rest of the machine as they were. -/
theorem State.modPlane_only (s : State) (pl : PlaneId) (g : Plane → Plane) :
    s.modPlane pl g = { s with planes := (s.modPlane pl g).planes } ∧
      ∀ q, planeKey q ≠ planeKey pl → (s.modPlane pl g).plane q = s.plane q :=
  ⟨rfl, fun _ hq => State.plane_setPlane_other s _ hq⟩

/-- The lanes that PUTV leaves: those of its mask from the vector that it writes, the others as they were (R152). -/
def maskedLanes (m : W64) (l old : Lanes) : Lanes := mkLanes fun j => if bitAt m j then laneAt l j else laneAt old j

theorem laneAt_maskedLanes (m : W64) (l old : Lanes) {j : Nat} (hj : j < 64) :
    laneAt (maskedLanes m l old) j = if bitAt m j then laneAt l j else laneAt old j :=
  laneAt_mkLanes _ hj

section
variable (s : State) (pl : PlaneId) (f : Firing) (slot n : Nat) (v m : W64) (l : Lanes)

theorem State.commitEff_sreg :
    s.commitEff pl f slot (.sreg n v) = s.modPlane pl fun p => { p with sregs := Store.set p.sregs n v } := rfl
theorem State.commitEff_mreg :
    s.commitEff pl f slot (.mreg n v) = s.modPlane pl fun p => { p with mregs := Store.set p.mregs n v } := rfl
theorem State.commitEff_vreg :
    s.commitEff pl f slot (.vreg n l m) =
      s.modPlane pl fun p => { p with vregs := Store.set p.vregs n (maskedLanes m l (p.vreg n)) } := rfl

end

/-- Settles O21: each of the three effects updates one file of its plane at one register. -/
theorem commitWritesRegisters : Obligations.CommitWritesRegisters := by
  intro s pl f slot n v m l p only
  refine ⟨?put, ?putm, ?putv⟩
  case put =>
    rw [State.commitEff_sreg]
    refine ⟨State.modPlane_only .., ?_⟩
    rw [State.plane_modPlane]
    exact ⟨rfl, Store.getD_set_same .., fun k hk => Store.getD_set_other _ _ _ hk⟩
  case putm =>
    rw [State.commitEff_mreg]
    refine ⟨State.modPlane_only .., ?_⟩
    rw [State.plane_modPlane]
    exact ⟨rfl, Store.getD_set_same .., fun k hk => Store.getD_set_other _ _ _ hk⟩
  case putv =>
    rw [State.commitEff_vreg]
    refine ⟨State.modPlane_only .., ?_⟩
    rw [State.plane_modPlane]
    refine ⟨rfl, fun j hj => ?_, fun k hk => Store.getD_set_other _ _ _ hk⟩
    rw [← laneAt_maskedLanes m l (p.vreg n) hj]
    exact congrArg (laneAt · j) (Store.getD_set_same ..)

end Sys2Proof.Machine

/-!
PROOF. The admission of a wave (07 R130, R131) and the end of a PYIELD (08 R160).
-/
namespace Sys2Proof.Machine

theorem exec_waveAdmission (s : State) : exec .waveAdmission s = .next (s.waveAdmit s.cur.pl s.cur.slot) := rfl
theorem exec_pyieldRelease (s : State) : exec .pyieldRelease s = .next (s.yieldRelease s.cur.pl) := rfl

/-- The block after an admission has passed over the open waves between the wave and its links (R130). -/
def BlockRun.passOver (r : BlockRun) (lk : Link) : BlockRun :=
  (r.span lk).foldl (fun r t => if r.waves.getD t .opened = .opened then r.setWave t .skipped else r) r

/-- A request that is admitted joins the sequence and the block's effects. -/
theorem State.admitWave_of_request (s : State) (pl : PlaneId) (r : BlockRun) {w : Wave} (h : w.lcl = none) :
    s.admitWave pl r w = s.setRun pl { r with seq := r.seq ++ [w.slot], effs := r.effs ++ [(w.slot, .request w.req)] } := by
  simp only [State.admitWave, h]

/-- A fired wave whose links are met is admitted where it passes over no admitted wave. -/
theorem State.waveAdmit_of_linkMet {s : State} {pl : PlaneId} {slot : Nat} {r : BlockRun} {w : Wave}
    (hr : (s.plane pl).firing.bind (·.run) = some r) (hw : r.pend.find? (fun w => decide (w.slot = slot)) = some w)
    (hgo : s.planeGoes pl = true) (hmet : r.linkMet w.lk = true)
    (hspan : ∀ t ∈ r.span w.lk, r.waves.getD t .opened ≠ .admitted) :
    s.waveAdmit pl slot = s.admitWave pl
      { (r.passOver w.lk).setWave w.lk.seq.toNat .admitted with
        pend := (r.passOver w.lk).pend.filter fun q => decide (q.slot ≠ slot) } w := by
  have hany : ((r.span w.lk).any fun t => decide (r.waves.getD t .opened = .admitted)) = false := by
    simpa using hspan
  simp only [State.waveAdmit, hr, hw, hgo, hmet, hany, Bool.not_true, Bool.or_false, Bool.false_eq_true, if_false]
  rfl

/-- The firing of a plane fetches its successor once the planes that were ready have gone ahead, or after 64 cycles. -/
theorem State.yieldRelease_of_released {s : State} {pl : PlaneId} {f : Firing} {l : Nat} {x : Launch} {a : ActorRec}
    {ready : List Nat} {since : W64} (hf : (s.plane pl).firing = some f) (ha : s.actorOf pl = some (l, x, a))
    (hst : f.st = .yielding ready since) (hruns : x.runs = true) (hstop : (s.plane pl).stopped = false)
    (hpause : (s.plane pl).paused = false) (hblaze : x.blazeOf pl (s.plane pl) = none)
    (hgone : (∀ q ∈ ready, since < (s.plane ⟨pl.col, pl.row, q⟩).lastIssue ∨ s.planeReady ⟨pl.col, pl.row, q⟩ = false) ∨
      64 ≤ (s.cycle x.glade - since).toNat) :
    s.yieldRelease pl = s.mapBlock pl := by
  simp only [State.yieldRelease, hf, ha, hst]
  refine if_pos ⟨hruns, by simp [hstop], by simp [hpause], by simp [hblaze], hgone.imp_left fun hall => ?_⟩
  simpa using hall

/-- Settles O24: the admission of a request, and the release of a yielding firing. -/
theorem wavesAreAdmitted : Obligations.WavesAreAdmitted := by
  refine ⟨?admission, ?release⟩
  case admission =>
    intro s r w pl hr hw hgo hmet hspan hlcl r1
    rw [exec_waveAdmission, State.waveAdmit_of_linkMet hr hw hgo hmet hspan, State.admitWave_of_request _ _ _ hlcl]
    rfl
  case release =>
    intro s f l x a ready since pl hf ha hst hruns hstop hpause hblaze hgone
    rw [exec_pyieldRelease, State.yieldRelease_of_released hf ha hst hruns hstop hpause hblaze hgone]

end Sys2Proof.Machine

/-!
PROOF. What an instruction of the shared frame leaves: values at its targets, an effect for commit, or an exit
(07 R132; 08 R157).
-/
namespace Sys2Proof.Machine

/-- Where instruction `i` fires on `x` and its targets are free, it delivers `outs` and leaves no effect for commit. -/
def Delivers (i : Instr) (s : State) (x : FX) (outs : List (Tgt × Val)) : Prop :=
  Fires i s x → x.free outs → exec i s = .next (x.out outs [])

/-- Where instruction `i` fires on `x`, it leaves effect `e` for commit and no value. -/
def Acts (i : Instr) (s : State) (x : FX) (e : Eff) : Prop :=
  Fires i s x → exec i s = .next (x.effect e)

/-- Where instruction `i` fires on `x`, the block will end by exit `e`, with `effs` for commit. -/
def Leaves (i : Instr) (s : State) (x : FX) (e : ExitKind) (effs : List Eff) : Prop :=
  Fires i s x → exec i s = .next (x.leave e effs)

section
variable {i : Instr} {s : State} {x : FX} {k : FX → FR}

theorem Delivers.of_action {outs : List (Tgt × Val)} (hi : exec i s = fireWord i s k) (hk : k x = .go outs []) :
    Delivers i s x outs := by
  intro hfires hfree
  rw [hi, fireWord_fires hfires, hk, fireOut_go [] hfree]

theorem Acts.of_action {e : Eff} (hi : exec i s = fireWord i s k) (hk : k x = .go [] [e]) : Acts i s x e := by
  intro hfires
  rw [hi, fireWord_fires hfires, hk, fireOut_effect]

theorem Leaves.of_action {e : ExitKind} {effs : List Eff} (hnone : x.r.exits = []) (hi : exec i s = fireWord i s k)
    (hk : k x = .exit e effs) : Leaves i s x e effs := by
  intro hfires
  rw [hi, fireWord_fires hfires, hk, fireOut_exit e effs hnone]

end

/-- Neither a value nor an effect: the slot is marked, and nothing else. -/
theorem FX.out_nil (x : FX) : x.out [] [] = x.s.setRun x.pl (x.r.mark x.slot) := by
  simp only [FX.out, BlockRun.putAll, List.map_nil, List.append_nil]

end Sys2Proof.Machine

/-!
PROOF. NOP and the constants, with their words (07 R124; 08 R145, R146).
-/
namespace Sys2Proof

/-- A concatenation is zero where both its parts are. -/
theorem append_eq_zero_iff {n m : Nat} {a : BitVec n} {b : BitVec m} : a ++ b = 0#(n + m) ↔ a = 0#n ∧ b = 0#m := by
  rw [← BitVec.zero_append_zero]
  constructor
  · intro h
    have hlow := congrArg (BitVec.extractLsb' 0 m) h
    have hhigh := congrArg (BitVec.extractLsb' m n) h
    simp only [BitVec.extractLsb'_append_eq_right, BitVec.extractLsb'_append_eq_left] at hlow hhigh
    exact ⟨hhigh, hlow⟩
  · rintro ⟨rfl, rfl⟩
    rfl

/-- A field of a field. -/
theorem extractLsb'_extractLsb' {n first start len width : Nat} (x : BitVec n) (h : start + len ≤ width) :
    (x.extractLsb' first width).extractLsb' start len = x.extractLsb' (first + start) len := by
  ext j hj
  have hin : start + j < width := by omega
  simp only [BitVec.getElem_extractLsb', BitVec.getLsbD_extractLsb', hin, decide_true, Bool.true_and, Nat.add_assoc]

/-- The opcode's two hexadecimal digits. -/
theorem opcode_digits {w : W32} {op : BitVec 8} (h : w.extractLsb' 24 8 = op) :
    w.extractLsb' 28 4 = op.extractLsb' 4 4 ∧ w.extractLsb' 24 4 = op.extractLsb' 0 4 := by
  rw [← h, extractLsb'_extractLsb' w (by decide), extractLsb'_extractLsb' w (by decide)]
  exact ⟨rfl, rfl⟩

/-- Bits 21:0 are the fields TY, TB and TA of format G2. -/
theorem low22_eq_zero_iff (w : W32) :
    w.extractLsb' 0 22 = 0#22 ↔ w.extractLsb' 18 4 = 0#4 ∧ w.extractLsb' 9 9 = 0#9 ∧ w.extractLsb' 0 9 = 0#9 := by
  have hlow : w.extractLsb' 9 9 ++ w.extractLsb' 0 9 = w.extractLsb' 0 18 :=
    BitVec.extractLsb'_append_extractLsb'_eq_extractLsb' rfl
  have hall : w.extractLsb' 18 4 ++ w.extractLsb' 0 18 = w.extractLsb' 0 22 :=
    BitVec.extractLsb'_append_extractLsb'_eq_extractLsb' rfl
  rw [← hall, append_eq_zero_iff, ← hlow, append_eq_zero_iff]

theorem z22_eq_ok_iff {w : W32} {i : Instr} : z22 w i = .ok i ↔ w.extractLsb' 0 22 = 0#22 := by
  unfold z22
  split
  · exact iff_of_true rfl ‹_›
  · exact iff_of_false nofun ‹_›

/-- A word of NOP's opcode holds NOP where its other fields are zero. -/
theorem decodeTile_of_nop_opcode {w : W32} {pr : PR} (hop : w.extractLsb' 24 8 = 0x01#8)
    (hpr : w.extractLsb' 22 2 = wrPR pr) :
    decodeTile w = z22 w (.nop pr) := by
  obtain ⟨hhi, hlo⟩ := opcode_digits hop
  rw [decodeTile, hpr, rdPR_wrPR, hhi, hlo]
  rfl

theorem packGI_x24_8 (op : BitVec 8) (pr : BitVec 2) (imm : BitVec 13) (ta : BitVec 9) :
    (packGI op pr imm ta).extractLsb' 24 8 = op := by
  unfold packGI
  simp (disch := decide) only [BitVec.extractLsb'_append_eq_of_le, Nat.reduceSub, BitVec.extractLsb'_eq_self]

end Sys2Proof

namespace Sys2Proof.Machine

/-- Settles O52: NOP delivers nothing, and its word is the opcode, the predicate mode and 22 zero bits. -/
theorem nopDoesNothing : Obligations.NopDoesNothing := by
  intro pr s x w
  refine ⟨rfl, rfl, fun hfires => ?effect, fun hop hpr => ?word⟩
  case effect =>
    rw [← FX.out_nil]
    exact Delivers.of_action (k := fun _ => .go [] []) rfl rfl hfires rfl
  case word =>
    rw [decodeTile_of_nop_opcode hop hpr, z22_eq_ok_iff, low22_eq_zero_iff]

/-- Settles O53: what MOVI and CONST deliver, and the fields of their words. -/
theorem moviAndConst : Obligations.MoviAndConst := by
  intro pr imm k ta s x puts
  exact ⟨Delivers.of_action (k := fun _ => .go [(ta, scalarVal (sext13 imm) .i64)] []) rfl rfl,
    Delivers.of_action (k := fun x => .go [(ta, scalarVal (x.r.consts.getD k.toNat 0#64) .i64)] []) rfl rfl,
    packGI_x24_8 .., packGI_x22_2 .., packGI_fImm .., packGI_fTA .., rfl,
    packGI_x24_8 .., (packGI_fImm ..).trans (BitVec.setWidth_eq_append (by decide)).symm⟩

end Sys2Proof.Machine

/-!
PROOF. The immediate forms (08 R167).
-/
namespace Sys2Proof.Machine

/-- An immediate form delivers the result of its operation on operand A, with tag I64. -/
theorem Delivers.immOp {i : Instr} {s : State} {x : FX} {ta : Tgt} {a : W64} {op : W64 → W64}
    (hi : exec i s = fireWord i s (immOp ta op)) (ha : x.a.s64 = some a) : Delivers i s x [(ta, scalarVal (op a) .i64)] :=
  .of_action hi (need1_of_s64 _ ha)

/-- Settles O3: the operation of each form. -/
theorem immediateForms : Obligations.ImmediateForms := by
  intro pr imm ta s x v n puts a ha
  exact ⟨Delivers.immOp (op := (· + sext13 imm)) rfl ha, Delivers.immOp (op := (· &&& sext13 imm)) rfl ha,
    Delivers.immOp (op := (· ||| sext13 imm)) rfl ha, Delivers.immOp (op := (· ^^^ sext13 imm)) rfl ha,
    Delivers.immOp (op := (· <<< (imm.toNat % 64))) rfl ha, Delivers.immOp (op := (· >>> (imm.toNat % 64))) rfl ha,
    Delivers.immOp (op := (·.sshiftRight (imm.toNat % 64))) rfl ha⟩

end Sys2Proof.Machine

/-!
PROOF. Moves, selection, registers and the exits of a block (08 R147 to R152, R157 to R160).
-/
namespace Sys2Proof.Machine

section
variable {s : State} {x : FX} {pr : PR} {tb ta : Tgt} {a c : W64}

/-! ### Moves and selection (R147 to R149) -/

theorem delivers_mov : Delivers (.mov pr tb ta) s x [(ta, .dat x.a), (tb, .dat x.a)] :=
  .of_action (execMov.eq_def ..) rfl

theorem delivers_null : Delivers (.null pr tb ta) s x [(ta, .null), (tb, .null)] := exec_null_of_fires

/-- SEL delivers the operand that bit 0 of its selector chooses. -/
theorem delivers_sel {d : Datum} (hc : x.c.s64 = some c) (hd : (if c.getLsbD 0 then x.a else x.b) = d) :
    Delivers (.sel pr tb ta) s x [(ta, .dat d), (tb, .dat d)] := by
  refine .of_action (execSel.eq_def ..) ?_
  simp only [hc, hd]
  rfl

/-! ### Registers (R150 to R152) -/

theorem delivers_get {h : BitVec 6} {tag : Option ETy} :
    Delivers (.get pr h tag ta) s x [(ta, scalarVal (x.p.sreg h.toNat) (tag.getD .i64))] :=
  .of_action (execGet.eq_def ..) rfl

theorem delivers_getv {h : BitVec 4} {tag : Option ETy} :
    Delivers (.getv pr h tag ta) s x [(ta, vecVal (x.p.vreg h.toNat) (tag.getD .i64) allOnes)] :=
  .of_action (execGetv.eq_def ..) rfl

theorem delivers_getm {h : BitVec 3} : Delivers (.getm pr h ta) s x [(ta, maskVal (x.p.mreg h.toNat))] :=
  .of_action (execGetm.eq_def ..) rfl

/-- The first write of a register in a block is an effect for commit. -/
theorem acts_put {h : BitVec 6} (ha : x.a.s64 = some a) (hfirst : writesS x.r.effs h.toNat = false) :
    Acts (.put pr h) s x (.sreg h.toNat a) := by
  refine .of_action (execPut.eq_def ..) ((need1_of_s64 _ ha).trans ?_)
  simp only [hfirst, Bool.false_eq_true, if_false]

theorem acts_putm {h : BitVec 3} (ha : x.a.s64 = some a) (hfirst : writesM x.r.effs h.toNat = false) :
    Acts (.putm pr h) s x (.mreg h.toNat a) := by
  refine .of_action (execPutm.eq_def ..) ((need1_of_s64 _ ha).trans ?_)
  simp only [hfirst, Bool.false_eq_true, if_false]

theorem acts_putv {h : BitVec 4} {m : Bool} (hshape : x.a.shape = .vector) (hfirst : writesV x.r.effs h.toNat = false) :
    Acts (.putv pr h m) s x (.vreg h.toNat x.a.lanes (if m then x.a.lmask else allOnes)) := by
  refine .of_action (execPutv.eq_def ..) ?_
  simp only [hshape, hfirst, ne_eq, not_true_eq_false, Bool.false_eq_true, if_false]

/-! ### Exits (R157 to R160) -/

/-- The address of an exit is the block's own plus 8 × IMM13 (R157). -/
theorem exitAddr_eq_mul (x : FX) (imm : BitVec 13) : exitAddr x imm = x.f.block + 8#16 * imm.signExtend 16 := by
  rw [exitAddr, BitVec.shiftLeft_eq_mul_twoPow, BitVec.mul_comm]
  rfl

theorem exitTo_of_aligned {v : W64} (h : v.toNat % 8 = 0) : exitTo v = .exit (.goto (v.setWidth 16)) [] := if_pos h

theorem leaves_br {imm : BitVec 13} (hnone : x.r.exits = []) : Leaves (.br pr imm) s x (.goto (exitAddr x imm)) [] :=
  .of_action hnone (execBr.eq_def ..) rfl

theorem leaves_bri (hnone : x.r.exits = []) (ha : x.a.s64 = some a) (halign : a.toNat % 8 = 0) :
    Leaves (.bri pr) s x (.goto (a.setWidth 16)) [] :=
  .of_action hnone (execBri.eq_def ..) ((need1_of_s64 _ ha).trans (exitTo_of_aligned halign))

/-- CALL writes s63, so no PUT of the block may (R152, R159). -/
theorem leaves_call {imm : BitVec 13} (hnone : x.r.exits = []) (hfirst : writesS x.r.effs 63 = false) :
    Leaves (.call pr imm) s x (.call (exitAddr x imm))
      [.sreg 63 (BitVec.ofNat 64 ((x.f.block.toNat + x.r.len) % 2 ^ 16))] := by
  refine .of_action hnone (execCall.eq_def ..) ?_
  simp only [hfirst, Bool.false_eq_true, if_false]

theorem leaves_ret (hnone : x.r.exits = []) (halign : (x.p.sreg 63).toNat % 8 = 0) :
    Leaves (.ret pr) s x (.goto ((x.p.sreg 63).setWidth 16)) [] :=
  .of_action hnone (execRet.eq_def ..) (exitTo_of_aligned halign)

theorem leaves_tend (hnone : x.r.exits = []) : Leaves (.tend pr) s x .tend [] := .of_action hnone (execTend.eq_def ..) rfl

theorem leaves_pyield {imm : BitVec 13} (hnone : x.r.exits = []) :
    Leaves (.pyield pr imm) s x (.yield (exitAddr x imm)) [] :=
  .of_action hnone (execPyield.eq_def ..) rfl

end

/-- Settles O4: the moves and the register accesses, and the exits with their addresses as R157 writes them. -/
theorem movesAndExits : Obligations.MovesAndExits := by
  refine ⟨?moves, ?exits⟩
  case moves =>
    intro pr h6 h4 h3 tag m tb ta s x puts acts
    exact ⟨delivers_mov, delivers_null, fun c hc hbit => delivers_sel hc (if_pos hbit),
      fun c hc hbit => delivers_sel hc (if_neg (ne_true_of_eq_false hbit)), delivers_get, delivers_getv, delivers_getm,
      fun _ => acts_put, fun _ => acts_putm, acts_putv⟩
  case exits =>
    intro pr imm s x hnone to_ leaves
    have hto : to_ = exitAddr x imm := (exitAddr_eq_mul x imm).symm
    rw [hto]
    exact ⟨leaves_br hnone, fun _ => leaves_bri hnone, leaves_call hnone, leaves_ret hnone, leaves_tend hnone,
      leaves_pyield hnone⟩

end Sys2Proof.Machine

/-!
PROOF. Tokens, timers, time and identity, and the system instructions (08 R153 to R155, R162 to R164; 11 R242 to R250).
-/
namespace Sys2Proof.Machine

section
variable {s : State} {x : FX} {pr : PR} {tb ta : Tgt} {a : ActorRec} {t : TaskRec} {v : W64}

/-! ### Channels (R153 to R155) -/

/-- RECV delivers the n-th data token of an input that is no fault input. -/
theorem delivers_recv_data {c : BitVec 4} {n : BitVec 2} {d : Datum} (hkind : x.f.kind ≠ .control)
    (htok : (Store.getD x.f.consumed c.toNat [])[n.toNat]? = some (.data d)) (htask : x.task = some (a, t))
    (hplain : a.fault.getLsbD c.toNat = false) : Delivers (.recv pr c n ta) s x [(ta, .dat d)] := by
  refine .of_action (execRecv.eq_def ..) ?_
  cases hk : x.f.kind with
  | control => exact absurd hk hkind
  | _ =>
    simp only [htok, htask, hplain, Bool.false_eq_true, if_false]
    rfl

/-- In a control task RECV delivers the code of the control token. -/
theorem delivers_recv_eos {c : BitVec 4} {n : BitVec 2} (hkind : x.f.kind = .control)
    (htok : (Store.getD x.f.consumed c.toNat [])[n.toNat]? = some (.ctl .eos)) :
    Delivers (.recv pr c n ta) s x [(ta, scalarVal 6#64 .u64)] := by
  refine .of_action (execRecv.eq_def ..) ?_
  simp only [hkind, htok]

/-- An operand of the channel's shape, within the task's rate, is sent at commit. -/
theorem acts_send {c : BitVec 4} (hshape : x.outShape c.toNat = some (shapeCode x.a.shape))
    (hrate : x.sentOn c.toNat < x.orate c.toNat) : Acts (.send pr c) s x (.send c.toNat (.data x.a)) := by
  refine .of_action (execSend.eq_def ..) ?_
  simp only [hshape, Nat.not_le.mpr hrate, ne_eq, not_true_eq_false, if_false]

/-- The first control token on an output in a firing is sent at commit. -/
theorem acts_sendc_eos {c : BitVec 4} (hfirst : x.ctlSentOn c.toNat = false) :
    Acts (.sendc pr c 6#4) s x (.send c.toNat (.ctl .eos)) := by
  refine .of_action (execSendc.eq_def ..) ?_
  have hctl : ctlOf (6#4).toNat = some .eos := rfl
  simp only [hctl, hfirst, Bool.false_eq_true, if_false]

/-- NULL counts toward the rate. -/
theorem acts_sendc_null {c : BitVec 4} (hrate : x.sentOn c.toNat < x.orate c.toNat) :
    Acts (.sendc pr c 7#4) s x (.send c.toNat .null) := by
  refine .of_action (execSendc.eq_def ..) ?_
  have hnull : (7#4).toNat = 7 := rfl
  have hctl : ctlOf 7 = none := rfl
  simp only [hnull, hctl, Nat.not_le.mpr hrate, if_true, if_false]

/-! ### Timers, time and identity (R162 to R164) -/

/-- A timer on a timer input, where none is pending. -/
theorem acts_timer {c : BitVec 4} {rel : Bool} (hv : x.a.s64 = some v) (htimers : x.p.timers = []) (heffs : x.r.effs = [])
    (htask : x.task = some (a, t)) (htimer : a.timer.getLsbD c.toNat = true) :
    Acts (.timer pr c rel) s x (.timer c.toNat rel v) := by
  refine .of_action (execTimer.eq_def ..) ((need1_of_s64 _ hv).trans ?_)
  simp [htimers, heffs, htask, htimer]

theorem delivers_rdcyc : Delivers (.rdcyc pr tb ta) s x
    [(ta, scalarVal (x.s.cycle (x.s.gladeOf x.pl.col)) .u64), (tb, scalarVal (x.s.cycle (x.s.gladeOf x.pl.col)) .u64)] :=
  .of_action (execRdcyc.eq_def ..) rfl

theorem delivers_rdid {k : BitVec 4} :
    Delivers (.rdid pr k ta) s x [(ta, scalarVal (BitVec.ofNat 64 (rdidValue x k.toNat)) .u64)] :=
  .of_action (execRdid.eq_def ..) rfl

/-! ### Calls, fault tokens and counters (R244, R247, R249, R250) -/

/-- The first service call of a block, within the task's rate. -/
theorem acts_svc {c : BitVec 4} {num : BitVec 7} (hv : x.a.s64 = some v) (htask : x.task = some (a, t))
    (hrate : x.f.svcs < t.svcr) (heffs : x.r.effs = []) : Acts (.svc pr c num) s x (.svc c.toNat num.toNat v) := by
  refine .of_action (execSvc.eq_def ..) ((need1_of_s64 _ hv).trans ?_)
  simp only [htask, heffs, List.filter_nil, List.length_nil, Nat.add_zero, Nat.not_le.mpr hrate, if_false]

/-- FREAD delivers a word of the fault token at the head of a fault input that the task consumes from. -/
theorem delivers_fread {c : BitVec 4} {n : BitVec 2} {fid : Nat} {ws : List W64} {rest : List Token}
    (htok : Store.getD x.f.consumed c.toNat [] = .fault fid ws :: rest) (htask : x.task = some (a, t))
    (hfault : a.fault.getLsbD c.toNat = true) (hrate : t.irate.getD c.toNat 0 ≠ 0) :
    Delivers (.fread pr c n ta) s x [(ta, scalarVal (ws.getD n.toNat 0#64) .u64)] := by
  refine .of_action (execFread.eq_def ..) ?_
  simp only [htask, htok, hfault, hrate, ne_eq, not_false_eq_true, decide_true, Bool.and_self]

theorem delivers_rdperf {sel : PerfSel} : Delivers (.rdperf pr sel ta) s x [(ta, scalarVal (perfValue x sel) .u64)] :=
  .of_action (execRdperf.eq_def ..) rfl

/-- The owner of the counters writes one: its count, or an event code that is assigned. -/
theorem acts_wrperf {c : BitVec 2} {cnt : Bool} (hv : x.a.s64 = some v) (hown : x.p.own.getLsbD 3 = true)
    (hcode : cnt = true ∨ v.toNat % 256 < 12) : Acts (.wrperf pr c cnt) s x (.wrperf c.toNat cnt v) := by
  refine .of_action (execWrperf.eq_def ..) ((need1_of_s64 _ hv).trans ?_)
  have hassigned : (!cnt && decide (0x0C ≤ v.toNat % 256)) = false := by
    obtain rfl | hlt := hcode
    · rfl
    · rw [decide_eq_false (Nat.not_le.mpr hlt), Bool.and_false]
  simp only [hown, hassigned, Bool.not_true, Bool.false_eq_true, if_false]

/-! ### Traps and blazes (R242, R243) -/

theorem acts_trap {code : BitVec 12} : Acts (.trap pr code) s x (.trap code.toNat) := .of_action (execTrap.eq_def ..) rfl
theorem acts_brkt {code : BitVec 12} : Acts (.brkt pr code) s x (.brkt code.toNat) := .of_action (execBrkt.eq_def ..) rfl
theorem acts_blaze {stop : Bool} : Acts (.blaze pr stop) s x (.blaze stop) := .of_action (execBlaze.eq_def ..) rfl

end

/-! ### Actions on a consumed fault (R245, R246) -/

/-- The firing holds fault `f`, and no action on it has fired. -/
structure FX.MayAct (x : FX) (f : FaultRec) : Prop where
  held : x.f.fid.bind x.s.fault? = some f
  once : x.actsTwice = false
  fresh : x.f.acted = false

section
variable {s : State} {x : FX} {pr : PR} {f : FaultRec}

theorem actOn_of_mayAct (h : x.MayAct f) (k : FaultRec → FR) : actOn x k = k f := by
  obtain ⟨hheld, honce, hfresh⟩ := h
  simp only [actOn, hheld, honce, hfresh, Bool.false_eq_true, if_false]

theorem acts_hresume (h : x.MayAct f) : Acts (.hresume pr) s x .hresume :=
  .of_action (execHresume.eq_def ..) (actOn_of_mayAct h _)

theorem acts_habort (h : x.MayAct f) : Acts (.habort pr) s x .habort :=
  .of_action (execHabort.eq_def ..) (actOn_of_mayAct h _)

variable {pl : PlaneId} {rid ch : Nat} (h : x.MayAct f) (hsrc : f.src = .request pl rid) (hch : f.respCh = some ch)
include h hsrc hch

/-- REPAIR in mode 1 answers the request with a null. -/
theorem acts_repair_null (hmode : x.b.s64 = some 1#64) : Acts (.repair pr) s x (.repair .null) := by
  refine .of_action (execRepair.eq_def ..) ?_
  simp only [hmode, actOn_of_mayAct h, hsrc, hch]
  rfl

/-- REPAIR in mode 0 answers it with operand A, which has the shape of the response channel. -/
theorem acts_repair_data (hmode : x.b.s64 = some 0#64) (hshape : x.s.inShape pl ch = some (shapeCode x.a.shape)) :
    Acts (.repair pr) s x (.repair (.data x.a)) := by
  refine .of_action (execRepair.eq_def ..) ?_
  simp only [hmode, actOn_of_mayAct h, hsrc, hch, hshape, Option.any_some, ne_eq, not_true_eq_false, decide_false,
    Bool.false_eq_true, if_false]
  rfl

end

/-- Settles O5: each instruction on what it needs. -/
theorem channelsTimeAndSystem : Obligations.ChannelsTimeAndSystem := by
  refine ⟨?channels, ?faults⟩
  case channels =>
    intro pr c c2 n k num rel cnt sel tb ta s x puts acts task
    refine ⟨fun d hkind htok ⟨a, t, htask, hplain⟩ => ?recv, delivers_recv_eos, acts_send, acts_sendc_eos, acts_sendc_null,
      fun v hv htimers heffs ⟨a, t, htask, htimer⟩ => ?timer, delivers_rdcyc, delivers_rdid, delivers_rdid, delivers_rdid,
      fun v hv ⟨a, t, htask, hrate⟩ heffs => ?svc, fun fid ws rest htok ⟨a, t, htask, hfault, hrate⟩ => ?fread,
      delivers_rdperf, fun v => acts_wrperf⟩
    case recv => exact delivers_recv_data hkind htok htask hplain
    case timer => exact acts_timer hv htimers heffs htask htimer
    case svc => exact acts_svc hv htask hrate heffs
    case fread => exact delivers_fread htok htask hfault hrate
  case faults =>
    intro pr code stop s x acts
    refine ⟨acts_trap, acts_brkt, acts_blaze, fun fid f hfid hfault honce hfresh => ?actions⟩
    have hact : x.MayAct f := ⟨by rw [hfid, Option.bind_some, hfault], honce, hfresh⟩
    exact ⟨acts_hresume hact, acts_habort hact, fun pl rid ch hsrc hch =>
      ⟨acts_repair_null hact hsrc hch, acts_repair_data hact hsrc hch⟩⟩

end Sys2Proof.Machine

/-!
PROOF. Logic on masks (09 R180).
-/
namespace Sys2Proof.Machine

/-- Settles O54: each instruction on its operands. -/
theorem maskLogic : Obligations.MaskLogic := by
  intro pr tb ta s x a b puts ha hb
  exact ⟨Puts.need2 rfl ha hb rfl, Puts.need2 rfl ha hb rfl, Puts.need1 rfl ha rfl, Puts.need1 rfl ha rfl⟩

end Sys2Proof.Machine

/-!
PROOF. Compares into masks and the clamp (06 R101; 09 R173, R174, R177, R178).
-/
namespace Sys2Proof.Machine

/-! ### The range of an integer type (R101) -/

theorem lowBits_lt (w : Nat) (a : W64) : lowBits w a < 2 ^ w := Nat.mod_lt _ (Nat.two_pow_pos w)

theorem tyWidth_bounds (ty : ETy) : 0 < tyWidth ty ∧ tyWidth ty ≤ 64 := by
  cases ty <;> decide

theorem two_pow_tyWidth (ty : ETy) : 2 ^ tyWidth ty = 2 * 2 ^ (tyWidth ty - 1) := by
  rw [← Nat.pow_succ', Nat.succ_eq_add_one, Nat.sub_add_cancel (tyWidth_bounds ty).1]

/-- A number stands in the range of a type. -/
def InRange (ty : ETy) (v : Int) : Prop := tyMin ty ≤ v ∧ v ≤ tyMax ty

theorem inRange_intOf (ty : ETy) (a : W64) : InRange ty (intOf ty a) := by
  have hlt := lowBits_lt (tyWidth ty) a
  have hpow := two_pow_tyWidth ty
  unfold InRange tyMin tyMax intOf sLow
  cases tySigned ty
  · simp only [Bool.false_eq_true, if_false]
    omega
  · simp only [if_true]
    split <;> omega

/-- The low bits of a canonical lane are the number modulo 2^width. -/
theorem lowBits_canon (ty : ETy) (v : Int) : (lowBits (tyWidth ty) (canon ty v) : Int) = v % (2 ^ tyWidth ty : Nat) := by
  have hdvd : ((2 ^ tyWidth ty : Nat) : Int) ∣ ((2 ^ 64 : Nat) : Int) :=
    Int.natCast_dvd_natCast.mpr (Nat.pow_dvd_pow 2 (tyWidth_bounds ty).2)
  have hpos : ((2 ^ tyWidth ty : Nat) : Int) ≠ 0 := Int.natCast_ne_zero.mpr (Nat.ne_of_gt (Nat.two_pow_pos _))
  have hnonneg : 0 ≤ v % (2 ^ tyWidth ty : Nat) := Int.emod_nonneg v hpos
  rw [lowBits, Int.natCast_emod, canon]
  split
  · rw [BitVec.toNat_ofInt, Int.toNat_of_nonneg (Int.emod_nonneg _ (by decide)), Int.emod_emod_of_dvd _ hdvd,
      Int.toNat_of_nonneg hnonneg, Int.sub_emod_right, Int.emod_emod_of_dvd _ (Int.dvd_refl _)]
  · rw [BitVec.toNat_ofNat, Int.natCast_emod, Int.emod_emod_of_dvd _ hdvd, Int.toNat_of_nonneg hnonneg,
      Int.emod_emod_of_dvd _ (Int.dvd_refl _)]

/-- The canonical lane of a number in the range of its type stands for that number. -/
theorem intOf_canon {ty : ETy} {v : Int} (h : InRange ty v) : intOf ty (canon ty v) = v := by
  obtain ⟨hmin, hmax⟩ := h
  have hlow := lowBits_canon ty v
  have hpow := two_pow_tyWidth ty
  unfold tyMin at hmin
  unfold tyMax at hmax
  unfold intOf sLow
  cases hs : tySigned ty
  · simp only [hs, Bool.false_eq_true, if_false] at hmin hmax ⊢
    rw [hlow, Int.emod_eq_of_lt hmin (by omega)]
  · simp only [hs, if_true] at hmin hmax ⊢
    obtain hneg | hnonneg := Int.lt_or_le v 0
    · rw [Int.emod_eq_add_self_emod, Int.emod_eq_of_lt (by omega) (by omega)] at hlow
      split <;> omega
    · rw [Int.emod_eq_of_lt hnonneg (by omega)] at hlow
      split <;> omega

/-! ### Mask results -/

theorem bitAt_and (a b : W64) (j : Nat) : bitAt (a &&& b) j = (bitAt a j && bitAt b j) := BitVec.getLsbD_and

/-- A compare whose active lanes answer a truth value. -/
theorem maskOut_bool (tb ta : Tgt) {act : W64} {f : Nat → LR} {p : Nat → Bool}
    (h : ∀ j < 64, bitAt act j = true → f j = .ok (if p j then 1 else 0)) :
    maskOut tb ta act f = outBoth tb ta (maskVal (mkMask fun j => bitAt act j && p j)) := by
  rw [maskOut_ok tb ta h]
  refine congrArg (fun m => outBoth tb ta (maskVal m)) (mkMask_congr fun j hj => ?_)
  rw [laneAt_mkLanes _ hj]
  cases bitAt act j <;> cases p j <;> rfl

/-- A compare with an active lane that raises. -/
theorem maskOut_arith (tb ta : Tgt) {act : W64} {f : Nat → LR} {j : Nat} (hj : j < 64) (hb : bitAt act j = true)
    (hf : f j = .arith) : maskOut tb ta act f = .fault .arith 0 0#64 := by
  rw [maskOut, lanesGo_arith act f hb hf 64 0 (Nat.zero_le j) (by omega)]

/-! ### Compares of floats (R178) -/

/-- Two codes of which one is a NaN. -/
def Unordered (f : Fmt) (a b : Nat) : Prop := (∃ n k, decodeF f a = .nan n k) ∨ ∃ n k, decodeF f b = .nan n k

def FV.isNan : FV → Bool
  | .nan _ _ => true
  | _ => false

theorem FV.isNan_iff (v : FV) : v.isNan = true ↔ ∃ n k, v = .nan n k := by
  cases v with
  | nan n k => exact ⟨fun _ => ⟨n, k, rfl⟩, fun _ => rfl⟩
  | inf s => exact ⟨nofun, fun ⟨_, _, h⟩ => nomatch h⟩
  | fin s m e => exact ⟨nofun, fun ⟨_, _, h⟩ => nomatch h⟩

theorem unordered_iff (f : Fmt) (a b : Nat) :
    Unordered f a b ↔ ((decodeF f a).isNan || (decodeF f b).isNan) = true := by
  simp only [Unordered, Bool.or_eq_true, FV.isNan_iff]

theorem vcondF_of_unordered {f : Fmt} {a b : Nat} (c : VCond) (h : Unordered f a b) : vcondF f c a b = decide (c = .ne) := by
  obtain ⟨n, k, ha⟩ | ⟨n, k, hb⟩ := h
  · rw [vcondF, ha]
  · rw [vcondF, hb]
    cases decodeF f a <;> rfl

theorem vcondF_of_ordered {f : Fmt} {a b : Nat} (c : VCond) (h : ¬Unordered f a b) :
    vcondF f c a b = vcondInt c (cmpKey f a) (cmpKey f b) := by
  unfold vcondF
  split
  case h_1 n k ha => exact absurd (Or.inl ⟨n, k, ha⟩) h
  case h_2 n k hb _ => exact absurd (Or.inr ⟨n, k, hb⟩) h
  case h_3 => rfl

/-- One lane of a compare of floats. -/
def cmpLaneF (np : W32) (f : Fmt) (c : VCond) (a b : Nat) : LR :=
  if ((decodeF f a).isNan || (decodeF f b).isNan) && decide (nanmOf np = .strict) then .arith
  else .ok (if vcondF f c a b then 1 else 0)

section
variable {np : W32} {f : Fmt} {a b : Nat} (c : VCond)

theorem cmpLaneF_of_strict (h : Unordered f a b) (hs : nanmOf np = .strict) : cmpLaneF np f c a b = .arith :=
  if_pos (Bool.and_eq_true_iff.mpr ⟨(unordered_iff f a b).mp h, decide_eq_true hs⟩)

theorem cmpLaneF_of_quiet (h : nanmOf np ≠ .strict ∨ ¬Unordered f a b) :
    cmpLaneF np f c a b = .ok (if vcondF f c a b then 1 else 0) := by
  refine if_neg fun hraise => ?_
  obtain ⟨hnan, hs⟩ := Bool.and_eq_true_iff.mp hraise
  obtain hquiet | hordered := h
  · exact hquiet (of_decide_eq_true hs)
  · exact hordered ((unordered_iff f a b).mpr hnan)

end

section
variable {i : Instr} {s : State} {x : FX} {tb ta : Tgt} {ty : ETy} {c : VCond}

theorem cmpVec_eq_maskOut_int (c : VCond) (hty : tyInt ty = true) (ha : x.a.isData ty = true) (hb : x.b.isData ty = true) :
    cmpVec c ty tb ta x = maskOut tb ta (x.a.lmask &&& x.b.lmask) fun j =>
      .ok (if vcondInt c (intOf ty (laneAt x.a.lanes j)) (intOf ty (laneAt x.b.lanes j)) then 1 else 0) := by
  simp only [cmpVec, data2_of_isData _ ha hb, hty, if_true, act2]

theorem cmpVec_eq_maskOut_float (c : VCond) (hty : tyInt ty = false) (ha : x.a.isData ty = true) (hb : x.b.isData ty = true) :
    cmpVec c ty tb ta x = maskOut tb ta (x.a.lmask &&& x.b.lmask) fun j =>
      cmpLaneF x.p.npol (fmtOf ty) c (codeF x.p.npol ty (laneAt x.a.lanes j)) (codeF x.p.npol ty (laneAt x.b.lanes j)) := by
  simp only [cmpVec, data2_of_isData _ ha hb, hty, Bool.false_eq_true, if_false, act2]
  rfl

/-- Integers: the lanes active in both operands whose numbers meet the condition. -/
theorem Puts.cmpVec_int (hi : exec i s = fireWord i s (cmpVec c ty tb ta)) (hty : tyInt ty = true) (ha : x.a.isData ty = true)
    (hb : x.b.isData ty = true) {o : Val}
    (ho : o = maskVal (mkMask fun j => bitAt x.a.lmask j && bitAt x.b.lmask j &&
      vcondInt c (intOf ty (laneAt x.a.lanes j)) (intOf ty (laneAt x.b.lanes j)))) : Puts i s x tb ta o o := by
  refine .of_outBoth hi ?_
  rw [cmpVec_eq_maskOut_int c hty ha hb, maskOut_bool tb ta fun _ _ _ => rfl, ho]
  simp only [bitAt_and]

/-- Floats, a NaN in an active lane under STRICT. -/
theorem RaisesArith.cmpVec (hi : exec i s = fireWord i s (cmpVec c ty tb ta)) (hty : tyInt ty = false)
    (ha : x.a.isData ty = true) (hb : x.b.isData ty = true) {j : Nat} (hj : j < 64)
    (hact : bitAt (x.a.lmask &&& x.b.lmask) j = true)
    (hnan : Unordered (fmtOf ty) (codeF x.p.npol ty (laneAt x.a.lanes j)) (codeF x.p.npol ty (laneAt x.b.lanes j)))
    (hs : nanmOf x.p.npol = .strict) : RaisesArith i s x :=
  .of_action hi <| (cmpVec_eq_maskOut_float c hty ha hb).trans <| maskOut_arith tb ta hj hact (cmpLaneF_of_strict c hnan hs)

/-- Floats where no active lane raises: the mask of the active lanes that are unordered, for VCNE, or whose keys meet the
condition. -/
theorem Puts.cmpVec_float (hi : exec i s = fireWord i s (cmpVec c ty tb ta)) (hty : tyInt ty = false)
    (ha : x.a.isData ty = true) (hb : x.b.isData ty = true)
    {nan : Nat → Prop} (hnan : ∀ j, nan j ↔ Unordered (fmtOf ty) (codeF x.p.npol ty (laneAt x.a.lanes j)) (codeF x.p.npol ty (laneAt x.b.lanes j)))
    (hok : nanmOf x.p.npol ≠ .strict ∨ ∀ j < 64, bitAt (x.a.lmask &&& x.b.lmask) j = true → ¬nan j)
    {p : Int → Int → Bool} {un : Bool} (hp : vcondInt c = p) (hun : decide (c = .ne) = un) {m : W64}
    (hm : ∀ j < 64, (bitAt m j = true ↔ bitAt (x.a.lmask &&& x.b.lmask) j = true ∧ ((nan j ∧ un = true) ∨ (¬nan j ∧
      p (cmpKey (fmtOf ty) (codeF x.p.npol ty (laneAt x.a.lanes j))) (cmpKey (fmtOf ty) (codeF x.p.npol ty (laneAt x.b.lanes j))) = true)))) :
    Puts i s x tb ta (maskVal m) (maskVal m) := by
  subst hp hun
  refine .of_outBoth hi ?_
  rw [cmpVec_eq_maskOut_float c hty ha hb, maskOut_bool tb ta fun j hj hact => cmpLaneF_of_quiet c <|
    hok.imp_right fun h => mt (hnan j).mpr (h j hj hact)]
  refine congrArg (fun m => outBoth tb ta (maskVal m)) (eq_mkMask fun j hj => ?_).symm
  rw [Bool.eq_iff_iff, Bool.and_eq_true_iff]
  refine (hm j hj).trans (and_congr_right fun _ => ?_)
  by_cases hj' : nan j
  · simp only [hj', vcondF_of_unordered c ((hnan j).mp hj'), true_and, not_true_eq_false, false_and, or_false]
  · simp only [hj', vcondF_of_ordered c (mt (hnan j).mpr hj'), false_and, not_false_eq_true, true_and, false_or]

end

/-! ### The clamp (R177) -/

/-- One lane of VCLAMP: the least of the greatest. -/
def clampLane (ty : ETy) (np : W32) (a b c : W64) : LR :=
  match minmaxLane true ty np a b with
  | .arith => .arith
  | .ok m => minmaxLane false ty np (BitVec.ofNat 64 m) c

theorem exec_vclamp (pr : PR) (ty : ETy) (tb ta : Tgt) (s : State) :
    exec (.vclamp pr ty tb ta) s = fireWord (.vclamp pr ty tb ta) s (vec3 ty tb ta (clampLane ty)) := rfl

theorem clampLane_int {ty : ETy} (np : W32) (a b c : W64) (h : tyInt ty = true) :
    clampLane ty np a b c = laneInt ty (min (max (intOf ty a) (intOf ty b)) (intOf ty c)) := by
  have hmax : InRange ty (max (intOf ty a) (intOf ty b)) := by
    rw [Int.max_def]
    split
    · exact inRange_intOf ty b
    · exact inRange_intOf ty a
  simp only [clampLane, minmaxLane, h, if_true, laneInt, Bool.false_eq_true, if_false, BitVec.ofNat_toNat,
    BitVec.setWidth_eq, intOf_canon hmax]

/-- Settles O8: each compare delivers a mask built lane by lane, and the clamp is lane-wise. -/
theorem comparesAndClamp : Obligations.ComparesAndClamp := by
  intro pr ty tb ta s x puts z gives
  refine ⟨fun hmem ha hb => ?intCompares, fun hmem ha hb hc => ?intClamp, fun hmem ha hb => ?floats⟩
  case intCompares =>
    have hty := tyInt_of_mem_intTy hmem
    exact ⟨Puts.cmpVec_int (c := .eq) rfl hty ha hb rfl, Puts.cmpVec_int (c := .ne) rfl hty ha hb rfl,
      Puts.cmpVec_int (c := .lt) rfl hty ha hb rfl, Puts.cmpVec_int (c := .le) rfl hty ha hb rfl⟩
  case intClamp =>
    exact Puts.of_vecOut_int (exec_vclamp ..) (vec3_eq_vecOut _ ha hb hc) fun j => clampLane_int _ _ _ _ (tyInt_of_mem_intTy hmem)
  case floats =>
    intro np f c nan act
    have hty := tyInt_of_mem_fltTy hmem
    refine ⟨fun ⟨j, hj, hact, hnan⟩ hs i hi => ?strict, fun hok => ?compares, fun hc => ?clamp⟩
    case strict =>
      simp only [List.mem_cons, List.not_mem_nil, or_false] at hi
      obtain rfl | rfl | rfl | rfl := hi
      · exact RaisesArith.cmpVec (c := .eq) rfl hty ha hb hj hact hnan hs
      · exact RaisesArith.cmpVec (c := .ne) rfl hty ha hb hj hact hnan hs
      · exact RaisesArith.cmpVec (c := .lt) rfl hty ha hb hj hact hnan hs
      · exact RaisesArith.cmpVec (c := .le) rfl hty ha hb hj hact hnan hs
    case compares =>
      intro gives
      have hnan : ∀ j, nan j ↔ Unordered f (c x.a j) (c x.b j) := fun _ => Iff.rfl
      exact ⟨fun m => Puts.cmpVec_float (c := .eq) rfl hty ha hb hnan hok rfl rfl,
        fun m => Puts.cmpVec_float (c := .ne) rfl hty ha hb hnan hok rfl rfl,
        fun m => Puts.cmpVec_float (c := .lt) rfl hty ha hb hnan hok rfl rfl,
        fun m => Puts.cmpVec_float (c := .le) rfl hty ha hb hnan hok rfl rfl⟩
    case clamp =>
      intro act3 clamp
      refine GivesLanes.of_vecOut (exec_vclamp ..) (vec3_eq_vecOut _ ha hb hc) fun j => ?_
      dsimp only [clampLane, clamp, np, f, c]
      rw [minmaxLane_float _ _ _ true hty]
      cases minmaxF x.p.npol (fmtOf ty) true (codeF x.p.npol ty (laneAt x.a.lanes j)) (codeF x.p.npol ty (laneAt x.b.lanes j)) with
      | ok r => exact minmaxLane_float _ _ _ false hty
      | arith => rfl

end Sys2Proof.Machine

/-!
PROOF. Reductions, scans, conversion, filter and expand (06 R101, R106, R107; 09 R177, R182 to R184).
-/
namespace Sys2Proof.Machine

/-! ### Sums of lanes (R182) -/

/-- The chosen lanes up to lane `j`. -/
theorem filter_filter_le_range (p : Nat → Bool) {j n : Nat} (hj : j < n) :
    ((List.range n).filter p).filter (fun i => decide (i ≤ j)) = (List.range (j + 1)).filter p := by
  obtain ⟨k, rfl⟩ := Nat.exists_eq_add_of_le hj
  have hlow : (List.range (j + 1)).filter (fun i => decide (i ≤ j)) = List.range (j + 1) :=
    List.filter_eq_self.mpr fun i hi => decide_eq_true (Nat.le_of_lt_succ (List.mem_range.mp hi))
  have hhigh : ((List.range k).map (j + 1 + ·)).filter (fun i => decide (i ≤ j)) = [] := by
    simp only [List.filter_eq_nil_iff, List.mem_map, decide_eq_true_eq]
    rintro _ ⟨i, -, rfl⟩
    omega
  calc ((List.range (j + 1 + k)).filter p).filter (fun i => decide (i ≤ j))
      = ((List.range (j + 1 + k)).filter fun i => decide (i ≤ j)).filter p := by
        simp only [List.filter_filter, Bool.and_comm]
    _ = (List.range (j + 1)).filter p := by rw [List.range_add, List.filter_append, hlow, hhigh, List.append_nil]

section
variable {ty : ETy} (np : W32) (l : Nat → W64) (js : List Nat)

theorem sumLanes_int (hty : tyInt ty = true) :
    sumLanes np ty (js.map l) = laneInt ty (js.map fun j => intOf ty (l j)).sum := by
  simp only [sumLanes, hty, if_true, List.foldl_map, List.sum_eq_foldl]

theorem sumLanes_float (hty : tyInt ty = false) :
    sumLanes np ty (js.map l) = ((js.map fun j => laneF np ty (l j)).foldl FSum.add {}).finish np (fmtOf ty) (!js.isEmpty) := by
  simp only [sumLanes, hty, Bool.false_eq_true, if_false, List.foldl_map, List.isEmpty_map]

end

/-! ### The best of some candidates -/

/-- A number by which the least comes first, or for the maximum the greatest. -/
def ranked (mx : Bool) (v : Int) : Int := if mx then -v else v

/-- A choice between two candidates that takes the first or the second, of lower or equal rank, leaves in a fold a candidate
of lowest rank. -/
theorem foldl_pick {α : Type} {rank : α → Int} {pick : α → α → α}
    (hpick : ∀ a b, pick a b = a ∧ rank a ≤ rank b ∨ pick a b = b ∧ rank b ≤ rank a) (l : List α) (d : α) :
    l.foldl pick d ∈ d :: l ∧ ∀ b ∈ d :: l, rank (l.foldl pick d) ≤ rank b := by
  induction l generalizing d with
  | nil =>
    refine ⟨List.mem_singleton_self d, fun b hb => ?_⟩
    exact List.mem_singleton.mp hb ▸ Int.le_refl _
  | cons a l ih =>
    obtain ⟨hmem, hle⟩ := ih (pick d a)
    simp only [List.foldl_cons, List.mem_cons, forall_eq_or_imp] at hmem hle ⊢
    obtain ⟨hbest, hrest⟩ := hle
    obtain ⟨hd, hrank⟩ | ⟨ha, hrank⟩ := hpick d a
    · rw [hd] at hbest hmem hrest ⊢
      exact ⟨hmem.imp_right Or.inr, hbest, Int.le_trans hbest hrank, hrest⟩
    · rw [ha] at hbest hmem hrest ⊢
      exact ⟨Or.inr hmem, Int.le_trans hbest hrank, hbest, hrest⟩

/-! ### The least and the greatest of integers (R182) -/

/-- The choice of VMIN and VMAX between two numbers (R177). -/
def pickInt (mx : Bool) (a b : Int) : Int := if mx then max a b else min a b

theorem pickInt_cases (mx : Bool) (a b : Int) :
    pickInt mx a b = a ∧ ranked mx a ≤ ranked mx b ∨ pickInt mx a b = b ∧ ranked mx b ≤ ranked mx a := by
  cases mx <;> simp only [pickInt, ranked, Bool.false_eq_true, if_true, if_false] <;> omega

theorem inRange_pickInt {ty : ETy} {a b : Int} (mx : Bool) (ha : InRange ty a) (hb : InRange ty b) : InRange ty (pickInt mx a b) := by
  obtain ⟨h, -⟩ | ⟨h, -⟩ := pickInt_cases mx a b
  · exact h.symm ▸ ha
  · exact h.symm ▸ hb

theorem foldMinmax_int {ty : ETy} (mx : Bool) (np : W32) (hty : tyInt ty = true) (ls : List W64) {v : Int} (hv : InRange ty v) :
    foldMinmax mx ty np (canon ty v) ls = .ok (canon ty ((ls.map (intOf ty)).foldl (pickInt mx) v)).toNat := by
  induction ls generalizing v with
  | nil => rfl
  | cons a ls ih =>
    have hlane : minmaxLane mx ty np (canon ty v) a = laneInt ty (pickInt mx v (intOf ty a)) := by
      simp only [minmaxLane, hty, if_true, intOf_canon hv, pickInt]
    simp only [foldMinmax, hlane, laneInt, BitVec.ofNat_toNat, BitVec.setWidth_eq, List.map_cons, List.foldl_cons]
    exact ih (inRange_pickInt mx hv (inRange_intOf ty a))

/-- The number from which a reduction starts: the last that it would choose. -/
def worstInt (mx : Bool) (ty : ETy) : Int := if mx then tyMin ty else tyMax ty

theorem ranked_le_worstInt {ty : ETy} {v : Int} (mx : Bool) (hv : InRange ty v) : ranked mx v ≤ ranked mx (worstInt mx ty) := by
  obtain ⟨hmin, hmax⟩ := hv
  cases mx
  · exact hmax
  · exact Int.neg_le_neg hmin

theorem inRange_worstInt (mx : Bool) (ty : ETy) : InRange ty (worstInt mx ty) := by
  have hsome := inRange_intOf ty 0#64
  cases mx
  · exact ⟨Int.le_trans hsome.1 hsome.2, Int.le_refl _⟩
  · exact ⟨Int.le_refl _, Int.le_trans hsome.1 hsome.2⟩

theorem ranked_injective (mx : Bool) : Function.Injective (ranked mx) := by
  cases mx
  · exact fun _ _ h => h
  · exact fun _ _ h => Int.neg_inj.mp h

/-- A reduction of integers finds the lane of lowest rank. -/
theorem foldMinmax_int_eq {ty : ETy} {l : Nat → W64} {js : List Nat} {r : Int} (mx : Bool) (np : W32) (hty : tyInt ty = true)
    (hmem : ∃ j ∈ js, intOf ty (l j) = r) (hbest : ∀ j ∈ js, ranked mx r ≤ ranked mx (intOf ty (l j))) :
    foldMinmax mx ty np (extremeOf mx ty) (js.map l) = laneInt ty r := by
  have hstart : extremeOf mx ty = canon ty (worstInt mx ty) := by simp only [extremeOf, hty, if_true, worstInt]
  obtain ⟨j, hj, rfl⟩ := hmem
  obtain ⟨hin, hle⟩ := foldl_pick (pickInt_cases mx) ((js.map l).map (intOf ty)) (worstInt mx ty)
  rw [hstart, foldMinmax_int mx np hty _ (inRange_worstInt mx ty)]
  refine congrArg (laneInt ty) (ranked_injective mx (Int.le_antisymm (hle _ ?_) ?_))
  · exact List.mem_cons_of_mem _ (List.mem_map_of_mem (List.mem_map_of_mem hj))
  · obtain h | h := List.mem_cons.mp hin
    · exact h.symm ▸ ranked_le_worstInt mx (inRange_intOf ty _)
    · rw [List.map_map] at h ⊢
      obtain ⟨i, hi, h⟩ := List.mem_map.mp h
      exact h ▸ hbest i hi

/-! ### The least and the greatest of floats (R106, R177, R182) -/

/-- The weight of the sign bit of a format. -/
def Fmt.half (f : Fmt) : Nat := 2 ^ (f.eb + f.mb)

/-- Subnormal codes flushed to the zero of their sign, where `on`. -/
def Fmt.flush (f : Fmt) (on : Bool) (c : Nat) : Nat := if on && isSub f c then c / f.half * f.half else c

theorem flushIn_eq_flush (np : W32) (f : Fmt) (c : Nat) : flushIn np f c = f.flush (ftzi np) c := rfl
theorem flushOut_eq_flush (np : W32) (f : Fmt) (c : Nat) : flushOut np f c = f.flush (ftzo np) c := rfl

section
variable (f : Fmt) (on : Bool) (c : Nat)

theorem Fmt.half_pos : 0 < f.half := Nat.two_pow_pos _

theorem isSub_iff : isSub f c = true ↔ 0 < c % f.half ∧ c % f.half < 2 ^ f.mb := by
  simp only [isSub, Fmt.half, Bool.and_eq_true, decide_eq_true_eq]

/-- Flushing keeps the sign. -/
theorem Fmt.flush_div : f.flush on c / f.half = c / f.half := by
  unfold Fmt.flush
  split
  · exact Nat.mul_div_cancel _ f.half_pos
  · rfl

theorem Fmt.flush_mod : f.flush on c % f.half = if on = true ∧ 0 < c % f.half ∧ c % f.half < 2 ^ f.mb then 0 else c % f.half := by
  simp only [Fmt.flush, Bool.and_eq_true, isSub_iff]
  split
  · exact Nat.mul_mod_left ..
  · rfl

theorem Fmt.flush_le : f.flush on c ≤ c := by
  unfold Fmt.flush
  split
  · exact Nat.div_mul_le_self ..
  · exact Nat.le_refl _

theorem Fmt.flush_of_not_sub (h : ¬(0 < c % f.half ∧ c % f.half < 2 ^ f.mb)) : f.flush on c = c := by
  rw [← isSub_iff, Bool.not_eq_true] at h
  rw [Fmt.flush, h, Bool.and_false]
  rfl

theorem Fmt.flush_cases : f.flush on c = c ∨ f.flush on c % f.half = 0 := by
  by_cases h : on = true ∧ 0 < c % f.half ∧ c % f.half < 2 ^ f.mb
  · exact Or.inr (by rw [f.flush_mod, if_pos h])
  · rw [← isSub_iff, ← Bool.and_eq_true] at h
    exact Or.inl (if_neg h)

theorem Fmt.flush_flush : f.flush on (f.flush on c) = f.flush on c := by
  obtain h | h := f.flush_cases on c
  · rw [h, h]
  · exact f.flush_of_not_sub on _ (by omega)

/-- A code that one flush keeps stays so after another. -/
theorem Fmt.flush_comm_of_fixed {on' : Bool} (hfix : f.flush on' c = c) : f.flush on' (f.flush on c) = f.flush on c := by
  obtain h | h := f.flush_cases on c
  · rw [h, hfix]
  · exact f.flush_of_not_sub on' _ (by omega)

theorem orderKey_eq : orderKey f c = if c / f.half % 2 = 1 then -((c % f.half : Nat) : Int) - 1 else (c % f.half : Nat) := rfl

end

/-- The place in the order of a flushed code: those below `m` in magnitude go to the zero of their sign. -/
def settledKey (m : Nat) (k : Int) : Int := if 0 < k ∧ k < m then 0 else if -(m : Int) - 1 < k ∧ k < -1 then -1 else k

theorem settledKey_cases (m : Nat) (k : Int) :
    (0 < k ∧ k < m ∧ settledKey m k = 0) ∨ (-(m : Int) - 1 < k ∧ k < -1 ∧ settledKey m k = -1) ∨
      ((k ≤ 0 ∨ m ≤ k) ∧ (k ≤ -(m : Int) - 1 ∨ -1 ≤ k) ∧ settledKey m k = k) := by
  unfold settledKey
  split
  · omega
  · split <;> omega

theorem settledKey_mono (m : Nat) {j k : Int} (h : j ≤ k) : settledKey m j ≤ settledKey m k := by
  have hj := settledKey_cases m j
  have hk := settledKey_cases m k
  omega

theorem Fmt.orderKey_flush (f : Fmt) (c : Nat) : orderKey f (f.flush true c) = settledKey (2 ^ f.mb) (orderKey f c) := by
  have hcases := settledKey_cases (2 ^ f.mb) (orderKey f c)
  generalize settledKey (2 ^ f.mb) (orderKey f c) = k at hcases ⊢
  simp only [orderKey_eq, Fmt.flush_div, Fmt.flush_mod, true_and] at hcases ⊢
  by_cases hsign : c / f.half % 2 = 1
  · simp only [hsign, if_true] at hcases ⊢
    split <;> omega
  · simp only [hsign, if_false] at hcases ⊢
    split <;> omega

/-- Flushing keeps the order of codes. -/
theorem Fmt.orderKey_flush_le (f : Fmt) (on : Bool) {a b : Nat} (h : orderKey f a ≤ orderKey f b) :
    orderKey f (f.flush on a) ≤ orderKey f (f.flush on b) := by
  cases on with
  | false => exact h
  | true =>
    rw [f.orderKey_flush, f.orderKey_flush]
    exact settledKey_mono _ h

/-- A code of a format is known by its place in the order. -/
theorem orderKey_injOn {f : Fmt} {a b : Nat} (ha : a < 2 * f.half) (hb : b < 2 * f.half) (h : orderKey f a = orderKey f b) :
    a = b := by
  have hda : a / f.half < 2 := Nat.div_lt_of_lt_mul (by rwa [Nat.mul_comm])
  have hdb : b / f.half < 2 := Nat.div_lt_of_lt_mul (by rwa [Nat.mul_comm])
  simp only [orderKey_eq] at h
  have hdiv : a / f.half = b / f.half ∧ a % f.half = b % f.half := by
    generalize a / f.half = p at *
    generalize b / f.half = q at *
    split at h <;> split at h <;> omega
  rw [← Nat.div_add_mod a f.half, ← Nat.div_add_mod b f.half, hdiv.1, hdiv.2]

/-- What the formats of the reducible types share: infinities, the type's width, and where their infinities lie. -/
structure Fmt.OfWidth (f : Fmt) (w : Nat) : Prop where
  hasInf : f.hasInf = true
  width : 2 ^ w = 2 * f.half
  le64 : w ≤ 64
  normal : 2 ^ f.mb ≤ infCode f
  below : infCode f < f.half

theorem ofWidth_fmtOf {ty : ETy} (h : ty ∈ fltTy) : (fmtOf ty).OfWidth (tyWidth ty) := by
  simp only [fltTy, List.mem_cons, List.not_mem_nil, or_false] at h
  obtain rfl | rfl | rfl := h <;> exact ⟨by decide, by decide, by decide, by decide, by decide⟩

/-- A code is a NaN where it lies above the infinity of its sign (R103). -/
theorem isNan_decodeF {f : Fmt} (hinf : f.hasInf = true) (c : Nat) :
    (decodeF f c).isNan = true ↔ infCode f < c % f.half := by
  have hmod : c % f.half = c % 2 ^ f.mb + 2 ^ f.mb * (c / 2 ^ f.mb % 2 ^ f.eb) := by
    rw [Fmt.half, Nat.add_comm, Nat.pow_add, Nat.mod_mul]
  have hman : c % 2 ^ f.mb < 2 ^ f.mb := Nat.mod_lt _ (Nat.two_pow_pos _)
  have hex : c / 2 ^ f.mb % 2 ^ f.eb < 2 ^ f.eb := Nat.mod_lt _ (Nat.two_pow_pos _)
  rw [hmod, infCode, decodeF, Nat.mul_comm (2 ^ f.eb - 1)]
  simp only [hinf, Bool.true_and, Bool.not_true, Bool.and_false, Bool.false_and, decide_eq_true_eq, Bool.false_eq_true, if_false]
  by_cases htop : c / 2 ^ f.mb % 2 ^ f.eb = 2 ^ f.eb - 1
  · rw [if_pos htop, htop]
    split
    · simp only [FV.isNan, Bool.false_eq_true, false_iff]
      omega
    · simp only [FV.isNan, true_iff]
      omega
  · have hstep : 2 ^ f.mb * (c / 2 ^ f.mb % 2 ^ f.eb + 1) ≤ 2 ^ f.mb * (2 ^ f.eb - 1) :=
      Nat.mul_le_mul_left _ (by omega)
    rw [Nat.mul_add] at hstep
    have hnot : ¬2 ^ f.mb * (2 ^ f.eb - 1) < c % 2 ^ f.mb + 2 ^ f.mb * (c / 2 ^ f.mb % 2 ^ f.eb) := by omega
    rw [if_neg htop, iff_false_right hnot]
    split <;> exact nofun

/-- A code as a lane holds it after FTZI, and no NaN. -/
structure Number (np : W32) (f : Fmt) (c : Nat) : Prop where
  lt : c < 2 * f.half
  kept : f.flush (ftzi np) c = c
  le : c % f.half ≤ infCode f

/-- The choice of VMIN and VMAX between two codes (R177). -/
def pickF (mx : Bool) (f : Fmt) (a b : Nat) : Nat := if (orderKey f a ≤ orderKey f b) = !mx then a else b

theorem pickF_cases (mx : Bool) (f : Fmt) (a b : Nat) :
    pickF mx f a b = a ∧ ranked mx (orderKey f a) ≤ ranked mx (orderKey f b) ∨
      pickF mx f a b = b ∧ ranked mx (orderKey f b) ≤ ranked mx (orderKey f a) := by
  cases mx <;> simp only [pickF, ranked, Bool.not_true, Bool.not_false, Bool.false_eq_true, eq_iff_iff, iff_true, iff_false,
    if_true, if_false] <;> split <;> omega

section
variable {np : W32} {f : Fmt} {a b c : Nat}

theorem Number.not_isNan (hf : f.hasInf = true) (h : Number np f c) : (decodeF f c).isNan = false := by
  rw [← Bool.not_eq_true, isNan_decodeF hf]
  exact Nat.not_lt.mpr h.le

theorem Number.flush (on : Bool) (h : Number np f c) : Number np f (f.flush on c) where
  lt := Nat.lt_of_le_of_lt (f.flush_le on c) h.lt
  kept := f.flush_comm_of_fixed on c h.kept
  le := by
    rw [f.flush_mod]
    split
    · exact Nat.zero_le _
    · exact h.le

theorem Number.pickF (mx : Bool) (ha : Number np f a) (hb : Number np f b) : Number np f (pickF mx f a b) := by
  obtain ⟨h, -⟩ | ⟨h, -⟩ := pickF_cases mx f a b
  · exact h.symm ▸ ha
  · exact h.symm ▸ hb

theorem Number.eq_of_ranked {mx : Bool} (ha : Number np f a) (hb : Number np f b)
    (h : ranked mx (orderKey f a) = ranked mx (orderKey f b)) : a = b :=
  orderKey_injOn ha.lt hb.lt (ranked_injective mx h)

theorem ranked_flush_le {mx : Bool} (on : Bool) (h : ranked mx (orderKey f a) ≤ ranked mx (orderKey f b)) :
    ranked mx (orderKey f (f.flush on a)) ≤ ranked mx (orderKey f (f.flush on b)) := by
  cases mx
  · exact f.orderKey_flush_le on h
  · exact Int.neg_le_neg (f.orderKey_flush_le on (Int.neg_le_neg_iff.mp h))

/-- Flushing one candidate before the choice does not change the flushed choice. -/
theorem flush_pickF_flush (mx on : Bool) (ha : Number np f a) (hb : Number np f b) :
    f.flush on (Machine.pickF mx f (f.flush on a) b) = f.flush on (Machine.pickF mx f a b) := by
  have hidem := f.flush_flush on a
  have heq : ranked mx (orderKey f (f.flush on a)) ≤ ranked mx (orderKey f (f.flush on b)) →
      ranked mx (orderKey f (f.flush on b)) ≤ ranked mx (orderKey f (f.flush on a)) → f.flush on a = f.flush on b :=
    fun hle hge => (ha.flush on).eq_of_ranked (hb.flush on) (Int.le_antisymm hle hge)
  obtain ⟨h, hle⟩ | ⟨h, hle⟩ := pickF_cases mx f a b <;>
    obtain ⟨h', hle'⟩ | ⟨h', hle'⟩ := pickF_cases mx f (f.flush on a) b <;> rw [h, h']
  case inl.inl => exact hidem
  case inl.inr => exact (heq (ranked_flush_le on hle) (hidem ▸ ranked_flush_le on hle')).symm
  case inr.inl => exact hidem.trans (heq (hidem ▸ ranked_flush_le on hle') (ranked_flush_le on hle))

theorem minmaxF_of_numbers (hf : f.hasInf = true) (mx : Bool) (ha : Number np f a) (hb : Number np f b) :
    minmaxF np f mx a b = .ok (flushOut np f (Machine.pickF mx f a b)) := by
  unfold minmaxF
  split
  case h_1 n k hda => exact absurd (ha.not_isNan hf) (by rw [hda]; exact nofun)
  case h_2 n k hdb _ => exact absurd (hb.not_isNan hf) (by rw [hdb]; exact nofun)
  case h_3 => rfl

end

section
variable {np : W32} {ty : ETy}

theorem codeF_eq_flush (a : W64) : codeF np ty a = (fmtOf ty).flush (ftzi np) (lowBits (tyWidth ty) a) := rfl

/-- A lane that is no NaN. -/
theorem number_codeF (hmem : ty ∈ fltTy) {a : W64} (hnan : ∀ n k, laneF np ty a ≠ .nan n k) :
    Number np (fmtOf ty) (codeF np ty a) where
  lt := Nat.lt_of_le_of_lt (Fmt.flush_le ..) ((ofWidth_fmtOf hmem).width ▸ lowBits_lt (tyWidth ty) a)
  kept := Fmt.flush_flush ..
  le := by
    refine Nat.le_of_not_lt fun hlt => ?_
    obtain ⟨n, k, h⟩ := (FV.isNan_iff _).mp ((isNan_decodeF (ofWidth_fmtOf hmem).hasInf _).mpr hlt)
    exact hnan n k h

theorem Number.lt_width (hmem : ty ∈ fltTy) {c : Nat} (h : Number np (fmtOf ty) c) : c < 2 ^ tyWidth ty :=
  (ofWidth_fmtOf hmem).width ▸ h.lt

theorem Number.toNat_ofNat (hmem : ty ∈ fltTy) {c : Nat} (h : Number np (fmtOf ty) c) : (BitVec.ofNat 64 c).toNat = c := by
  rw [BitVec.toNat_ofNat, Nat.mod_eq_of_lt]
  exact Nat.lt_of_lt_of_le (h.lt_width hmem) (Nat.pow_le_pow_right (by decide) (ofWidth_fmtOf hmem).le64)

/-- The code of a lane that holds a number, which has come through FTZI before. -/
theorem Number.codeF_ofNat (hmem : ty ∈ fltTy) {c : Nat} (h : Number np (fmtOf ty) c) : codeF np ty (BitVec.ofNat 64 c) = c := by
  rw [codeF_eq_flush, lowBits, h.toNat_ofNat hmem, Nat.mod_eq_of_lt (h.lt_width hmem), h.kept]

/-- A reduction flushes its candidate at every step, which comes to flushing the choice once. -/
theorem foldMinmax_float (mx : Bool) (hmem : ty ∈ fltTy) (ls : List W64) {d : Nat} (hd : Number np (fmtOf ty) d)
    (hls : ∀ a ∈ ls, Number np (fmtOf ty) (codeF np ty a)) :
    foldMinmax mx ty np (BitVec.ofNat 64 (flushOut np (fmtOf ty) d)) ls =
      .ok (flushOut np (fmtOf ty) ((ls.map (codeF np ty)).foldl (pickF mx (fmtOf ty)) d)) := by
  induction ls generalizing d with
  | nil => exact congrArg LR.ok ((hd.flush _).toNat_ofNat hmem)
  | cons a ls ih =>
    obtain ⟨ha, hls⟩ := List.forall_mem_cons.mp hls
    have hlane : minmaxLane mx ty np (BitVec.ofNat 64 (flushOut np (fmtOf ty) d)) a =
        .ok (flushOut np (fmtOf ty) (pickF mx (fmtOf ty) d (codeF np ty a))) := by
      rw [minmaxLane_float _ _ _ mx (tyInt_of_mem_fltTy hmem), flushOut_eq_flush, (hd.flush _).codeF_ofNat hmem,
        minmaxF_of_numbers (ofWidth_fmtOf hmem).hasInf mx (hd.flush _) ha, flushOut_eq_flush, flush_pickF_flush mx _ hd ha]
      rfl
    simp only [foldMinmax, hlane, List.map_cons, List.foldl_cons]
    exact ih (hd.pickF mx ha) hls

/-- The code from which a reduction starts: an infinity. -/
def worstF (mx : Bool) (f : Fmt) : Nat := signBit f mx + infCode f

theorem worstF_div_mod (mx : Bool) {f : Fmt} {w : Nat} (hf : f.OfWidth w) :
    worstF mx f / f.half = mx.toNat ∧ worstF mx f % f.half = infCode f := by
  have hworst : worstF mx f = infCode f + f.half * mx.toNat := by
    cases mx with
    | false => exact Nat.add_comm ..
    | true =>
      rw [Bool.toNat_true, Nat.mul_one]
      exact Nat.add_comm ..
  rw [hworst, Nat.add_mul_div_left _ _ f.half_pos, Nat.div_eq_of_lt hf.below, Nat.zero_add, Nat.add_mul_mod_self_left,
    Nat.mod_eq_of_lt hf.below]
  exact ⟨rfl, rfl⟩

theorem flush_worstF (mx on : Bool) {f : Fmt} {w : Nat} (hf : f.OfWidth w) : f.flush on (worstF mx f) = worstF mx f :=
  f.flush_of_not_sub on _ (by rw [(worstF_div_mod mx hf).2]; exact fun h => Nat.not_lt.mpr hf.normal h.2)

theorem number_worstF (mx : Bool) {f : Fmt} {w : Nat} (hf : f.OfWidth w) : Number np f (worstF mx f) where
  lt := by
    have hlt : worstF mx f / f.half < 2 := (worstF_div_mod mx hf).1 ▸ Bool.toNat_lt mx
    rwa [Nat.div_lt_iff_lt_mul f.half_pos] at hlt
  kept := flush_worstF mx _ hf
  le := Nat.le_of_eq (worstF_div_mod mx hf).2

theorem ranked_le_worstF (mx : Bool) {f : Fmt} {w c : Nat} (hf : f.OfWidth w) (hc : Number np f c) :
    ranked mx (orderKey f c) ≤ ranked mx (orderKey f (worstF mx f)) := by
  obtain ⟨hdiv, hmod⟩ := worstF_div_mod mx hf
  have hle := hc.le
  rw [orderKey_eq, orderKey_eq, hdiv, hmod]
  cases mx <;> simp only [ranked, Bool.toNat_false, Bool.toNat_true, Nat.zero_mod, Nat.one_mod, Nat.zero_ne_one,
    Bool.false_eq_true, if_true, if_false] <;> split <;> omega

/-- A reduction of floats finds the lane of lowest rank. -/
theorem foldMinmax_float_eq {l : Nat → W64} {js : List Nat} {j : Nat} (mx : Bool) (hmem : ty ∈ fltTy)
    (hnan : ∀ j ∈ js, ∀ n k, laneF np ty (l j) ≠ .nan n k) (hj : j ∈ js)
    (hbest : ∀ i ∈ js, ranked mx (orderKey (fmtOf ty) (codeF np ty (l j))) ≤ ranked mx (orderKey (fmtOf ty) (codeF np ty (l i)))) :
    foldMinmax mx ty np (extremeOf mx ty) (js.map l) = .ok (flushOut np (fmtOf ty) (codeF np ty (l j))) := by
  have hf := ofWidth_fmtOf hmem
  have hworst := number_worstF (np := np) mx hf
  have hstart : extremeOf mx ty = BitVec.ofNat 64 (flushOut np (fmtOf ty) (worstF mx (fmtOf ty))) := by
    rw [flushOut_eq_flush, flush_worstF mx _ hf]
    simp only [extremeOf, tyInt_of_mem_fltTy hmem, Bool.false_eq_true, if_false, worstF]
  have hcodes : ∀ j ∈ js, Number np (fmtOf ty) (codeF np ty (l j)) := fun j hj => number_codeF hmem (hnan j hj)
  obtain ⟨hchosen, hle⟩ := foldl_pick (pickF_cases mx (fmtOf ty)) ((js.map l).map (codeF np ty)) (worstF mx (fmtOf ty))
  have hrank := hle _ (List.mem_cons_of_mem _ (List.mem_map_of_mem (List.mem_map_of_mem hj)))
  rw [hstart, foldMinmax_float mx hmem _ hworst (List.forall_mem_map.mpr hcodes)]
  refine congrArg (fun c => LR.ok (flushOut np (fmtOf ty) c)) ?_
  obtain h | h := List.mem_cons.mp hchosen
  · rw [h] at hrank ⊢
    exact hworst.eq_of_ranked (hcodes j hj) (Int.le_antisymm hrank (ranked_le_worstF mx hf (hcodes j hj)))
  · rw [List.map_map] at h hrank ⊢
    obtain ⟨i, hi, h⟩ := List.mem_map.mp h
    rw [← h] at hrank ⊢
    exact (hcodes i hi).eq_of_ranked (hcodes j hj) (Int.le_antisymm hrank (hbest i hi))

end

/-! ### What a reduction and a scan put -/

section
variable {i : Instr} {s : State} {x : FX} {tb ta : Tgt} {ty : ETy}

/-- A reduction whose result is a code. -/
theorem Puts.reduction {k : FX → FR} {lr : LR} {r : Nat} (hi : exec i s = fireWord i s k)
    (hk : k x = data1 ty x (redOut tb ta ty lr)) (ha : x.a.isData ty = true) (hr : lr = .ok r) :
    Puts i s x tb ta (scalarVal (BitVec.ofNat 64 r) ty) (scalarVal (BitVec.ofNat 64 r) ty) := by
  refine .of_outBoth hi (hk.trans ?_)
  rw [data1_of_isData _ ha, hr]
  rfl

/-- A reduction whose result is an integer. -/
theorem Puts.reduction_int {k : FX → FR} {lr : LR} {r : Int} (hi : exec i s = fireWord i s k)
    (hk : k x = data1 ty x (redOut tb ta ty lr)) (ha : x.a.isData ty = true) (hr : lr = laneInt ty r) :
    Puts i s x tb ta (scalarVal (canon ty r) ty) (scalarVal (canon ty r) ty) := by
  have h := Puts.reduction hi hk ha hr
  rwa [BitVec.ofNat_toNat, BitVec.setWidth_eq] at h

theorem RaisesArith.reduction {k : FX → FR} {lr : LR} (hi : exec i s = fireWord i s k)
    (hk : k x = data1 ty x (redOut tb ta ty lr)) (ha : x.a.isData ty = true) (hr : lr = .arith) : RaisesArith i s x := by
  refine .of_action hi (hk.trans ?_)
  rw [data1_of_isData _ ha, hr]
  rfl

/-- The action of VRSUM. -/
def sumVec (ty : ETy) (tb ta : Tgt) (x : FX) : FR := data1 ty x (redOut tb ta ty (sumLanes x.p.npol ty (activeLanes x.a)))

/-- The action of VRMIN and VRMAX. -/
def bestVec (mx : Bool) (ty : ETy) (tb ta : Tgt) (x : FX) : FR :=
  data1 ty x (redOut tb ta ty (foldMinmax mx ty x.p.npol (extremeOf mx ty) (activeLanes x.a)))

/-- The action of VSCAN. -/
def scanVec (ty : ETy) (tb ta : Tgt) (x : FX) : FR :=
  data1 ty x (vecOut tb ta ty x.a.lmask fun j => sumLanes x.p.npol ty
    (((List.range (j + 1)).filter fun i => bitAt x.a.lmask i).map fun i => laneAt x.a.lanes i))

theorem exec_vrsum (pr : PR) : exec (.vrsum pr ty tb ta) s = fireWord (.vrsum pr ty tb ta) s (sumVec ty tb ta) := rfl
theorem exec_vrmin (pr : PR) : exec (.vrmin pr ty tb ta) s = fireWord (.vrmin pr ty tb ta) s (bestVec false ty tb ta) := rfl
theorem exec_vrmax (pr : PR) : exec (.vrmax pr ty tb ta) s = fireWord (.vrmax pr ty tb ta) s (bestVec true ty tb ta) := rfl
theorem exec_vscan (pr : PR) : exec (.vscan pr ty tb ta) s = fireWord (.vscan pr ty tb ta) s (scanVec ty tb ta) := rfl

/-- A lane of a scan: the active lanes up to it. -/
theorem scanVec_eq_vecOut (ha : x.a.isData ty = true) :
    scanVec ty tb ta x = vecOut tb ta ty x.a.lmask fun j => sumLanes x.p.npol ty
      (((List.range (j + 1)).filter fun i => bitAt x.a.lmask i).map fun i => laneAt x.a.lanes i) :=
  data1_of_isData _ ha

end

/-! ### Exact sums (R182) -/

/-- ±m × 2^e in units of 2^e0. -/
def signedAt (e0 : Int) (n : Bool) (m : Nat) (e : Int) : Int := (if n then -(m : Int) else m) * 2 ^ (e - e0).toNat

theorem signedAt_shift {e0 e e1 : Int} (n : Bool) (m : Nat) (h0 : e0 ≤ e) (h1 : e ≤ e1) :
    signedAt e0 n (m <<< (e1 - e).toNat) e = signedAt e0 n m e1 := by
  have hexp : (e1 - e0).toNat = (e1 - e).toNat + (e - e0).toNat := by omega
  unfold signedAt
  rw [hexp, Nat.shiftLeft_eq, Int.pow_add, ← Int.mul_assoc]
  refine congrArg (· * _) ?_
  have hcast : ((m * 2 ^ (e1 - e).toNat : Nat) : Int) = m * 2 ^ (e1 - e).toNat := by
    rw [Int.natCast_mul, Int.natCast_pow]
    rfl
  cases n with
  | false => exact hcast
  | true => exact (congrArg (- ·) hcast).trans (Int.neg_mul ..).symm

/-- The exact sum of two finite numbers, at an exponent that is one of theirs. -/
theorem addExact_value (rm : RM) {e0 e1 e2 : Int} (s1 s2 : Bool) (m1 m2 : Nat) (h1 : e0 ≤ e1) (h2 : e0 ≤ e2)
    {r : Bool × Nat × Int} (hr : addExact rm s1 m1 e1 s2 m2 e2 = r) :
    e0 ≤ r.2.2 ∧ signedAt e0 r.1 r.2.1 r.2.2 = signedAt e0 s1 m1 e1 + signedAt e0 s2 m2 e2 := by
  subst hr
  have hmin : ∀ e, (if e1 ≤ e2 then e1 else e2) = e → e0 ≤ e ∧ e ≤ e1 ∧ e ≤ e2 := by
    intro e he
    split at he <;> omega
  unfold addExact
  generalize (if e1 ≤ e2 then e1 else e2) = e at hmin
  obtain ⟨h0, hle1, hle2⟩ := hmin e rfl
  rw [← signedAt_shift s1 m1 h0 hle1, ← signedAt_shift s2 m2 h0 hle2]
  dsimp only
  generalize m1 <<< (e1 - e).toNat = a
  generalize m2 <<< (e2 - e).toNat = b
  unfold signedAt
  by_cases hsign : s1 = s2
  · subst hsign
    rw [if_pos rfl, ← Int.add_mul]
    refine ⟨h0, congrArg (· * _) ?_⟩
    cases s1 <;> simp only [Bool.false_eq_true, if_true, if_false] <;> omega
  · obtain rfl : s2 = !s1 := Bool.eq_not.mpr (Ne.symm hsign)
    rw [if_neg hsign, ← Int.add_mul]
    obtain hlt | rfl | hlt := Nat.lt_trichotomy a b
    · rw [if_neg (Nat.lt_asymm hlt), if_pos hlt]
      refine ⟨h0, congrArg (· * _) ?_⟩
      cases s1 <;> simp only [Bool.not_false, Bool.not_true, Bool.false_eq_true, if_true, if_false] <;> omega
    · rw [if_neg (Nat.lt_irrefl a), if_neg (Nat.lt_irrefl a)]
      refine ⟨h0, congrArg (· * _) ?_⟩
      cases s1 <;> simp only [Bool.not_false, Bool.not_true, Bool.false_eq_true, if_true, if_false, Int.natCast_zero, Int.neg_zero,
        ite_self] <;> omega
    · rw [if_pos hlt]
      refine ⟨h0, congrArg (· * _) ?_⟩
      cases s1 <;> simp only [Bool.not_false, Bool.not_true, Bool.false_eq_true, if_true, if_false] <;> omega

/-- A sum so far that has met neither a NaN nor an infinity, and whose exact value is `v` in units of 2^e0. -/
structure FSum.Exact (e0 : Int) (a : FSum) (v : Int) : Prop where
  nan : a.nan = none
  pinf : a.pinf = false
  ninf : a.ninf = false
  scale : a.m ≠ 0 → e0 ≤ a.e
  value : signedAt e0 a.neg a.m a.e = v

theorem FSum.exact_empty (e0 : Int) : FSum.Exact e0 {} 0 := ⟨rfl, rfl, rfl, fun h => absurd rfl h, Int.zero_mul _⟩

theorem FSum.Exact.add {e0 e v : Int} {a : FSum} (h : a.Exact e0 v) (n : Bool) (m : Nat) (he : e0 ≤ e) :
    (a.add (.fin n m e)).Exact e0 (v + signedAt e0 n m e) := by
  obtain ⟨hnan, hpinf, hninf, hscale, hvalue⟩ := h
  unfold FSum.add
  dsimp only
  by_cases hm : a.m = 0
  · have hzero : v = 0 := by
      rw [← hvalue, signedAt, hm]
      cases a.neg <;> exact Int.zero_mul _
    rw [if_pos hm]
    exact ⟨hnan, hpinf, hninf, fun _ => he, by rw [hzero, Int.zero_add]⟩
  · obtain ⟨hexp, hsum⟩ := addExact_value .rne a.neg n a.m m (hscale hm) he rfl
    rw [if_neg hm]
    exact ⟨hnan, hpinf, hninf, fun _ => hexp, by rw [hsum, hvalue]⟩

/-- The sum of finite numbers is exact. -/
theorem FSum.exact_foldl {e0 : Int} (ts : List (Bool × Nat × Int)) (hts : ∀ t ∈ ts, e0 ≤ t.2.2) {a : FSum} {v : Int}
    (ha : a.Exact e0 v) :
    ((ts.map fun t => FV.fin t.1 t.2.1 t.2.2).foldl FSum.add a).Exact e0
      (v + (ts.map fun t => signedAt e0 t.1 t.2.1 t.2.2).sum) := by
  induction ts generalizing a v with
  | nil =>
    rw [List.map_nil, List.map_nil, List.sum_nil, Int.add_zero]
    exact ha
  | cons t ts ih =>
    obtain ⟨ht, hts⟩ := List.forall_mem_cons.mp hts
    rw [List.map_cons, List.foldl_cons, List.map_cons, List.sum_cons, ← Int.add_assoc]
    exact ih hts (ha.add t.1 t.2.1 ht)

/-! ### Conversion (R183) -/

/-- One lane of VCVT. -/
def cvtLaneR (np : W32) (src dst : ETy) (v : W64) : LR :=
  match cvtLane np src dst v with
  | .ok r => .ok r.toNat
  | .error _ => .arith

theorem vecOut_cvtLaneR {x : FX} (tb ta : Tgt) (ty : ETy) {g : Nat → W64}
    (hg : ∀ j < 64, bitAt x.a.lmask j = true → cvtLane x.p.npol x.a.tag ty (laneAt x.a.lanes j) = .ok (g j)) :
    vecOut tb ta ty x.a.lmask (fun j => cvtLaneR x.p.npol x.a.tag ty (laneAt x.a.lanes j)) =
      outBoth tb ta (vecVal (mkLanes fun j => if bitAt x.a.lmask j then g j else 0#64) ty x.a.lmask) := by
  rw [vecOut_ok (g := fun j => (g j).toNat) tb ta ty fun j hj hact => by rw [cvtLaneR, hg j hj hact]]
  simp only [BitVec.ofNat_toNat, BitVec.setWidth_eq]

/-- Settles O10: each reduction, scan, conversion and packing on its operands, and the exact sum term by term. -/
theorem reductionsAndFilters : Obligations.ReductionsAndFilters := by
  refine ⟨?instructions, ?exact⟩
  case exact =>
    intro ts e0 hts sgd a
    obtain ⟨hnan, hpinf, hninf, -, hvalue⟩ := FSum.exact_foldl ts hts (FSum.exact_empty e0)
    exact ⟨hnan, hpinf, hninf, hvalue.trans (Int.zero_add _)⟩
  case instructions =>
    intro pr ty tb ta s x puts l m act
    refine ⟨fun ha => ⟨fun hmem => ?ints, fun hmem => ?floats, fun b hb => ?packing⟩, fun hshape g hg => ?vcvt⟩
    case ints =>
      have hty := tyInt_of_mem_intTy hmem
      refine ⟨Puts.reduction_int (exec_vrsum pr) rfl ha (sumLanes_int _ l act hty), fun r hr hleast => ?vrmin,
        fun r hr hgreatest => ?vrmax, ?vscan⟩
      case vrmin => exact Puts.reduction_int (exec_vrmin pr) rfl ha (foldMinmax_int_eq false _ hty hr hleast)
      case vrmax =>
        have hbest : ∀ j ∈ act, ranked true r ≤ ranked true (intOf ty (l j)) := fun j hj => Int.neg_le_neg (hgreatest j hj)
        exact Puts.reduction_int (exec_vrmax pr) rfl ha (foldMinmax_int_eq true _ hty hr hbest)
      case vscan =>
        refine Puts.of_outBoth (exec_vscan pr) ((scanVec_eq_vecOut ha).trans (vecOut_int tb ta ty fun j hj _ => ?_))
        rw [sumLanes_int _ _ _ hty, ← filter_filter_le_range _ hj]
    case floats =>
      intro np f v c total one
      have hty := tyInt_of_mem_fltTy hmem
      have hsum : sumLanes np ty (activeLanes x.a) = total act := sumLanes_float np l act hty
      refine ⟨fun r hr => Puts.reduction (exec_vrsum pr) rfl ha (hsum.trans hr),
        fun hr => RaisesArith.reduction (exec_vrsum pr) rfl ha (hsum.trans hr),
        fun hnan j hj => ⟨fun hleast => ?vrmin, fun hgreatest => ?vrmax⟩, fun g hg => ?vscan⟩
      case vrmin => exact Puts.reduction (exec_vrmin pr) rfl ha (foldMinmax_float_eq false hmem hnan hj hleast)
      case vrmax =>
        have hbest : ∀ i ∈ act, ranked true (orderKey f (c j)) ≤ ranked true (orderKey f (c i)) :=
          fun i hi => Int.neg_le_neg (hgreatest i hi)
        exact Puts.reduction (exec_vrmax pr) rfl ha (foldMinmax_float_eq true hmem hnan hj hbest)
      case vscan =>
        refine Puts.of_outBoth (exec_vscan pr) ((scanVec_eq_vecOut ha).trans (vecOut_ok tb ta ty fun j hj hact => ?_))
        rw [sumLanes_float _ _ _ hty, ← filter_filter_le_range _ hj]
        exact hg j hj hact
    case packing =>
      intro ks rank
      refine ⟨Puts.of_action (execVfilt.eq_def ..) ?_, Puts.of_outBoth (execVexpd.eq_def ..) ?_⟩
      · simp only [hb, data1_of_isData _ ha]
        rfl
      · simp only [hb, data1_of_isData _ ha]
        rfl
    case vcvt =>
      refine Puts.of_outBoth (execVcvt.eq_def ..) ?_
      rw [if_neg (not_not_intro hshape)]
      exact vecOut_cvtLaneR tb ta ty hg

end Sys2Proof.Machine

/-!
PROOF. Sorted keys, random draws, the sparse accumulator and quantised blocks (09 R185 to R194; 11 R237 to R241).
-/
namespace Sys2Proof.Machine

/-! ### Faults of a class -/

/-- An instruction raises a fault of class `cls` where it fires. -/
def Raises (cls : FCls) (i : Instr) (s : State) (x : FX) : Prop :=
  Fires i s x → exec i s = .next (x.s.blockFault x.pl cls 0 x.slot 0#64)

theorem Raises.of_action {cls : FCls} {i : Instr} {s : State} {x : FX} {k : FX → FR} (hi : exec i s = fireWord i s k)
    (hk : k x = .fault cls 0 0#64) : Raises cls i s x := by
  intro hfires
  rw [hi, fireWord_fires hfires, hk, fireOut_fault]

/-! ### Packed results -/

/-- One lane for each entry of a list, from lane 0 on (R184, R186, R191). -/
def packedVal {α : Type} (ty : ETy) (es : List α) (f : α → W64) : Val :=
  vecVal (mkLanes fun j => (es[j]?).elim 0#64 f) ty (prefMask es.length)

/-! ### Sorted keys (R185 to R188) -/

section
variable {pr : PR} {ty : ETy} {tb ta : Tgt} {s : State} {x : FX} {na nb : Nat}

theorem puts_vmrg (ha : x.a.isData ty = true) (hb : x.b.isData ty = true) (hna : prefLen x.a.lmask = some na)
    (hnb : prefLen x.b.lmask = some nb) (hka : ordered false ty (keyRun x.a na) = true)
    (hkb : ordered false ty (keyRun x.b nb) = true) {ms : List (W64 × Nat)}
    (hms : (mergeRuns ty (na + nb) (keyRun x.a na).zipIdx ((keyRun x.b nb).zipIdx.map fun q => (q.1, 64 + q.2))).take 64 = ms) :
    Puts (.vmrg pr ty tb ta) s x tb ta
      (packedVal ty ms fun q => canon ty (intOf ty q.1)) (packedVal .u64 ms fun q => BitVec.ofNat 64 q.2) := by
  subst hms
  refine .of_action (execVmrg.eq_def ..) ?_
  simp only [data2_of_isData _ ha hb, hna, hnb, hka, hkb, Bool.and_self, if_true, packedVal]

theorem raises_vmrg (ha : x.a.isData ty = true) (hb : x.b.isData ty = true) (hna : prefLen x.a.lmask = some na)
    (hnb : prefLen x.b.lmask = some nb)
    (hk : ordered false ty (keyRun x.a na) = false ∨ ordered false ty (keyRun x.b nb) = false) :
    Raises .shape (.vmrg pr ty tb ta) s x := by
  have hnot : (ordered false ty (keyRun x.a na) && ordered false ty (keyRun x.b nb)) = false := Bool.and_eq_false_iff.mpr hk
  refine .of_action (execVmrg.eq_def ..) ?_
  simp only [data2_of_isData _ ha hb, hna, hnb, hnot, Bool.false_eq_true, if_false]

theorem puts_visx (ha : x.a.isData ty = true) (hb : x.b.isData ty = true) (hna : prefLen x.a.lmask = some na)
    (hnb : prefLen x.b.lmask = some nb) (hka : ordered true ty (keyRun x.a na) = true)
    (hkb : ordered true ty (keyRun x.b nb) = true) {ms : List (W64 × Nat)}
    (hms : ((keyRun x.a na).zipIdx.filterMap fun q =>
      (((keyRun x.b nb).zipIdx.find? fun p => decide (intOf ty p.1 = intOf ty q.1)).map fun p => (q.1, q.2 + 256 * p.2))) = ms) :
    Puts (.visx pr ty tb ta) s x tb ta
      (packedVal ty ms fun q => canon ty (intOf ty q.1)) (packedVal .u16 ms fun q => BitVec.ofNat 64 q.2) := by
  subst hms
  refine .of_action (execVisx.eq_def ..) ?_
  simp only [data2_of_isData _ ha hb, hna, hnb, hka, hkb, Bool.and_self, if_true, packedVal]

/-- VDEDUP delivers the kept keys packed, and the mask of their lanes. -/
theorem puts_vdedup (ha : x.a.isData ty = true) {ks : List Nat}
    (hks : dedupGo ty x.a ((List.range 64).filter fun j => bitAt x.a.lmask j) none = ks) :
    Puts (.vdedup pr ty tb ta) s x tb ta
      (packedVal ty ks fun j => canon ty (intOf ty (laneAt x.a.lanes j)))
      (maskVal (mkMask fun j => ks.contains j)) := by
  subst hks
  exact .of_action (execVdedup.eq_def ..) (data1_of_isData _ ha)

/-! ### Random draws (R193, R194) -/

theorem toNat_append64 (hi lo : W64) : (hi ++ lo).toNat = hi.toNat * 2 ^ 64 + lo.toNat := by
  rw [BitVec.toNat_append, ← Nat.shiftLeft_add_eq_or_of_lt lo.isLt, Nat.shiftLeft_eq]

/-- The words of a counter after `i` draws. -/
theorem counter_words (c : BitVec 128) (i : Nat) :
    (c + BitVec.ofNat 128 i).extractLsb' 0 64 = BitVec.ofNat 64 ((c.toNat + i) % 2 ^ 128) ∧
      (c + BitVec.ofNat 128 i).extractLsb' 64 64 = BitVec.ofNat 64 ((c.toNat + i) % 2 ^ 128 / 2 ^ 64) := by
  have hsum : (c + BitVec.ofNat 128 i).toNat = (c.toNat + i) % 2 ^ 128 := by
    rw [BitVec.toNat_add, BitVec.toNat_ofNat, Nat.add_mod_mod]
  rw [← hsum, ← Nat.shiftRight_eq_div_pow]
  exact ⟨rfl, rfl⟩

theorem puts_rngx (ha : x.a.isData .u64 = true) (hb : x.b.isData .u64 = true) {at_ : Nat → BitVec 128}
    (hat : ∀ i, at_ i = (laneAt x.b.lanes 1 ++ laneAt x.b.lanes 0) + BitVec.ofNat 128 i) :
    Puts (.rngx pr tb ta) s x tb ta
      (vecVal (mkLanes fun i => cardamom (laneAt x.a.lanes 0) (laneAt x.a.lanes 1) ((at_ i).extractLsb' 0 64)
        ((at_ i).extractLsb' 64 64)) .u64 allOnes)
      (vecVal (mkLanes fun i => if i = 0 then (at_ 64).extractLsb' 0 64 else if i = 1 then (at_ 64).extractLsb' 64 64 else 0#64)
        .u64 3#64) := by
  refine .of_action (execRngx.eq_def ..) ?_
  have hwords := counter_words (laneAt x.b.lanes 1 ++ laneAt x.b.lanes 0)
  rw [data2_of_isData _ ha hb]
  simp only [hat, (hwords _).1, (hwords _).2, toNat_append64]

/-! ### The sparse accumulator (R189 to R192) -/

theorem raises_saccz_of_not_owner (hown : x.ownsSacc = false) : Raises .prot (.saccz pr) s x := by
  refine .of_action (execSaccz.eq_def ..) ?_
  simp only [hown, Bool.not_false, if_true]

section
variable (hown : x.ownsSacc = true) (honce : x.saccTwice = false)
include hown honce

theorem acts_saccz : Acts (.saccz pr) s x .saccClear := by
  refine .of_action (execSaccz.eq_def ..) ?_
  simp only [hown, honce, Bool.not_true, Bool.false_eq_true, if_false]

theorem acts_sacc {acc : Store W64} (hshape : x.a.shape = .vector) (hb : x.b.isData ty = true)
    (hty : x.tile.sacc = [] ∨ x.tile.saccTy = some ty) {js : List Nat}
    (hjs : ((List.range 64).filter fun j => bitAt x.a.lmask j && bitAt x.b.lmask j) = js)
    (hrange : ∀ j ∈ js, (laneAt x.a.lanes j).toNat % 2 ^ 32 < 4096)
    (hacc : saccGo x.p.npol ty x.a x.b js x.tile.sacc = some acc) : Acts (.sacc pr ty) s x (.sacc ty acc) := by
  subst hjs
  have htype : (!x.tile.sacc.isEmpty && decide (x.tile.saccTy ≠ some ty)) = false := by
    obtain h | h := hty
    · rw [h]
      rfl
    · simp only [h, ne_eq, not_true_eq_false, decide_false, Bool.and_false]
  have hfits : (((List.range 64).filter fun j => bitAt x.a.lmask j && bitAt x.b.lmask j).any fun j =>
      decide (4096 ≤ lowBits 32 (laneAt x.a.lanes j))) = false :=
    List.any_eq_false.mpr fun j hj hbig => Nat.not_le.mpr (hrange j hj) (of_decide_eq_true hbig)
  refine .of_action (execSacc.eq_def ..) ?_
  simp only [hown, honce, hshape, hb, htype, hfits, hacc, Bool.not_true, Bool.false_eq_true, ne_eq, not_true_eq_false, or_self,
    if_false]

/-- SACCF delivers the entries with the lowest coordinates and leaves their removal for commit. -/
theorem exec_saccf_of_fires {es : Store W64} (hes : x.tile.sacc.take 64 = es) {outs : List (Tgt × Val)}
    (houts : outs = [(ta, packedVal .u32 es fun e => BitVec.ofNat 64 e.1),
      (tb, packedVal (x.tile.saccTy.getD .u64) es fun e => e.2)])
    (hfires : Fires (.saccf pr tb ta) s x) (hfree : x.free outs) :
    exec (.saccf pr tb ta) s = .next (x.out outs [.saccTake es.length]) := by
  rw [← fireOut_go [.saccTake es.length] hfree, houts, ← hes]
  refine (execSaccf.eq_def ..).trans ((fireWord_fires hfires _).trans ?_)
  simp only [hown, honce, Bool.not_true, Bool.false_eq_true, if_false, packedVal]

end

/-! ### Quantised blocks and the codebook (R237 to R241) -/

theorem acts_cbset (hshape : x.a.shape = .vector) (hown : x.p.own.getLsbD 1 = true) : Acts (.cbset pr) s x (.cbset x.a.lanes) := by
  refine .of_action (execCbset.eq_def ..) ?_
  simp only [hshape, hown, ne_eq, not_true_eq_false, Bool.not_true, Bool.false_eq_true, if_false]

/-- The greatest of the chosen numbers, or 0: a number that is not chosen counts as 0. -/
theorem foldl_max_filter (p : Nat → Bool) (f : Nat → Nat) (js : List Nat) (m : Nat) :
    (js.filter p).foldl (fun acc j => max acc (f j)) m = (js.map fun j => if p j then f j else 0).foldl max m := by
  induction js generalizing m with
  | nil => rfl
  | cons j js ih =>
    cases hp : p j <;> simp only [List.filter_cons, List.foldl_cons, List.map_cons, hp, if_true, Bool.false_eq_true, if_false,
      Nat.max_zero, ih]

theorem puts_vamax (ha : x.a.isData ty = true) {r : Nat}
    (hnan : ∀ j < 64, bitAt x.a.lmask j = true → ∀ n m, decodeF (fmtOf ty) (codeF x.p.npol ty (laneAt x.a.lanes j)) ≠ .nan n m)
    (hr : r = ((List.range 64).map fun j => if bitAt x.a.lmask j then
      codeF x.p.npol ty (laneAt x.a.lanes j) % 2 ^ ((fmtOf ty).eb + (fmtOf ty).mb) else 0).foldl max 0) :
    Puts (.vamax pr ty tb ta) s x tb ta (scalarVal (BitVec.ofNat 64 r) ty) (scalarVal (BitVec.ofNat 64 r) ty) := by
  refine .of_outBoth (execVamax.eq_def ..) ?_
  have hfind : (((List.range 64).filter fun j => bitAt x.a.lmask j).map fun j => codeF x.p.npol ty (laneAt x.a.lanes j)).find?
      (fun c => (decodeF (fmtOf ty) c).isNan) = none := by
    simp only [List.find?_eq_none, List.forall_mem_map, List.mem_filter, List.mem_range, FV.isNan_iff]
    rintro j ⟨hj, hact⟩ ⟨n, m, h⟩
    exact hnan j hj hact n m h
  rw [data1_of_isData _ ha]
  dsimp only
  split
  case h_1 c hc => exact absurd (hfind.symm.trans hc) nofun
  case h_2 => rw [List.foldl_map, foldl_max_filter, ← hr]

section
variable (ha : x.a.isData ty = true) (hscale : unscalable (elems x.p.npol ty x.a) = false)
include ha hscale

theorem puts_vqnt {b : W64} {n : Bool} {mm : Nat} {me : Int} (hb : x.b.s64 = some b) (hm : laneF x.p.npol ty b = .fin n mm me)
    {q : MFmt} (hq : (qfmtOf x.p.npol).getD .e2m1 = q) {o : Nat × List Nat}
    (ho : blockCodes x.p.npol q 0 (mfmtEmax q) (elems x.p.npol ty x.a) (some (mm, me)) = o) :
    Puts (.vqnt pr ty tb ta) s x tb ta (vecVal (packBlock (mfmtWidth q) o.2 o.1) .u64 allOnes)
      (vecVal (packBlock (mfmtWidth q) o.2 o.1) .u64 allOnes) := by
  refine .of_outBoth (execVqnt.eq_def ..) ?_
  simp only [hb, data1_of_isData _ ha, hscale, hm, hq, Option.isNone_some, Bool.or_self, Bool.false_and, Bool.false_eq_true,
    if_false, ho]

theorem puts_vcbq {em : Int} (hown : x.p.own.getLsbD 1 = true) (hem : cbEmax x.tile.codebook = some em)
    (hmag : (maxMag ((elems x.p.npol ty x.a).filterMap id)).1 ≠ 0) {o : Nat × List Nat}
    (ho : blockCodes x.p.npol .cb4 x.tile.codebook em (elems x.p.npol ty x.a)
      (some (maxMag ((elems x.p.npol ty x.a).filterMap id))) = o) :
    Puts (.vcbq pr ty tb ta) s x tb ta (vecVal (packBlock 4 o.2 o.1) .u64 allOnes) (vecVal (packBlock 4 o.2 o.1) .u64 allOnes) := by
  refine .of_outBoth (execVcbq.eq_def ..) ?_
  simp only [hown, Bool.not_true, data1_of_isData _ ha, hem, hscale, Bool.false_and, Bool.false_eq_true, if_false, ho, hmag,
    decide_false, Bool.and_false]

end

theorem bitAt_allOnes {j : Nat} (hj : j < 64) : bitAt allOnes j = true := by
  rw [bitAt, allOnes, BitVec.getLsbD_allOnes, decide_eq_true hj]

theorem puts_vdqnt (hshape : x.a.shape = .vector) {q : MFmt} (hq : (qfmtOf x.p.npol).getD .e2m1 = q) (hne : q ≠ .cb4)
    {g : Nat → Bool × Nat × Int}
    (hg : ∀ j < 64, decodeElem x.p.npol q x.tile.codebook (blockBits x.a / 2 ^ (mfmtWidth q * j) % 2 ^ mfmtWidth q)
      ((laneAt x.a.lanes 63).toNat % 256) = .fin (g j).1 (g j).2.1 (g j).2.2) {o : Val}
    (ho : o = vecVal (mkLanes fun j => BitVec.ofNat 64 (roundOut x.p.npol fF32 (g j).1 (g j).2.1 (g j).2.2)) .f32 allOnes) :
    Puts (.vdqnt pr tb ta) s x tb ta o o := by
  refine .of_outBoth (execVdqnt.eq_def ..) ?_
  simp only [hshape, hq, hne, ne_eq, not_true_eq_false, false_and, if_false, lowBits, Nat.reducePow]
  rw [vecOut_ok (g := fun j => roundOut x.p.npol fF32 (g j).1 (g j).2.1 (g j).2.2) tb ta .f32 fun j hj _ => by rw [hg j hj], ho]
  exact congrArg (fun l => outBoth tb ta (vecVal l .f32 allOnes)) (mkLanes_congr fun j hj => if_pos (bitAt_allOnes hj))

end

/-- Settles O11: each form on its operands. -/
theorem sortedKeysSparseAndQuantised : Obligations.SortedKeysSparseAndQuantised := by
  refine ⟨?keys, ?sparse⟩
  case keys =>
    intro pr ty tb ta s x puts
    refine ⟨fun ha hb na nb hna hnb => ?runs, fun ha => puts_vdedup ha rfl, fun ha hb => puts_rngx ha hb fun _ => rfl⟩
    case runs =>
      intro ka kb pack map_
      exact ⟨fun hka hkb => puts_vmrg ha hb hna hnb hka hkb rfl, fun hka hkb => puts_visx ha hb hna hnb hka hkb rfl,
        raises_vmrg ha hb hna hnb⟩
  case sparse =>
    intro pr ty tb ta s x puts acts np js
    refine ⟨fun hown honce => ⟨acts_saccz hown honce, ?sacc, exec_saccf_of_fires hown honce rfl rfl⟩,
      raises_saccz_of_not_owner, acts_cbset, fun hmem ha => ⟨fun r => puts_vamax ha, fun hscale => ⟨?vqnt, ?vcbq⟩⟩,
      fun hshape q g hq hne hg => puts_vdqnt hshape hq hne hg rfl⟩
    case sacc => exact fun acc hshape hb hty hrange hacc => acts_sacc hown honce hshape hb hty rfl hrange hacc
    case vqnt => exact fun b n mm me hb hm => puts_vqnt ha hscale hb hm rfl rfl
    case vcbq => exact fun em hown hem hmag => puts_vcbq ha hscale hown hem hmag rfl

end Sys2Proof.Machine

/-!
PROOF. Format M instructions as they fire: atomics, streams, fences, barriers, copies and posts wait for admission with the
request of their operands, or raise F_ALIGN or F_PRIV (07 R130, R136; 10 R195 to R224).
-/
namespace Sys2Proof.Machine

/-! ### What a format M instruction does when it fires -/

/-- Where instruction `i` fires on `x`, request `r` waits for admission (R130, R131). -/
def FX.holds (x : FX) (i : Instr) (s : State) (lk : Link) (r : Req) : Prop :=
  x.waits i s { slot := x.slot, lk := lk, kind := some r.kind, lcl := none, tgt := 0, req := r }

/-- Where instruction `i` fires on `x`, it raises F_ALIGN with bits 47:0 of `a` in INFO (R197). -/
def FX.misaligns (x : FX) (i : Instr) (s : State) (a : W64) : Prop :=
  Fires i s x → exec i s = .next (x.s.blockFault x.pl .align 0 x.slot (BitVec.ofNat 64 (va48 a)))

section
variable {i : Instr} {s : State} {x : FX} {lk : Link} {r : Req} {a b c : W64} {n : Nat}

theorem holds_of_action {k : FX → FR} (hi : exec i s = fireWord i s k) (hk : k x = waveOf x lk r) : x.holds i s lk r := by
  intro hfires
  rw [hi, fireWord_fires hfires, hk, waveOf]
  exact ⟨fun hopen => by rw [fireOut_wave _ hopen], fun hskipped => by rw [State.fireOut, if_pos hskipped]⟩

theorem misaligns_of_action {k : FX → FR} (hi : exec i s = fireWord i s k) (hk : k x = alignFault a) :
    x.misaligns i s a := by
  intro hfires
  rw [hi, fireWord_fires hfires, hk, alignFault, fireOut_fault]

/-! ### Operand forms (R197, R198) -/

theorem aligned_of_multiple (k : FR) (h : va48 a % n = 0) : aligned n a k = k := if_neg (not_not_intro h)

theorem aligned_of_not_multiple (k : FR) (h : va48 a % n ≠ 0) : aligned n a k = alignFault a := if_pos h

theorem addr1_of_s64 (k : W64 → FR) (ha : x.a.s64 = some a) : addr1 x n k = aligned n a (k a) := by
  simp only [addr1, ha]

theorem addr2_of_s64 (k : W64 → W64 → FR) (ha : x.a.s64 = some a) (hb : x.b.s64 = some b) :
    addr2 x n k = aligned n a (k a b) := by
  simp only [addr2, ha, hb]

theorem addr3_of_s64 (k : W64 → W64 → W64 → FR) (ha : x.a.s64 = some a) (hb : x.b.s64 = some b) (hc : x.c.s64 = some c) :
    addr3 x n k = aligned n a (k a b c) := by
  simp only [addr3, ha, hb, hc]

theorem addrData_of_fits {wd : Width} (k : W64 → FR) (ha : x.a.s64 = some a) (hfits : x.b.fits wd = true) :
    addrData x wd k = aligned (widAlign wd) a (k a) := by
  simp only [addrData, ha, hfits, if_true]

/-- A data operand fits a width where it is a VECTOR exactly for the widths that take one (R198). -/
theorem Datum.fits_of_iff {d : Datum} {wd : Width} (h : d.shape = .vector ↔ widVec wd = true) : d.fits wd = true :=
  decide_eq_true (propext h)

theorem widAlign_wdOf (d : Bool) : widAlign (wdOf d) = if d then 8 else 4 := by cases d <;> rfl

section
variable (ha : x.a.s64 = some a)
include ha

theorem holds_need1 {k : FX → W64 → FR} (hi : exec i s = fireWord i s fun x => need1 x (k x)) (hk : k x a = waveOf x lk r) :
    x.holds i s lk r :=
  holds_of_action hi ((need1_of_s64 _ ha).trans hk)

theorem holds_addr1 {k : FX → W64 → FR} (hal : va48 a % n = 0) (hi : exec i s = fireWord i s fun x => addr1 x n (k x))
    (hk : k x a = waveOf x lk r) : x.holds i s lk r :=
  holds_of_action hi ((addr1_of_s64 _ ha).trans ((aligned_of_multiple _ hal).trans hk))

theorem misaligns_addr1 {k : FX → W64 → FR} (hal : va48 a % n ≠ 0)
    (hi : exec i s = fireWord i s fun x => addr1 x n (k x)) : x.misaligns i s a :=
  misaligns_of_action hi ((addr1_of_s64 _ ha).trans (aligned_of_not_multiple _ hal))

theorem misaligns_addrData {wd : Width} {k : FX → W64 → FR} (hfits : x.b.fits wd = true) (hal : va48 a % widAlign wd ≠ 0)
    (hi : exec i s = fireWord i s fun x => addrData x wd (k x)) : x.misaligns i s a :=
  misaligns_of_action hi ((addrData_of_fits _ ha hfits).trans (aligned_of_not_multiple _ hal))

variable (hb : x.b.s64 = some b)
include hb

theorem holds_addr2 {k : FX → W64 → W64 → FR} (hal : va48 a % n = 0)
    (hi : exec i s = fireWord i s fun x => addr2 x n (k x)) (hk : k x a b = waveOf x lk r) : x.holds i s lk r :=
  holds_of_action hi ((addr2_of_s64 _ ha hb).trans ((aligned_of_multiple _ hal).trans hk))

theorem misaligns_addr2 {k : FX → W64 → W64 → FR} (hal : va48 a % n ≠ 0)
    (hi : exec i s = fireWord i s fun x => addr2 x n (k x)) : x.misaligns i s a :=
  misaligns_of_action hi ((addr2_of_s64 _ ha hb).trans (aligned_of_not_multiple _ hal))

theorem holds_atomForm {op : AOp} {d : Bool} {ch : BitVec 4} (hal : va48 a % widAlign (wdOf d) = 0)
    (hi : exec i s = fireWord i s fun x => atomForm x lk op d ch) :
    x.holds i s lk (mkReq x (.atom op d) (wdOf d) (some ch.toNat) a b 0#64 []) :=
  holds_addr2 ha hb hal hi rfl

theorem holds_updForm {op : UOp} {d : Bool} (hal : va48 a % widAlign (wdOf d) = 0)
    (hi : exec i s = fireWord i s fun x => updForm x lk op d) :
    x.holds i s lk (mkReq x (.upd op d) (wdOf d) none a b 0#64 []) :=
  holds_addr2 ha hb hal hi rfl

theorem holds_addr3 {k : FX → W64 → W64 → W64 → FR} (hc : x.c.s64 = some c) (hal : va48 a % n = 0)
    (hi : exec i s = fireWord i s fun x => addr3 x n (k x)) (hk : k x a b c = waveOf x lk r) : x.holds i s lk r :=
  holds_of_action hi ((addr3_of_s64 _ ha hb hc).trans ((aligned_of_multiple _ hal).trans hk))

end

end

/-- Settles O13: the returning atomics are forms of two operands, CAS one of three, the updates forms without a response. -/
theorem atomicForms : Obligations.AtomicForms := by
  intro pr lk d ch s x a b ha hb wd holds at_ up
  refine ⟨fun hal => ?sized, fun hal => holds_updForm ha hb hal rfl⟩
  case sized =>
    rw [← widAlign_wdOf d] at hal
    exact ⟨holds_atomForm ha hb hal rfl, holds_atomForm ha hb hal rfl, holds_atomForm ha hb hal rfl, holds_atomForm ha hb hal rfl,
      holds_atomForm ha hb hal rfl, holds_atomForm ha hb hal rfl, holds_atomForm ha hb hal rfl,
      fun y hc => holds_addr3 ha hb hc hal (execCas.eq_def ..) rfl,
      holds_updForm ha hb hal rfl, holds_updForm ha hb hal rfl, holds_updForm ha hb hal rfl, holds_updForm ha hb hal rfl,
      holds_updForm ha hb hal rfl, holds_updForm ha hb hal rfl⟩

/-! ### Stream forms (R207) -/

section
variable {x : FX} {a : W64} {n k : Nat} {l : Launch} {ar : ActorRec} {st : Stream} (ha : x.a.s64 = some a)
  (hactor : x.s.actorOf x.pl = some (n, l, ar)) (hstream : l.streamOf (a.toNat % 64) = some (k, st))
include ha hactor hstream

theorem streamForm_of_writer {wd : Width} (f : StreamRec → FR) (hw : st.sr.writer = x.p.actor) (hh : st.sr.hostp = false)
    (hwd : eszWidth st.sr.esz = wd) : streamForm x true (some wd) f = f st.sr := by
  simp only [streamForm, ha, hactor, hstream, hw, hh, hwd, decide_true, Bool.not_false, Bool.and_self, Bool.not_true,
    Bool.false_eq_true, if_true, if_false]

variable (hreader : (st.sr.readerOf x.p.actor).isSome = true)
include hreader

theorem streamForm_of_reader (f : StreamRec → FR) : streamForm x false none f = f st.sr := by
  simp only [streamForm, ha, hactor, hstream, hreader, Bool.not_true, Bool.false_eq_true, if_false]

theorem streamForm_of_element_reader {wd : Width} (f : StreamRec → FR) (hwd : eszWidth st.sr.esz = wd) :
    streamForm x false (some wd) f = f st.sr := by
  simp only [streamForm, ha, hactor, hstream, hreader, hwd, Bool.not_true, Bool.false_eq_true, if_true, if_false]

end

/-- Settles O14: the form finds its stream and its role, and holds its request. -/
theorem streamForms : Obligations.StreamForms := by
  intro pr lk wd c s x a n l ar k st ha hactor hstream holds
  refine ⟨fun hw hh hwd => ⟨fun hb => ?swr, ?swrEos⟩, fun hreader => ⟨fun hwd => ?srd, fun b hb =>
    ⟨?srel, ?srew, fun hb8 => ?spos, fun d hd hb4 hnrd => ?srelFrc⟩⟩⟩
  case swr =>
    refine holds_of_action (execSwr.eq_def ..) ?_
    simp only [Datum.fits_of_iff hb, Bool.not_true, Bool.false_eq_true, if_false]
    exact streamForm_of_writer ha hactor hstream _ hw hh hwd
  case swrEos => exact holds_of_action (execSwrEos.eq_def ..) (streamForm_of_writer ha hactor hstream _ hw hh hwd)
  case srd => exact holds_of_action (execSrd.eq_def ..) (streamForm_of_element_reader ha hactor hstream hreader _ hwd)
  case srel =>
    refine holds_of_action (execSrel.eq_def ..) ?_
    simp only [hb]
    exact streamForm_of_reader ha hactor hstream hreader _
  case srew =>
    refine holds_of_action (execSrew.eq_def ..) ?_
    simp only [hb]
    exact streamForm_of_reader ha hactor hstream hreader _
  case spos =>
    refine holds_of_action (execSpos.eq_def ..) ?_
    simp only [hb]
    exact (streamForm_of_reader ha hactor hstream hreader _).trans (if_neg (Nat.not_le.mpr hb8))
  case srelFrc =>
    refine holds_of_action (execSrelFrc.eq_def ..) ?_
    simp only [hb, hd]
    exact (streamForm_of_reader ha hactor hstream hreader _).trans
      (if_neg (not_or.mpr ⟨Nat.not_le.mpr hb4, Nat.not_lt.mpr hnrd⟩))

/-- Settles O15: each form holds the request of its operands; SETBUD refuses 255 to a USER plane alone. -/
theorem fencesBarriersAndPosts : Obligations.FencesBarriersAndPosts := by
  intro pr lk sc src dst bank c s x holds req
  refine ⟨holds_of_action (execFence.eq_def ..) rfl, holds_of_action (execXfence.eq_def ..) rfl, fun a ha =>
    ⟨?sbar, ?barwt, ?pref, ?wback, fun hbudget => ?setbud, fun hal => ⟨?bararv, fun b hb => ⟨?barinit, ?barexp⟩⟩,
      fun hal => ⟨?copy, ?mmpost⟩⟩⟩
  case sbar => exact holds_need1 ha (execSbar.eq_def ..) rfl
  case barwt => exact holds_need1 ha (execBarwt.eq_def ..) rfl
  case pref => exact holds_need1 ha (execPref.eq_def ..) rfl
  case wback => exact holds_need1 ha (execWback.eq_def ..) rfl
  case setbud =>
    have hlow : ¬(a.toNat % 256 = 255 ∧ x.p.level = .user) := by
      rintro ⟨hall, huser⟩
      obtain hnot | hhandler := hbudget
      · exact hnot hall
      · exact nomatch huser.symm.trans hhandler
    exact holds_need1 ha (execSetbud.eq_def ..) (if_neg hlow)
  case bararv => exact holds_addr1 ha hal (execBararv.eq_def ..) rfl
  case barinit => exact holds_addr2 ha hb hal (execBarinit.eq_def ..) rfl
  case barexp => exact holds_addr2 ha hb hal (execBarexp.eq_def ..) rfl
  case copy => exact holds_addr1 ha hal (execCopy.eq_def ..) rfl
  case mmpost => exact holds_addr1 ha hal (execMmpost.eq_def ..) rfl

/-- Settles O17: the check of the address comes before the request is made. -/
theorem misalignedAddress : Obligations.MisalignedAddress := by
  intro pr lk wd d c t s x a b ha faults
  refine ⟨fun hal => ?width, fun hb hal => ?atomic, fun hal => ?barrier, fun hal => ?line⟩
  case width =>
    refine ⟨misaligns_addr1 ha hal (execLd.eq_def ..), misaligns_addr1 ha hal (execLdw.eq_def ..),
      misaligns_addr1 ha hal (execLdc.eq_def ..), misaligns_addr1 ha hal (execFeq.eq_def ..),
      misaligns_addr1 ha hal (execFempty.eq_def ..), misaligns_addr1 ha hal (execLdl.eq_def ..),
      misaligns_addr1 ha hal (execLdn.eq_def ..), fun hshape => ?data⟩
    case data =>
      have hfits := Datum.fits_of_iff hshape
      exact ⟨misaligns_addrData ha hfits hal (execSt.eq_def ..), misaligns_addrData ha hfits hal (execStf.eq_def ..),
        misaligns_addrData ha hfits hal (execSts.eq_def ..), misaligns_addrData ha hfits hal (execStl.eq_def ..),
        misaligns_addrData ha hfits hal (execStn.eq_def ..)⟩
  case atomic =>
    rw [← widAlign_wdOf d] at hal
    exact ⟨misaligns_addr2 ha hb hal (execAadd.eq_def ..), misaligns_addr2 ha hb hal (execAswap.eq_def ..),
      misaligns_addr2 ha hb hal (execUadd.eq_def ..)⟩
  case barrier =>
    exact ⟨misaligns_addr1 ha hal (execBararv.eq_def ..), fun hb =>
      ⟨misaligns_addr2 ha hb hal (execBarinit.eq_def ..), misaligns_addr2 ha hb hal (execBarexp.eq_def ..)⟩⟩
  case line => exact ⟨misaligns_addr1 ha hal (execCopy.eq_def ..), misaligns_addr1 ha hal (execMmpost.eq_def ..)⟩

/-! ### Instructions that need HANDLER (R136) -/

/-- A USER plane that fires an instruction that needs HANDLER raises F_PRIV before the instruction acts. -/
theorem fireWord_of_user {i : Instr} {s s1 : State} {f : Firing} {r : BlockRun} {a b c : Datum} (k : FX → FR)
    (hneeds : needsHandler i = true) (hf : (s.plane s.cur.pl).firing = some f) (hst : f.st = .running) (hr : f.run = some r)
    (hfresh : r.done.contains s.cur.slot = false) (hfit : r.fit i s.cur.slot = .go a b c)
    (hplace : s.takePlace s.cur.pl i f.block s.cur.slot = some s1) (huser : (s.plane s.cur.pl).level = .user) :
    fireWord i s k = .next (s1.blockFault s.cur.pl .priv 0 s.cur.slot 0#64) := by
  simp only [fireWord, hf, hst, hr, hfresh, hfit, hplace, hneeds, huser, Bool.false_eq_true, decide_true, Bool.and_self, if_true,
    if_false]

/-- Settles O16: each of the six instructions needs HANDLER. -/
theorem handlerOnly : Obligations.HandlerOnly := by
  intro i s f r a b c s1 hf hst hr hfresh hfit hplace huser hi
  obtain ⟨⟨k, hk⟩, hneeds⟩ : (∃ k, exec i s = fireWord i s k) ∧ needsHandler i = true := by
    obtain ⟨pr, ch, n, ta, rfl⟩ | ⟨pr, rfl⟩ | ⟨pr, rfl⟩ | ⟨pr, rfl⟩ | ⟨pr, lk, rfl⟩ | ⟨pr, rfl⟩ := hi <;>
      exact ⟨exec_eq_fireWord rfl rfl s, rfl⟩
  rw [hk, fireWord_of_user k hneeds hf hst hr hfresh hfit hplace huser]

end Sys2Proof.Machine

/-!
PROOF. Atomics and updates as the home unit performs them (10 R205, R206): the old value answers, the new one is written, and
an update acts as a delta.
-/
namespace Sys2Proof.Machine

/-! ### What an access meets before it is performed -/

/-- A demand read in a step that meets no error of a line (R374). -/
theorem State.demandRead_of_no_error {s : State} (hcorr : s.cur.flag = false) (hbad : s.cur.flag2 = false) (key : Nat) :
    s.demandRead key = (false, s) := by
  simp only [State.demandRead, hcorr, hbad, Bool.false_eq_true, if_false, ite_self]

theorem State.twinBars_of_no_twin {s : State} (h : s.fo.twin = none) (l : Nat) (x : Launch) (r : Req) (ps : List Part) :
    s.twinBars l x r ps = false := by
  simp only [State.twinBars, State.twinPart, State.pairOf, h, Option.bind_none, Option.isSome_none, Bool.false_and, Bool.and_false]

/-- An access outside a twin run and without an error of its line goes on as it is (R372, R374). -/
theorem State.guarded_of_no_error {s : State} (hcorr : s.cur.flag = false) (hbad : s.cur.flag2 = false)
    (htwin : s.fo.twin = none) (l : Nat) (pl : PlaneId) (x : Launch) (r : Req) (k : State → List Part → State × List Nat)
    (ps : List Part) : State.guarded l pl x r k s ps = k s ps := by
  simp only [State.guarded, State.twinBars_of_no_twin htwin, State.demandRead_of_no_error hcorr hbad, Bool.false_eq_true, if_false]
  split <;> rfl

section
variable {s s1 : State} {l : Nat} {x : Launch} {r : Req} {qs : List (Nat × Nat × Bool)}
  (hfree : s.holdsRange (tilePort s.cur.pl) x.asid (va48 r.a) r.bytes = false)
  (hx : s.xlateFor l x (tilePort s.cur.pl) (va48 r.a) r.bytes r.kind.writes = (.ok qs, s1))
  (hcorr : s1.cur.flag = false) (hbad : s1.cur.flag2 = false) (htwin : s1.fo.twin = none)
include hfree hx hcorr hbad htwin

/-- An access whose address translates is performed on its parts. -/
theorem State.access_of_xlate (k : State → List Part → State × List Nat) :
    s.access s.cur.pl l x r (State.guarded l s.cur.pl x r k) = k s1 (partsOf r.bytes qs) := by
  simp only [State.access, hfree, hx, Bool.false_eq_true, if_false]
  exact State.guarded_of_no_error hcorr hbad htwin ..

variable {t : State} {ws : List Nat} (hready : s.ready? s.cur.pl s.cur.rid = some (l, x, r))
include hready

/-- An atomic whose address translates is performed on its part, and what it changed is woken. -/
theorem exec_atomicPerform_of_xlate {op : AOp} {d : Bool} (hk : r.kind = .atom op d)
    (hdo : State.atomParts op d s.cur.pl l x r s1 (partsOf r.bytes qs) = (t, ws)) :
    exec .atomicPerform s = .next ((t.wake ws).twinCompare l false) := by
  refine (execAtomicPerform.eq_def s).trans ?_
  simp only [Laws.onReq_of_here (Laws.ready?_here hready).2, hready, hk, State.access_of_xlate hfree hx hcorr hbad htwin, hdo]

/-- So is an update. -/
theorem exec_updatePerform_of_xlate {op : UOp} {d : Bool} (hk : r.kind = .upd op d)
    (hdo : State.updParts op d s.cur.pl l x r s1 (partsOf r.bytes qs) = (t, ws)) :
    exec .updatePerform s = .next ((t.wake ws).twinCompare l false) := by
  refine (execUpdatePerform.eq_def s).trans ?_
  simp only [Laws.onReq_of_here (Laws.ready?_here hready).2, hready, hk, State.access_of_xlate hfree hx hcorr hbad htwin, hdo]

end

/-! ### What the home unit does -/

section
variable {s : State} {pl : PlaneId} {l : Nat} {x : Launch} {r : Req} {p : Part}

theorem not_anchored (hclass : p.imm = false ∨ x.irrev = true) : (p.imm && !x.irrev) = false := by
  obtain h | h := hclass <;> simp only [h, Bool.false_and, Bool.not_true, Bool.and_false]

/-- A write to an IMM page, by a launch that is irrevocable, or within the quota (R87). -/
theorem within_quota (h : p.imm = true ∨ x.irrev = true ∨ s.overQuota l [p.key / 64] = false) :
    (!p.imm && !x.irrev && s.overQuota l [p.key / 64]) = false := by
  obtain h | h | h := h <;> simp only [h, Bool.not_true, Bool.false_and, Bool.and_false]

variable (hpeer : isPeer p.key = false) (hdesc : s.userDesc pl [p] = false) (hclass : p.imm = false ∨ x.irrev = true)
include hpeer hdesc hclass

section
variable {op : AOp} {d : Bool} (hwords : s.wordsOk r.kind [p] = true) {s2 : State} (hs2 : s.flushFor pl r.kind [p] = s2) {old : Nat}
  (hold : leNat (s2.readParts (actorObs s2 pl l) [p]) = old)
include hwords hs2 hold

/-- A CAS that does not find its comparand answers, and writes nothing (R205). -/
theorem atomParts_of_miss (hop : op = .cas) (hmiss : old ≠ r.b.toNat % 2 ^ (8 * dBytes d)) :
    State.atomParts op d pl l x r s [p] = ((s2.signParts l [p]).finish pl r
      (scalarToken r.wd (r.resp.bind fun c => (s2.signParts l [p]).inTag pl c) old), []) := by
  simp only [State.atomParts, hpeer, hwords, hdesc, not_anchored hclass, hs2, hold, hop, hmiss, Bool.not_true, Bool.or_self,
    Bool.false_eq_true, if_false, ne_eq, not_false_eq_true, decide_true, Bool.and_self, Bool.false_and]

/-- Every other atomic answers the old value and writes the new one. -/
theorem atomParts_of_hit (hhit : ¬(op = .cas ∧ old ≠ r.b.toNat % 2 ^ (8 * dBytes d)))
    (hquota : p.imm = true ∨ x.irrev = true ∨ s2.overQuota l [p.key / 64] = false) :
    State.atomParts op d pl l x r s [p] = (((s2.signParts l [p]).putEff l (cutIndex ((s2.signParts l [p]).plane pl).recorded) p.imm
      p.va (.bytes p.key (toLE (dBytes d)
        (atomNew op (8 * dBytes d) old (r.b.toNat % 2 ^ (8 * dBytes d)) (r.c.toNat % 2 ^ (8 * dBytes d)))))).finish pl r
      (scalarToken r.wd (r.resp.bind fun c => (s2.signParts l [p]).inTag pl c) old), []) := by
  have hwrites : (!(decide (op = .cas) && decide (old ≠ r.b.toNat % 2 ^ (8 * dBytes d)))) = true := by
    rw [← Bool.decide_and, decide_eq_false hhit, Bool.not_false]
  simp only [State.atomParts, hpeer, hwords, hdesc, not_anchored hclass, hs2, hold, hwrites, within_quota hquota, Bool.not_true,
    Bool.or_self, Bool.false_eq_true, if_false, if_true, Bool.true_and]

end

/-- An update acts as a delta (R206). -/
theorem updParts_of_quota {uop : UOp} {d : Bool} (harg : isArg p.key = false)
    (hquota : p.imm = true ∨ x.irrev = true ∨ s.overQuota l [p.key / 64] = false) :
    State.updParts uop d pl l x r s [p] = ((s.actorEff pl l p.imm p.va (.delta uop d p.key r.b)).finish pl r .null, []) := by
  simp only [State.updParts, hpeer, harg, hdesc, not_anchored hclass, within_quota hquota, Bool.or_self, Bool.false_eq_true,
    if_false]

end

/-! ### The new values (R205) -/

/-- A number of w bits, signed. -/
theorem toInt_ofNat_eq_sgn {w v : Nat} (h : v < 2 ^ w) : (BitVec.ofNat w v).toInt = sgn w v := by
  have hsign : 2 * v < 2 ^ w ↔ v < 2 ^ (w - 1) := by
    cases w with
    | zero => exact iff_of_true (by omega) (by omega)
    | succ n => rw [Nat.pow_succ', Nat.add_sub_cancel, Nat.mul_lt_mul_left Nat.two_pos]
  simp only [BitVec.toInt_eq_toNat_cond, BitVec.toNat_ofNat, Nat.mod_eq_of_lt h, sgn, hsign]

theorem sle_ofNat_iff {w u v : Nat} (hu : u < 2 ^ w) (hv : v < 2 ^ w) :
    (BitVec.ofNat w u).sle (BitVec.ofNat w v) = true ↔ sgn w u ≤ sgn w v := by
  rw [BitVec.sle_iff_toInt_le, toInt_ofNat_eq_sgn hu, toInt_ofNat_eq_sgn hv]

theorem ofNat_atomNew_min {w old x y : Nat} (hold : old < 2 ^ w) (hx : x < 2 ^ w) :
    BitVec.ofNat w (atomNew .min w old x y) =
      if (BitVec.ofNat w old).sle (BitVec.ofNat w x) then BitVec.ofNat w old else BitVec.ofNat w x := by
  simp only [atomNew, sle_ofNat_iff hold hx, apply_ite (BitVec.ofNat w)]

theorem ofNat_atomNew_max {w old x y : Nat} (hold : old < 2 ^ w) (hx : x < 2 ^ w) :
    BitVec.ofNat w (atomNew .max w old x y) =
      if (BitVec.ofNat w x).sle (BitVec.ofNat w old) then BitVec.ofNat w old else BitVec.ofNat w x := by
  simp only [atomNew, sle_ofNat_iff hx hold, apply_ite (BitVec.ofNat w)]

/-- Settles O35: the access meets nothing on its way, and the home unit acts on its one part. -/
theorem atomicsArePerformed : Obligations.AtomicsArePerformed := by
  refine ⟨?performed, ?values⟩
  case performed =>
    intro s s1 l x r va key imm op uop d pl ps ends hready hfree hx hcorr hbad htwin hpeer hclass
    refine ⟨fun hk hwords => ?atomic, fun hk harg hdesc hquota => ?update⟩
    case atomic =>
      intro w s2 old a signed tok hdesc
      refine ⟨fun ⟨hop, hmiss⟩ => ?miss, fun hhit hquota => ?hit⟩
      case miss =>
        exact exec_atomicPerform_of_xlate hfree hx hcorr hbad htwin hready hk
          (atomParts_of_miss hpeer hdesc hclass hwords rfl rfl hop hmiss)
      case hit =>
        exact exec_atomicPerform_of_xlate hfree hx hcorr hbad htwin hready hk
          (atomParts_of_hit hpeer hdesc hclass hwords rfl rfl hhit hquota)
    case update =>
      exact exec_updatePerform_of_xlate hfree hx hcorr hbad htwin hready hk (updParts_of_quota hpeer hdesc hclass harg hquota)
  case values =>
    intro w old x y hold hx hy
    refine ⟨?add, BitVec.ofNat_and .., BitVec.ofNat_or .., BitVec.ofNat_xor .., ofNat_atomNew_min hold hx,
      ofNat_atomNew_max hold hx, rfl, rfl⟩
    case add => exact BitVec.eq_of_toNat_eq (by simp [atomNew])

end Sys2Proof.Machine

/-!
PROOF. Barrier objects as their home unit performs them (10 R212 to R214, 13 R273).
-/
namespace Sys2Proof.Machine

theorem exec_barrierPerform (s : State) :
    exec .barrierPerform s = .next ((s.onReq s.cur.pl s.cur.rid fun s => s.barPerform s.cur.pl s.cur.rid).wake []) := rfl
theorem exec_barrierWaitQueueTimeout (s : State) :
    exec .barrierWaitQueueTimeout s = .next (s.barTimeout s.cur.n s.cur.k) := rfl

/-! ### What translation keeps -/

/-- Translating an access changes the leaf cache of a port and the free counter alone (R317). -/
theorem State.xlate_keeps {β : Type} (g : State → β) (hport : ∀ (s : State) k p, g (s.setPort k p) = g s)
    (hctr : ∀ (s : State) n, g { s with freeCtr := n } = g s) (s : State) (port : Nat) (asid : BitVec 16) (va : Nat)
    (write : Bool) :
    g (s.xlate port asid va write).2 = g s := by
  have hcache (s : State) (l : Leaf) : g (s.cacheLeaf port l) = g s := by
    unfold State.cacheLeaf
    dsimp only
    split
    · exact hport ..
    · exact (hport ..).trans (hctr s _)
  unfold State.xlate
  dsimp only
  split
  · rfl
  · split
    · rfl
    · split
      · rfl
      · rfl
      · exact hcache s _

@[simp] theorem State.xlate1_planes (s : State) (l : Nat) (x : Launch) (port va n : Nat) (write : Bool) :
    (s.xlate1 l x port va n write).2.planes = s.planes := by
  unfold State.xlate1
  dsimp only
  split
  · rfl
  · split
    · rfl
    · exact State.xlate_keeps (·.planes) (fun _ _ _ => rfl) (fun _ _ => rfl) ..

/-- The launch of a plane that acts for it. -/
theorem State.planeActs_launch {s : State} {pl : PlaneId} {l : Nat} {x : Launch} (h : s.planeActs pl = some (l, x)) :
    (s.plane pl).launch = some l := by
  unfold State.planeActs at h
  dsimp only at h
  split at h
  next => cases h
  next k hk =>
    split at h
    next => cases h
    next y hy =>
      obtain ⟨-, h⟩ := Option.ite_none_right_eq_some.mp h
      cases h
      exact hk

/-! ### An object goes home (R273) -/

theorem State.mem_setBar (s : State) (key : Nat) (o : BarObj) :
    (s.setBar key o).mem = Memory.writeBytes (s.foldIn key 16).mem key o.bytes := by
  simp only [State.setBar]

theorem State.mem_barDo (s : State) (l : Nat) (pl : PlaneId) (key : Nat) (f : BarObj → BarObj) :
    (s.barDo l pl key f).mem = Memory.writeBytes (s.foldIn key 16).mem key (f (s.bar key)).bytes := by
  rw [State.barDo, State.modLaunch_mem, State.mem_setBar]

/-! ### An object with INIT = 1 (R213) -/

section
variable {s : State} {pl : PlaneId} {l key : Nat} {ver : BitVec 16} {r : Req} (hl : (s.plane pl).launch = some l)
  (hver : (s.bar key).ver = ver.toNat)

section
include hl hver

theorem State.barAct_of_expect (hk : r.kind = .barexp) (hb : r.b.toNat < 2 ^ 48) :
    s.barAct pl ver r key = some (((s.unbar pl r.rid).barDo l pl key fun o =>
      { o with pend := (o.pend + r.b.toNat) % 2 ^ 48 }).finish pl r .null) := by
  simp only [State.barAct, hl, hver, hk, Nat.div_eq_of_lt hb, Option.getD_some, ne_eq, not_true_eq_false, if_false]

theorem State.barAct_of_arrive (hk : r.kind = .bararv) (harr : (s.bar key).arr ≠ (s.bar key).cnt) :
    s.barAct pl ver r key = some (((s.unbar pl r.rid).barDo l pl key fun o => { o with arr := o.arr + 1 }).finish pl r .null) := by
  simp only [State.barAct, hl, hver, hk, harr, Option.getD_some, ne_eq, not_true_eq_false, if_false]

end

include hver

theorem State.barAct_of_open (hk : r.kind = .barwt) (hopen : (s.bar key).open_ (r.a.toNat % 16) = true) :
    s.barAct pl ver r key = some ((s.unbar pl r.rid).finish pl r (phaseToken (s.bar key))) := by
  simp only [State.barAct, hver, hk, hopen, ne_eq, not_true_eq_false, if_false, if_true]

theorem State.barAct_of_closed (hk : r.kind = .barwt) (hopen : (s.bar key).open_ (r.a.toNat % 16) = false) :
    s.barAct pl ver r key = none := by
  simp only [State.barAct, hver, hk, hopen, ne_eq, not_true_eq_false, Bool.false_eq_true, if_false]

end

/-- A request with a budget joins the wait queue of its edge block, where that has room (R214). -/
theorem State.barHold_of_room {s : State} {r : Req} {key : Nat} (pl : PlaneId) (hbudget : r.budget ≠ 0#8)
    (hroom : s.barCount (edgeOfKey key) < barDepth) :
    s.barHold pl r key = ({ s with barq := s.barq ++ [⟨edgeOfKey key, .request pl r.rid, key⟩] } : State).setReq pl r.rid
      (.barHeld (s.cycle (s.gladeOf pl.col))) := by
  simp only [State.barHold, hbudget, Nat.not_le.mpr hroom, if_false]
  rfl

/-! ### BARINIT (R213) -/

/-- The object that BARINIT leaves: its count, and the phase that it had where it was initialised before. -/
def barFresh (ver : BitVec 16) (n : Nat) (o : BarObj) : BarObj :=
  { pend := 0, ver := ver.toNat, cnt := n, arr := 0, phase := if o.init then o.phase else 0, init := true }

/-- The home unit and the launch note an object that stands at a key (R212). -/
def State.nameBar (s : State) (l key : Nat) : State :=
  ({ s with bars := if s.bars.contains key then s.bars else key :: s.bars } : State).modLaunch l fun y =>
    { y with bars := if y.bars.contains key then y.bars else key :: y.bars }

theorem State.barInit_of_new {s : State} {r : Req} {key : Nat} (pl : PlaneId) (l : Nat) (ver : BitVec 16)
    (hcount : r.b.toNat % 2 ^ 16 ≠ 0) (hnew : (s.bar key).init = false) (hnone : s.barHeld key = []) :
    s.barInit pl l ver r key = ((s.barDo l pl key (barFresh ver (r.b.toNat % 2 ^ 16))).nameBar l key).finish pl r .null := by
  have hfresh : ¬(r.b.toNat % 2 ^ 16 = 0 ∨ (s.bar key).init = true ∧ ((s.bar key).arr ≠ 0 ∨ (s.bar key).pend ≠ 0 ∨
      ((s.barHeld key).any fun q => decide (q.2.kind = .barwt)) = true)) := by
    rw [hnew]
    exact not_or.mpr ⟨hcount, fun h => absurd h.1 Bool.false_ne_true⟩
  refine (if_neg hfresh).trans ?_
  rw [hnone]
  rfl

/-! ### The request at the home unit (R212) -/

section
variable {s s1 : State} {l : Nat} {x : Launch} {r : Req} {key : Nat} (hready : s.ready? s.cur.pl s.cur.rid = some (l, x, r))
  (hinval : s.invalHolds (tilePort s.cur.pl) x.asid (va48 r.a / 16 * 16) = false)
  (hx : s.xlate1 l x (tilePort s.cur.pl) (va48 r.a / 16 * 16) 16 r.kind.writes = (.ok key true, s1))
  (hpeer : isPeer key = false) (hhost : isHost key = false)
include hready hinval hx hpeer hhost

/-- A barrier form whose address translates to an IMM page of the device. -/
theorem exec_barrierPerform_of_xlate (hk : r.kind.isBarrier = true) :
    exec .barrierPerform s = .next (State.wake
      (if r.kind = .barinit then s1.barInit s.cur.pl l x.ver r key
       else if (s1.bar key).init then (s1.barAct s.cur.pl x.ver r key).elim (s1.barHold s.cur.pl r key) (·.phaseCheck key)
       else s1.barHold s.cur.pl r key) []) := by
  rw [exec_barrierPerform, Laws.onReq_of_here (Laws.ready?_here hready).2]
  simp only [State.barPerform, hready, hk, hinval, hx, hpeer, hhost, Bool.not_true, Bool.false_eq_true, or_self, if_false]
  cases s1.barAct s.cur.pl x.ver r key <;> rfl

theorem exec_barrierPerform_of_init (hk : r.kind = .barinit) (hcount : r.b.toNat % 2 ^ 16 ≠ 0) (hnew : (s1.bar key).init = false)
    (hnone : s1.barHeld key = []) :
    exec .barrierPerform s = .next ((((s1.barDo l s.cur.pl key (barFresh x.ver (r.b.toNat % 2 ^ 16))).nameBar l key).finish
      s.cur.pl r .null).wake []) := by
  rw [exec_barrierPerform_of_xlate hready hinval hx hpeer hhost (by rw [hk]; rfl), if_pos hk,
    State.barInit_of_new s.cur.pl l x.ver hcount hnew hnone]

variable (hk : r.kind.isBarrier = true) (hother : r.kind ≠ .barinit) (hinit : (s1.bar key).init = true)
include hk hother hinit

/-- A form that an object answers ends with the check of its phase. -/
theorem exec_barrierPerform_of_act {t : State} (hact : s1.barAct s.cur.pl x.ver r key = some t) :
    exec .barrierPerform s = .next ((t.phaseCheck key).wake []) := by
  rw [exec_barrierPerform_of_xlate hready hinval hx hpeer hhost hk, if_neg hother, if_pos hinit, hact]
  rfl

/-- Another is held. -/
theorem exec_barrierPerform_of_hold (hact : s1.barAct s.cur.pl x.ver r key = none) :
    exec .barrierPerform s = .next ((s1.barHold s.cur.pl r key).wake []) := by
  rw [exec_barrierPerform_of_xlate hready hinval hx hpeer hhost hk, if_neg hother, if_pos hinit, hact]
  rfl

end

/-! ### Timeouts (R214) -/

/-- A request that has waited longer than the park timeout faults, and leaves the wait queue (assumption 28). -/
theorem exec_barrierWaitQueueTimeout_of_late {s : State} {e : BarEnt} {q : PlaneId} {rid l : Nat} {t : W64} {r : Req} {x : Launch}
    {g : Glade} (he : (s.barq.filter fun e => decide (e.edge = s.cur.n))[s.cur.k]? = some e) (howner : e.owner = .request q rid)
    (hr : s.req? q rid = some r) (hl : (s.plane q).launch = some l) (hx : s.launch? l = some x) (hg : s.glade? x.glade = some g)
    (hst : r.st = .barHeld t) (hbudget : r.budget ≠ 255#8) (hlate : g.parkTimeout < (g.cycle - t).toNat) :
    exec .barrierWaitQueueTimeout s = .next ((s.unbar q rid).reqFault q r .parkBudget 1 (vaInfo r.a)) := by
  simp only [exec_barrierWaitQueueTimeout, State.barTimeout, he, howner, Laws.onReq_of_here hr, State.barExpire, hr, hl, hx, hg,
    hst, Option.bind_some, ne_eq, hbudget, not_false_eq_true, hlate, and_self, if_true]

/-! ### Phases (R213) -/

/-- PHASE has passed t at a distance of 1 to 8. -/
theorem BarObj.open_iff (o : BarObj) {t : Nat} (ht : t < 16) :
    o.open_ t = true ↔ ∃ d, 1 ≤ d ∧ d ≤ 8 ∧ o.phase % 16 = (t + d) % 16 := by
  simp only [BarObj.open_, Bool.and_eq_true, decide_eq_true_eq]
  constructor
  · rintro ⟨h1, h8⟩
    exact ⟨_, h1, h8, by omega⟩
  · rintro ⟨d, h1, h8, hd⟩
    omega

/-- The object of the next phase. -/
def BarObj.nextPhase (o : BarObj) : BarObj := { o with phase := (o.phase + 1) % 2 ^ 16, arr := 0 }

/-- The answer to a request that was held on an object, where its phase has passed. -/
def State.answerHeld (s : State) (next : BarObj) (q : PlaneId × Req) : State :=
  if q.2.kind = .barwt ∧ next.open_ (q.2.a.toNat % 16) = true then
    s.onReq q.1 q.2.rid fun t => (t.unbar q.1 q.2.rid).finish q.1 q.2 (phaseToken next)
  else s

theorem State.phaseCheck_of_ripe {s : State} {key : Nat} (hinit : (s.bar key).init = true)
    (harr : (s.bar key).arr = (s.bar key).cnt) (hpend : (s.bar key).pend = 0) :
    s.phaseCheck key = (s.barHeld key).foldl (fun t q => t.answerHeld (s.bar key).nextPhase q)
      (s.setBar key (s.bar key).nextPhase) := by
  have hripe : (s.bar key).ripe = true := by
    simp only [BarObj.ripe, hinit, harr, hpend, decide_true, Bool.and_self]
  have hstep : (s.bar key).step = (s.bar key).nextPhase := if_pos hripe
  refine (if_pos hripe).trans ?_
  rw [hstep]
  rfl

theorem State.phaseCheck_of_not_ripe {s : State} {key : Nat}
    (h : (s.bar key).init = false ∨ (s.bar key).arr ≠ (s.bar key).cnt ∨ (s.bar key).pend ≠ 0) : s.phaseCheck key = s := by
  have hripe : ¬(s.bar key).ripe = true := by
    obtain h | h | h := h <;>
      simp only [BarObj.ripe, h, decide_false, Bool.and_false, Bool.false_and, Bool.false_eq_true, not_false_eq_true]
  exact if_neg hripe

/-- Settles O41: a form's translation, its object, and the end of a phase. -/
theorem barriersPerform : Obligations.BarriersPerform := by
  refine ⟨fun s s1 l x r key => ⟨?forms, ?timeout⟩, fun s l pl key f => ?home, fun s key => ⟨?ripe, ?unripe⟩,
    fun o t ht => o.open_iff ht⟩
  case forms =>
    intro hready hinval hx hpeer hhost
    have hlaunch : (s1.plane s.cur.pl).launch = some l := by
      have hplanes := s.xlate1_planes l x (tilePort s.cur.pl) (va48 r.a / 16 * 16) 16 r.kind.writes
      rw [hx] at hplanes
      rw [State.plane, hplanes]
      exact State.planeActs_launch (Laws.ready?_here hready).1
    refine ⟨exec_barrierPerform_of_init hready hinval hx hpeer hhost, fun hinit hver => ⟨fun hk hb => ?expect,
      fun hk harr => ?arrive, fun hk hopen => ?opened, fun hk hopen hbudget hroom => ?hold⟩⟩
    case expect =>
      exact exec_barrierPerform_of_act hready hinval hx hpeer hhost (by rw [hk]; rfl) (by rw [hk]; nofun) hinit
        (State.barAct_of_expect hlaunch hver hk hb)
    case arrive =>
      exact exec_barrierPerform_of_act hready hinval hx hpeer hhost (by rw [hk]; rfl) (by rw [hk]; nofun) hinit
        (State.barAct_of_arrive hlaunch hver hk harr)
    case opened =>
      exact exec_barrierPerform_of_act hready hinval hx hpeer hhost (by rw [hk]; rfl) (by rw [hk]; nofun) hinit
        (State.barAct_of_open hver hk hopen)
    case hold =>
      rw [exec_barrierPerform_of_hold hready hinval hx hpeer hhost (by rw [hk]; rfl) (by rw [hk]; nofun) hinit
        (State.barAct_of_closed hver hk hopen), State.barHold_of_room _ hbudget hroom]
  case timeout =>
    exact fun e q rid t g he howner hr hl hx hg hst hbudget hlate =>
      exec_barrierWaitQueueTimeout_of_late he howner hr hl hx hg hst hbudget hlate
  case home => exact s.mem_barDo l pl key f
  case ripe => exact fun hinit harr hpend => ⟨State.phaseCheck_of_ripe hinit harr hpend, s.mem_setBar key _⟩
  case unripe => exact State.phaseCheck_of_not_ripe

end Sys2Proof.Machine

/-!
PROOF. Copies: acceptance, one destination line, and promises (10 R217, R218; 21 R343). The time that an engine reckons is a
free value (assumption 9).
-/
namespace Sys2Proof.Machine

theorem exec_copyAccept (s : State) :
    exec .copyAccept s = .next ((s.onReq s.cur.pl s.cur.rid fun s => s.copyAccept s.cur.pl s.cur.rid).wake []) := rfl
theorem exec_copyLineWrite (s : State) : exec .copyLineWrite s = .next ((s.copyLine s.cur.n).wake []) := rfl
theorem exec_promiseMissed (s : State) : exec .promiseMissed s = .next (s.promiseMiss s.cur.n) := rfl

/-! ### Acceptance (R216, R217) -/

/-- The record that an engine makes of a request, with no promise yet. -/
def copyJob (s : State) (pl : PlaneId) (rid l : Nat) (x : Launch) (r : Req) : CopyJob :=
  { cid := rid, engine := edgeIx pl.col pl.row, glade := x.glade, lid := l, pl := pl, ch := r.resp.getD 0, rid := rid,
    cw := r.lanes, promise := 0#64, budget := r.budget, block := r.block, slot := r.slot,
    cut := cutIndex (s.plane pl).recorded }

/-- A promised or present cycle, as COPY answers it. -/
def cycleToken (v : W64) : Token := .data ⟨.scalar, [v], .u64, 1#64⟩

/-- A record that has passed the checks is answered at once where it copies nothing, and else joins its engine's queue. -/
def State.takeCopy (s : State) (pl : PlaneId) (rid l : Nat) (x : Launch) (r : Req) : State :=
  if cwLen r.lanes = 0 then s.finish pl r (cycleToken (s.cycle x.glade))
  else
    let job := copyJob s pl rid l x r
    let d := s.promiseOf job.engine x.glade (s.copies ++ [job])
    { d.2.finish pl r (cycleToken d.1) with copies := d.2.copies ++ [{ job with promise := d.1 }] }

theorem exec_copyAccept_of_ok {s u : State} {l : Nat} {x : Launch} {r : Req} (hready : s.ready? s.cur.pl s.cur.rid = some (l, x, r))
    (hk : r.kind = .copy)
    (hroom : (s.copies.filter fun c => decide (c.engine = edgeIx s.cur.pl.col s.cur.pl.row)).length < copyDepth)
    (hrec : r.lanes ≠ []) (hok : copyOk r.lanes = true)
    (hbar : (cwBaddr r.lanes = 0 ∧ u = s) ∨
      (cwBaddr r.lanes ≠ 0 ∧ ∃ key, s.xlate1 l x (tilePort s.cur.pl) (cwBaddr r.lanes) 16 true = (.ok key true, u))) :
    exec .copyAccept s = .next ((u.takeCopy s.cur.pl s.cur.rid l x r).wake []) := by
  have hsome : r.lanes.isEmpty = false := List.isEmpty_eq_false_iff.mpr hrec
  rw [exec_copyAccept, Laws.onReq_of_here (Laws.ready?_here hready).2]
  obtain ⟨hb, rfl⟩ | ⟨hb, key, hx⟩ := hbar
  · simp only [State.copyAccept, hready, hk, Nat.not_le.mpr hroom, hsome, hok, hb, ne_eq, not_true_eq_false, or_self,
      Bool.not_true, Bool.false_eq_true, if_false, if_true]
    rfl
  · simp only [State.copyAccept, hready, hk, Nat.not_le.mpr hroom, hsome, hok, hb, hx, ne_eq, not_true_eq_false, or_self,
      Bool.not_true, Bool.false_eq_true, if_false, if_true]
    rfl

/-! ### One destination line (R218) -/

section
variable {s u v : State} {c : CopyJob} {x : Launch} {port n : Nat} {bs : List Byte} {bits : List Bool} {src : List Part} {p : Part}
  {qs : List (Nat × Nat × Bool)} {bar : Option Nat}

/-- A copy may write a live stream descriptor only for a HANDLER actor (R50, R219). -/
theorem descriptor_allowed (h : u.liveDesc [{ p with len := n }] = false ∨ ∃ a, u.actorFor c.lid x c.pl = some a ∧ a.level = 1) :
    ¬((u.actorFor c.lid x c.pl).all (fun a => decide (a.level ≠ 1)) = true ∧ u.liveDesc [{ p with len := n }] = true) := by
  rintro ⟨huser, hdesc⟩
  obtain h | ⟨a, ha, hlevel⟩ := h
  · exact Bool.false_ne_true (h.symm.trans hdesc)
  · rw [ha] at huser
    exact of_decide_eq_true huser hlevel

theorem State.copyWrite_of_clear (hx : s.copyXlate c x port true [(cwDaddr c.cw + c.done, n)] = (.ok qs, [p], u))
    (hpeer : isPeer p.key = false) (harg : isArg p.key = false) (hhost : isHost p.key = false ∨ cwMode c.cw = 0)
    (hdesc : u.liveDesc [{ p with len := n }] = false ∨ ∃ a, u.actorFor c.lid x c.pl = some a ∧ a.level = 1)
    (htwin : u.twinPart c.lid x [{ p with len := n }] = false)
    (hbar : (cwBaddr c.cw = 0 ∧ v = u ∧ bar = none) ∨
      (cwBaddr c.cw ≠ 0 ∧ ∃ b imm, u.xlate1 c.lid x port (cwBaddr c.cw) 16 true = (.ok b imm, v) ∧ bar = some b))
    (hclass : x.irrev = true ∨ (p.imm = false ∧ v.overQuota c.lid [p.key / 64] = false)) :
    s.copyWrite c x port n bs bits src = (v.signParts c.lid src).copyPut c p n bs bits bar := by
  have hprot : ¬(isPeer p.key = true ∨ isArg p.key = true ∨ (isHost p.key = true ∧ cwMode c.cw ≠ 0) ∨
      ((u.actorFor c.lid x c.pl).all (fun a => decide (a.level ≠ 1)) = true ∧ u.liveDesc [{ p with len := n }] = true) ∨
      u.twinPart c.lid x [{ p with len := n }] = true) := by
    have hdata : ¬(isHost p.key = true ∧ cwMode c.cw ≠ 0) := by
      rintro ⟨h, hmode⟩
      obtain h' | h' := hhost
      · exact Bool.false_ne_true (h'.symm.trans h)
      · exact hmode h'
    simp only [hpeer, harg, htwin, hdata, descriptor_allowed hdesc, Bool.false_eq_true, or_self, not_false_eq_true]
  have hanchor : ¬(p.imm = true ∧ (!x.irrev) = true) := by
    rintro ⟨himm, hirrev⟩
    obtain h | ⟨h, -⟩ := hclass
    · simp [h] at hirrev
    · simp [h] at himm
  have hquota : ¬((!p.imm) = true ∧ (!x.irrev) = true ∧ v.overQuota c.lid [p.key / 64] = true) := by
    rintro ⟨-, hirrev, hover⟩
    obtain h | ⟨-, h⟩ := hclass
    · simp [h] at hirrev
    · simp [h] at hover
  unfold State.copyWrite
  simp only [hx]
  rw [if_neg hprot]
  obtain ⟨hb, rfl, rfl⟩ | ⟨hb, b, imm, hxb, rfl⟩ := hbar
  · simp only [hb, if_true, hanchor, hquota, if_false]
  · simp only [hb, if_false, hxb, hanchor, hquota]

end

/-- A copy that goes on, on lines that no invalidation holds, writes the line whose source it has read. -/
theorem exec_copyLineWrite_of_read {s t : State} {c : CopyJob} {x : Launch} {bs : List Byte} {bits : List Bool} {ps : List Part}
    (hc : s.copies.find? (fun c => decide (c.cid = s.cur.n)) = some c) (hx : s.launch? c.lid = some x) (hgoes : x.goesOn = true)
    (hstop : c.stopped = false) (hwait : c.waiting = false) (hfault : c.fault = none) (hpage : c.page = none)
    (hdst : s.invalHolds (tilePort c.pl) x.asid (cwDaddr c.cw + c.done) = false)
    (hbar : cwBaddr c.cw ≠ 0 → s.invalHolds (tilePort c.pl) x.asid (cwBaddr c.cw) = false)
    (hread : s.copyRead c x (tilePort c.pl) c.lineLen = (.got bs bits ps, t)) {u : State}
    (hwrite : t.copyWrite c x (tilePort c.pl) c.lineLen bs bits ps = u) : exec .copyLineWrite s = .next (u.wake []) := by
  have hheld : ¬(s.invalHolds (tilePort c.pl) x.asid (cwDaddr c.cw + c.done) = true ∨
      (cwBaddr c.cw ≠ 0 ∧ s.invalHolds (tilePort c.pl) x.asid (cwBaddr c.cw) = true)) := by
    rintro (h | ⟨hb, h⟩)
    · exact Bool.false_ne_true (hdst.symm.trans h)
    · exact Bool.false_ne_true ((hbar hb).symm.trans h)
  rw [exec_copyLineWrite]
  simp only [State.copyLine, hc, hx, hgoes, hstop, hwait, hfault, hpage, hheld, hread, hwrite, Bool.not_true, Bool.false_eq_true,
    Option.isSome_none, or_self, if_false]

/-! ### Promises (R217, R343) -/

/-- The engine computes a new promise, and a first miss raises F_PROMISE_MISSED. -/
theorem exec_promiseMissed_of_first {s : State} {c : CopyJob} (hc : s.copies.find? (fun c => decide (c.cid = s.cur.n)) = some c)
    (hstop : c.stopped = false) (howed : c.owed = false) (hlate : c.promise < s.cycle c.glade) (hmissed : c.missed = false)
    {d : W64 × State} (hd : s.promiseOf c.engine c.glade s.copies = d) {f : Nat × State}
    (hf : (d.2.modCopy s.cur.n fun c => { c with promise := d.1, owed := true }).raise .promiseMissed c.lid (some c.pl) c.pl
      (.promise c.pl c.ch s.cur.n d.1) 0 false c.block.toNat c.slot 0 0 0#64 = f) :
    exec .promiseMissed s = .next (if (f.2.fault? f.1).map (·.st) = some FSt.reported then f.2.unhandled f.1 else f.2) := by
  subst hd hf
  simp only [exec_promiseMissed, State.promiseMiss, hc, hstop, howed, hlate, hmissed, Bool.false_eq_true, not_true_eq_false, or_self,
    if_false]

/-! ### A line on an IMM page in mode DATA (R218) -/

/-- With no word changed and no core waiting, nothing wakes. -/
theorem State.wake_nil_of_no_waiter {s : State} (h : s.barq = []) : s.wake [] = s := by
  simp only [State.wake, h, wakeGo, State.scan, State.serveCore, List.findSome?_nil]

theorem State.foldLine_of_clear {s : State} {line : Nat} (h : ∀ e ∈ s.under, e.committed = true → e.eff.line ≠ line) :
    s.foldLine line = s := by
  have hnone : (s.under.filter fun e => e.committed && decide (e.eff.line = line)) = [] :=
    List.filter_eq_nil_iff.mpr fun e he hhit => by
      obtain ⟨hcom, hline⟩ := (Bool.and_eq_true _ _).mp hhit
      exact h e he hcom (of_decide_eq_true hline)
  simp only [State.foldLine, hnone, List.isEmpty_nil, if_true]

@[simp] theorem State.homeEff_barq (s : State) (e : MEff) : (s.homeEff e).barq = s.barq := by
  cases e <;> simp [State.homeEff]
@[simp] theorem State.homeEff_copies (s : State) (e : MEff) : (s.homeEff e).copies = s.copies := by
  cases e <;> simp [State.homeEff]
@[simp] theorem State.foldLine_barq (s : State) (line : Nat) : (s.foldLine line).barq = s.barq :=
  State.foldLine_keeps (·.barq) (fun s e => s.homeEff_barq e) (fun _ _ => rfl) (fun s k b => s.setSide_barq k b) s line
@[simp] theorem State.foldLine_copies (s : State) (line : Nat) : (s.foldLine line).copies = s.copies :=
  State.foldLine_keeps (·.copies) (fun s e => s.homeEff_copies e) (fun _ _ => rfl) (fun s k b => s.setSide_copies k b) s line

/-- A copy past its line: it goes on to the next, or ends with its last. -/
def CopyJob.passLine (c : CopyJob) (n : Nat) (cs : List CopyJob) : List CopyJob :=
  if c.done + n = cwLen c.cw then cs.filter fun d => decide (d.cid ≠ c.cid)
  else cs.map fun d => if d.cid = c.cid then { d with done := d.done + n, found := [], line := none } else d

/-- The line goes home behind what has been committed on it, and the copy passes it. -/
theorem State.copyPut_of_imm {s : State} {c : CopyJob} {p : Part} {x : Launch} (n : Nat) (bs : List Byte) (bits : List Bool)
    (hx : s.launch? c.lid = some x) (himm : p.imm = true) (hmode : cwMode c.cw = 0) (hbarq : s.barq = []) :
    s.copyPut c p n bs bits none =
      { s.foldLine (p.key / 64) with
        mem := Memory.writeBytes (s.foldLine (p.key / 64)).mem p.key bs, copies := c.passLine n s.copies } := by
  have hput : s.putEff c.lid c.cut true p.va (.bytes p.key bs) =
      { s.foldLine (p.key / 64) with mem := Memory.writeBytes (s.foldLine (p.key / 64)).mem p.key bs } := by
    simp only [State.putEff, hx, if_true]
    rfl
  have hcopies := s.foldLine_copies (p.key / 64)
  simp only [State.copyPut, hmode, himm, hput, if_true, List.zipIdx_nil, List.filter_nil, List.map_nil, List.foldl_nil]
  refine (State.wake_nil_of_no_waiter ?waiter).trans ?line
  case waiter =>
    have hkept := (s.foldLine_barq (p.key / 64)).trans hbarq
    split
    · exact hkept
    · exact hkept
  case line =>
    unfold CopyJob.passLine
    split
    · simp only [hcopies]
    · simp only [State.modCopy, hcopies]

/-- Settles O42: acceptance, a line, a missed promise, and what a line leaves in memory. -/
theorem copiesRun : Obligations.CopiesRun := by
  refine ⟨fun s l x r => ⟨?accept, ?line, fun c hc hstop howed hlate hmissed => ?missed⟩, ?memory⟩
  case accept =>
    intro u hready hk hroom hrec hok hbar
    have haccept := exec_copyAccept_of_ok hready hk hroom hrec hok hbar
    refine ⟨fun hlen => ?nothing, fun hlen => ?work⟩
    case nothing => exact haccept.trans (by rw [State.takeCopy, if_pos hlen]; rfl)
    case work => exact haccept.trans (by rw [State.takeCopy, if_neg hlen]; rfl)
  case line =>
    intro c t bs bits ps hc hx hgoes hstop hwait hfault hpage port n hdst hbar hread u v p qs bar hxlate hpeer harg hhost hdesc htwin
      hbarrier hclass
    exact exec_copyLineWrite_of_read hc hx hgoes hstop hwait hfault hpage hdst hbar hread
      (State.copyWrite_of_clear hxlate hpeer harg hhost hdesc htwin hbarrier hclass)
  case missed => exact exec_promiseMissed_of_first hc hstop howed hlate hmissed rfl rfl
  case memory =>
    intro s c p n bs bits x hinv hx himm hmode hbarq t
    have ht : t = _ := State.copyPut_of_imm n bs bits hx himm hmode hbarq
    have hother : ∀ a, a < p.key ∨ p.key + bs.length ≤ a → Memory.read t.mem a = Memory.read (s.foldLine (p.key / 64)).mem a :=
      fun a ha => by rw [ht]; exact Memory.read_writeBytes_other ha
    refine ⟨fun k hk => ?written, hother, fun hclear a ha => ?clear, ?copies⟩
    case written =>
      rw [ht, List.getD_eq_getElem?_getD, List.getElem?_eq_getElem hk, Option.getD_some]
      exact Memory.read_writeBytes_same (State.wf_foldLine _ hinv) hk
    case clear => rw [hother a ha, State.foldLine_of_clear hclear]
    case copies => rw [ht]; rfl

end Sys2Proof.Machine

/-!
PROOF. What reset leaves (18 R310, 22 R360, 23 R365, R368).
-/
namespace Sys2Proof.Machine

/-- A store made of one entry for each of some keys holds at such a key the value made for it. -/
theorem Store.get?_map_of_mem {α : Type} (f : Nat → α) {k : Nat} : ∀ {ks : List Nat}, k ∈ ks →
    Store.get? (ks.map fun i => (i, f i)) k = some (f k)
  | i :: ks, h => by
    by_cases hik : i = k
    · subst hik
      exact if_pos rfl
    · exact (if_neg hik).trans (Store.get?_map_of_mem f ((List.mem_cons.mp h).resolve_left (Ne.symm hik)))

/-- Each island stands at its reset power register. -/
theorem State.reset_island {k : Nat} (hk : k < 24) : State.reset.island k = { first := k } :=
  congrArg (·.getD {}) (Store.get?_map_of_mem (fun i => ({ first := i } : Island)) (List.mem_range.mpr hk))

/-- An entry of the frame table at reset: weight 4 for each of the four planes. -/
theorem eq_of_mem_reset_table {w : W32} (hw : w ∈ State.reset.fo.table) : w = 0x21084#32 := List.eq_of_mem_replicate hw

/-- Settles O60: the records of the reset state, field by field, and its empty memory. -/
theorem resetState : Obligations.ResetState := by
  refine ⟨⟨rfl, fun k hk => ?island, List.length_replicate, fun w hw => ?weights, rfl, rfl⟩, ?inv⟩
  case island => exact State.reset_island hk
  case weights =>
    rw [eq_of_mem_reset_table hw]
    decide
  case inv => exact Memory.wf_nil

end Sys2Proof.Machine

/-!
PROOF. The matrix sequencer: acceptance, dispatch, chunks, drains and completion (11 R224 to R232). A command takes the codebook
of the launch that posted it (assumption 23).
-/
namespace Sys2Proof.Machine

theorem exec_matrixRecordAccept (s : State) :
    exec .matrixRecordAccept s = .next ((s.onReq s.cur.pl s.cur.rid fun s => s.mAccept s.cur.pl s.cur.rid).wake []) := rfl
theorem exec_sequencerDispatch (s : State) : exec .sequencerDispatch s = .next ((s.seqDispatch s.cur.g s.cur.k).wake []) := rfl
theorem exec_mmChunk (s : State) : exec .mmChunk s = .next ((s.mmChunk s.cur.g s.cur.n).wake []) := rfl
theorem exec_drainTile (s : State) : exec .drainTile s = .next (s.drainTile s.cur.g s.cur.n) := rfl
theorem exec_commandCompletion (s : State) : exec .commandCompletion s = .next ((s.mCompletion s.cur.g s.cur.n).wake []) := rfl

/-! ### Acceptance (R224, R226, R227) -/

/-- The record of an MMPOST, as the sequencer holds it. -/
def matrixRecord (mid l : Nat) (pl : PlaneId) (r : Req) (cw : List W64) : MRec :=
  { mid := mid, lid := l, pl := pl, block := r.block, slot := r.slot, cw := cw, bad := false }

/-- A record that meets the checks stands last in the queue, and its MMPOST is answered. -/
theorem exec_matrixRecordAccept_of_ok {s : State} {l : Nat} {x : Launch} {r : Req} {g : Glade}
    (hready : s.ready? s.cur.pl s.cur.rid = some (l, x, r)) (hk : r.kind = .mmpost) (hg : s.glade? x.glade = some g)
    (hrec : s.recordAt s.cur.pl r.a ≠ []) (hroom : g.seqr.length < seqDepth + g.spillSize)
    (hok : mOk (s.recordAt s.cur.pl r.a) (g.regionsOf l) (g.seqr.filter fun q => decide (q.lid = l)) = true) :
    exec .matrixRecordAccept s = .next (((s.fresh.2.modGlade x.glade fun y =>
      { y with seqr := y.seqr ++ [matrixRecord s.fresh.1 l s.cur.pl r (s.recordAt s.cur.pl r.a)] }).finish s.cur.pl r .null).wake []) := by
  have hsome : (s.recordAt s.cur.pl r.a).isEmpty = false := List.isEmpty_eq_false_iff.mpr hrec
  rw [exec_matrixRecordAccept, Laws.onReq_of_here (Laws.ready?_here hready).2]
  simp only [State.mAccept, hready, hk, hg, hsome, Nat.not_le.mpr hroom, hok, ne_eq, not_true_eq_false, Bool.false_eq_true,
    Bool.not_true, if_false, if_true]
  rfl

/-! ### Dispatch (R227, R228, R233) -/

/-- A free region as an MM or WLOAD binds it and starts on it. -/
def Region.begins (q : Region) (m : MRec) : Region :=
  { q with cmd := some m.mid, nextChunk := 0, drainPos := 0, drainRow := 0, drainRoute := none, pinned := [],
           acc := some (mAcc m.cw), n := mN m.cw, m := if mKind m.cw = 0 then some (mM m.cw) else q.m,
           accs := if mKind m.cw = 0 ∧ mClr m.cw then [] else q.accs,
           chunkIx := if mKind m.cw = 0 ∧ mClr m.cw then 0 else q.chunkIx,
           draining := decide (mKind m.cw = 0) && decide (mK m.cw = 0) && mDrn m.cw }

/-- An eligible MM or WLOAD starts on the free region that it is to use. -/
theorem exec_sequencerDispatch_of_eligible {s : State} {g : Glade} {m : MRec} {x : Launch} {k : Nat} {q : Region}
    (hg : s.glade? s.cur.g = some g) (hx : s.launch? m.lid = some x) (hon : x.onFabric = true)
    (hkind : mKind m.cw = 0 ∨ mKind m.cw = 1) (helig : g.eligible s.cur.k = some (m, some k)) (hq : g.regions[k]? = some q)
    (hfree : q.acc = none) :
    exec .sequencerDispatch s = .next (((s.modRec s.cur.g m.mid fun m =>
      { m with st := .running, region := some k, codebook := x.codebook }).modRegion s.cur.g k (·.begins m)).wake []) := by
  rw [exec_sequencerDispatch]
  simp only [State.seqDispatch, hg, helig, hx, hon, hq, hfree, Option.bind_some, Option.map_some, Option.isSome_none, Bool.not_true,
    Bool.false_eq_true, false_and, if_false]
  obtain hkind | hkind := hkind
  · simp only [hkind, Region.begins]
    cases mClr m.cw <;> rfl
  · simp only [hkind, Region.begins]
    rfl

/-! ### Chunks (R118 to R120, R229) -/

section
variable {s : State} {q : Region} {m : MRec} {x : Launch} (hrun : s.regionRun s.cur.g s.cur.n = some (q, m, x))
include hrun

/-- The next chunk of an MM whose weights are not resident is added to every accumulator. -/
theorem exec_mmChunk_of_fetched {as bs : List (List FV)} {accs : Store W32} {s2 s3 : State} (hkind : mKind m.cw = 0)
    (hmore : q.nextChunk < mChunks m.cw) (hdrain : q.draining = false) (hweights : q.weights = none)
    (ha : s.mBlocks m x q.rr.npol q.rr.fmtA (mAaddr m.cw) (mAscl m.cw) (mLda m.cw) q.nextChunk (List.range (mM m.cw)) = (.ok as, s2))
    (hb : s2.mBlocks m x q.rr.npol q.rr.fmtB (mBaddr m.cw) (mBscl m.cw) (mLdb m.cw) q.nextChunk (List.range (mN m.cw)) = (.ok bs, s3))
    (haccs : accsAfter q.rr q.accs (mM m.cw) (mN m.cw) (as.map fun b => b.take (mK m.cw - 64 * q.nextChunk))
      (bs.map fun b => b.take (mK m.cw - 64 * q.nextChunk)) = some accs) :
    exec .mmChunk s = .next ((s3.modRegion s.cur.g s.cur.n fun y =>
      { y with accs := accs, chunkIx := y.chunkIx + 1, nextChunk := q.nextChunk + 1, weights := none,
               pinned := y.pinned.filter fun p => usedAfter m.cw q.rr.fmtA q.rr.fmtB q.nextChunk p.1,
               draining := mDrn m.cw && decide (q.nextChunk + 1 = mChunks m.cw) }).wake []) := by
  simp only [exec_mmChunk, State.mmChunk, hrun, hkind, Nat.not_le.mpr hmore, hdrain, hweights, ha, hb, haccs, Bool.false_eq_true,
    or_self, if_false]

/-! ### Drains (R232) -/

/-- A region after n tokens of a tile of `all` tokens have gone on a route: at its next tile, or still at this one. -/
def Region.sent (q : Region) (route all n : Nat) : Region :=
  if q.drainRow + n = all then
    { q with drainPos := q.drainPos + 1, drainRow := 0, drainRoute := none, chunkIx := 0,
             accs := q.accs.filter fun e => decide (e.1 / 4096 ≠ q.drainPos) }
  else { q with drainRow := q.drainRow + n, drainRoute := some route }

/-- A draining region sends what its tile's route has room for. -/
theorem exec_drainTile_of_route {k a ch : Nat} {pl : PlaneId} (hdrain : q.draining = true) (hgo : q.brkStop = false)
    (hleft : q.drainPos < accTiles (q.m.getD 0) q.n) (hroute : q.nextRoute m.cw = some (.ok (k, false)))
    (hinput : q.rr.route k = some (a, ch)) (hplane : x.planeOf a 0 = some pl) {toks : List Token}
    (htoks : tileTokens q (q.m.getD 0) q.n q.drainPos = toks) {u : Nat × State} (hu : sendRoom pl ch (toks.drop q.drainRow) s 0 = u) :
    exec .drainTile s = .next (u.2.modRegion s.cur.g s.cur.n fun y => y.sent k toks.length u.1) := by
  subst htoks hu
  simp only [exec_drainTile, State.drainTile, hrun, hdrain, hgo, Nat.not_le.mpr hleft, hroute, hinput, hplane, Option.bind_some,
    Option.map_some, Bool.not_true, Bool.false_eq_true, false_and, or_self, if_false]
  rfl

end

/-! ### Completion (R231) -/

/-- The queue and the regions of a glade once a record has left. -/
def Glade.without (g : Glade) (mid : Nat) : Glade :=
  { g with seqr := g.seqr.filter fun q => decide (q.mid ≠ mid),
           regions := g.regions.map fun q => if q.cmd = some mid then { q with cmd := none, draining := false, pinned := [] } else q }

/-- A completed record with CEN = 0 leaves. -/
theorem exec_commandCompletion_of_completed {s : State} {g : Glade} {m : MRec} {x : Launch} (hg : s.glade? s.cur.g = some g)
    (hm : g.seqr.find? (fun m => decide (m.mid = s.cur.n)) = some m) (hx : s.launch? m.lid = some x) (hon : x.onFabric = true)
    (hst : m.st = .completed) (hcen : mCen m.cw = false) :
    exec .commandCompletion s = .next ((s.modGlade s.cur.g (·.without m.mid)).wake []) := by
  simp only [exec_commandCompletion, State.mCompletion, hg, hm, hx, hon, hst, State.mRetire, hcen, Option.bind_some, Option.elim_some,
    Bool.not_false, or_true, if_true]
  rfl

/-- Settles O43: a record is accepted, starts, adds its chunks, drains its tiles and leaves. -/
theorem matrixRuns : Obligations.MatrixRuns := by
  refine fun s l x r g q m => ⟨?accept, fun hg hx hon hkind k helig hq hfree => ?dispatch,
    fun hrun => ⟨fun as bs accs s2 s3 hkind hmore hdrain hweights ha hb haccs => ?chunk,
      fun k a ch pl hdrain hgo hleft hroute hinput hplane => ?drain⟩, ?complete⟩
  case accept => exact exec_matrixRecordAccept_of_ok
  case dispatch => exact exec_sequencerDispatch_of_eligible hg hx hon hkind helig hq hfree
  case chunk => exact exec_mmChunk_of_fetched hrun hkind hmore hdrain hweights ha hb haccs
  case drain => exact exec_drainTile_of_route hrun hdrain hgo hleft hroute hinput hplane rfl rfl
  case complete => exact exec_commandCompletion_of_completed

end Sys2Proof.Machine

/-!
PROOF. The words of a border core (11 R251 to R258; 23 R365). How an exception is entered is assumption 8, the order of a word's
checks assumption 24.
-/
namespace Sys2Proof.Machine

/-! ### Registers of a core (R251) -/

@[simp] theorem Core.reg_zero (k : Core) : k.reg 0 = 0#64 := if_pos rfl

theorem Core.reg_setReg_same (k : Core) {n : Nat} (v : W64) (hn : n ≠ 0) : (k.setReg n v).reg n = v := by
  simp only [Core.reg, Core.setReg, hn, if_false, Store.getD_set_same]

theorem Core.reg_setReg_other (k : Core) {n j : Nat} (v : W64) (hj : j ≠ n) : (k.setReg n v).reg j = k.reg j := by
  by_cases hn : n = 0
  · rw [Core.setReg, if_pos hn]
  · simp only [Core.reg, Core.setReg, hn, if_false, Store.getD_set_other _ _ _ hj]

theorem State.core_setCore_other (s : State) {c k : Nat} (x : Core) (h : k ≠ c) : (s.setCore c x).core k = s.core k :=
  Store.getD_set_other _ _ _ h

/-- What a core holds once it has written rd and gone on. -/
theorem State.core_coreRet (s : State) (c n : Nat) (v : W64) :
    (s.coreRet c n v).core c = { (s.core c).setReg n v with pc := (s.core c).pc + 4#64 } := s.core_setCore c _

/-! ### The frame of a border word (R251, R365) -/

/-- The twelve border words. -/
def borderWordsOf (rd rs1 rs2 : BitVec 5) : List Instr :=
  [.jlaunch rd rs1 rs2, .jfence rd rs1 rs2, .jquery rd rs1 rs2, .jinvr rd rs1 rs2, .jcmdKill rd rs1 rs2, .jcmdPre rd rs1 rs2,
    .jcmdSnap rd rs1 rs2, .jcmdStop rd rs1 rs2, .jcmdResume rd rs1 rs2, .jwaitw rd rs1 rs2, .jctxsave rd rs1 rs2,
    .jctxload rd rs1 rs2]

section
variable {rd rs1 rs2 : BitVec 5} {s : State} {i : Instr}

theorem exec_jfence (rd rs1 rs2 : BitVec 5) (s : State) :
    exec (.jfence rd rs1 rs2) s = borderDo s fun c _ => s.coreRet c rd.toNat 0#64 := rfl

/-- Each of them acts in the shared frame. -/
theorem exec_border (hi : i ∈ borderWordsOf rd rs1 rs2) : ∃ k, exec i s = borderDo s k := by
  simp only [borderWordsOf, List.mem_cons, List.not_mem_nil, or_false] at hi
  rcases hi with rfl | rfl | rfl | rfl | rfl | rfl | rfl | rfl | rfl | rfl | rfl | rfl
  · exact ⟨_, rfl⟩
  · exact ⟨_, exec_jfence ..⟩
  · exact ⟨_, rfl⟩
  · exact ⟨_, rfl⟩
  · exact ⟨_, rfl⟩
  · exact ⟨_, rfl⟩
  · exact ⟨_, rfl⟩
  · exact ⟨_, rfl⟩
  · exact ⟨_, rfl⟩
  · exact ⟨_, rfl⟩
  · exact ⟨_, rfl⟩
  · exact ⟨_, rfl⟩

theorem exec_border_of_off (hi : i ∈ borderWordsOf rd rs1 rs2) (hoff : s.coreOff s.cur.core = true) : exec i s = .next s := by
  obtain ⟨k, hk⟩ := exec_border hi
  rw [hk, borderDo, hoff, Bool.or_true]
  exact if_pos rfl

/-- A core that may step: it does not wait, and it is powered. -/
theorem borderDo_of_steps (hwait : (s.core s.cur.core).wait = none) (hoff : s.coreOff s.cur.core = false) (k : Nat → Core → State) :
    borderDo s k = if (s.core s.cur.core).mode = .u then .next (s.coreTrap s.cur.core causeIllegal 0#64)
      else .next (k s.cur.core (s.core s.cur.core)) := by
  simp only [borderDo, hwait, hoff, Option.isSome_none, Bool.or_self, Bool.false_eq_true, if_false]

theorem exec_border_of_user (hi : i ∈ borderWordsOf rd rs1 rs2) (hwait : (s.core s.cur.core).wait = none)
    (hoff : s.coreOff s.cur.core = false) (hmode : (s.core s.cur.core).mode = .u) :
    exec i s = .next (s.coreTrap s.cur.core causeIllegal 0#64) := by
  obtain ⟨k, hk⟩ := exec_border hi
  rw [hk, borderDo_of_steps hwait hoff, if_pos hmode]

theorem borderDo_of_machine (hwait : (s.core s.cur.core).wait = none) (hoff : s.coreOff s.cur.core = false)
    (hmode : (s.core s.cur.core).mode ≠ .u) (k : Nat → Core → State) :
    borderDo s k = .next (k s.cur.core (s.core s.cur.core)) := by
  rw [borderDo_of_steps hwait hoff, if_neg hmode]

end

/-! ### JLAUNCH (R253) -/

/-- A queue of a glade with one more entry. -/
def Glade.enqueue (g : Glade) (q : Nat) (e : QEnt) : Glade :=
  { g with queues := Store.set g.queues q (Store.getD g.queues q [] ++ [e]) }

theorem State.launchRecord_of_ok {s : State} {gl c : Nat} {asid : BitVec 16} {a b : W64} {r : List Byte} {g : Glade}
    (ha : a.toNat % 128 = 0) (hb : b.toNat < 16) (hr : s.fwRead asid (a.toNat % 2 ^ 48) 128 = some r) (hver : recBits r 3 0 = 1)
    (hg : s.glade? gl = some g) (hbind : (Store.get? g.binds b.toNat).isSome = true)
    (hroom : (Store.getD g.queues b.toNat []).length < 64) :
    s.launchRecord gl true c asid a b =
      (some 0, s.fresh.2.modGlade gl (·.enqueue b.toNat { rcd := r, seq := s.fresh.1, core := c })) := by
  have hsome : (Store.get? g.binds b.toNat).isNone = false := by rw [← Option.not_isSome, hbind]; rfl
  simp only [State.launchRecord, ha, hr, hver, hg, hsome, Nat.not_le.mpr hb, Nat.not_le.mpr hroom, ne_eq, not_true_eq_false,
    Bool.not_true, Bool.false_eq_true, or_self, if_false]
  rfl

theorem State.launchRecord_of_closed (s : State) (gl c : Nat) (asid : BitVec 16) (a b : W64) :
    s.launchRecord gl false c asid a b = (some 1, s) := if_pos rfl

/-! ### JQUERY (R254, R371) -/

/-- What selector 4 answers: scanned out, held by a PRE cut, or neither. -/
def Launch.heldCode (y : Launch) : W64 :=
  if y.scanned.isSome then 2#64 else if y.preHeld ∧ y.st ≠ .suspended then 1#64 else 0#64

section
variable {s : State} {l : Nat} {y : Launch}

theorem State.queryValue_state : s.queryValue l y 0 = BitVec.ofNat 64 y.stateCode := by simp [State.queryValue]
theorem State.queryValue_used : s.queryValue l y 1 = BitVec.ofNat 64 y.used := by simp [State.queryValue]
theorem State.queryValue_held : s.queryValue l y 4 = y.heldCode := by simp [State.queryValue, Launch.heldCode]

theorem State.queryValue_of_open (hopen : (s.tenant y.tenant).confidential = false) :
    s.queryValue l y 2 = BitVec.ofNat 64 y.ver.toNat ∧ s.queryValue l y 3 = BitVec.ofNat 64 y.snaps ∧
      s.queryValue l y 5 = BitVec.ofNat 64 (s.sizeNow l y) := by
  simp [State.queryValue, hopen]

/-- A confidential launch keeps these to itself, and no launch has the others. -/
theorem State.queryValue_of_closed {sel : Nat} (h : ((s.tenant y.tenant).confidential = true ∧ sel ∈ [2, 3, 5]) ∨ 6 ≤ sel) :
    s.queryValue l y sel = allOnes := by
  obtain ⟨hconf, hsel⟩ | hsel := h
  · have hne : sel ≠ 0 ∧ sel ≠ 1 ∧ sel ≠ 4 := by
      simp only [List.mem_cons, List.not_mem_nil, or_false] at hsel
      omega
    exact if_pos ⟨hconf, hne⟩
  · unfold State.queryValue
    split
    · rfl
    · match sel, hsel with
      | _ + 6, _ => rfl

end

/-! ### JCMD (R256, R340) -/

/-- The status and the effect of KILL on a launch that has not become irrevocable. -/
theorem State.command_kill {s : State} {l : Nat} {y : Launch} (c : Nat) (h : y.st = .live ∨ y.st = .held ∨ y.st = .oldestOnly) :
    s.command l y 0 c = (0, (s.raise .kill l none ⟨0, 0, 0⟩ (.launch l) 0 false 0 0 0 0 0#64).2) := by
  obtain h | h | h := h <;> simp only [State.command, State.kill, h]

theorem State.command_pre {s : State} {l : Nat} {y : Launch} (c : Nat) (h : y.mayCut = true) :
    s.command l y 1 c = (0, s.takeCut l .pre (some c)) := if_pos h

theorem State.command_snap {s : State} {l : Nat} {y : Launch} (c : Nat) (h : y.mayCut = true) :
    s.command l y 2 c = (0, s.takeCut l .snap (some c)) := if_pos h

theorem State.command_stop {s : State} {l : Nat} {y : Launch} (c : Nat) (h : y.mayCut = true) (hgoes : y.stopHeld = false) :
    s.command l y 3 c = (0, s.takeCut l .stop (some c)) := by
  simp only [State.command, h, hgoes, Bool.not_false, and_self, if_true]

theorem State.command_resume {s : State} {l : Nat} {y : Launch} (c : Nat) (h : y.stopHeld = true) :
    s.command l y 4 c = (0, s.unpause l y) := if_pos h

section
variable {rd rs1 rs2 : BitVec 5} {s : State} {c : Nat} {x : Core}

theorem State.jCmd_of_unknown (h : 5 ≤ (x.reg rs2.toNat).toNat) : s.jCmd rd rs1 rs2 c x = s.coreRet c rd.toNat 3#64 := if_pos h

theorem State.jCmd_of_no_launch (h : (x.reg rs2.toNat).toNat < 5)
    (hnone : s.byTicketNo (s.coreGlade c) ((x.reg rs1.toNat).setWidth 32) = none) :
    s.jCmd rd rs1 rs2 c x = s.coreRet c rd.toNat 1#64 := by
  simp only [State.jCmd, Nat.not_le.mpr h, hnone, if_false]

/-- A command answers its status with its effect; a STOP only where the tenant allows it (R371). -/
theorem State.jCmd_of_command {l cmd n : Nat} {y : Launch} {t : State}
    (hl : s.byTicketNo (s.coreGlade c) ((x.reg rs1.toNat).setWidth 32) = some (l, y)) (hcmd : (x.reg rs2.toNat).toNat = cmd)
    (hlt : cmd < 5) (hmay : cmd = 3 → s.mayDebug y = true) (h : s.command l y cmd c = (n, t)) :
    s.jCmd rd rs1 rs2 c x = t.coreRet c rd.toNat (BitVec.ofNat 64 n) := by
  have hstop : ¬(cmd = 3 ∧ (!s.mayDebug y) = true) := fun ⟨h3, hno⟩ => by simp [hmay h3] at hno
  simp only [State.jCmd, hcmd, Nat.not_le.mpr hlt, hl, hstop, h, if_false]

end

/-! ### JINVR (R255) -/

/-- The invalidation that JINVR starts: the ports that cache or issue in its range are to acknowledge it. -/
def State.newInval (s : State) (c base len : Nat) (asid : BitVec 16) : Inval :=
  let v : Inval := { iid := s.fresh.1, core := c, base := base, len := len, asid := asid, todo := [], active := [], acks := 0 }
  { v with todo := (s.ports.filter fun q => q.2.meets v).map (·.1) }

/-! ### JWAITW (R257) -/

section
variable {rd rs1 rs2 : BitVec 5} {s : State} {c key : Nat} {x : Core} (hres : bitsOf (x.reg rs2.toNat).toNat 62 48 = 0)
  (hal : (x.reg rs1.toNat).toNat % 8 = 0)
  (hkey : s.waitKey c x.asid (x.reg rs1.toNat) (decide (bitsOf (x.reg rs2.toNat).toNat 63 63 = 1)) = some key)
include hres hal hkey

theorem State.jWaitw_of_full (hfull : s.coreWordFull key = true) (hread : bitsOf (x.reg rs2.toNat).toNat 63 63 = 0) :
    s.jWaitw rd rs1 rs2 c x = (s.coreRet c rd.toNat 1#64).wake [] := by
  have hread_key : s.waitKey c x.asid (x.reg rs1.toNat) false = some key := by
    rw [hread] at hkey
    exact hkey
  simp only [State.jWaitw, hres, hal, hread, hread_key, hfull, ne_eq, not_true_eq_false, Nat.zero_ne_one, decide_false,
    Bool.false_eq_true, if_false, if_true]

theorem State.jWaitw_of_taken (hfull : s.coreWordFull key = true) (htake : bitsOf (x.reg rs2.toNat).toNat 63 63 = 1) :
    s.jWaitw rd rs1 rs2 c x = ((s.coreTake key).1.coreRet c rd.toNat 1#64).wake (s.coreTake key).2 := by
  have htake_key : s.waitKey c x.asid (x.reg rs1.toNat) true = some key := by
    rw [htake] at hkey
    exact hkey
  simp only [State.jWaitw, hres, hal, htake, htake_key, hfull, ne_eq, not_true_eq_false, decide_true, if_false, if_true]

theorem State.jWaitw_of_empty (hempty : s.coreWordFull key = false) (hroom : s.barCount (edgeOfKey key) < barDepth) :
    s.jWaitw rd rs1 rs2 c x = ({ s with barq := s.barq ++ [⟨edgeOfKey key, .core c, key⟩] } : State).setCore c
      { x with wait := some (.word rd.toNat (x.reg rs1.toNat) (bitsOf (x.reg rs2.toNat).toNat 47 0)
                 (decide (bitsOf (x.reg rs2.toNat).toNat 63 63 = 1)) (s.cycle (s.coreGlade c))) } := by
  simp only [State.jWaitw, hres, hal, hkey, hempty, Nat.not_le.mpr hroom, ne_eq, not_true_eq_false, Bool.false_eq_true, if_false]
  rfl

end

/-! ### The words of a core in machine or supervisor mode -/

section
variable {rd rs1 rs2 : BitVec 5} {s : State} (hwait : (s.core s.cur.core).wait = none) (hoff : s.coreOff s.cur.core = false)
  (hmode : (s.core s.cur.core).mode ≠ .u)
include hwait hoff hmode

theorem exec_jlaunch_of_record {n : Nat} {t : State}
    (h : s.launchRecord (s.coreGlade s.cur.core) (s.islandOpen s.cur.core) s.cur.core (s.core s.cur.core).asid
      ((s.core s.cur.core).reg rs1.toNat) ((s.core s.cur.core).reg rs2.toNat) = (some n, t)) :
    exec (.jlaunch rd rs1 rs2) s = .next (t.coreRet s.cur.core rd.toNat (BitVec.ofNat 64 n)) := by
  refine (borderDo_of_machine hwait hoff hmode _).trans ?_
  simp only [State.jLaunch, h, Option.map_some, State.coreAnswer]

theorem exec_jquery_of_none (hnone : s.byTicketNo (s.coreGlade s.cur.core) (((s.core s.cur.core).reg rs1.toNat).setWidth 32) = none) :
    exec (.jquery rd rs1 rs2) s = .next (s.coreRet s.cur.core rd.toNat allOnes) := by
  refine (borderDo_of_machine hwait hoff hmode _).trans ?_
  simp only [State.jQuery, hnone]

theorem exec_jquery_of_launch {l : Nat} {y : Launch} {v : W64}
    (hl : s.byTicketNo (s.coreGlade s.cur.core) (((s.core s.cur.core).reg rs1.toNat).setWidth 32) = some (l, y))
    (hv : s.queryValue l y (((s.core s.cur.core).reg rs2.toNat).toNat % 8) = v) :
    exec (.jquery rd rs1 rs2) s = .next (s.coreRet s.cur.core rd.toNat v) := by
  refine (borderDo_of_machine hwait hoff hmode _).trans ?_
  simp only [State.jQuery, hl, hv]

/-- The five JCMD rows are one word. -/
theorem exec_jcmd {i : Instr} (hi : i ∈ [Instr.jcmdKill rd rs1 rs2, .jcmdPre rd rs1 rs2, .jcmdSnap rd rs1 rs2, .jcmdStop rd rs1 rs2,
    .jcmdResume rd rs1 rs2]) {t : State} (h : s.jCmd rd rs1 rs2 s.cur.core (s.core s.cur.core) = t) : exec i s = .next t := by
  rw [← h, ← borderDo_of_machine hwait hoff hmode]
  simp only [List.mem_cons, List.not_mem_nil, or_false] at hi
  rcases hi with rfl | rfl | rfl | rfl | rfl <;> rfl

theorem exec_jinvr_of_bad (h : ((s.core s.cur.core).reg rs1.toNat).toNat % 2 ^ 48 % 2 ^ 16 ≠ 0 ∨
    ((s.core s.cur.core).reg rs2.toNat).toNat / 2 ^ 16 = 0) :
    exec (.jinvr rd rs1 rs2) s = .next (s.coreRet s.cur.core rd.toNat allOnes) := by
  refine (borderDo_of_machine hwait hoff hmode _).trans (congrArg _ ?_)
  exact if_pos h

theorem exec_jinvr_of_range (hbase : ((s.core s.cur.core).reg rs1.toNat).toNat % 2 ^ 48 % 2 ^ 16 = 0)
    (hlen : ((s.core s.cur.core).reg rs2.toNat).toNat / 2 ^ 16 ≠ 0) {v : Inval}
    (hv : s.newInval s.cur.core (((s.core s.cur.core).reg rs1.toNat).toNat % 2 ^ 48)
      (((s.core s.cur.core).reg rs2.toNat).toNat / 2 ^ 16 * 2 ^ 16) (BitVec.ofNat 16 ((s.core s.cur.core).reg rs2.toNat).toNat) = v) :
    exec (.jinvr rd rs1 rs2) s = .next ((({ s.fresh.2 with invals := s.invals ++ [v] } : State).setCore s.cur.core
      { s.core s.cur.core with wait := some (.inval rd.toNat s.fresh.1) }).invalDone s.fresh.1) := by
  subst hv
  refine (borderDo_of_machine hwait hoff hmode _).trans (congrArg _ ?_)
  exact if_neg (not_or.mpr ⟨not_not_intro hbase, hlen⟩)

theorem exec_jctxsave_of_none (hnone : s.byTicketNo (s.coreGlade s.cur.core) (((s.core s.cur.core).reg rs1.toNat).setWidth 32) = none) :
    exec (.jctxsave rd rs1 rs2) s = .next (s.coreRet s.cur.core rd.toNat allOnes) := by
  refine (borderDo_of_machine hwait hoff hmode _).trans ?_
  simp only [State.jCtxsave, hnone]

theorem exec_jctxsave_of_saved {l : Nat} {y : Launch} {v : W64} {t : State}
    (hl : s.byTicketNo (s.coreGlade s.cur.core) (((s.core s.cur.core).reg rs1.toNat).setWidth 32) = some (l, y))
    (hal : ((s.core s.cur.core).reg rs2.toNat).toNat % 4096 = 0)
    (hsave : s.ctxSave (s.core s.cur.core).asid l (((s.core s.cur.core).reg rs2.toNat).toNat % 2 ^ 48) = (some v, t)) :
    exec (.jctxsave rd rs1 rs2) s = .next (t.coreRet s.cur.core rd.toNat v) := by
  refine (borderDo_of_machine hwait hoff hmode _).trans ?_
  simp only [State.jCtxsave, hl, hal, hsave, State.coreAnswer, ne_eq, not_true_eq_false, if_false]

theorem exec_jctxload_of_loaded {n : Nat} {t : State}
    (h : s.ctxLoad s.cur.core (s.coreGlade s.cur.core) (s.core s.cur.core).asid (((s.core s.cur.core).reg rs1.toNat).toNat % 2 ^ 48)
      (((s.core s.cur.core).reg rs2.toNat).toNat % 16) = (some n, t)) :
    exec (.jctxload rd rs1 rs2) s = .next (t.coreRet s.cur.core rd.toNat (BitVec.ofNat 64 n)) := by
  refine (borderDo_of_machine hwait hoff hmode _).trans ?_
  simp only [State.jCtxload, h, Option.map_some, State.coreAnswer]

theorem exec_jwaitw_of_eq {t : State} (h : s.jWaitw rd rs1 rs2 s.cur.core (s.core s.cur.core) = t) :
    exec (.jwaitw rd rs1 rs2) s = .next t :=
  (borderDo_of_machine hwait hoff hmode _).trans (congrArg _ h)

end

/-- Settles O44: the frame that the twelve words share, then each word in machine and supervisor mode, then its core. -/
theorem borderWords : Obligations.BorderWords := by
  refine fun rd rs1 rs2 s => ⟨decide_eq_true_iff, fun hoff i hi => exec_border_of_off hi hoff, fun hwait hoff =>
    ⟨fun hmode => ?user, fun hmode => ?machine⟩, fun n v => ?core⟩
  case user =>
    have htraps := fun i (hi : i ∈ borderWordsOf rd rs1 rs2) => exec_border_of_user hi hwait hoff hmode
    simpa only [borderWordsOf, List.forall_mem_cons, List.not_mem_nil, false_implies, implies_true, and_true] using htraps
  case machine =>
    refine ⟨borderDo_of_machine hwait hoff hmode fun c _ => s.coreRet c rd.toNat 0#64, fun r g hopen ha hb hr hver hg hbind hroom => ?launched, fun hclosed => ?closed,
      fun hnone => ⟨exec_jquery_of_none hwait hoff hmode hnone, exec_jctxsave_of_none hwait hoff hmode hnone, fun hcmd => ?unnamed⟩,
      fun l y hl => ⟨?sel0, ?sel1, ?sel4, fun hopen => ?selOpen, fun hclosed => ?selClosed, fun i hi => ?commands,
        fun v t hal hsave => exec_jctxsave_of_saved hwait hoff hmode hl hal hsave⟩,
      fun n t hload => exec_jctxload_of_loaded hwait hoff hmode hload, exec_jinvr_of_bad hwait hoff hmode,
      fun hbase hlen => exec_jinvr_of_range hwait hoff hmode hbase hlen rfl,
      fun hres hal key hkey => ⟨fun hfull => ⟨fun hread => ?read, fun htake => ?take⟩, fun hempty hroom => ?empty⟩⟩
    case launched =>
      exact exec_jlaunch_of_record hwait hoff hmode (by rw [hopen]; exact State.launchRecord_of_ok ha hb hr hver hg hbind hroom)
    case closed => exact exec_jlaunch_of_record hwait hoff hmode (by rw [hclosed]; exact State.launchRecord_of_closed ..)
    case unnamed => exact exec_jcmd hwait hoff hmode List.mem_cons_self (State.jCmd_of_no_launch hcmd hnone)
    case sel0 => exact fun hb => exec_jquery_of_launch hwait hoff hmode hl (by rw [hb]; exact State.queryValue_state)
    case sel1 => exact fun hb => exec_jquery_of_launch hwait hoff hmode hl (by rw [hb]; exact State.queryValue_used)
    case sel4 => exact fun hb => exec_jquery_of_launch hwait hoff hmode hl (by rw [hb]; exact State.queryValue_held)
    case selOpen =>
      obtain ⟨h2, h3, h5⟩ := State.queryValue_of_open (l := l) hopen
      exact ⟨fun hb => exec_jquery_of_launch hwait hoff hmode hl (by rw [hb]; exact h2),
        fun hb => exec_jquery_of_launch hwait hoff hmode hl (by rw [hb]; exact h3),
        fun hb => exec_jquery_of_launch hwait hoff hmode hl (by rw [hb]; exact h5)⟩
    case selClosed => exact exec_jquery_of_launch hwait hoff hmode hl (State.queryValue_of_closed hclosed)
    case commands =>
      have hcmd {cmd : Nat} {t : State} (hb : ((s.core s.cur.core).reg rs2.toNat).toNat = cmd) (hlt : cmd < 5)
          (hmay : cmd = 3 → s.mayDebug y = true) (h : s.command l y cmd s.cur.core = (0, t)) :
          exec i s = .next (t.coreRet s.cur.core rd.toNat 0#64) :=
        exec_jcmd hwait hoff hmode hi (State.jCmd_of_command hl hb hlt hmay h)
      exact ⟨fun hb hst => hcmd hb (by decide) nofun (State.command_kill _ hst),
        fun hb hcut => hcmd hb (by decide) nofun (State.command_pre _ hcut),
        fun hb hcut => hcmd hb (by decide) nofun (State.command_snap _ hcut),
        fun hb hcut hgoes hmay => hcmd hb (by decide) (fun _ => hmay) (State.command_stop _ hcut hgoes),
        fun hb hstop => hcmd hb (by decide) nofun (State.command_resume _ hstop),
        fun hb => exec_jcmd hwait hoff hmode hi (State.jCmd_of_unknown hb)⟩
    case read => exact exec_jwaitw_of_eq hwait hoff hmode (State.jWaitw_of_full hres hal hkey hfull hread)
    case take => exact exec_jwaitw_of_eq hwait hoff hmode (State.jWaitw_of_taken hres hal hkey hfull htake)
    case empty => exact exec_jwaitw_of_eq hwait hoff hmode (State.jWaitw_of_empty hres hal hkey hempty hroom)
  case core =>
    intro t
    have hcore : t.core s.cur.core = _ := s.core_coreRet s.cur.core n v
    rw [hcore]
    exact ⟨rfl, fun k hk => Core.reg_setReg_other _ v hk, fun hn => Core.reg_setReg_same _ v hn, Core.reg_zero _,
      fun k hk => s.core_setCore_other _ hk, rfl, rfl⟩

end Sys2Proof.Machine

/-!
PROOF. Calls, slices and budgets of a border core, and the ends of its waits (11 R257, 18 R312, 20 R329). The order of the
rings and what a core keeps of a tenant's code are assumption 46, how and when an interrupt is taken assumptions 8 and 33.
-/
namespace Sys2Proof.Machine

theorem exec_callAnswer (s : State) : exec .callAnswer s = .next (s.callAnswer s.cur.core) := rfl
theorem exec_budgetTimer (s : State) : exec .budgetTimer s = .next (s.budgetTimer s.cur.core) := rfl
theorem exec_tenantBudgetPeriod (s : State) : exec .tenantBudgetPeriod s = .next (s.budgetRenew s.cur.core) := rfl
theorem exec_jwaitwTimeout (s : State) : exec .jwaitwTimeout s = .next (s.waitTimeout s.cur.core) := rfl
theorem exec_interruptTaken (s : State) : exec .interruptTaken s = .next (s.interrupt s.cur.core s.cur.val) := rfl

/-! ### Calls (R312, R329) -/

theorem State.ringAnswer_of_cons {s : State} {pl : PlaneId} {e : CallEntry} {t : List CallEntry} (h : (s.plane pl).ring = e :: t)
    (v : W64) :
    s.ringAnswer pl v = (s.setPlane pl { s.plane pl with ring := t }).respond pl e.ch (.data ⟨.scalar, [v], .u64, 1#64⟩) := by
  simp only [State.ringAnswer, h]

/-- A core takes up the turn of a ring. -/
def State.turnTo (s : State) (c q : Nat) : Core :=
  { s.core c with turn := q, served := if s.keepsTurn c then (s.core c).served + 1 else 1 }

/-- A core calls a routine, with the call's argument and number and the caller's ticket; the routine returns to where the core
stood. -/
def Core.call (k : Core) (pl : PlaneId) (e : CallEntry) (ticket routine : W64) : Core :=
  { (((k.setReg 1 k.pc).setReg 10 e.arg).setReg 11 (BitVec.ofNat 64 e.n)).setReg 12 ticket with
    serving := some (pl, k.pc), pc := routine }

/-- The ticket of the launch on a plane. -/
def State.callerTicket (s : State) (pl : PlaneId) : W64 := (((s.plane pl).launch.bind s.launch?).elim 0#32 (·.ticket)).setWidth 64

section
variable {s : State} {c q : Nat} {e : CallEntry} {t : List CallEntry} (hring : s.nextRing c = some q)
  (hcalls : (s.plane (planeOfKey q)).ring = e :: t)
include hring hcalls

theorem State.callRoutine_of_unserved (hsvc : Store.getD (s.core c).svc e.n 0#64 = 0#64) :
    s.callRoutine c = (((s.setCore c (s.turnTo c q)).setPlane (planeOfKey q) { s.plane (planeOfKey q) with ring := t }).respond
      (planeOfKey q) e.ch (.data ⟨.scalar, [allOnes], .u64, 1#64⟩)) := by
  simp only [State.callRoutine, hring, hcalls, hsvc, if_true]
  exact State.ringAnswer_of_cons (s := s.setCore c (s.turnTo c q)) hcalls allOnes

theorem State.callRoutine_of_served (hsvc : Store.getD (s.core c).svc e.n 0#64 ≠ 0#64) :
    s.callRoutine c = s.setCore c ((s.turnTo c q).call (planeOfKey q) e (s.callerTicket (planeOfKey q))
      (Store.getD (s.core c).svc e.n 0#64)) := by
  simp only [State.callRoutine, hring, hcalls, hsvc, if_false]
  rfl

end

section
variable {s : State} {c : Nat} (hwait : (s.core c).wait = none) (hbudget : (s.core c).isSpent (s.core c).slice = false)
  (hon : s.coreOff c = false)
include hwait hbudget hon

theorem State.may_serve : ¬((s.core c).wait.isSome || (s.core c).isSpent (s.core c).slice || s.coreOff c) = true := by
  simp only [hwait, hbudget, hon, Option.isSome_none, Bool.or_self, Bool.false_eq_true, not_false_eq_true]

/-- A core that runs no routine takes the next call. -/
theorem State.callAnswer_of_idle (hidle : (s.core c).serving = none) : s.callAnswer c = s.callRoutine c := by
  refine (if_neg (State.may_serve hwait hbudget hon)).trans ?_
  simp only [hidle]

theorem State.callAnswer_of_running {pl : PlaneId} {ret : W64} (hserving : (s.core c).serving = some (pl, ret))
    (hpc : (s.core c).pc ≠ ret) : s.callAnswer c = s := by
  refine (if_neg (State.may_serve hwait hbudget hon)).trans ?_
  simp only [hserving]
  exact if_pos hpc

/-- A routine that has returned left its answer in a0. -/
theorem State.callAnswer_of_returned {pl : PlaneId} {ret : W64} {e : CallEntry} {t : List CallEntry}
    (hserving : (s.core c).serving = some (pl, ret)) (hpc : (s.core c).pc = ret) (hcalls : (s.plane pl).ring = e :: t) :
    s.callAnswer c = ((s.setCore c { s.core c with serving := none }).setPlane pl { s.plane pl with ring := t }).respond pl e.ch
      (.data ⟨.scalar, [(s.core c).reg 10], .u64, 1#64⟩) := by
  refine (if_neg (State.may_serve hwait hbudget hon)).trans ?_
  simp only [hserving]
  exact (if_neg (not_not_intro hpc)).trans (State.ringAnswer_of_cons (s := s.setCore c { s.core c with serving := none }) hcalls _)

end

/-! ### Waits for a word (R257) -/

/-- A core whose wait for a word has ended with a result. -/
def State.waitEnded (s : State) (c rd : Nat) (v : W64) : State :=
  ({ s with barq := s.barq.filter fun e => decide (e.owner ≠ .core c) } : State).setCore c
    { (s.core c).setReg rd v with wait := none, pc := (s.core c).pc + 4#64 }

section
variable {s : State} {c rd bound : Nat} {va since : W64} {take : Bool}
  (hwait : (s.core c).wait = some (.word rd va bound take since))
include hwait

theorem State.endWait_of_word (v : W64) : s.endWait c v = s.waitEnded c rd v := by
  simp only [State.endWait, hwait]
  rfl

theorem State.waitTimeout_of_late (hbound : bound ≠ 0) (hlate : bound ≤ (s.cycle (s.coreGlade c) - since).toNat) :
    s.waitTimeout c = s.waitEnded c rd 0#64 := by
  simp only [State.waitTimeout, hwait, hbound, hlate, ne_eq, not_false_eq_true, and_self, if_true, State.endWait_of_word hwait]

theorem State.interrupt_of_word (cause : W64) : s.interrupt c cause = (s.waitEnded c rd 2#64).coreTrap c cause 0#64 := by
  simp only [State.interrupt, hwait, State.endWait_of_word hwait]

theorem State.switchCore_of_word {n : Nat} (hn : n ≠ (s.core c).slice) :
    s.switchCore c n = (s.waitEnded c rd 2#64).setCore c
      (({ (s.core c).setReg rd 2#64 with wait := none, pc := (s.core c).pc + 4#64 } : Core).switch n) := by
  simp only [State.switchCore, Ne.symm hn, hwait, State.endWait_of_word hwait, State.waitEnded, State.core_setCore, if_false]

end

/-! ### Slices and budgets (R312) -/

theorem State.switchCore_same (s : State) (c : Nat) : s.switchCore c (s.core c).slice = s := if_pos rfl

theorem State.switchCore_of_running {s : State} {c n : Nat} (hn : n ≠ (s.core c).slice) (hwait : (s.core c).wait = none) :
    s.switchCore c n = s.setCore c ((s.core c).switch n) := by
  simp only [State.switchCore, Ne.symm hn, hwait, if_false]

/-- The tenant that a core runs next: the next with budget and a call, or the operator. -/
def State.nextTenant (s : State) (c : Nat) : Nat :=
  (nextAround (s.core c).slice ((s.callers c).filter fun t => !(s.core c).isSpent t && s.hasCall c t)).getD 0

theorem State.budgetTimer_of_done {s : State} {c : Nat}
    (h : (s.core c).isSpent (s.core c).slice = true ∨ s.hasCall c (s.core c).slice = false) :
    s.budgetTimer c = s.switchCore c (s.nextTenant c) :=
  if_pos (h.imp_right fun h => by rw [h]; rfl)

theorem State.budgetTimer_of_serving {s : State} {c : Nat} (hbudget : (s.core c).isSpent (s.core c).slice = false)
    (hcall : s.hasCall c (s.core c).slice = true) : s.budgetTimer c = s := by
  simp only [State.budgetTimer, hbudget, hcall, Bool.false_eq_true, Bool.not_true, or_self, if_false]

/-- What a core keeps of the tenant it leaves, and what it takes up again of the next. -/
theorem Core.switch_eq (k : Core) (n : Nat) :
    (k.switch n).slice = n ∧
    Store.get? (k.switch n).others k.slice = some { x := k.x, pc := k.pc, mode := k.mode, asid := k.asid, serving := k.serving } ∧
    (∀ r, Store.get? k.others n = some r → (k.switch n).x = r.x ∧ (k.switch n).pc = r.pc ∧ (k.switch n).mode = r.mode ∧
      (k.switch n).asid = r.asid ∧ (k.switch n).serving = r.serving) ∧
    (Store.get? k.others n = none → (k.switch n).serving = none) := by
  unfold Core.switch
  dsimp only
  cases hn : Store.get? k.others n with
  | none => exact ⟨rfl, Store.get?_set_same .., nofun, fun _ => rfl⟩
  | some r =>
    refine ⟨rfl, Store.get?_set_same .., fun q hq => ?_, nofun⟩
    cases hq
    exact ⟨rfl, rfl, rfl, rfl, rfl⟩

/-- Settles O45: calls, the switch between tenants, budgets, and the ends of a wait. -/
theorem borderServices : Obligations.BorderServices := by
  refine fun s => ⟨fun hwait hbudget hon => ⟨fun pl ret e t hserving hpc hcalls => ?returned, fun pl ret hserving hpc => ?running,
      fun q e t hidle hring hcalls => ⟨fun hsvc => ?unserved, fun hsvc => ?served⟩⟩,
    fun hdone => ⟨fun hn => ?stays, fun hn hwait => ?switches⟩, (s.core s.cur.core).switch_eq, fun hbudget hcall => ?serving,
    fun hperiod => congrArg _ (if_neg hperiod), fun rd va bound take since hwait => ?wait⟩
  case returned => exact congrArg _ (State.callAnswer_of_returned hwait hbudget hon hserving hpc hcalls)
  case running => exact congrArg _ (State.callAnswer_of_running hwait hbudget hon hserving hpc)
  case unserved =>
    exact congrArg _ ((State.callAnswer_of_idle hwait hbudget hon hidle).trans (State.callRoutine_of_unserved hring hcalls hsvc))
  case served =>
    exact congrArg _ ((State.callAnswer_of_idle hwait hbudget hon hidle).trans (State.callRoutine_of_served hring hcalls hsvc))
  case stays =>
    have hsame : s.nextTenant s.cur.core = (s.core s.cur.core).slice := hn
    rw [exec_budgetTimer, State.budgetTimer_of_done hdone, hsame, State.switchCore_same]
  case switches =>
    exact congrArg _ ((State.budgetTimer_of_done hdone).trans (State.switchCore_of_running hn hwait))
  case serving => exact congrArg _ (State.budgetTimer_of_serving hbudget hcall)
  case wait =>
    exact ⟨fun n hn => State.switchCore_of_word hwait hn,
      fun hbound hlate => congrArg _ (State.waitTimeout_of_late hwait hbound hlate),
      congrArg _ (State.interrupt_of_word hwait s.cur.val)⟩

end Sys2Proof.Machine

/-!
PROOF. A host read that meets a corrected error (22 R349, R351; 23 R374, R375): the model takes the bytes before it deals with the
error, the statement after. Dealing with it can mark the frame and tell its tenant, and the notice word's line is then folded.
-/
namespace Sys2Proof.Machine

theorem exec_plainApertureRead (s : State) : exec .plainApertureRead s = .next (s.hostAccess (s.cur.hostAcc .plainRead)) := rfl

/-- The bytes of a read that meets a corrected error are those that stand before the error is dealt with. -/
theorem exec_plainApertureRead_of_corrected {s t : State} {key : Nat} {imm : Bool} (hidle : ∀ b ∈ s.host.held, b.who ≠ s.cur.rid)
    (hk : 0 < s.cur.k ∧ s.cur.k ≤ 64 ∧ s.cur.n % 64 + s.cur.k ≤ 64 ∧ s.cur.n < 2 ^ 38)
    (hx : s.hostXlate (s.hostWin s.cur.n).1 (s.hostWin s.cur.n).2 false = (.ok key imm, t)) (hbad : s.cur.flag2 = false)
    (hcorr : s.cur.flag = true) :
    exec .plainApertureRead s = .next ((t.readError key false).hostAnswer (.data (t.view committedObs key s.cur.k))) := by
  have hfree : (s.host.held.any fun b => decide (b.who = (s.cur.hostAcc .plainRead).who)) = false :=
    List.any_eq_false.mpr fun b hb hwho => hidle b hb (of_decide_eq_true hwho)
  have hfits : ¬(s.cur.k = 0 ∨ 64 < s.cur.k ∨ 64 < s.cur.n % 64 + s.cur.k ∨ 2 ^ 38 ≤ s.cur.n) := by omega
  have hread : s.hostDo (s.cur.hostAcc .plainRead) =
      some ((t.readError key false).hostAnswer (.data (t.view committedObs key s.cur.k))) := by
    refine (if_neg hfits).trans ?_
    simp only [State.hostWin] at hx
    simp only [Ctx.hostAcc, hx, hbad, hcorr, Bool.false_eq_true, if_false, if_true]
  rw [exec_plainApertureRead, State.hostAccess, hfree, hread]
  rfl

/-- The operator's frame 4 has met 15 corrected errors, and the operator's notice word is the second word of address 0x40000's
line. An addition of 1 to the first word has been committed and not yet folded. The host reads the low half of the first word and
meets a corrected error. -/
def corrected16 : State :=
  { State.reset with
    asids := [(1, ⟨0x100000, 0⟩)]
    mem := Memory.writeBytes (Memory.writeBytes [] 0x100000 (toLE 8 0x101001)) 0x101000 (toLE 8 0xF)
    frames := [(4, { st := .owned, ce := List.replicate 15 0#64 })]
    under := [{ glade := 0, lid := 0, ver := 0#16, cut := 0, committed := true, va := 0x40000, eff := .delta .add true 0x40000 1#64 }]
    fo := { State.reset.fo with st := .up, tenants := [(0, { noticeWord := some (1#16, 0x40008#64) })] }
    host := { wins := [(0, BitVec.ofNat 64 (2 ^ 48 + 7))] }
    cur := { n := 0x40000, k := 4, flag := true } }

/-- The state once the read has been translated. -/
def translated16 : State := (corrected16.hostXlate (corrected16.hostWin 0x40000).1 (corrected16.hostWin 0x40000).2 false).2

theorem hostXlate_corrected16 :
    corrected16.hostXlate (corrected16.hostWin 0x40000).1 (corrected16.hostWin 0x40000).2 false = (.ok 0x40000 true, translated16) :=
  Prod.ext (by decide +kernel) rfl

/-- A read of half a word does not see an addition to the whole of it that has not been folded. -/
theorem view_before_error : translated16.view committedObs 0x40000 4 = [0#8, 0#8, 0#8, 0#8] := by decide +kernel

/-- The 16th corrected error marks the frame; filling the notice word folds its line. -/
theorem view_after_error : (translated16.readError 0x40000 false).view committedObs 0x40000 4 = [1#8, 0#8, 0#8, 0#8] := by
  decide +kernel

/-- Refutes O48: a host read answers the bytes as they stand before the corrected error that it meets is dealt with, not after. -/
theorem not_hostAndLinkSteps : ¬ Obligations.HostAndLinkSteps := by
  rintro ⟨hhost, -⟩
  obtain ⟨-, haccesses, -⟩ := hhost corrected16 translated16 0x40000 true
  obtain ⟨-, hread, -⟩ := haccesses nofun
  obtain ⟨hclaim, -⟩ := hread (by decide) hostXlate_corrected16 rfl
  have hruns := exec_plainApertureRead_of_corrected (s := corrected16) nofun (by decide) hostXlate_corrected16 rfl rfl
  have hstates := Host.Outcome.next.inj (hruns.symm.trans hclaim)
  have hanswers : some (HostAns.data (translated16.view committedObs 0x40000 4)) =
      some (.data ((translated16.readError 0x40000 false).view committedObs 0x40000 4)) := congrArg (·.host.answer) hstates
  rw [view_before_error, view_after_error] at hanswers
  exact absurd hanswers (by decide)

end Sys2Proof.Machine

/-!
PROOF. Management commands: what is refused, and the effect of each command (23 R363 to R366, R368, R369, R372, R374; 18 R310, R312;
22 R353, R360). Sessions and unknown CODEs are assumption 12, a layout that would cut a glade in two assumption 25.
-/
namespace Sys2Proof.Machine

/-! ### The answer to a command (R363, R364) -/

/-- The state with the answer to a message. -/
def State.told (s : State) (r : MgmtReq) (code status : Nat) (ws : List W64) : State :=
  { s with fo := { s.fo with answer := some (mgmtHeader code r status :: ws) } }

theorem State.operatorSession_iff (s : State) (r : MgmtReq) :
    s.operatorSession r = true ↔ r.authenticated = true ∧ s.fo.cert ≠ none ∧ s.fo.spdm = .session ∧ s.fo.peer = 0 := by
  simp only [State.operatorSession, Bool.and_eq_true, decide_eq_true_eq, Option.isSome_iff_ne_none, and_assoc]

theorem MgmtReq.unknown_of_code {r : MgmtReq} {c : Byte} (hc : r.code = some c) (h : c = 0#8 ∨ 0x0F < c.toNat) :
    r.unknown = some c.toNat := by
  have hnone : c.toNat = 0 ∨ 0x0F < c.toNat := h.imp_left fun h => by rw [h]; rfl
  simp only [MgmtReq.unknown, hc, Option.map_some, Option.filter_some, hnone, decide_true, if_true]

section
variable {code : Nat} {fits : Nat → Bool} {s : State} {run : List Nat → State → MRes} (hup : s.fo.st = .up)
include hup

theorem mgmt_of_no_session (hknown : s.cur.mreq.unknown = none) (hsession : s.operatorSession s.cur.mreq = false) :
    mgmt code fits s run = .next (s.told s.cur.mreq code 3 []) := by
  simp [mgmt, State.told, hup, hknown, hsession]

variable (hsession : s.operatorSession s.cur.mreq = true)
include hsession

theorem mgmt_of_version (hknown : s.cur.mreq.unknown = none) (hver : s.cur.mreq.mver ≠ 1#4) :
    mgmt code fits s run = .next (s.told s.cur.mreq code 4 []) := by
  simp [mgmt, State.told, hup, hknown, hsession, hver]

variable (hver : s.cur.mreq.mver = 1#4)
include hver

/-- A CODE that names no command, or a length that does not fit. -/
theorem mgmt_of_malformed (h : s.cur.mreq.unknown.isSome = true ∨ s.cur.mreq.len ≠ 8 * s.cur.mreq.args.length ∨
    fits s.cur.mreq.args.length = false) :
    mgmt code fits s run = .next (s.told s.cur.mreq (s.cur.mreq.unknown.getD code) 5 []) := by
  have hbad : s.cur.mreq.unknown.isSome = true ∨ s.cur.mreq.len ≠ 8 * s.cur.mreq.args.length ∨
      (!fits s.cur.mreq.args.length) = true := h.imp_right (·.imp_right fun h => by rw [h]; rfl)
  simp only [mgmt, hsession, Bool.not_true, Bool.false_eq_true, if_false, if_neg (not_not_intro hup), if_neg (not_not_intro hver),
    if_pos hbad]
  simp [State.told, hup]

variable (hknown : s.cur.mreq.unknown = none) (hlen : s.cur.mreq.len = 8 * s.cur.mreq.args.length)
  (hfits : fits s.cur.mreq.args.length = true)
include hknown hlen hfits

theorem mgmt_of_reserved (hres : s.cur.mreq.reserved ≠ 0#64) :
    mgmt code fits s run = .next (s.told s.cur.mreq code 2 []) := by
  simp [mgmt, State.told, hup, hsession, hver, hknown, hlen, hfits, hres]

variable (hres : s.cur.mreq.reserved = 0#64)
include hres

/-- A command that is refused changes nothing. -/
theorem mgmt_of_refused {n : Nat} (hrun : run (s.cur.mreq.args.map BitVec.toNat) s = mErr s n) (hn : n ≠ 0) :
    mgmt code fits s run = .next (s.told s.cur.mreq code n []) := by
  simp [mgmt, State.told, hup, hsession, hver, hknown, hlen, hfits, hres, hrun, mErr, hn]

/-- A command that is served answers OK with its effect. -/
theorem mgmt_of_served {t : State} {ws : List W64} (hrun : run (s.cur.mreq.args.map BitVec.toNat) s = mOkay t ws)
    (ht : t.fo.st = .up) : mgmt code fits s run = .next (t.told s.cur.mreq code 0 ws) := by
  simp [mgmt, State.told, hup, hsession, hver, hknown, hlen, hfits, hres, hrun, mOkay, ht]

end

/-! ### The commands (R364) -/

/-- Each command with its CODE and the argument counts that fit it. -/
def mgmtCommands : List (Instr × Nat × (Nat → Bool)) :=
  [(.layout, 1, fun n => decide (n ≠ 0)), (.layoutRead, 2, fun n => decide (n = 0)), (.power, 3, fun n => decide (n = 2)),
    (.frameTable, 4, fun n => decide (n = 16)), (.gladeParams, 5, fun n => decide (n = 6)),
    (.tenant, 6, fun n => decide (n = 3 ∨ n = 10)), (.gladeAssign, 7, fun n => decide (n = 2)),
    (.svcBudget, 8, fun n => decide (n = 3)), (.l2Quota, 9, fun n => decide (n = 2)), (.twin, 10, fun n => decide (n = 3)),
    (.peerRoute, 11, fun n => decide (n = 2)), (.svnRaise, 12, fun n => decide (n = 1)), (.rasRead, 13, fun n => decide (n = 1)),
    (.rasClear, 14, fun n => decide (n = 1)), (.gladeCounters, 15, fun n => decide (n = 1))]

theorem exec_layout (s : State) : exec .layout s = mgmt 1 (fun n => decide (n ≠ 0)) s
    fun as s => s.layout as (if s.cur.flag then some s.cur.k else none) s.cur.flag2 := rfl
theorem exec_layoutRead (s : State) : exec .layoutRead s = mgmt 2 (fun n => decide (n = 0)) s fun _ s => s.layoutRead := rfl
theorem exec_power (s : State) : exec .power s = mgmt 3 (fun n => decide (n = 2)) s fun as s => s.power (argAt as 0) (argAt as 1) := rfl
theorem exec_frameTable (s : State) : exec .frameTable s = mgmt 4 (fun n => decide (n = 16)) s fun as s => s.frameTable as := rfl
theorem exec_gladeParams (s : State) : exec .gladeParams s = mgmt 5 (fun n => decide (n = 6)) s
    fun as s => s.gladeParams (argAt as 0) (argAt as 1) (argAt as 2) (argAt as 3) (argAt as 4) (argAt as 5) := rfl
theorem exec_tenant (s : State) : exec .tenant s = mgmt 6 (fun n => decide (n = 3 ∨ n = 10)) s fun as s =>
    s.tenantSet (argAt as 0) (argAt as 1) (argAt as 2) ((as.drop 3).map (BitVec.ofNat 64)) := by
  simp only [Bool.decide_or]
  rfl
theorem exec_gladeAssign (s : State) : exec .gladeAssign s = mgmt 7 (fun n => decide (n = 2)) s
    fun as s => s.gladeAssign (argAt as 0) (argAt as 1) := rfl
theorem exec_svcBudget (s : State) : exec .svcBudget s = mgmt 8 (fun n => decide (n = 3)) s
    fun as s => s.svcBudget (argAt as 0) (argAt as 1) (argAt as 2) := rfl
theorem exec_l2Quota (s : State) : exec .l2Quota s = mgmt 9 (fun n => decide (n = 2)) s fun as s => s.l2Quota (argAt as 0) (argAt as 1) := rfl
theorem exec_twin (s : State) : exec .twin s = mgmt 10 (fun n => decide (n = 3)) s
    fun as s => s.twinSet (argAt as 0) (argAt as 1) (argAt as 2) := rfl
theorem exec_peerRoute (s : State) : exec .peerRoute s = mgmt 11 (fun n => decide (n = 2)) s
    fun as s => s.peerRoute (argAt as 0) (argAt as 1) := rfl
theorem exec_svnRaise (s : State) : exec .svnRaise s = mgmt 12 (fun n => decide (n = 1)) s fun as s => s.svnRaise (argAt as 0) := rfl
theorem exec_rasRead (s : State) : exec .rasRead s = mgmt 13 (fun n => decide (n = 1)) s fun as s => s.rasRead (argAt as 0) := rfl
theorem exec_rasClear (s : State) : exec .rasClear s = mgmt 14 (fun n => decide (n = 1)) s fun as s => s.rasClear (argAt as 0) := rfl
theorem exec_gladeCounters (s : State) : exec .gladeCounters s = mgmt 15 (fun n => decide (n = 1)) s fun as s => s.gladeCounters (argAt as 0) := rfl

/-- Each command is served in the shared frame. -/
theorem exec_mgmtCommand {q : Instr × Nat × (Nat → Bool)} (hq : q ∈ mgmtCommands) (s : State) :
    ∃ run, exec q.1 s = mgmt q.2.1 q.2.2 s run := by
  simp only [mgmtCommands, List.mem_cons, List.not_mem_nil, or_false] at hq
  rcases hq with rfl | rfl | rfl | rfl | rfl | rfl | rfl | rfl | rfl | rfl | rfl | rfl | rfl | rfl | rfl
  · exact ⟨_, exec_layout s⟩
  · exact ⟨_, exec_layoutRead s⟩
  · exact ⟨_, exec_power s⟩
  · exact ⟨_, exec_frameTable s⟩
  · exact ⟨_, exec_gladeParams s⟩
  · exact ⟨_, exec_tenant s⟩
  · exact ⟨_, exec_gladeAssign s⟩
  · exact ⟨_, exec_svcBudget s⟩
  · exact ⟨_, exec_l2Quota s⟩
  · exact ⟨_, exec_twin s⟩
  · exact ⟨_, exec_peerRoute s⟩
  · exact ⟨_, exec_svnRaise s⟩
  · exact ⟨_, exec_rasRead s⟩
  · exact ⟨_, exec_rasClear s⟩
  · exact ⟨_, exec_gladeCounters s⟩

/-! ### Layouts (R366) -/

/-- A request that names one island of a glade but not another is out of range (assumption 25). -/
theorem State.layoutRange_of_cut {s : State} {ws : List Nat} {i j : Nat} (hj : j < 24) (hi_active : (s.island i).st = .active)
    (hj_active : (s.island j).st = .active) (hsame : (s.island i).first = (s.island j).first) (hi : ∃ w ∈ ws, i ∈ wordIslands w)
    (hcut : ∀ w ∈ ws, j ∉ wordIslands w) : s.layoutRange ws = false := by
  have hi_named : i ∈ (ws.map wordIslands).flatten := by
    obtain ⟨w, hw, hiw⟩ := hi
    exact List.mem_flatten.mpr ⟨wordIslands w, List.mem_map_of_mem hw, hiw⟩
  have hj_absent : ((ws.map wordIslands).flatten).contains j = false := by simpa using hcut
  have hglade : ¬(((ws.map wordIslands).flatten.all fun i => (List.range islands).all fun j =>
      decide ((s.island i).st ≠ .active) || decide ((s.island j).st ≠ .active) ||
        decide ((s.island i).first ≠ (s.island j).first) || (ws.map wordIslands).flatten.contains j) = true) := by
    intro h
    have hij := List.all_eq_true.mp (List.all_eq_true.mp h i hi_named) j (List.mem_range.mpr hj)
    simp only [hi_active, hj_active, hsame, hj_absent, ne_eq, not_true_eq_false, decide_false, Bool.or_self,
      Bool.false_eq_true] at hij
  exact Bool.eq_false_iff.mpr fun h => hglade ((Bool.and_eq_true _ _).mp h).2

section
variable {s : State} {ws : List Nat} (torn : Bool)

theorem State.layout_of_cut (strike : Option Nat) (h : s.layoutRange ws = false) : s.layout ws strike torn = mErr s 2 := by
  simp only [State.layout, h, Bool.not_false, if_true]

variable (hrange : s.layoutRange ws = true) (hpending : s.pending = false)
include hrange hpending

/-- A layout that changes no glade. -/
theorem State.layout_of_same (strike : Option Nat) (hsame : s.changes ws (s.fo.lastSeq + 1) = []) :
    s.layout ws strike torn = mOkay s := by
  simp only [State.layout, hrange, hpending, hsame, Bool.not_true, List.any_nil, List.isEmpty_nil, Bool.false_eq_true, if_false,
    if_true]

/-- The islands of a layout's records are PENDING, and its records with their COMMIT stand in the journal. -/
def State.journalled (s : State) (ps : List JRec) : State :=
  let t := ps.foldl (fun s r => s.setIsland r.island { s.island r.island with st := .pending }) s
  { t with fo := { t.fo with
      journal := t.fo.journal ++ (ps ++ [{ commit := true, seq := s.fo.lastSeq + 1, nprep := ps.length - 1 }]),
      lastSeq := s.fo.lastSeq + 1 } }

/-- A layout of idle glades is journalled and applied. -/
theorem State.layout_of_changes {ps : List JRec} (hps : s.changes ws (s.fo.lastSeq + 1) = ps) (hsome : ps ≠ [])
    (hidle : ∀ p ∈ ps, (s.island p.island).st ≠ .active ∨ s.gladeIdle (s.island p.island).first = true) :
    s.layout ws none torn = mOkay ((s.journalled ps).applyLayout ps) := by
  have hfree : (ps.any fun r => !(decide ((s.island r.island).st ≠ .active) || s.gladeIdle (s.island r.island).first)) = false :=
    List.any_eq_false.mpr fun p hp => (hidle p hp).elim (fun h => by simp [h]) (fun h => by simp [h])
  have hne : ps.isEmpty = false := List.isEmpty_eq_false_iff.mpr hsome
  simp only [State.layout, hrange, hpending, hps, hfree, hne, Bool.not_true, Bool.false_eq_true, if_false]
  rfl

end

/-! ### The other commands -/

section
variable {s : State}

theorem State.power_of_ok {i v : Nat} (hi : i < 24) (hcap : 80 ≤ bitsOf v 9 0) (hcap' : bitsOf v 9 0 ≤ 360)
    (hmin : 8 ≤ bitsOf v 14 10) (hmin' : bitsOf v 14 10 ≤ 16) (hrest : bitsOf v 63 21 = 0) (hst : (s.island i).st ≠ .pending)
    (hsum : (List.range 24).foldl (fun n j =>
      if (s.island j).st = .disabled then n else n + (if j = i then bitsOf v 9 0 else (s.island j).capw)) 0 ≤ 6288)
    {fc : Nat} (hfc : max (bitsOf v 14 10) (s.island i).fcur = fc) :
    s.power i v = mOkay (s.setIsland i { s.island i with
      capw := bitsOf v 9 0, fmin := bitsOf v 14 10, fcur := fc,
      thr := decide (fc = bitsOf v 14 10) && decide (bitsOf v 9 0 < (s.island i).avg) }) := by
  subst hfc
  have hfields : ¬(islands ≤ i ∨ bitsOf v 9 0 < 80 ∨ 360 < bitsOf v 9 0 ∨ bitsOf v 14 10 < 8 ∨ 16 < bitsOf v 14 10 ∨
      bitsOf v 63 21 ≠ 0) := by
    unfold islands
    omega
  refine (if_neg hfields).trans ((if_neg hst).trans ((if_neg (Nat.not_lt.mpr hsum)).trans ?_))
  rfl

theorem State.frameTable_of_ok {es : List Nat} (hsmall : ∀ e ∈ es, e < 2 ^ 20)
    (hsum : ∀ e ∈ es.map fun e => BitVec.ofNat 32 e, tabWeight e 0 + tabWeight e 1 + tabWeight e 2 + tabWeight e 3 = 16)
    (hsome : ∀ p < 4, ∃ e ∈ es.map fun e => BitVec.ofNat 32 e, tabWeight e p ≠ 0) :
    s.frameTable es = mOkay { s with fo := { s.fo with pendTable := some (es.map fun e => BitVec.ofNat 32 e) } } := by
  have hbits : (es.any fun e => decide (2 ^ 20 ≤ e)) = false :=
    List.any_eq_false.mpr fun e he => by simpa using hsmall e he
  have hsums : ((es.map fun e => BitVec.ofNat 32 e).any fun e =>
      decide (tabWeight e 0 + tabWeight e 1 + tabWeight e 2 + tabWeight e 3 ≠ 16)) = false :=
    List.any_eq_false.mpr fun e he => by simpa using hsum e he
  have hplanes : ((List.range 4).any fun p => (es.map fun e => BitVec.ofNat 32 e).all fun e => decide (tabWeight e p = 0)) = false :=
    List.any_eq_false.mpr fun p hp hall => by
      obtain ⟨e, he, hne⟩ := hsome p (List.mem_range.mp hp)
      exact hne (of_decide_eq_true (List.all_eq_true.mp hall e he))
  simp only [State.frameTable, hbits, hsums, hplanes, Bool.or_self, Bool.false_eq_true, if_false]

/-- A glade whose columns may be set anew. -/
theorem State.gladeFree {gl : Nat} (hidle : s.gladeIdle gl = true) (hst : (s.island gl).st ≠ .pending) :
    (!s.gladeIdle gl || decide ((s.island gl).st = .pending)) = false := by
  simp only [hidle, hst, Bool.not_true, decide_false, Bool.or_self]

theorem State.gladeParams_of_ok {gl pool spill park quick share : Nat} {g : Glade} (hg : s.glade? gl = some g) (hpool : 12 ≤ pool)
    (hpool' : pool ≤ 20) (hspill : 64 ≤ spill) (hspill' : spill ≤ 65536) (hshare : share ≤ 160) (hidle : s.gladeIdle gl = true)
    (hst : (s.island gl).st ≠ .pending) :
    s.gladeParams gl pool spill park quick share = mOkay (s.setGlade gl { g with
      poolLog := pool, spillSize := spill, parkTimeout := if park = 0 then 1100000 else park,
      quick := if quick = 0 then 110000 else quick, shareCap := share }) := by
  have hfields : ¬(pool < 12 ∨ 20 < pool ∨ spill < 64 ∨ 65536 < spill ∨ 160 < share) := by omega
  simp only [State.gladeParams, hg, hfields, State.gladeFree hidle hst, Bool.false_eq_true, if_false]

theorem State.tenantSet_of_new {t flags limit : Nat} {key : List W64} (hpos : 0 < t) (hlt : t < 4096) (hflags : flags = 0)
    (hkey : key = []) (hnew : Store.get? s.fo.tenants t = none) :
    s.tenantSet t flags limit key = mOkay (s.setTenant t { confidential := false, limit := limit, key := [] }) := by
  subst hflags hkey
  have hfields : ¬(t = 0 ∨ 4096 ≤ t ∨ 2 ≤ 0) := by omega
  simp only [State.tenantSet, hfields, hnew, if_false]
  rfl

theorem State.gladeAssign_of_ok {gl t : Nat} {g : Glade} (hg : s.glade? gl = some g) (ht : s.isTenant t = true)
    (hidle : s.gladeIdle gl = true) (hst : (s.island gl).st ≠ .pending) :
    s.gladeAssign gl t = mOkay (if g.tenant = t then s else s.setGlade gl { g with tenant := t, binds := [], weights := [] }) := by
  simp only [State.gladeAssign, hg, ht, State.gladeFree hidle hst, Bool.not_true, Bool.false_eq_true, if_false]
  split <;> rfl

theorem State.svcBudget_of_ok {c t n : Nat} (hc : c < 192) (ht : s.isTenant t = true)
    (hsum : n + (Store.del (s.core c).budgets t).foldl (fun m q => m + q.2) 0 ≤ 1100000) :
    s.svcBudget c t n = mOkay (s.setCore c { s.core c with budgets := Store.set (s.core c).budgets t n }) := by
  have hone : ¬c = 2 ^ 64 - 1 := by omega
  have hfields : ¬((192 ≤ c ∧ c ≠ 2 ^ 64 - 1) ∨ (!s.isTenant t) = true) := by
    rw [ht]
    exact not_or.mpr ⟨fun h => absurd h.1 (by omega), Bool.false_ne_true⟩
  have hroom : ¬budgetPeriod < n + (Store.del (s.core c).budgets t).foldl (fun m q => m + q.2) 0 := Nat.not_lt.mpr hsum
  refine (if_neg hfields).trans ?_
  rw [if_neg hone]
  simp [hroom]

theorem State.l2Quota_of_ok {t n : Nat} (ht : s.isTenant t = true) (hn : n ≤ 16384) :
    s.l2Quota t n = mOkay (s.setTenant t { s.tenant t with quota := n }) := by
  simp only [State.l2Quota, ht, Nat.not_lt.mpr hn, Bool.not_true, Bool.false_eq_true, or_self, if_false]

theorem State.twinSet_of_ok {p q k : Nat} {a b : Glade} (ha : s.glade? p = some a) (hb : s.glade? q = some b) (hnisl : a.nisl = b.nisl)
    (htenant : a.tenant = b.tenant) (hlt : p < q) (hq : q < 2 ^ 64 - 1) (hk : k < 16) (hp_idle : s.gladeIdle p = true)
    (hq_idle : s.gladeIdle q = true) (hp_st : (s.island p).st ≠ .pending) (hq_st : (s.island q).st ≠ .pending) :
    s.twinSet p q k = mOkay { s with fo := { s.fo with twin := some { prim := p, sec := q, queue := k } } } := by
  have hstart : ¬(p = 2 ^ 64 - 1 ∧ q = 2 ^ 64 - 1) := by omega
  refine (if_neg hstart).trans ?_
  simp only [ha, hb, hnisl, htenant, Nat.not_le.mpr hlt, Nat.not_le.mpr hk, hp_idle, hq_idle, hp_st, hq_st, ne_eq, not_true_eq_false,
    or_self, Bool.not_true, decide_false, Bool.or_self, Bool.false_eq_true, if_false]

theorem State.peerRoute_of_ok {p m : Nat} (hp : p < 64) (hm : m < 2 ^ 18) (hne : m ≠ 0) :
    s.peerRoute p m = mOkay { s with fo := { s.fo with routes := Store.set s.fo.routes p (BitVec.ofNat 18 m) } } := by
  have hfields : ¬(64 ≤ p ∨ 2 ^ 18 ≤ m) := by omega
  simp only [State.peerRoute, hfields, hne, if_false]

theorem State.svnRaise_of_ok {n : Nat} (hlow : s.fo.fuseSvn ≤ n) (hhigh : n ≤ s.fo.svn) :
    s.svnRaise n = mOkay { s with fo := { s.fo with fuseSvn := n } } := if_neg (by omega)

theorem State.rasRead_of_ok {c : Nat} (hc : c < 1536) : s.rasRead c = mOkay s (Ras.words (Store.getD s.fo.ras c {})) :=
  if_neg (Nat.not_le.mpr hc)

theorem State.rasClear_of_ok {c : Nat} (hc : c < 1536) :
    s.rasClear c = mOkay { s with fo := { s.fo with ras := Store.del s.fo.ras c } } :=
  (if_neg (by omega)).trans (if_neg (Nat.not_le.mpr hc))

theorem State.gladeCounters_of_glade {gl : Nat} {g : Glade} (hg : s.glade? gl = some g) :
    s.gladeCounters gl = mOkay s ([g.commits, g.aborts, g.fails, g.busy, g.softs, g.linkFs, g.rollbacks].map (BitVec.ofNat 64)) := by
  simp only [State.gladeCounters, hg]

end

/-- Settles O50: what is refused in the shared frame, then each command's effect. -/
theorem managementCommands : Obligations.ManagementCommands := by
  intro s
  refine fun hup => ⟨s.operatorSession_iff _, fun q hq hknown => ?refused, fun q hq c hc hnone hsession hver => ?unknown,
    fun hsession hver hlen hres hknown => ?served⟩
  case refused =>
    obtain ⟨run, hrun⟩ := exec_mgmtCommand hq s
    rw [hrun]
    refine ⟨mgmt_of_no_session hup hknown, fun hsession hver => mgmt_of_version hup hsession hknown hver,
      fun hsession hver hbad => ?_, fun hsession hver hlen hfits => mgmt_of_reserved hup hsession hver hknown hlen hfits⟩
    have h := mgmt_of_malformed (code := q.2.1) (run := run) hup hsession hver (.inr hbad)
    rwa [hknown] at h
  case unknown =>
    obtain ⟨run, hrun⟩ := exec_mgmtCommand hq s
    have hcode := MgmtReq.unknown_of_code hc hnone
    have h := mgmt_of_malformed (code := q.2.1) (fits := q.2.2) (run := run) hup hsession hver (.inl (by rw [hcode]; rfl))
    rw [hcode] at h
    exact hrun.trans h
  case served =>
    have serve {code : Nat} {fits : Nat → Bool} {run : List Nat → State → MRes} {t : State} {ws : List W64}
        (hrun : run (s.cur.mreq.args.map BitVec.toNat) s = mOkay t ws) (hfits : fits s.cur.mreq.args.length = true)
        (ht : t.fo.st = .up) := mgmt_of_served (code := code) hup hsession hver hknown hlen hfits hres hrun ht
    refine ⟨fun i j hj hi_active hj_active hsame hi hcut => ?cut, fun hargs hrange hpending hsame => ?same,
      fun hargs hrange hpending hps hflag hidle ht => ?layout,
      fun hn ht => (exec_layoutRead s).trans (serve rfl (decide_eq_true hn) ht),
      fun hi hcap hcap' hmin hmin' hrest hst hsum hn ht => (exec_power s).trans (serve (State.power_of_ok hi hcap hcap' hmin hmin' hrest hst hsum rfl)
        (decide_eq_true hn) ht),
      fun hsmall hsum hsome hn ht => (exec_frameTable s).trans (serve (State.frameTable_of_ok (List.forall_mem_map.mpr hsmall) hsum hsome) (decide_eq_true hn) ht),
      fun g hg hpool hpool' hspill hspill' hshare hidle hst hn ht =>
        (exec_gladeParams s).trans (serve (State.gladeParams_of_ok hg hpool hpool' hspill hspill' hshare hidle hst) (decide_eq_true hn) ht),
      fun hpos hlt hflags hnew hn ht => ?tenant,
      fun g hg htenant hidle hst hn ht => (exec_gladeAssign s).trans (serve (State.gladeAssign_of_ok hg htenant hidle hst) (decide_eq_true hn) ht),
      fun hc htenant hsum hn ht => (exec_svcBudget s).trans (serve (State.svcBudget_of_ok hc htenant hsum) (decide_eq_true hn) ht),
      fun htenant hquota hn ht => (exec_l2Quota s).trans (serve (State.l2Quota_of_ok htenant hquota) (decide_eq_true hn) ht),
      fun p q hp hq hnisl htenant hlt hq_lt hk hp_idle hq_idle hp_st hq_st hn ht =>
        (exec_twin s).trans (serve (State.twinSet_of_ok hp hq hnisl htenant hlt hq_lt hk hp_idle hq_idle hp_st hq_st) (decide_eq_true hn) ht),
      fun hp hm hne hn ht => (exec_peerRoute s).trans (serve (State.peerRoute_of_ok hp hm hne) (decide_eq_true hn) ht),
      fun hlow hhigh hn ht => (exec_svnRaise s).trans (serve (State.svnRaise_of_ok hlow hhigh) (decide_eq_true hn) ht),
      fun hc hn ht => (exec_rasRead s).trans (serve (State.rasRead_of_ok hc) (decide_eq_true hn) ht),
      fun hc hn ht => (exec_rasClear s).trans (serve (State.rasClear_of_ok hc) (decide_eq_true hn) ht),
      fun g hg hn ht => (exec_gladeCounters s).trans (serve (State.gladeCounters_of_glade hg) (decide_eq_true hn) ht)⟩
    case cut =>
      obtain ⟨w, hw, hiw⟩ := hi
      have hrange := State.layoutRange_of_cut (ws := s.cur.mreq.args.map BitVec.toNat) hj hi_active hj_active hsame
        ⟨w.toNat, List.mem_map_of_mem hw, hiw⟩ (List.forall_mem_map.mpr hcut)
      exact (exec_layout s).trans (mgmt_of_refused hup hsession hver hknown hlen
        (decide_eq_true (Nat.ne_of_gt (List.length_pos_of_mem hw))) hres (State.layout_of_cut _ _ hrange) (by decide))
    case same =>
      exact (exec_layout s).trans (serve (State.layout_of_same _ hrange hpending _ hsame)
        (decide_eq_true (mt List.length_eq_zero_iff.mp hargs)) hup)
    case layout =>
      have hstrike : (if s.cur.flag then some s.cur.k else none) = none := if_neg (by rw [hflag]; exact Bool.false_ne_true)
      exact (exec_layout s).trans (serve
        ((congrArg (s.layout _ · _) hstrike).trans (State.layout_of_changes _ hrange hpending rfl hps hidle))
        (decide_eq_true (mt List.length_eq_zero_iff.mp hargs)) ht)
    case tenant =>
      have hkey : ((s.cur.mreq.args.map BitVec.toNat).drop 3).map (BitVec.ofNat 64) = [] := by
        rw [List.drop_eq_nil_of_le (Nat.le_of_eq ((List.length_map _).trans hn)), List.map_nil]
      exact (exec_tenant s).trans (serve (State.tenantSet_of_new hpos hlt hflags hkey hnew) (decide_eq_true (.inl hn)) ht)

end Sys2Proof.Machine

/-!
PROOF. The calls of the firmware ABI (18 R303, R308, R312, 19 R313, R321, 20 R330, 22 R352, R357, R358). The order of a call's
checks is assumption 24.
-/
namespace Sys2Proof.Machine

/-! ### The frame of a call (R357, R362) -/

/-- A call that a core makes while the Forester is up is answered in a0. -/
theorem abiCall_of_code {code : Nat} {s u : State} {k : Nat → Core → Nat → W64 × State} {v : W64} (hup : s.fo.st = .up)
    (hwait : (s.core s.cur.core).wait = none) (hcode : ((s.core s.cur.core).reg 17).toNat = code)
    (h : k s.cur.core (s.core s.cur.core) (s.core s.cur.core).caller = (v, u)) :
    abiCall code s k = .next (u.coreRet s.cur.core 10 v) := by
  have hgoes : ¬(s.fo.st ≠ .up ∨ (s.core s.cur.core).wait.isSome = true ∨ ((s.core s.cur.core).reg 17).toNat ≠ code) := by
    simp only [hup, hwait, hcode, ne_eq, not_true_eq_false, Option.isSome_none, Bool.false_eq_true, or_self, not_false_eq_true]
  refine (if_neg hgoes).trans ?_
  rw [h]

theorem exec_frameClaim (s : State) : exec .frameClaim s = abiCall 0x4643 s fun _ x t => s.frameClaim x t := rfl
theorem exec_frameReturn (s : State) : exec .frameReturn s = abiCall 0x4652 s fun _ x t => s.frameReturn x t := rfl
theorem exec_asidSet (s : State) : exec .asidSet s = abiCall 0x4153 s fun _ x t => s.asidSet x t := rfl
theorem exec_queueBind (s : State) : exec .queueBind s = abiCall 0x5142 s fun _ x t => s.queueBind x t := rfl
theorem exec_ringRegister (s : State) : exec .ringRegister s = abiCall 0x5247 s fun c x t => s.ringRegister x c t := rfl
theorem exec_svcWeight (s : State) : exec .svcWeight s = abiCall 0x5357 s fun _ x t => s.svcWeight x t := rfl
theorem exec_hostRange (s : State) : exec .hostRange s = abiCall 0x484D s fun _ x t => s.hostRange x t := rfl
theorem exec_collective (s : State) : exec .collective s = abiCall 0x434C s fun c x t => s.collStart x c t := rfl
theorem exec_noticeWord (s : State) : exec .noticeWord s = abiCall 0x4E57 s fun _ x t => s.noticeWordSet x t := rfl
theorem exec_noticeRead (s : State) : exec .noticeRead s = abiCall 0x4E52 s fun _ _ t => s.noticeTake t := rfl
theorem exec_prqInfo (s : State) : exec .prqInfo s = abiCall 0x5051 s fun _ x t => s.prqInfo x t := rfl

/-! ### What a call asks for -/

section
variable {s : State} {x : Core} {t : Nat}

theorem State.ownsGlade_of_tenant {gl : Nat} {g : Glade} (hg : s.glade? gl = some g) (ht : g.tenant = t) :
    s.ownsGlade t gl = true := by
  simp only [State.ownsGlade, hg, ht, decide_true]

theorem Option.not_isNone_of_isSome {α : Type} {o : Option α} (h : o.isSome = true) : ¬o.isNone = true := by
  rw [← Option.not_isSome, h]
  exact Bool.false_ne_true

/-! ### Frames (R330, R357) -/

section
variable (hrange : (x.reg 10).toNat / 2 ^ 16 + (x.reg 11).toNat ≤ dramFrames)
include hrange

theorem State.frameClaim_of_free (hfree : ∀ f ∈ frameRange (x.reg 10) (x.reg 11), (s.frame f).st = .free)
    (hlimit : t = 0 ∨ s.framesOf t + (x.reg 11).toNat ≤ (s.tenant t).limit) :
    s.frameClaim x t = (0#64, (frameRange (x.reg 10) (x.reg 11)).foldl (fun s f =>
      s.setFrame f { s.frame f with st := .owned, tenant := t }) s) := by
  have hnone : ((frameRange (x.reg 10) (x.reg 11)).any fun f => decide ((s.frame f).st ≠ .free)) = false :=
    List.any_eq_false.mpr fun f hf => by simp [hfree f hf]
  have hroom : ¬(t ≠ 0 ∧ (s.tenant t).limit < s.framesOf t + (x.reg 11).toNat) := by omega
  refine (if_neg (Nat.not_lt.mpr hrange)).trans (if_neg ?_)
  rw [hnone]
  exact not_or.mpr ⟨Bool.false_ne_true, hroom⟩

theorem State.frameClaim_of_taken (h : ∃ f ∈ frameRange (x.reg 10) (x.reg 11), (s.frame f).st ≠ .free) :
    s.frameClaim x t = (1#64, s) := by
  obtain ⟨f, hf, hst⟩ := h
  exact (if_neg (Nat.not_lt.mpr hrange)).trans (if_pos (.inl (List.any_eq_true.mpr ⟨f, hf, decide_eq_true hst⟩)))

theorem State.frameReturn_of_owned
    (hown : ∀ f ∈ frameRange (x.reg 10) (x.reg 11), (s.frame f).st = .owned ∧ (s.frame f).tenant = t) :
    s.frameReturn x t = (0#64, (frameRange (x.reg 10) (x.reg 11)).foldl (fun s f =>
      s.setFrame f { s.frame f with st := .scrubbing }) s) := by
  have hall : ((frameRange (x.reg 10) (x.reg 11)).any fun f =>
      decide ((s.frame f).st ≠ .owned) || decide ((s.frame f).tenant ≠ t)) = false :=
    List.any_eq_false.mpr fun f hf => by simp [hown f hf]
  refine (if_neg (Nat.not_lt.mpr hrange)).trans (if_neg ?_)
  rw [hall]
  exact Bool.false_ne_true

end

/-! ### Address spaces, queues and rings (R303, R308, R313) -/

theorem State.asidSet_of_new (hnew : Store.get? s.asids ((x.reg 10).toNat % 2 ^ 16) = none) (hal : (x.reg 11).toNat % 4096 = 0)
    (hroot : x.reg 11 ≠ 0#64) (hframe : (x.reg 11).toNat / 2 ^ 16 < dramFrames)
    (hst : (s.frame ((x.reg 11).toNat / 2 ^ 16)).st = .owned) (hown : (s.frame ((x.reg 11).toNat / 2 ^ 16)).tenant = t) :
    s.asidSet x t = (0#64, { s with asids := Store.set s.asids ((x.reg 10).toNat % 2 ^ 16) ⟨(x.reg 11).toNat, t⟩ }) := by
  have hne : ¬(x.reg 11).toNat = 0 := fun h => hroot (BitVec.eq_of_toNat_eq h)
  simp only [State.asidSet, hnew, hne, hal, Nat.not_le.mpr hframe, hst, hown, ne_eq, not_true_eq_false, Bool.false_eq_true, or_self,
    if_false]

section
variable {g : Glade} (hg : s.glade? (x.reg 10).toNat = some g) (ht : g.tenant = t) (hq : (x.reg 11).toNat < 16)
  (hempty : Store.getD g.queues (x.reg 11).toNat [] = [])
include hg ht hq hempty

theorem State.queueBind_of_unbind (hd : x.reg 12 = allOnes) :
    s.queueBind x t = (0#64, s.setGlade (x.reg 10).toNat { g with binds := Store.del g.binds (x.reg 11).toNat }) := by
  simp only [State.queueBind, State.ownsGlade_of_tenant hg ht, Nat.not_le.mpr hq, hg, hempty, hd, List.isEmpty_nil, ne_eq,
    not_true_eq_false, Bool.not_true, Bool.false_eq_true, false_and, or_self, if_false, if_true]

theorem State.queueBind_of_bind {e : AsidEnt} (hd : x.reg 12 ≠ allOnes) (he : Store.get? s.asids (x.reg 12).toNat = some e)
    (hown : e.tenant = t) :
    s.queueBind x t = (0#64, s.setGlade (x.reg 10).toNat
      { g with binds := Store.set g.binds (x.reg 11).toNat (t, (x.reg 12).setWidth 16) }) := by
  simp only [State.queueBind, State.ownsGlade_of_tenant hg ht, Nat.not_le.mpr hq, hg, hempty, hd, he, hown, Option.map_some,
    List.isEmpty_nil, ne_eq, not_true_eq_false, Bool.not_true, Bool.false_eq_true, and_false, or_self, if_false]

end

theorem State.ringRegister_of_remove (c : Nat) (hb : x.reg 11 = allOnes) :
    s.ringRegister x c t = (0#64, { s with host := { s.host with
      rings := s.host.rings.filter fun r => !(decide (r.va = x.reg 10) && decide (r.asid = x.asid)) } }) := if_pos hb

theorem State.ringRegister_of_ok {c : Nat} {h : List Byte} (hb : x.reg 11 ≠ allOnes) (hh : s.fwRead x.asid (x.reg 10).toNat 64 = some h)
    (hok : ringOk h = true) (hal : (x.reg 10).toNat % 4096 = 0) (hva : (x.reg 10).toNat < 2 ^ 48)
    (hpages : ∀ i < (ringBytes (recBits h 7 4) + 65535 + (x.reg 10).toNat % 2 ^ 16) / 2 ^ 16,
      (s.tenantImm t x.asid ((x.reg 10).toNat / 2 ^ 16 * 2 ^ 16 + i * 2 ^ 16) true).isSome = true)
    (hg : (s.glade? (x.reg 11).toNat).isSome = true)
    (hroom : (s.host.rings.filter fun r => decide (r.glade = (x.reg 11).toNat)).length < 16) {r : Ring}
    (hr : ({ glade := (x.reg 11).toNat, va := x.reg 10, asid := x.asid, core := c, lcap := recBits h 7 4 } : Ring) = r) :
    s.ringRegister x c t =
      (0#64, ({ s with host := { s.host with rings := s.host.rings ++ [r] } } : State).ringStatus r h 0) := by
  subst hr
  have hcap : recBits h 7 4 < 12 := of_decide_eq_true ((Bool.and_eq_true _ _).mp hok).2
  have hmapped : (((List.range ((ringBytes (recBits h 7 4) + 65535 + (x.reg 10).toNat % 2 ^ 16) / 2 ^ 16)).map fun i =>
      (x.reg 10).toNat / 2 ^ 16 * 2 ^ 16 + i * 2 ^ 16).any fun p => (s.tenantImm t x.asid p true).isNone) = false :=
    List.any_eq_false.mpr (List.forall_mem_map.mpr fun i hi => Option.not_isNone_of_isSome (hpages i (List.mem_range.mp hi)))
  simp only [State.ringRegister, hb, hh, hok, hcap, hal, Nat.not_le.mpr hva, hmapped, Option.not_isNone_of_isSome hg,
    Nat.not_le.mpr hroom, ne_eq, not_true_eq_false, Bool.false_eq_true, or_self, if_false, if_true]

/-! ### Weights, host ranges and collectives (R312, R352, R358) -/

theorem State.svcWeight_of_ok {g : Glade} (hg : s.glade? (x.reg 10).toNat = some g) (ht : g.tenant = t) (hp : (x.reg 11).toNat < 4)
    (hpos : 0 < (x.reg 12).toNat) (hlt : (x.reg 12).toNat < 16) :
    s.svcWeight x t = (0#64, s.setGlade (x.reg 10).toNat
      { g with weights := Store.set g.weights (x.reg 11).toNat (x.reg 12).toNat }) := by
  simp only [State.svcWeight, State.ownsGlade_of_tenant hg ht, Nat.not_le.mpr hp, Nat.ne_of_gt hpos, Nat.not_le.mpr hlt, State.modGlade, hg,
    Bool.not_true, Bool.false_eq_true, or_self, if_false]

theorem State.hostRange_of_apart (hi : (x.reg 10).toNat < 16) (hn : (x.reg 12).toNat ≠ 0) (hb : (x.reg 11).toNat % 4096 = 0)
    (hlen : (x.reg 12).toNat % 4096 = 0) (hend : (x.reg 11).toNat + (x.reg 12).toNat ≤ 2 ^ 50)
    (hapart : ∀ q ∈ Store.del (s.tenant t).hostRanges (x.reg 10).toNat,
      overlaps (x.reg 11).toNat (x.reg 12).toNat q.2.1 q.2.2 = false) :
    s.hostRange x t = (0#64, s.setTenant t { s.tenant t with
      hostRanges := Store.set (s.tenant t).hostRanges (x.reg 10).toNat ((x.reg 11).toNat, (x.reg 12).toNat) }) := by
  have hnone : ((Store.del (s.tenant t).hostRanges (x.reg 10).toNat).any fun q =>
      overlaps (x.reg 11).toNat (x.reg 12).toNat q.2.1 q.2.2) = false :=
    List.any_eq_false.mpr fun q hq => Bool.eq_false_iff.mp (hapart q hq)
  simp only [State.hostRange, Nat.not_le.mpr hi, hn, hb, hlen, Nat.not_lt.mpr hend, hnone, ne_eq, not_true_eq_false,
    Bool.false_eq_true, or_self, if_false]

theorem State.collStart_of_old {c : Nat} (habi : s.fo.abi = 1) : s.collStart x c t = (allOnes, s) := if_pos habi

theorem State.collStart_of_ok {c : Nat} {q : Coll} (habi : s.fo.abi ≠ 1) (hq : s.collOf x c t (x.reg 10) = some q)
    (hpeers : ∀ p ∈ q.list, p = 255 ∨ 2 ≤ s.peerVersion p) (hroom : s.links.colls.length < 16) :
    s.collStart x c t = (0#64, { s with links := { s.links with colls := s.links.colls ++ [q] } }) := by
  have hall : (q.list.any fun p => decide (p ≠ 255) && decide (s.peerVersion p < 2)) = false :=
    List.any_eq_false.mpr fun p hp h => by
      obtain ⟨hne, hold⟩ : p ≠ 255 ∧ s.peerVersion p < 2 := by
        simpa only [Bool.and_eq_true, decide_eq_true_eq] using h
      exact (hpeers p hp).elim hne (Nat.not_le.mpr hold)
  refine (if_neg habi).trans ?_
  simp only [hq]
  refine (if_neg (Bool.eq_false_iff.mp ?_)).trans (if_neg (Nat.not_le.mpr hroom))
  exact hall

/-! ### Notices and page requests (R321, R357) -/

theorem State.noticeWordSet_of_none (ha : x.reg 10 = 0#64) :
    s.noticeWordSet x t = (0#64, s.setTenant t { s.tenant t with noticeWord := none }) := if_pos ha

theorem State.noticeWordSet_of_word (ha : x.reg 10 ≠ 0#64) (hal : (x.reg 10).toNat % 8 = 0) (hva : (x.reg 10).toNat < 2 ^ 48)
    (himm : (s.tenantImm t x.asid (x.reg 10).toNat false).isSome = true) :
    s.noticeWordSet x t = (0#64, s.setTenant t { s.tenant t with noticeWord := some (x.asid, x.reg 10) }) := by
  simp only [State.noticeWordSet, ha, hal, Nat.not_le.mpr hva, Option.not_isNone_of_isSome himm, ne_eq, not_true_eq_false,
    Bool.false_eq_true, or_self, if_false]

theorem State.noticeTake_of_cons {w : W64} {r : List W64} (h : (s.tenant t).notices = w :: r) :
    s.noticeTake t = (w, s.setTenant t { s.tenant t with notices := r }) := by
  simp only [State.noticeTake, h]

theorem State.noticeTake_of_nil (h : (s.tenant t).notices = []) : s.noticeTake t = (0#64, s) := by
  simp only [State.noticeTake, h]

theorem State.prqInfo_of_ok (hg : s.ownsGlade t (x.reg 10).toNat = true) (hva : (x.reg 11).toNat + 31 < 2 ^ 48)
    (hfirst : (s.tenantImm t x.asid (x.reg 11).toNat true).isSome = true)
    (hlast : (s.tenantImm t x.asid ((x.reg 11).toNat + 31) true).isSome = true) :
    s.prqInfo x t = (0#64, (s.fwWrite x.asid (x.reg 11).toNat
      (bytesOfWords [Config.prqAddr, Config.prqAnswer, Config.prqStatus, Config.doorbell (x.reg 10).toNat])).2) := by
  simp only [State.prqInfo, hg, Nat.not_le.mpr hva, Option.not_isNone_of_isSome hfirst, Option.not_isNone_of_isSome hlast,
    Bool.not_true, Bool.false_eq_true, or_self, if_false]

end

/-- Settles O51: each call in the shared frame. -/
theorem abiCalls : Obligations.AbiCalls := by
  intro s
  refine fun hup hwait => ⟨fun hrange => ⟨fun hfree hlimit => ?claim, fun htaken => ?taken, fun hown => ?return_⟩,
    fun hnew hal hroot hframe hst hown => ?asid, fun g hg ht hq hd hempty => ?unbind,
    fun g e hg ht hq hd he hown hempty => ?bind_, fun hb => ?unring, fun h hb hh hok hal hva hpages hg hroom => ?ring,
    fun g hg ht hp hpos hlt => ?weight, fun hi hn hb hlen hend hapart => ?range, fun habi => ?old,
    fun q habi hq hpeers hroom => ?coll, fun ha => ?unword, fun ha hal hva himm => ?word, fun w r hnotices => ?notice,
    fun hnotices => ?quiet, fun hg hva hfirst hlast => ?prq⟩
  case claim =>
    exact fun hcode => (exec_frameClaim s).trans (abiCall_of_code hup hwait hcode (State.frameClaim_of_free hrange hfree hlimit))
  case taken =>
    exact fun hcode => (exec_frameClaim s).trans (abiCall_of_code hup hwait hcode (State.frameClaim_of_taken hrange htaken))
  case return_ =>
    exact fun hcode => (exec_frameReturn s).trans (abiCall_of_code hup hwait hcode (State.frameReturn_of_owned hrange hown))
  case asid =>
    exact fun hcode => (exec_asidSet s).trans
      (abiCall_of_code hup hwait hcode (State.asidSet_of_new hnew hal hroot hframe hst hown))
  case unbind =>
    exact fun hcode => (exec_queueBind s).trans (abiCall_of_code hup hwait hcode (State.queueBind_of_unbind hg ht hq hempty hd))
  case bind_ =>
    exact fun hcode => (exec_queueBind s).trans
      (abiCall_of_code hup hwait hcode (State.queueBind_of_bind hg ht hq hempty hd he hown))
  case unring =>
    exact fun hcode => (exec_ringRegister s).trans (abiCall_of_code hup hwait hcode (State.ringRegister_of_remove _ hb))
  case ring =>
    exact fun hcode => (exec_ringRegister s).trans
      (abiCall_of_code hup hwait hcode (State.ringRegister_of_ok hb hh hok hal hva hpages hg hroom rfl))
  case weight =>
    exact fun hcode => (exec_svcWeight s).trans (abiCall_of_code hup hwait hcode (State.svcWeight_of_ok hg ht hp hpos hlt))
  case range =>
    exact fun hcode => (exec_hostRange s).trans
      (abiCall_of_code hup hwait hcode (State.hostRange_of_apart hi hn hb hlen hend hapart))
  case old => exact fun hcode => (exec_collective s).trans (abiCall_of_code hup hwait hcode (State.collStart_of_old habi))
  case coll =>
    exact fun hcode => (exec_collective s).trans (abiCall_of_code hup hwait hcode (State.collStart_of_ok habi hq hpeers hroom))
  case unword => exact fun hcode => (exec_noticeWord s).trans (abiCall_of_code hup hwait hcode (State.noticeWordSet_of_none ha))
  case word =>
    exact fun hcode => (exec_noticeWord s).trans (abiCall_of_code hup hwait hcode (State.noticeWordSet_of_word ha hal hva himm))
  case notice =>
    exact fun hcode => (exec_noticeRead s).trans (abiCall_of_code hup hwait hcode (State.noticeTake_of_cons hnotices))
  case quiet => exact fun hcode => (exec_noticeRead s).trans (abiCall_of_code hup hwait hcode (State.noticeTake_of_nil hnotices))
  case prq =>
    exact fun hcode => (exec_prqInfo s).trans (abiCall_of_code hup hwait hcode (State.prqInfo_of_ok hg hva hfirst hlast))

end Sys2Proof.Machine

/-!
PROOF. What a wake (05 R74, 11 R257) leaves to the Forester: the scan of park records performs accesses of planes, raises
faults and answers waiting cores, and none of it writes the Forester's own state.
-/
namespace Sys2Proof.Machine

/-! ### Faults and requests -/

@[simp] theorem State.raise_fo (s : State) (cls : FCls) (lid : Nat) (c : Option PlaneId) (w : PlaneId) (src : FSrc) (code : Nat)
    (req : Bool) (blk slot ch ord : Nat) (info : W64) (n : Bool) :
    (s.raise cls lid c w src code req blk slot ch ord info n).2.fo = s.fo :=
  (SameArch.raise s cls lid c w src code req blk slot ch ord info n).fo

theorem State.refill_fo (s : State) (g : Nat) : (s.refill g).fo = s.fo :=
  foldl_keeps (·.fo) _ (fun t _ => t.modFault_fo ..) _ s

theorem State.dropFault_fo (s : State) (fid : Nat) : (s.dropFault fid).fo = s.fo := by
  simp only [State.dropFault]
  split
  · exact State.refill_fo ..
  · rfl

@[simp] theorem State.reqFault_fo (s : State) (pl : PlaneId) (r : Req) (cls : FCls) (code : Nat) (info : W64) :
    (s.reqFault pl r cls code info).fo = s.fo := by
  simp only [State.reqFault, apply_ite State.fo, State.dropFault_fo, State.setReq_fo, State.raise_fo, ite_self]

@[simp] theorem State.finish_fo (s : State) (pl : PlaneId) (r : Req) (t : Token) : (s.finish pl r t).fo = s.fo := by
  simp only [State.finish, State.retire_fo]
  split
  · exact State.modPlane_fo ..
  · rfl

@[simp] theorem State.overflow_fo (s : State) (l : Nat) (x : Launch) (pl : PlaneId) (r : Req) : (s.overflow l x pl r).fo = s.fo := by
  simp only [State.overflow]
  split
  · exact State.reqFault_fo ..
  · exact (State.modLaunch_fo ..).trans (State.setReq_fo ..)

@[simp] theorem State.swap_fo (s : State) (pl : PlaneId) (k : Nat) : (s.swap pl k).fo = s.fo := by
  simp only [State.swap]
  split
  · rfl
  · exact (State.setPlane_fo ..).trans (State.modLaunch_fo ..)

theorem State.onReq_fo {s : State} {pl : PlaneId} {rid : Nat} {f : State → State} (h : ∀ t : State, (f t).fo = t.fo) :
    (s.onReq pl rid f).fo = s.fo := by
  simp only [State.onReq]
  split
  · exact h s
  · simp only [State.swap_fo, h]

/-! ### Writes to memory -/

@[simp] theorem State.direct_fo (s : State) (e : MEff) : (s.direct e).fo = s.fo := by
  simp only [State.direct, State.homeEff_fo, State.foldLine_fo]

@[simp] theorem State.conflict_fo (s : State) (l : Nat) : (s.conflict l).fo = s.fo := State.raise_fo ..

@[simp] theorem State.commitTest_fo (s : State) (l va : Nat) : (s.commitTest l va).fo = s.fo := by
  simp only [State.commitTest]
  split
  · rfl
  · exact foldl_keeps (·.fo) _ (fun t (q : Nat × Launch) => t.conflict_fo q.1) _ s

@[simp] theorem State.writeTest_fo (s : State) (l line : Nat) : (s.writeTest l line).fo = s.fo := by
  simp only [State.writeTest]
  split
  · rfl
  · refine foldl_keeps (·.fo) _ (fun t q => ?_) _ s
    split <;> exact State.conflict_fo ..

@[simp] theorem State.putEff_fo (s : State) (l cut : Nat) (imm : Bool) (va : Nat) (e : MEff) : (s.putEff l cut imm va e).fo = s.fo := by
  simp only [State.putEff]
  split
  · exact State.direct_fo ..
  · split
    · exact State.direct_fo ..
    · split
      · exact (State.commitTest_fo ..).trans (State.direct_fo ..)
      · simp only [State.setSide_fo, State.writeTest_fo]

@[simp] theorem State.lineHome_fo (s : State) (b : BankLine) : (s.lineHome b).fo = s.fo := by
  simp only [State.lineHome]
  split
  · exact foldl_keeps (·.fo) _ (fun t e => t.putEff_fo ..) _ s
  · exact (foldl_keeps (·.fo) _ (fun t l => t.commitTest_fo ..) _ _).trans (foldl_keeps (·.fo) _ (fun t e => t.direct_fo e) _ s)

@[simp] theorem State.flushBank_fo (s : State) (keep : Bool) (pick : BankLine → Bool) : (s.flushBank keep pick).fo = s.fo :=
  foldl_keeps (·.fo) _ (fun t b => t.lineHome_fo b) _ _

theorem State.loadLine_fo (s : State) (pl : PlaneId) (imm : Bool) (line : Nat) : (s.loadLine pl imm line).fo = s.fo := by
  have hbring : ∀ (t : State) (g : Nat), (t.bringLine g line imm).fo = t.fo := fun t g => by
    simp only [State.bringLine]
    split <;> rfl
  simp only [State.loadLine]
  split
  · rfl
  · exact (State.modPlane_fo ..).trans ((hbring _ _).trans (State.flushBank_fo ..))

theorem State.actorEff_fo (s : State) (pl : PlaneId) (l : Nat) (imm : Bool) (va : Nat) (e : MEff) :
    (s.actorEff pl l imm va e).fo = s.fo := by
  have hput : ∀ (c : Prop) [Decidable c] (t : State) (b : BankLine) (line : Nat),
      (if c then ((t.putBank b).touch pl line).commitTest l va else (t.putBank b).touch pl line).fo = t.fo := fun c _ t b line => by
    split
    · exact State.commitTest_fo ..
    · rfl
  simp only [State.actorEff]
  split
  · cases e with
    | bytes a bs => exact (hput _ _ _ _).trans (State.flushBank_fo ..)
    | delta op d a x => exact (hput _ _ _ _).trans (State.flushBank_fo ..)
    | fe w f => exact State.putEff_fo ..
  · exact State.putEff_fo ..

/-! ### Accesses -/

@[simp] theorem State.signParts_fo (s : State) (l : Nat) (ps : List Part) : (s.signParts l ps).fo = s.fo := by
  refine foldl_keeps (·.fo) _ (fun t p => ?_) _ s
  split
  · rfl
  · exact State.modLaunch_fo ..

@[simp] theorem State.writeParts_fo (s : State) (pl : PlaneId) (l : Nat) (plain : Bool) (ps : List Part) (bs : List Byte) :
    (s.writeParts pl l plain ps bs).fo = s.fo := by
  induction ps generalizing s bs with
  | nil => rfl
  | cons p ps ih =>
    simp only [State.writeParts, ih]
    split
    · exact State.actorEff_fo ..
    · exact State.putEff_fo ..

@[simp] theorem State.fillParts_fo (s : State) (pl : PlaneId) (l : Nat) (f : Bool) (ps : List Part) :
    (s.fillParts pl l f ps).fo = s.fo :=
  foldl_keeps (·.fo) _ (fun _ _ => foldl_keeps (·.fo) _ (fun t _ => t.putEff_fo ..) _ _) _ s

theorem State.flushFor_fo (s : State) (pl : PlaneId) (k : ReqKind) (ps : List Part) : (s.flushFor pl k ps).fo = s.fo := by
  refine foldl_keeps (·.fo) _ (fun t p => ?_) _ s
  split
  · exact State.flushBank_fo ..
  · split
    · exact State.loadLine_fo ..
    · rfl

theorem State.doAccess_fo (s : State) (pl : PlaneId) (l : Nat) (r : Req) (ps : List Part) : (s.doAccess pl l r ps).1.fo = s.fo := by
  have hsign : (if r.kind.signs then s.signParts l ps else s).fo = s.fo := by
    split
    · exact State.signParts_fo ..
    · rfl
  simp only [State.doAccess]
  split <;> simp only [State.finish_fo, State.fillParts_fo, State.writeParts_fo, hsign]

/-! ### Park records -/

@[simp] theorem State.unparkWhere_fo (s : State) (pick : ParkRec → Bool) : (s.unparkWhere pick).fo = s.fo := by
  refine foldl_keeps (·.fo) _ (fun t k => ?_) _ _
  split
  · rfl
  · exact State.setSide_fo ..

@[simp] theorem State.unpark_fo (s : State) (pl : PlaneId) (rid : Nat) : (s.unpark pl rid).fo = s.fo := State.unparkWhere_fo ..

theorem State.awaitFound_fo (s : State) (r : ParkRec) : (s.awaitFound r).fo = s.fo := by
  have hcopy : ∀ (t : State) (f : CopyJob → CopyJob), (t.modCopy r.rid f).fo = t.fo := fun _ _ => rfl
  simp only [State.awaitFound]
  split
  · simp only [hcopy, State.unparkWhere_fo]
  · split
    · simp only [apply_ite State.fo, hcopy, State.signParts_fo, State.unparkWhere_fo, ite_self]
    · simp only [hcopy, State.unparkWhere_fo]

theorem State.waitFound_fo (s : State) (r : ParkRec) : (s.waitFound r).fo = s.fo := by
  simp only [State.waitFound, State.modGlade_fo, State.unparkWhere_fo]

/-- A record that is performed where it stands. -/
theorem State.tryHere_fo {s t : State} {r : ParkRec} {ws : List Nat} (h : s.tryHere r = some (t, ws)) : t.fo = s.fo := by
  have haccess : ∀ (b : Bool) (u : State) (x : Launch) (q : Req) (ps : List Part),
      (if b = true then some (u.overflow r.lid x r.pl q, []) else some (u.doAccess r.pl r.lid q ps)) = some (t, ws) →
      t.fo = u.fo := fun b u x q ps hb => by
    split at hb
    · cases hb
      exact State.overflow_fo ..
    · exact (congrArg (fun p : State × List Nat => p.1.fo) (Option.some.inj hb)).symm.trans (State.doAccess_fo ..)
  have hstream : ∀ (c d : Bool) (q : Req) (tok : Token), (if c = true then some ((s.unpark r.pl r.rid).finish r.pl q .null, [])
      else if d = true then some ((s.unpark r.pl r.rid).finish r.pl q tok, []) else none) = some (t, ws) →
      t.fo = s.fo := fun c d q tok hc => by
    split at hc
    · cases hc
      simp only [State.finish_fo, State.unpark_fo]
    · split at hc <;> cases hc
      simp only [State.finish_fo, State.unpark_fo]
  simp only [State.tryHere] at h
  split at h
  · cases h
  · split at h
    · split at h <;> cases h
      exact State.awaitFound_fo ..
    · split at h <;> cases h
      exact State.waitFound_fo ..
    · split at h
      · exact hstream _ _ _ _ h
      · cases h
    · split at h
      · split at h
        · cases h
        · split at h
          · exact (haccess _ _ _ _ _ h).trans ((State.unpark_fo ..).trans (State.flushFor_fo ..))
          · cases h
      · cases h

theorem State.tryRec_fo {s t : State} {r : ParkRec} {ws : List Nat} (h : s.tryRec r = some (t, ws)) : t.fo = s.fo := by
  simp only [State.tryRec] at h
  split at h
  · exact State.tryHere_fo h
  · obtain ⟨q, hq, he⟩ := Option.map_eq_some_iff.mp h
    cases he
    exact (State.swap_fo ..).trans ((State.tryHere_fo hq).trans (State.swap_fo ..))

theorem passRecs_fo (rs : List ParkRec) (s : State) (ch : List Nat) : (passRecs rs s ch).1.fo = s.fo := by
  induction rs generalizing s ch with
  | nil => rfl
  | cons r rs ih =>
    simp only [passRecs]
    split
    · exact (ih _ _).trans (State.tryRec_fo ‹_›)
    · exact ih _ _

theorem State.budgetFault_fo (s : State) (r : ParkRec) (code : Nat) : (s.budgetFault r code).fo = s.fo := by
  simp only [State.budgetFault]
  split
  · split
    · exact (State.modGlade_fo ..).trans (State.raise_fo ..)
    · rfl
  · refine State.onReq_fo fun t => ?_
    split
    · split
      · exact (State.modGlade_fo ..).trans (State.reqFault_fo ..)
      · exact State.reqFault_fo ..
    · rfl

theorem State.loseRound_fo (s : State) (r : ParkRec) : (s.loseRound r).fo = s.fo := by
  simp only [State.loseRound]
  split
  · rfl
  · split
    · exact (State.budgetFault_fo ..).trans (State.modGlade_fo ..)
    · exact State.modGlade_fo ..

theorem scanWord_fo (n : Nat) (s : State) (key : Nat) (ch : List Nat) : (scanWord n s key ch).1.fo = s.fo := by
  induction n generalizing s ch with
  | zero => rfl
  | succ n ih =>
    simp only [scanWord]
    split
    · exact (ih _ _).trans (passRecs_fo ..)
    · exact (foldl_keeps (·.fo) _ (fun t r => t.loseRound_fo r) _ _).trans (passRecs_fo ..)

theorem State.scan_fo (n : Nat) (s : State) (ws : List Nat) : (State.scan n s ws).fo = s.fo := by
  induction n generalizing s ws with
  | zero => rfl
  | succ n ih =>
    cases ws with
    | nil => rfl
    | cons w ws =>
      simp only [State.scan]
      split
      · exact ih _ _
      · exact (ih _ _).trans (scanWord_fo ..)

/-! ### Waiting cores -/

theorem State.coreTake_fo (s : State) (key : Nat) : (s.coreTake key).1.fo = s.fo := by
  simp only [State.coreTake]
  split
  · exact State.modGlade_fo ..
  · exact (State.setHomeBit_fo ..).trans (State.foldLine_fo ..)

theorem State.serveCore_fo {s t : State} {ws : List Nat} (h : s.serveCore = some (t, ws)) : t.fo = s.fo := by
  simp only [State.serveCore] at h
  split at h
  · cases h
  · split at h
    · obtain ⟨rfl, -⟩ := Prod.mk.inj (Option.some.inj h)
      exact State.coreTake_fo ..
    · cases h
      rfl

theorem wakeGo_fo (n : Nat) (s : State) (ws : List Nat) : (wakeGo n s ws).fo = s.fo := by
  induction n generalizing s ws with
  | zero => rfl
  | succ n ih =>
    simp only [wakeGo]
    split
    · exact (ih _ _).trans ((State.serveCore_fo ‹_›).trans (State.scan_fo ..))
    · exact State.scan_fo ..

/-- A wake leaves the Forester as it was. -/
@[simp] theorem State.wake_fo (s : State) (ws : List Nat) : (s.wake ws).fo = s.fo := wakeGo_fo ..

end Sys2Proof.Machine

/-!
PROOF. Boot, resets, layouts, power, patrol, sessions and the SPDM exchange of the Forester (22 R360, R361, R362, 23 R363, R367,
R368, R370, R371, R373, R374, R375; assumptions 12 and 38).
-/
namespace Sys2Proof.Machine

theorem exec_powerOnBoot (s : State) : exec .powerOnBoot s = .next s.boot := rfl
theorem exec_foresterReset (s : State) : exec .foresterReset s = .next s.foresterReset := rfl
theorem exec_powerStep (s : State) : exec .powerStep s = .next (s.powerStep s.cur.n s.cur.k) := rfl
theorem exec_patrolScrub (s : State) : exec .patrolScrub s = .next (s.patrol s.cur.n s.cur.flag s.cur.flag2) := rfl
theorem exec_operatorCertificateInstall (s : State) : exec .operatorCertificateInstall s = .next s.certInstall := rfl
theorem exec_debugAuthorisation (s : State) : exec .debugAuthorisation s = .next (s.debugAuth s.cur.n s.cur.flag) := rfl
theorem exec_sharedSetDeclaration (s : State) :
    exec .sharedSetDeclaration s = .next (s.shareRange s.cur.n s.cur.k s.cur.rid) := rfl

/-! ### Boot (R360) -/

theorem State.boot_of_off {s : State} (h : s.fo.st = .off) :
    s.boot = if s.slotOk s.fo.flashA = true then s.startForester s.fo.flashA
      else if s.slotOk s.fo.flashB = true then s.startForester s.fo.flashB
      else { s with fo := { s.fo with st := .recovery } } :=
  if_neg (not_not_intro h)

/-! ### M outlives a reset (R362)

No frame that is cleaned, no layout that is resolved and no mark that is made extends the measurement register. -/

theorem State.noticeFill_fo (s : State) (t : Nat) : (s.noticeFill t).fo = s.fo := by
  simp only [State.noticeFill]
  split
  · rfl
  · split
    · simp only [State.wake_fo, State.homeFill, State.homeEff_fo, State.foldLine_fo]
    · rfl

theorem State.notice_meas (s : State) (t : Nat) (w : W64) : (s.notice t w).fo.meas = s.fo.meas :=
  (congrArg Forester.meas (State.noticeFill_fo ..)).trans rfl

theorem State.retireFrame_meas (s : State) (f : Nat) : (s.retireFrame f).2.fo.meas = s.fo.meas := by
  simp only [State.retireFrame]
  split
  · rfl
  · split <;> rfl

theorem State.markFrame_meas (s : State) (f : Nat) : (s.markFrame f).fo.meas = s.fo.meas := by
  simp only [State.markFrame]
  split
  · rfl
  · split
    · rfl
    · split
      · exact State.retireFrame_meas ..
      · exact State.notice_meas ..
      · rfl

theorem State.releaseMarks_meas (s : State) : s.releaseMarks.fo.meas = s.fo.meas :=
  (foldl_keeps (·.fo.meas) _ (fun t f => t.markFrame_meas f) _ _).trans
    (foldl_keeps (·.fo.meas) _ (fun t f => t.retireFrame_meas f) _ _)

theorem State.scrub_meas (s : State) (f : Nat) : (s.scrub f).fo.meas = s.fo.meas := by
  simp only [State.scrub]
  split
  · rfl
  · split
    · rfl
    · split
      · split
        · rename_i t h
          exact (State.notice_meas ..).trans ((congrArg (fun q : Bool × State => q.2.fo.meas) h).symm.trans (State.retireFrame_meas ..))
        · rename_i t h
          exact (congrArg (fun q : Bool × State => q.2.fo.meas) h).symm.trans (State.retireFrame_meas ..)
      · rfl

theorem State.applyLayout_meas (s : State) (rs : List JRec) : (s.applyLayout rs).fo.meas = s.fo.meas := by
  refine foldl_keeps (·.fo.meas) _ (fun t r => ?_) _ _
  simp only
  split
  · rfl
  · split <;> rfl

theorem State.rollIsland_meas (s : State) (j : List JRec) (i : Nat) : (s.rollIsland j i).fo.meas = s.fo.meas := by
  simp only [State.rollIsland]
  split
  · rfl
  · split <;> rfl

theorem State.layoutRecovery_meas (s : State) : s.layoutRecovery.fo.meas = s.fo.meas := by
  simp only [State.layoutRecovery]
  refine (foldl_keeps (·.fo.meas) _ (fun t i => t.rollIsland_meas _ i) (List.range islands) _).trans ?_
  split
  · exact State.applyLayout_meas ..
  · rfl

/-! ### A reset of the Forester (R362) -/

theorem State.foresterReset_of_up {s : State} (h : s.fo.st = .up) :
    s.foresterReset = { s with fo := { s.fo with st := .down } } := by
  simp only [State.foresterReset, h]

/-- The frames that a reset of the Forester cleans again. -/
def State.rescrub (s : State) : State := s.frames.foldl (fun t q => if q.2.st = .scrubbing then t.scrub q.1 else t) s

theorem State.foresterReset_of_down {s laid : State} (h : s.fo.st = .down) (hlaid : s.rescrub.layoutRecovery = laid) :
    s.foresterReset = State.releaseMarks { laid with fo := { laid.fo with st := .up } } := by
  subst hlaid
  simp only [State.foresterReset, h, State.rescrub]

theorem State.rescrub_meas (s : State) : s.rescrub.fo.meas = s.fo.meas := by
  refine foldl_keeps (·.fo.meas) _ (fun t q => ?_) _ s
  split
  · exact State.scrub_meas ..
  · rfl

/-- A reset of the Forester leaves the measurement register as it was (R362). -/
theorem State.restart_meas {s laid : State} (hlaid : s.rescrub.layoutRecovery = laid) :
    (State.releaseMarks { laid with fo := { laid.fo with st := .up } }).fo.meas = s.fo.meas :=
  (State.releaseMarks_meas _).trans
    ((congrArg (·.fo.meas) hlaid.symm).trans (s.rescrub.layoutRecovery_meas.trans s.rescrub_meas))

/-! ### A layout at a restart (R367) -/

theorem State.rollIsland_glades (s : State) (j : List JRec) (i : Nat) : (s.rollIsland j i).glades = s.glades := by
  simp only [State.rollIsland]
  split
  · rfl
  · split <;> rfl

@[simp] theorem State.island_setIsland_same (s : State) (i : Nat) (x : Island) : (s.setIsland i x).island i = x :=
  Store.getD_set_same ..

theorem State.island_setIsland_other (s : State) {i k : Nat} (x : Island) (h : i ≠ k) : (s.setIsland k x).island i = s.island i :=
  Store.getD_set_other _ _ _ h

theorem State.rollIsland_of_settled {s : State} {i : Nat} (j : List JRec) (h : (s.island i).st ≠ .pending) : s.rollIsland j i = s :=
  if_pos h

theorem State.rollIsland_other (s : State) (j : List JRec) {i k : Nat} (h : i ≠ k) : (s.rollIsland j k).island i = s.island i := by
  simp only [State.rollIsland]
  split
  · rfl
  · split <;> exact State.island_setIsland_other _ _ h

theorem State.rollIsland_settles (s : State) (j : List JRec) (i : Nat) : ((s.rollIsland j i).island i).st ≠ .pending := by
  simp only [State.rollIsland]
  split
  · assumption
  · split
    · rw [State.island_setIsland_same]
      split <;> exact nofun
    · rw [State.island_setIsland_same]
      exact nofun

theorem State.rollIsland_keeps_settled {s : State} {i : Nat} (j : List JRec) (k : Nat) (h : (s.island i).st ≠ .pending) :
    ((s.rollIsland j k).island i).st ≠ .pending := by
  by_cases hik : i = k
  · subst hik
    rwa [State.rollIsland_of_settled j h]
  · rwa [State.rollIsland_other s j hik]

/-- Once every island of a list has gone back, none of them is PENDING. -/
theorem State.rollIslands_settled (j : List JRec) (i : Nat) (l : List Nat) (s : State) (h : i ∈ l ∨ (s.island i).st ≠ .pending) :
    ((l.foldl (fun s i => s.rollIsland j i) s).island i).st ≠ .pending := by
  induction l generalizing s with
  | nil => exact h.resolve_left List.not_mem_nil
  | cons k l ih =>
    refine ih _ ?_
    rcases h with h | h
    · rcases List.mem_cons.mp h with rfl | h
      · exact .inr (State.rollIsland_settles s j i)
      · exact .inl h
    · exact .inr (State.rollIsland_keeps_settled j k h)

theorem State.layoutRecovery_settled (s : State) {i : Nat} (h : i < 24) : (s.layoutRecovery.island i).st ≠ .pending := by
  have hroll : ∀ t : State, (((List.range islands).foldl (fun t i => t.rollIsland s.fo.journal i) t).island i).st ≠ .pending :=
    fun t => State.rollIslands_settled _ i _ t (.inl (List.mem_range.mpr h))
  simp only [State.layoutRecovery]
  simp only [State.island] at hroll ⊢
  exact hroll _

theorem State.layoutRecovery_glades (s : State) : s.layoutRecovery.glades =
    (if layoutWhole s.fo.journal (topSeq s.fo.journal) = true ∧ s.fo.lastSeq < topSeq s.fo.journal then
      s.applyLayout (prepsOf s.fo.journal (topSeq s.fo.journal)) else s).glades := by
  simp only [State.layoutRecovery]
  exact foldl_keeps (·.glades) _ (fun t i => t.rollIsland_glades _ i) (List.range islands) _

theorem mem_liveJournal {j : List JRec} {r : JRec} (h : r ∈ liveJournal j) : r.ok = true ∧ layoutWhole j r.seq = true :=
  (Bool.and_eq_true _ _).mp (List.mem_filter.mp h).2

/-! ### Power (R368) -/

/-- The frequency step that an island takes. -/
def Island.steps (x : Island) (avg : Nat) : Nat :=
  if x.capw < avg then (if x.fmin < x.fcur then x.fcur - 1 else x.fcur)
  else if avg * 10 < x.capw * 9 then min 16 (x.fcur + 1) else x.fcur

theorem State.powerStep_of_due {s : State} {i avg : Nat} (hi : i < 24) (hdue : 110000 ≤ (s.fo.ticks - (s.island i).stepAt).toNat) :
    s.powerStep i avg = s.setIsland i { s.island i with
      avg := avg, fcur := (s.island i).steps avg, stepAt := s.fo.ticks,
      thr := decide ((s.island i).steps avg = (s.island i).fmin) && decide ((s.island i).capw < avg) } :=
  if_neg (not_or.mpr ⟨Nat.not_le.mpr hi, Nat.not_lt.mpr hdue⟩)

/-! ### Patrol (R374, R375) -/

theorem State.patrol_of_quiet {s : State} {f : Nat} : s.patrol f false false = s := by
  simp only [State.patrol]
  split <;> rfl

theorem State.patrol_of_uncorrectable {s : State} {f : Nat} (h : f < dramFrames) : s.patrol f false true = s.markFrame f :=
  if_neg (Nat.not_le.mpr h)

/-- The first correction in a frame is noted and marks nothing. -/
theorem State.patrol_of_first {s : State} {f : Nat} (h : f < dramFrames) (hce : (s.frame f).ce = []) :
    s.patrol f true false =
      (s.modRas (chanOfFrame f) fun r => { r with pce := satAdd r.pce }).setFrame f { s.frame f with ce := [s.fo.ticks] } := by
  have hce' : ((s.modRas (chanOfFrame f) fun r => { r with pce := satAdd r.pce }).frame f).ce = [] := hce
  refine (if_neg (Nat.not_le.mpr h)).trans ?_
  simp only [State.corrected, hce', List.filter_nil, List.nil_append, List.length_singleton, if_true, Bool.false_eq_true, if_false]
  rfl

/-! ### Sessions (R363, R370, R371) -/

theorem State.ownSession_of_other {s : State} {t : Nat} (h : s.fo.peer ≠ t) : s.ownSession t = false := by
  simp only [State.ownSession, decide_eq_false h, Bool.and_false, Bool.false_and]

theorem State.ownSession_of_own {s : State} {t : Nat} (hses : s.fo.spdm = .session) (hpeer : s.fo.peer = t)
    (hconf : (s.tenant t).confidential = true) : s.ownSession t = true := by
  simp only [State.ownSession, hses, hpeer, hconf, decide_true, Bool.and_self]

theorem State.ownSession_iff (s : State) (t : Nat) :
    s.ownSession t = true ↔ s.fo.spdm = .session ∧ s.fo.peer = t ∧ (s.tenant t).confidential = true := by
  simp only [State.ownSession, Bool.and_eq_true, decide_eq_true_eq, and_assoc]

theorem State.certInstall_of_may {s : State} (hup : s.fo.st = .up) (hses : s.fo.spdm = .session)
    (h : s.fo.cert = none ∨ s.cur.flag = true) : s.certInstall = { s with fo := { s.fo with cert := some s.cur.bytes } } :=
  if_pos ⟨hup, hses, h.imp_left fun h => Option.isNone_iff_eq_none.mpr h⟩

theorem State.certInstall_of_other {s : State} (hcert : s.fo.cert ≠ none) (hflag : s.cur.flag = false) : s.certInstall = s :=
  if_neg fun h => h.2.2.elim (fun h => hcert (Option.isNone_iff_eq_none.mp h)) (Bool.eq_false_iff.mp hflag)

theorem State.debugAuth_of_other {s : State} {t : Nat} {on : Bool} (h : s.ownSession t = false) : s.debugAuth t on = s :=
  if_neg fun ⟨_, h'⟩ => Bool.eq_false_iff.mp h h'

theorem State.debugAuth_of_own {s : State} {t : Nat} {on : Bool} (hup : s.fo.st = .up) (h : s.ownSession t = true) :
    s.debugAuth t on = s.setTenant t { s.tenant t with debugOk := on } := if_pos ⟨hup, h⟩

theorem State.shareRange_of_other {s : State} {t b n : Nat} (h : s.ownSession t = false) : s.shareRange t b n = s :=
  if_neg fun ⟨_, h', _⟩ => Bool.eq_false_iff.mp h h'

theorem State.shareRange_of_own {s : State} {t b n : Nat} (hup : s.fo.st = .up) (h : s.ownSession t = true)
    (hroom : (s.tenant t).shared.length < 256) :
    s.shareRange t b n = s.setTenant t { s.tenant t with shared := (s.tenant t).shared ++ [(b, n)] } := if_pos ⟨hup, h, hroom⟩

/-! ### The SPDM exchange (R361, R373) -/

theorem exec_getVersion (s : State) : exec .getVersion s = execGetVersion s := rfl
theorem exec_getCapabilities (s : State) : exec .getCapabilities s = execGetCapabilities s := rfl
theorem exec_negotiateAlgorithms (s : State) : exec .negotiateAlgorithms s = execNegotiateAlgorithms s := rfl
theorem exec_getDigests (s : State) : exec .getDigests s = execGetDigests s := rfl
theorem exec_getCertificate (s : State) : exec .getCertificate s = execGetCertificate s := rfl
theorem exec_challenge (s : State) : exec .challenge s = execChallenge s := rfl
theorem exec_getMeasurements (s : State) : exec .getMeasurements s = execGetMeasurements s := rfl
theorem exec_keyExchange (s : State) : exec .keyExchange s = execKeyExchange s := rfl
theorem exec_finish (s : State) : exec .finish s = execFinish s := rfl

/-- A request in its place extends the transcript, moves the exchange on and is answered. -/
theorem spdm_of_phase {code : Nat} {from_ : List SpdmSt} {nextSt : SpdmSt → SpdmSt} {s : State} {body : State → List Byte} {peer : Nat}
    (hup : s.fo.st = .up) (hphase : s.fo.spdm ∈ from_) {tr bs : List Byte}
    (htr : (if code = 0x84 then [] else s.fo.transcript) ++ s.cur.bytes = tr)
    (hbs : body { s with fo := { s.fo with transcript := tr, spdm := nextSt s.fo.spdm, peer := peer } } = bs) :
    spdm code from_ nextSt s body peer = .next { s with fo := { s.fo with
      transcript := tr ++ bs, spdm := nextSt s.fo.spdm, peer := peer, spdmAnswer := some (code % 128, bs) } } := by
  subst htr hbs
  have hin : ¬(!from_.contains s.fo.spdm) = true := by
    rw [List.contains_iff_mem.mpr hphase]
    exact Bool.false_ne_true
  exact (if_neg (not_not_intro hup)).trans (if_neg hin)

/-- A request out of order is answered with an error and starts nothing. -/
theorem spdm_of_disorder {code : Nat} {from_ : List SpdmSt} {nextSt : SpdmSt → SpdmSt} {s : State} {body : State → List Byte} {peer : Nat}
    (hup : s.fo.st = .up) (hphase : s.fo.spdm ∉ from_) :
    spdm code from_ nextSt s body peer = .next { s with fo := { s.fo with spdmAnswer := some (0x7F, []) } } := by
  have hout : (!from_.contains s.fo.spdm) = true := by
    rw [Bool.not_eq_true', Bool.eq_false_iff]
    exact fun h => hphase (List.contains_iff_mem.mp h)
  exact (if_neg (not_not_intro hup)).trans (if_pos hout)

theorem SpdmSt.mem_all (q : SpdmSt) : q ∈ [SpdmSt.start, .version, .caps, .negotiated, .exchanging, .session] := by
  cases q <;> decide

theorem mem_spdmReady {q : SpdmSt} : q ∈ spdmReady ↔ q = .negotiated ∨ q = .exchanging ∨ q = .session := by
  simp only [spdmReady, List.mem_cons, List.not_mem_nil, or_false]

theorem State.measBlock_four {s : State} (h : s.measBlock 4 ≠ []) :
    s.fo.spdm = .session ∧ (s.tenant s.fo.peer).confidential = true := by
  have hown : s.ownSession s.fo.peer = true := Decidable.byContradiction fun hno => h (if_neg hno)
  obtain ⟨hses, -, hconf⟩ := (State.ownSession_iff s _).mp hown
  exact ⟨hses, hconf⟩

/-- Settles O49: each step of the Forester by its own lemma. -/
theorem foresterSteps : Obligations.ForesterSteps := by
  refine ⟨fun s => ⟨fun hoff => ?boot, fun hup => ?halt, fun hdown => ?restart, ⟨fun i hi => ?settled, rfl, fun r hr => ?live,
      fun hwhole hnew => ?forward, fun hpart => ?back⟩, fun hi hdue => ⟨fun hcap hmin => ?slower, fun hcap hmin => ?slowest,
      fun hcap hmax => ?faster⟩, fun hf hquiet hce => ⟨fun hcorr => ?corrected, fun hcorr => ?quiet⟩, fun hf hcorr hunc => ?mark,
      fun hup hses => ⟨fun hmay => ?cert, fun hcert hflag => ?nocert, fun hpeer => ⟨?nodebug, ?noshare⟩,
        fun hpeer hconf => ⟨?debug, fun hroom => ?share⟩⟩⟩,
    fun s => ?spdm, fun s => ⟨rfl, State.measBlock_four⟩⟩
  case boot => exact (exec_powerOnBoot s).trans (congrArg Host.Outcome.next (State.boot_of_off hoff))
  case halt => exact (exec_foresterReset s).trans (congrArg Host.Outcome.next (State.foresterReset_of_up hup))
  case restart =>
    intro clean laid
    have hlaid : s.rescrub.layoutRecovery = laid := rfl
    clear_value laid
    exact ⟨(exec_foresterReset s).trans (congrArg Host.Outcome.next (State.foresterReset_of_down hdown hlaid)),
      State.restart_meas hlaid⟩
  case settled => exact s.layoutRecovery_settled hi
  case live => exact mem_liveJournal hr
  case forward => exact s.layoutRecovery_glades.trans (congrArg State.glades (if_pos ⟨hwhole, hnew⟩))
  case back =>
    exact s.layoutRecovery_glades.trans (congrArg State.glades (if_neg fun h => Bool.eq_false_iff.mp hpart h.1))
  case slower =>
    have hstep : (s.island s.cur.n).steps s.cur.k = (s.island s.cur.n).fcur - 1 := (if_pos hcap).trans (if_pos hmin)
    rw [exec_powerStep, State.powerStep_of_due hi hdue, hstep, decide_eq_true hcap, Bool.and_true]
  case slowest =>
    have hstep : (s.island s.cur.n).steps s.cur.k = (s.island s.cur.n).fcur := (if_pos hcap).trans (if_neg (Nat.not_lt.mpr hmin))
    rw [exec_powerStep, State.powerStep_of_due hi hdue, hstep, decide_eq_true hcap, Bool.and_true]
  case faster =>
    have hunder : ¬(s.island s.cur.n).capw < s.cur.k := by omega
    have hstep : (s.island s.cur.n).steps s.cur.k = (s.island s.cur.n).fcur + 1 :=
      (if_neg hunder).trans ((if_pos hcap).trans (Nat.min_eq_right hmax))
    rw [exec_powerStep, State.powerStep_of_due hi hdue, hstep, decide_eq_false hunder, Bool.and_false]
  case corrected => rw [exec_patrolScrub, hcorr, hquiet, State.patrol_of_first hf hce]
  case quiet => rw [exec_patrolScrub, hcorr, hquiet, State.patrol_of_quiet]
  case mark => rw [exec_patrolScrub, hcorr, hunc, State.patrol_of_uncorrectable hf]
  case cert => rw [exec_operatorCertificateInstall, State.certInstall_of_may hup hses hmay]
  case nocert => rw [exec_operatorCertificateInstall, State.certInstall_of_other hcert hflag]
  case nodebug => rw [exec_debugAuthorisation, State.debugAuth_of_other (State.ownSession_of_other hpeer)]
  case noshare => rw [exec_sharedSetDeclaration, State.shareRange_of_other (State.ownSession_of_other hpeer)]
  case debug => rw [exec_debugAuthorisation, State.debugAuth_of_own hup (State.ownSession_of_own hses hpeer hconf)]
  case share => rw [exec_sharedSetDeclaration, State.shareRange_of_own hup (State.ownSession_of_own hses hpeer hconf) hroom]
  case spdm =>
    intro tr at_ gives ready hup
    refine ⟨?version, fun h => ?caps, fun h => ?algorithms, ?rest⟩
    case version => exact (exec_getVersion s).trans (spdm_of_phase hup (SpdmSt.mem_all _) rfl rfl)
    case caps => exact (exec_getCapabilities s).trans (spdm_of_phase hup (List.mem_singleton.mpr h) rfl rfl)
    case algorithms => exact (exec_negotiateAlgorithms s).trans (spdm_of_phase hup (List.mem_singleton.mpr h) rfl rfl)
    intro slot0 signed
    refine ⟨fun h => ?digests, fun h => ?certificate, fun h => ?challenge, fun h => ?measurements, fun h => ?key, fun h => ?finish, ?refusals⟩
    case digests => exact (exec_getDigests s).trans (spdm_of_phase hup (mem_spdmReady.mpr h) rfl rfl)
    case certificate => exact (exec_getCertificate s).trans (spdm_of_phase hup (mem_spdmReady.mpr h) rfl rfl)
    case challenge => exact (exec_challenge s).trans (spdm_of_phase hup (mem_spdmReady.mpr h) rfl rfl)
    case measurements => exact (exec_getMeasurements s).trans (spdm_of_phase hup (mem_spdmReady.mpr h) rfl rfl)
    case key => exact (exec_keyExchange s).trans (spdm_of_phase hup (List.mem_singleton.mpr h) rfl rfl)
    case finish => exact (exec_finish s).trans (spdm_of_phase hup (List.mem_singleton.mpr h) rfl rfl)
    intro refused
    have hready : ¬ready → s.fo.spdm ∉ spdmReady := fun h => h ∘ mem_spdmReady.mp
    have honly : ∀ q, s.fo.spdm ≠ q → s.fo.spdm ∉ [q] := fun _ h => h ∘ List.mem_singleton.mp
    exact ⟨fun h => (exec_getCapabilities s).trans (spdm_of_disorder hup (honly _ h)),
      fun h => (exec_negotiateAlgorithms s).trans (spdm_of_disorder hup (honly _ h)),
      fun h => ⟨(exec_getDigests s).trans (spdm_of_disorder hup (hready h)),
        (exec_getCertificate s).trans (spdm_of_disorder hup (hready h)),
        (exec_challenge s).trans (spdm_of_disorder hup (hready h)),
        (exec_getMeasurements s).trans (spdm_of_disorder hup (hready h))⟩,
      fun h => (exec_keyExchange s).trans (spdm_of_disorder hup (honly _ h)),
      fun h => (exec_finish s).trans (spdm_of_disorder hup (honly _ h))⟩

end Sys2Proof.Machine

/-!
PROOF. Every step keeps memory in its canonical form (assumption 3). Memory changes only by `Memory.write` and, in a scrubbed
frame, by `List.filter`, and both keep it canonical (Laws/Memory). Operation by operation, in the model's order: one that
writes no memory leaves it as it was (`_mem`), one that may write keeps it canonical (`wf_`); each cites the operations that it
calls. At the end the results of instructions, the moves, and the step.
-/
namespace Sys2Proof.Machine

/-! ### Folds and pairs -/

/-- A fold of updates that leave memory as it was. -/
theorem foldl_mem {α : Type} {f : State → α → State} (hf : ∀ s a, (f s a).mem = s.mem) (l : List α) (s : State) :
    (l.foldl f s).mem = s.mem :=
  foldl_keeps (·.mem) f hf l s

/-- The same of a fold that carries a state and something else. -/
theorem foldl_mem_proj {α β : Type} {st : β → State} {f : β → α → β} (hf : ∀ b a, (st (f b a)).mem = (st b).mem) (l : List α) (b : β) :
    (st (l.foldl f b)).mem = (st b).mem := by
  induction l generalizing b with
  | nil => rfl
  | cons a l ih => rw [List.foldl_cons, ih, hf]

theorem foldl_wf_proj {α β : Type} {st : β → State} {f : β → α → β}
    (hf : ∀ b a, Memory.wf (st b).mem = true → Memory.wf (st (f b a)).mem = true) (l : List α) (b : β)
    (h : Memory.wf (st b).mem = true) : Memory.wf (st (l.foldl f b)).mem = true := by
  induction l generalizing b with
  | nil => exact h
  | cons a l ih => exact ih _ (hf b a h)

/-- The state of a pair that a match has taken apart. -/
theorem mem_of_snd {α : Type} {p : α × State} {a : α} {s t : State} (hp : p = (a, t)) (h : p.2.mem = s.mem) : t.mem = s.mem := by
  rw [hp] at h; exact h

theorem wf_of_snd {α : Type} {p : α × State} {a : α} {t : State} (hp : p = (a, t)) (h : Memory.wf p.2.mem = true) :
    Memory.wf t.mem = true := by
  rw [hp] at h; exact h

/-! ### Machine/Ops.lean -/

@[simp] theorem State.fresh_mem (s : State) : s.fresh.2.mem = s.mem := by rfl
@[simp] theorem State.freeIx_mem (s : State) : s.freeIx.2.mem = s.mem := by rfl
@[simp] theorem State.swap_mem (s : State) (pl : PlaneId) (k : Nat) : (s.swap pl k).mem = s.mem := by
  simp only [State.swap]
  split <;> simp
@[simp] theorem State.onPlane_mem (s : State) (pl : PlaneId) (l : Nat) (f : State → State) (hf : ∀ t, (f t).mem = t.mem) :
    (s.onPlane pl l f).mem = s.mem := by
  simp only [State.onPlane]
  split <;> simp [hf]
@[simp] theorem State.standing_mem (s : State) (pl : PlaneId) (l : Nat) : (s.standing pl l).mem = s.mem := by
  simp only [State.standing]
  split <;> simp
@[simp] theorem State.askRung_mem (s : State) (lid r fid : Nat) : (s.askRung lid r fid).mem = s.mem := by
  simp [State.askRung]
@[simp] theorem State.defaultAction_mem (s : State) (f : FaultRec) : (s.defaultAction f).mem = s.mem := by
  simp only [State.defaultAction]
  split <;> simp
@[simp] theorem State.raise_mem (s : State) (cls : FCls) (lid : Nat) (charged : Option PlaneId) (where_ : PlaneId) (src : FSrc) (code : Nat) (req : Bool) (blk slot ch ord : Nat) (info : W64) (noHandler : Bool) :
    (s.raise cls lid charged where_ src code req blk slot ch ord info noHandler).2.mem = s.mem := by
  simp only [State.raise]
  split <;> simp
@[simp] theorem State.tell_mem (s : State) (fid : Nat) (core : Option Nat) : (s.tell fid core).mem = s.mem := by
  simp only [State.tell]
  (repeat' split) <;> simp
@[simp] theorem State.refill_mem (s : State) (g : Nat) : (s.refill g).mem = s.mem :=
  foldl_mem (fun t f => by simp) _ _
@[simp] theorem State.dropFault_mem (s : State) (fid : Nat) : (s.dropFault fid).mem = s.mem := by
  simp only [State.dropFault]
  split <;> simp

/-! ### Machine/Operands.lean -/

@[simp] theorem State.count_mem (s : State) (pl : PlaneId) (code : Nat) (blk : BitVec 16) (slot : Nat) :
    (s.count pl code blk slot).mem = s.mem := by
  simp only [State.count]
  split
  · rfl
  · refine foldl_mem (fun t n => ?_) _ _
    split <;> simp
@[simp] theorem State.takeSample_mem (s : State) (ix n : Nat) : (s.takeSample ix n).mem = s.mem := by
  simp only [State.takeSample]
  split <;> simp
@[simp] theorem State.blockFault_mem (s : State) (pl : PlaneId) (cls : FCls) (code slot : Nat) (info : W64) :
    (s.blockFault pl cls code slot info).mem = s.mem := by
  simp only [State.blockFault]
  split <;> simp

/-! ### Machine/Translate.lean -/

@[simp] theorem State.cacheLeaf_mem (s : State) (port : Nat) (l : Leaf) : (s.cacheLeaf port l).mem = s.mem := by
  simp only [State.cacheLeaf]
  split <;> simp
@[simp] theorem State.xlate_mem (s : State) (port : Nat) (asid : BitVec 16) (va : Nat) (write : Bool) :
    (s.xlate port asid va write).2.mem = s.mem := by
  simp only [State.xlate]
  (repeat' split) <;> simp
@[simp] theorem State.xlateAll_mem (s : State) (port : Nat) (asid : BitVec 16) (write : Bool) (vas : List Nat) :
    (s.xlateAll port asid write vas).2.mem = s.mem := by
  induction vas generalizing s with
  | nil => rfl
  | cons va vas ih =>
    unfold State.xlateAll
    grind [State.xlate_mem]
@[simp] theorem State.xlateRange_mem (s : State) (port : Nat) (asid : BitVec 16) (va n : Nat) (write : Bool) :
    (s.xlateRange port asid va n write).2.mem = s.mem := by
  simp [State.xlateRange]
@[simp] theorem State.pageHold_mem (s : State) (lid : Nat) : (s.pageHold lid).mem = s.mem := by
  simp [State.pageHold]
@[simp] theorem State.takeEntry_mem (s : State) (e : PrqEnt) : (s.takeEntry e).2.mem = s.mem := by
  simp [State.takeEntry]
@[simp] theorem State.postPage_mem (s : State) (lid port va level : Nat) (kind : PKind) :
    (s.postPage lid port va level kind).2.mem = s.mem := by
  simp only [State.postPage]
  (repeat' split) <;> simp

/-! ### Machine/View.lean -/

@[simp] theorem State.sign_mem (s : State) (lid va : Nat) : (s.sign lid va).mem = s.mem := by
  simp [State.sign]
@[simp] theorem State.conflict_mem (s : State) (lid : Nat) : (s.conflict lid).mem = s.mem := by
  simp [State.conflict]
@[simp] theorem State.commitTest_mem (s : State) (lid va : Nat) : (s.commitTest lid va).mem = s.mem := by
  simp only [State.commitTest]
  (repeat' split) <;> simp [foldl_mem]
@[simp] theorem State.writeTest_mem (s : State) (lid line : Nat) : (s.writeTest lid line).mem = s.mem := by
  simp only [State.writeTest]
  split
  · rfl
  · refine foldl_mem (fun t q => ?_) _ _
    split <;> simp
@[simp] theorem State.wf_direct {s : State} (e : MEff) (h : Memory.wf s.mem = true) : Memory.wf (s.direct e).mem = true := by
  simp [State.direct, State.wf_homeEff, State.wf_foldLine, h]
@[simp] theorem State.wf_putEff {s : State} (lid cut : Nat) (imm : Bool) (va : Nat) (e : MEff) (h : Memory.wf s.mem = true) :
    Memory.wf (s.putEff lid cut imm va e).mem = true := by
  simp only [State.putEff]
  (repeat' split) <;> simp [h]
@[simp] theorem State.wf_lineHome {s : State} (b : BankLine) (h : Memory.wf s.mem = true) :
    Memory.wf (s.lineHome b).mem = true := by
  simp only [State.lineHome]
  split
  · exact foldl_wf _ (fun t e ht => State.wf_putEff _ _ _ _ _ ht) _ _ h
  · rw [foldl_mem fun t l => State.commitTest_mem ..]
    exact foldl_wf _ (fun t e ht => State.wf_direct _ ht) _ _ h
@[simp] theorem State.wf_flushBank {s : State} (keep : Bool) (pick : BankLine → Bool) (h : Memory.wf s.mem = true) :
    Memory.wf (s.flushBank keep pick).mem = true := by
  exact foldl_wf _ (fun t b => State.wf_lineHome b) _ _ h
@[simp] theorem State.wf_flushLine {s : State} (g line : Nat) (h : Memory.wf s.mem = true) :
    Memory.wf (s.flushLine g line).mem = true := by
  simp [State.flushLine, h]
@[simp] theorem State.wf_mergeLine {s : State} (g line : Nat) (h : Memory.wf s.mem = true) :
    Memory.wf (s.mergeLine g line).mem = true := by
  simp [State.mergeLine, h]
@[simp] theorem State.wf_flushPlane {s : State} (pl : PlaneId) (h : Memory.wf s.mem = true) :
    Memory.wf (s.flushPlane pl).mem = true := by
  simp [State.flushPlane, h]
@[simp] theorem State.putBank_mem (s : State) (b : BankLine) : (s.putBank b).mem = s.mem := by rfl
@[simp] theorem State.touch_mem (s : State) (pl : PlaneId) (line : Nat) : (s.touch pl line).mem = s.mem := by rfl
@[simp] theorem State.wf_bankFor {s : State} (g line : Nat) (owner : Option Nat) (cut : Nat) (clash : BankLine → Bool) (h : Memory.wf s.mem = true) :
    Memory.wf (s.bankFor g line owner cut clash).mem = true := by
  simp [State.bankFor, h]
@[simp] theorem State.wf_actorEff {s : State} (pl : PlaneId) (lid : Nat) (imm : Bool) (va : Nat) (e : MEff) (h : Memory.wf s.mem = true) :
    Memory.wf (s.actorEff pl lid imm va e).mem = true := by
  simp only [State.actorEff]
  (repeat' split) <;> simp [h]
@[simp] theorem State.bringLine_mem (s : State) (g line : Nat) (imm : Bool) : (s.bringLine g line imm).mem = s.mem := by
  simp only [State.bringLine]
  split <;> simp
@[simp] theorem State.wf_loadLine {s : State} (pl : PlaneId) (imm : Bool) (line : Nat) (h : Memory.wf s.mem = true) :
    Memory.wf (s.loadLine pl imm line).mem = true := by
  simp only [State.loadLine]
  split <;> simp [h]
@[simp] theorem State.fillPlace_mem (s : State) (pl : PlaneId) (rid : Nat) (t : Token) : (s.fillPlace pl rid t).mem = s.mem := by
  rfl
@[simp] theorem State.modReq_mem (s : State) (pl : PlaneId) (rid : Nat) (f : Req → Req) : (s.modReq pl rid f).mem = s.mem := by
  rfl
@[simp] theorem State.onReq_mem (s : State) (pl : PlaneId) (rid : Nat) (f : State → State) (hf : ∀ t, (f t).mem = t.mem) :
    (s.onReq pl rid f).mem = s.mem := by
  simp only [State.onReq]
  split <;> simp [hf]
theorem State.wf_onReq {s : State} (pl : PlaneId) (rid : Nat) {f : State → State} (h : Memory.wf s.mem = true)
    (hf : ∀ t, Memory.wf t.mem = true → Memory.wf (f t).mem = true) : Memory.wf (s.onReq pl rid f).mem = true := by
  simp only [State.onReq]
  split
  · exact hf _ h
  · simpa using hf _ (by simpa using h)
@[simp] theorem State.finish_mem (s : State) (pl : PlaneId) (r : Req) (t : Token) : (s.finish pl r t).mem = s.mem := by
  simp only [State.finish]
  split <;> simp
@[simp] theorem State.reqFault_mem (s : State) (pl : PlaneId) (r : Req) (cls : FCls) (code : Nat) (info : W64) :
    (s.reqFault pl r cls code info).mem = s.mem := by
  simp only [State.reqFault]
  (repeat' split) <;> simp
@[simp] theorem State.markParked_mem (s : State) (key : Nat) (b : Bool) : (s.markParked key b).mem = s.mem := by rfl
@[simp] theorem State.park_mem (s : State) (r : ParkRec) (keys : List Nat) : (s.park r keys).mem = s.mem := by
  simp only [State.park]
  (repeat' split) <;> simp [foldl_mem]
@[simp] theorem State.unparkWhere_mem (s : State) (pick : ParkRec → Bool) : (s.unparkWhere pick).mem = s.mem := by
  simp only [State.unparkWhere]
  refine (foldl_mem (fun t k => ?_) _ _).trans rfl
  split <;> simp
@[simp] theorem State.unpark_mem (s : State) (pl : PlaneId) (rid : Nat) : (s.unpark pl rid).mem = s.mem := by
  simp [State.unpark]

/-! ### Machine/Requests.lean -/

@[simp] theorem State.holdPage_mem (s : State) (lid : Nat) (pl : PlaneId) (r : Req) (port va level : Nat) (kind : PKind) :
    (s.holdPage lid pl r port va level kind).mem = s.mem := by
  simp [State.holdPage]
@[simp] theorem State.holdLaunch_mem (s : State) (lid : Nat) : (s.holdLaunch lid).mem = s.mem := by
  simp [State.holdLaunch]
@[simp] theorem State.holdAnchor_mem (s : State) (lid : Nat) (pl : PlaneId) (r : Req) (keys : List Nat) :
    (s.holdAnchor lid pl r keys).mem = s.mem := by
  simp only [State.holdAnchor]
  split <;> simp
@[simp] theorem State.overflow_mem (s : State) (lid : Nat) (x : Launch) (pl : PlaneId) (r : Req) :
    (s.overflow lid x pl r).mem = s.mem := by
  simp only [State.overflow]
  split <;> simp
@[simp] theorem State.modCopy_mem (s : State) (cid : Nat) (f : CopyJob → CopyJob) : (s.modCopy cid f).mem = s.mem := by rfl
@[simp] theorem State.copyFault_mem (s : State) (c : CopyJob) (cls : FCls) (code : Nat) (info : W64) :
    (s.copyFault c cls code info).mem = s.mem := by
  simp only [State.copyFault]
  split <;> simp
@[simp] theorem State.cycleScan_mem (s : State) (keys : List Nat) : (s.cycleScan keys).mem = s.mem := by
  simp only [State.cycleScan]
  refine (foldl_mem (fun t c => ?_) _ _).trans (foldl_mem (fun t q => foldl_mem (fun u r => State.onReq_mem _ _ _ _ fun v => ?_) _ _) _ _)
  · split <;> simp
  · split <;> simp

/-! ### Machine/Home.lean -/

@[simp] theorem State.xlate1_mem (s : State) (lid : Nat) (x : Launch) (port va n : Nat) (write : Bool) :
    (s.xlate1 lid x port va n write).2.mem = s.mem := by
  simp only [State.xlate1]
  (repeat' split) <;> simp
@[simp] theorem State.xlateEach_mem (s : State) (lid : Nat) (x : Launch) (port n : Nat) (write : Bool) (vas : List Nat) :
    (s.xlateEach lid x port n write vas).2.mem = s.mem := by
  induction vas generalizing s with
  | nil => rfl
  | cons va vas ih =>
    unfold State.xlateEach
    grind [State.xlate1_mem]
@[simp] theorem State.xlateFor_mem (s : State) (lid : Nat) (x : Launch) (port va n : Nat) (write : Bool) :
    (s.xlateFor lid x port va n write).2.mem = s.mem := by
  simp [State.xlateFor]
@[simp] theorem State.signParts_mem (s : State) (lid : Nat) (ps : List Part) : (s.signParts lid ps).mem = s.mem := by
  refine foldl_mem (fun t p => ?_) _ _
  split <;> simp
@[simp] theorem State.wf_writeParts {s : State} (pl : PlaneId) (lid : Nat) (plain : Bool) (ps : List Part) (bs : List Byte)
    (h : Memory.wf s.mem = true) : Memory.wf (s.writeParts pl lid plain ps bs).mem = true := by
  induction ps generalizing s bs with
  | nil => exact h
  | cons p ps ih =>
    simp only [State.writeParts]
    split <;> exact ih _ (by simp [h])
@[simp] theorem State.wf_fillParts {s : State} (pl : PlaneId) (lid : Nat) (f : Bool) (ps : List Part) (h : Memory.wf s.mem = true) :
    Memory.wf (s.fillParts pl lid f ps).mem = true := by
  exact foldl_wf _ (fun t p ht => foldl_wf _ (fun u w hu => State.wf_putEff _ _ _ _ _ hu) _ _ ht) _ _ h
@[simp] theorem State.wf_flushFor {s : State} (pl : PlaneId) (k : ReqKind) (ps : List Part) (h : Memory.wf s.mem = true) :
    Memory.wf (s.flushFor pl k ps).mem = true := by
  refine foldl_wf _ (fun t p ht => ?_) _ _ h
  (repeat' split) <;> simp [ht]
@[simp] theorem State.wf_doAccess {s : State} (pl : PlaneId) (lid : Nat) (r : Req) (ps : List Part) (h : Memory.wf s.mem = true) :
    Memory.wf (s.doAccess pl lid r ps).1.mem = true := by
  have hsigned : Memory.wf (if r.kind.signs then s.signParts lid ps else s).mem = true := by split <;> simp [h]
  simp only [State.doAccess]
  split <;> simp [hsigned]
@[simp] theorem State.parkReq_mem (s : State) (pl : PlaneId) (lid : Nat) (x : Launch) (r : Req) (form : Nat) (keys : List Nat) (va : Nat) :
    (s.parkReq pl lid x r form keys va).mem = s.mem := by
  simp only [State.parkReq]
  (repeat' split) <;> simp
@[simp] theorem State.wf_accessParts {s : State} (pl : PlaneId) (lid : Nat) (x : Launch) (r : Req) (ps : List Part) (h : Memory.wf s.mem = true) :
    Memory.wf (s.accessParts pl lid x r ps).1.mem = true := by
  simp only [State.accessParts]
  (repeat' split) <;> simp [h]
theorem State.wf_access {s : State} (pl : PlaneId) (lid : Nat) (x : Launch) (r : Req)
    {k : State → List Part → State × List Nat} (h : Memory.wf s.mem = true)
    (hk : ∀ t ps, Memory.wf t.mem = true → Memory.wf (k t ps).1.mem = true) : Memory.wf (s.access pl lid x r k).1.mem = true := by
  unfold State.access
  grind [State.xlateFor_mem, State.reqFault_mem, State.holdPage_mem]
@[simp] theorem State.awaitFound_mem (s : State) (r : ParkRec) : (s.awaitFound r).mem = s.mem := by
  simp only [State.awaitFound]
  (repeat' split) <;> simp
@[simp] theorem State.waitFound_mem (s : State) (r : ParkRec) : (s.waitFound r).mem = s.mem := by
  simp [State.waitFound]
@[simp] theorem State.wf_tryHere {s : State} (r : ParkRec) (h : Memory.wf s.mem = true) :
    ∀ t, s.tryHere r = some t → Memory.wf t.1.mem = true := by
  simp only [State.tryHere]
  (repeat' split) <;> simp [h]
@[simp] theorem State.wf_tryRec {s : State} (r : ParkRec) (h : Memory.wf s.mem = true) :
    ∀ t, s.tryRec r = some t → Memory.wf t.1.mem = true := by
  intro t ht
  simp only [State.tryRec] at ht
  split at ht
  · exact State.wf_tryHere r h t ht
  · obtain ⟨q, hq, rfl⟩ := Option.map_eq_some_iff.mp ht
    simpa using State.wf_tryHere r (by simpa using h) q hq
@[simp] theorem wf_passRecs (rs : List ParkRec) {s : State} (ch : List Nat) (h : Memory.wf s.mem = true) :
    Memory.wf (passRecs rs s ch).1.mem = true := by
  induction rs generalizing s ch with
  | nil => exact h
  | cons r rs ih =>
    simp only [passRecs]
    split
    · exact ih _ (State.wf_tryRec r h _ ‹_›)
    · exact ih _ h
@[simp] theorem State.budgetFault_mem (s : State) (r : ParkRec) (code : Nat) : (s.budgetFault r code).mem = s.mem := by
  unfold State.budgetFault
  grind [State.raise_mem, State.onReq_mem, State.reqFault_mem, State.modGlade_mem]
@[simp] theorem State.loseRound_mem (s : State) (r : ParkRec) : (s.loseRound r).mem = s.mem := by
  simp only [State.loseRound]
  (repeat' split) <;> simp
@[simp] theorem wf_scanWord (n : Nat) {s : State} (key : Nat) (ch : List Nat) (h : Memory.wf s.mem = true) :
    Memory.wf (scanWord n s key ch).1.mem = true := by
  induction n generalizing s ch with
  | zero => exact h
  | succ n ih =>
    simp only [scanWord]
    split
    · exact ih _ (wf_passRecs _ _ h)
    · exact foldl_wf _ (fun t r ht => by simpa using ht) _ _ (wf_passRecs _ _ h)
@[simp] theorem State.wf_scan (n : Nat) {s : State} (ws : List Nat) (h : Memory.wf s.mem = true) :
    Memory.wf (State.scan n s ws).mem = true := by
  induction n generalizing s ws with
  | zero => exact h
  | succ n ih =>
    cases ws with
    | nil => exact h
    | cons w ws =>
      simp only [State.scan]
      split
      · exact ih _ h
      · exact ih _ (wf_scanWord _ _ _ h)
@[simp] theorem State.wf_coreTake {s : State} (key : Nat) (h : Memory.wf s.mem = true) :
    Memory.wf (s.coreTake key).1.mem = true := by
  simp only [State.coreTake]
  split <;> simp [State.wf_foldLine, h]
@[simp] theorem State.wf_serveCore {s : State} (h : Memory.wf s.mem = true) :
    ∀ t, s.serveCore = some t → Memory.wf t.1.mem = true := by
  simp only [State.serveCore]
  (repeat' split) <;> simp [h]
@[simp] theorem wf_wakeGo (n : Nat) {s : State} (ws : List Nat) (h : Memory.wf s.mem = true) :
    Memory.wf (wakeGo n s ws).mem = true := by
  induction n generalizing s ws with
  | zero => exact h
  | succ n ih =>
    simp only [wakeGo]
    split
    · exact ih _ (State.wf_serveCore (State.wf_scan _ _ h) _ ‹_›)
    · exact State.wf_scan _ _ h
@[simp] theorem State.wf_wake {s : State} (ws : List Nat) (h : Memory.wf s.mem = true) : Memory.wf (s.wake ws).mem = true :=
  wf_wakeGo _ _ h
@[simp] theorem State.wf_atomParts (op : AOp) (d : Bool) (pl : PlaneId) (lid : Nat) (x : Launch) (r : Req) {s : State} (ps : List Part) (h : Memory.wf s.mem = true) :
    Memory.wf (State.atomParts op d pl lid x r s ps).1.mem = true := by
  simp only [State.atomParts]
  (repeat' split) <;> simp [h]
@[simp] theorem State.wf_updParts (op : UOp) (d : Bool) (pl : PlaneId) (lid : Nat) (x : Launch) (r : Req) {s : State} (ps : List Part) (h : Memory.wf s.mem = true) :
    Memory.wf (State.updParts op d pl lid x r s ps).1.mem = true := by
  simp only [State.updParts]
  (repeat' split) <;> simp [h]
@[simp] theorem State.wf_foldOwn {s : State} (lid : Nat) (h : Memory.wf s.mem = true) : Memory.wf (s.foldOwn lid).mem = true := by
  simp only [State.foldOwn]
  rw [foldl_mem fun t k => by split <;> simp]
  refine foldl_wf _ (fun t e ht => ?_) _ _ (State.wf_flushBank _ _ h)
  simpa using State.wf_direct _ ht
@[simp] theorem State.wf_anchorRelease {s : State} (l : Nat) (h : Memory.wf s.mem = true) :
    Memory.wf (s.anchorRelease l).mem = true := by
  simp only [State.anchorRelease]
  (repeat' split) <;> simp [h]
@[simp] theorem State.wf_fenceStep {s : State} (pl : PlaneId) (r : Req) (h : Memory.wf s.mem = true) :
    Memory.wf (s.fenceStep pl r).mem = true := by
  simp only [State.fenceStep]
  (repeat' split) <;> simp [h]
@[simp] theorem State.prefStep_mem (s : State) (pl : PlaneId) (x : Launch) (r : Req) : (s.prefStep pl x r).mem = s.mem := by
  unfold State.prefStep
  grind [State.xlate_mem, State.touch_mem, State.bringLine_mem, State.setPort_mem, State.retire_mem]
@[simp] theorem State.wf_wbackStep {s : State} (pl : PlaneId) (x : Launch) (r : Req) (h : Memory.wf s.mem = true) :
    Memory.wf (s.wbackStep pl x r).mem = true := by
  unfold State.wbackStep
  grind [State.xlate_mem, State.wf_flushBank, State.touch_mem, State.bringLine_mem, State.retire_mem]
@[simp] theorem State.wf_evictLine {s : State} (g line : Nat) (h : Memory.wf s.mem = true) :
    Memory.wf (s.evictLine g line).mem = true := by
  simp [State.evictLine, h]

/-! ### Machine/Errors.lean -/

@[simp] theorem State.wf_homeWrite {s : State} (key : Nat) (bs : List Byte) (h : Memory.wf s.mem = true) :
    Memory.wf (s.homeWrite key bs).mem = true := by
  simp [State.homeWrite, State.wf_homeEff, State.wf_foldLine, h]
@[simp] theorem State.wf_homeFill {s : State} (key : Nat) (f : Bool) (h : Memory.wf s.mem = true) :
    Memory.wf (s.homeFill key f).mem = true := by
  simp [State.homeFill, State.wf_homeEff, State.wf_foldLine, h]
@[simp] theorem State.wf_noticeFill {s : State} (t : Nat) (h : Memory.wf s.mem = true) :
    Memory.wf (s.noticeFill t).mem = true := by
  simp only [State.noticeFill]
  (repeat' split) <;> simp [h]
@[simp] theorem State.wf_notice {s : State} (t : Nat) (w : W64) (h : Memory.wf s.mem = true) :
    Memory.wf (s.notice t w).mem = true := by
  simp [State.notice, h]
@[simp] theorem State.modRas_mem (s : State) (ch : Nat) (f : Ras → Ras) : (s.modRas ch f).mem = s.mem := by rfl
@[simp] theorem State.retireFrame_mem (s : State) (f : Nat) : (s.retireFrame f).2.mem = s.mem := by
  simp only [State.retireFrame]
  (repeat' split) <;> simp
@[simp] theorem State.wf_markFrame {s : State} (f : Nat) (h : Memory.wf s.mem = true) : Memory.wf (s.markFrame f).mem = true := by
  simp only [State.markFrame]
  (repeat' split) <;> simp [h]
@[simp] theorem State.wf_releaseMarks {s : State} (h : Memory.wf s.mem = true) : Memory.wf s.releaseMarks.mem = true := by
  simp only [State.releaseMarks]
  exact foldl_wf _ (fun t f => State.wf_markFrame f) _ _ (foldl_wf _ (fun t f ht => by simpa using ht) _ _ h)
@[simp] theorem State.wf_corrected {s : State} (f : Nat) (h : Memory.wf s.mem = true) : Memory.wf (s.corrected f).mem = true := by
  simp only [State.corrected]
  split <;> simp [h]
@[simp] theorem State.wf_readError {s : State} (key : Nat) (uncorr : Bool) (h : Memory.wf s.mem = true) :
    Memory.wf (s.readError key uncorr).mem = true := by
  simp only [State.readError]
  (repeat' split) <;> simp [h]
@[simp] theorem State.wf_demandRead {s : State} (key : Nat) (h : Memory.wf s.mem = true) :
    Memory.wf (s.demandRead key).2.mem = true := by
  simp only [State.demandRead]
  (repeat' split) <;> simp [h]
@[simp] theorem State.wf_demandReads {s : State} (keys : List Nat) (h : Memory.wf s.mem = true) :
    Memory.wf (s.demandReads keys).2.mem = true := by
  simp only [State.demandReads]
  split <;> simp [h]

/-! ### Machine/Streams.lean -/

@[simp] theorem State.streamKey_mem (s : State) (l : Nat) (x : Launch) (r : StreamRec) (off : Nat) (write : Bool) :
    (s.streamKey l x r off write).2.mem = s.mem := by
  simp only [State.streamKey]
  split <;> simp
@[simp] theorem State.modPaged_mem (s : State) (asid : BitVec 16) (va : Nat) (f : PageSide → PageSide) :
    (s.modPaged asid va f).mem = s.mem := by
  rfl
@[simp] theorem State.wf_winWrite {s : State} (x : Launch) (r : StreamRec) (off : Nat) (bs : List Byte) (h : Memory.wf s.mem = true) :
    Memory.wf (s.winWrite x r off bs).mem = true := by
  simp only [State.winWrite]
  (repeat' split) <;> simp [State.wf_foldIn, h]
@[simp] theorem State.wf_winFill {s : State} (x : Launch) (r : StreamRec) (off n : Nat) (f : Bool) (h : Memory.wf s.mem = true) :
    Memory.wf (s.winFill x r off n f).mem = true := by
  have hhome : ∀ (t : State) k, ((List.range ((k % 8 + n + 7) / 8)).foldl (fun s i => s.setHomeBit (k / 8 + i) f) t).mem = t.mem :=
    fun t k => foldl_mem (fun u i => by simp) _ _
  simp only [State.winFill]
  (repeat' split) <;> simp [hhome, State.wf_foldIn, h]
@[simp] theorem State.wf_emptyRange {s : State} (lo n : Nat) (h : Memory.wf s.mem = true) :
    Memory.wf (s.emptyRange lo n).mem = true := by
  simp [State.emptyRange, State.wf_foldIn, h]
@[simp] theorem State.wf_emptyPage {s : State} (x : Launch) (r : StreamRec) (off : Nat) (h : Memory.wf s.mem = true) :
    ∀ t, s.emptyPage x r off = some t → Memory.wf t.mem = true := by
  simp only [State.emptyPage]
  split <;> simp [h]
@[simp] theorem State.wf_emptyPages {s : State} (x : Launch) (r : StreamRec) (offs : List Nat) (h : Memory.wf s.mem = true) :
    Memory.wf (s.emptyPages x r offs).2.mem = true := by
  refine foldl_wf_proj (st := Prod.snd) (fun q off hq => ?_) _ _ h
  dsimp only
  split
  · exact State.wf_emptyPage _ _ _ hq _ ‹_›
  · exact hq
@[simp] theorem State.wf_emptySlot {s : State} (x : Launch) (r : StreamRec) (slot : Nat) (h : Memory.wf s.mem = true) :
    Memory.wf (s.emptySlot x r slot).2.mem = true := by
  simp only [State.emptySlot]
  split <;> simp [h]
@[simp] theorem State.wf_catchUp {s : State} (l i : Nat) (h : Memory.wf s.mem = true) : Memory.wf (s.catchUp l i).mem = true := by
  simp only [State.catchUp]
  (repeat' split) <;> simp [State.wf_putDesc, h]
@[simp] theorem State.wf_catchUpAll {s : State} (h : Memory.wf s.mem = true) : Memory.wf s.catchUpAll.mem = true :=
  foldl_wf _ (fun _ _ ht => foldl_wf _ (fun _ _ hu => State.wf_catchUp _ _ hu) _ _ ht) _ _ h
/-- The form in which a page's leaving meets it. -/
theorem State.wf_catchUpAll_with (t : State) (side : Store SideBits) (paged : List PageSide) (h : Memory.wf t.mem = true) :
    Memory.wf ({ t with side := side, paged := paged } : State).catchUpAll.mem = true := State.wf_catchUpAll h
@[simp] theorem State.wf_streamWrite {s : State} (pl : PlaneId) (rid : Nat) (peer : Bool) (h : Memory.wf s.mem = true) :
    Memory.wf (s.streamWrite pl rid peer).mem = true := by
  unfold State.streamWrite
  split
  · exact h
  split
  · exact h
  split
  · simpa using h
  split
  · simpa using h
  extract_lets s1 off bs place
  have hs1 : Memory.wf s1.mem = true := State.wf_catchUp _ _ h
  clear_value s1
  split
  · exact hs1
  split
  · simpa [mem_of_snd ‹_› (State.streamKey_mem ..)] using hs1
  · simpa [mem_of_snd ‹_› (State.streamKey_mem ..)] using hs1
  · rename_i t hkey
    have ht : Memory.wf t.mem = true := by rwa [mem_of_snd hkey (State.streamKey_mem ..)]
    split
    · exact ht
    split
    · simpa using ht
    split
    · split <;> simp [State.wf_setStream, ht]
    · refine State.wf_wake _ ?_
      rw [State.retire_mem]
      refine State.wf_setStream _ _ _ ?_
      rw [foldl_mem fun u w => State.setHomeBit_mem ..]
      exact Memory.wf_writeBytes (State.wf_foldIn _ _ ht)
@[simp] theorem State.wf_streamClose {s : State} (pl : PlaneId) (rid : Nat) (peer : Bool) (h : Memory.wf s.mem = true) :
    Memory.wf (s.streamClose pl rid peer).mem = true := by
  have hlate : ∀ (qs : List (PlaneId × Req)) (t : State),
      (qs.foldl (fun s (p, q) => s.onReq p q.rid fun s => (s.unpark p q.rid).finish p q .null) t).mem = t.mem :=
    fun qs t => foldl_mem (fun u q => State.onReq_mem _ _ _ _ fun v => by simp) _ _
  unfold State.streamClose
  grind [State.wf_catchUp, State.streamKey_mem, State.wf_setStream, State.retire_mem, State.wf_wake, State.reqFault_mem,
    State.holdPage_mem, State.setHomeBit_mem, Memory.wf_writeBytes, State.wf_foldIn]
@[simp] theorem State.wf_unforceAt {s : State} (l i j : Nat) (h : Memory.wf s.mem = true) :
    Memory.wf (s.unforceAt l i j).mem = true := by
  simp only [State.unforceAt]
  (repeat' split) <;> simp [State.wf_setStream, h]
@[simp] theorem State.wf_streamRead {s : State} (pl : PlaneId) (rid : Nat) (h : Memory.wf s.mem = true) :
    Memory.wf (s.streamRead pl rid).mem = true := by
  unfold State.streamRead
  split
  · exact h
  split
  · exact h
  extract_lets s1 j p st1 after s2 r2 s3 r3 off
  have hs2 : Memory.wf s2.mem = true := by
    rw [State.modReq_mem]
    exact State.wf_setStream _ _ _ (State.wf_catchUp _ _ h)
  have hs3 : Memory.wf s3.mem = true := by rwa [State.modReq_mem]
  have hafter : ∀ t : State, Memory.wf t.mem = true → Memory.wf (after t).mem = true := fun t ht => State.wf_unforceAt _ _ _ ht
  clear_value s1 s2 s3 after
  split
  · exact hafter _ (by simpa using hs2)
  split
  · exact hafter _ (by simpa using hs2)
  split
  · refine hafter _ ?_
    split <;> simpa using hs3
  split
  · exact hafter _ hs3
  split
  · exact hafter _ (by simpa [mem_of_snd ‹_› (State.streamKey_mem ..)] using hs3)
  · exact hafter _ (by simpa [mem_of_snd ‹_› (State.streamKey_mem ..)] using hs3)
  · rename_i t hkey
    have ht : Memory.wf t.mem = true := by rwa [mem_of_snd hkey (State.streamKey_mem ..)]
    extract_lets ws
    split
    · exact hafter _ (by simpa using ht)
    split
    · split
      · exact hafter _ (by simpa using wf_of_snd ‹_› (State.wf_demandRead _ ht))
      · exact hafter _ (by simpa using wf_of_snd ‹_› (State.wf_demandRead _ ht))
    · refine hafter _ ?_
      rw [State.parkReq_mem, State.modReq_mem]
      exact ht
@[simp] theorem State.wf_streamRelease {s : State} (pl : PlaneId) (rid : Nat) (h : Memory.wf s.mem = true) :
    Memory.wf (s.streamRelease pl rid).mem = true := by
  simp only [State.streamRelease]
  (repeat' split) <;> simp [State.wf_setStream, h]
@[simp] theorem State.wf_streamRewind {s : State} (pl : PlaneId) (rid : Nat) (h : Memory.wf s.mem = true) :
    Memory.wf (s.streamRewind pl rid).mem = true := by
  simp only [State.streamRewind]
  (repeat' split) <;> simp [State.wf_setStream, h]
@[simp] theorem State.wf_forcedRelease {s : State} (pl : PlaneId) (rid : Nat) (h : Memory.wf s.mem = true) :
    Memory.wf (s.forcedRelease pl rid).mem = true := by
  simp only [State.forcedRelease]
  (repeat' split) <;> simp [State.wf_setStream, h]
@[simp] theorem State.wf_streamSpos {s : State} (pl : PlaneId) (rid : Nat) (h : Memory.wf s.mem = true) :
    Memory.wf (s.streamSpos pl rid).mem = true := by
  simp only [State.streamSpos]
  (repeat' split) <;> simp [State.wf_setStream, h]
@[simp] theorem State.wf_frameRecycle {s : State} (l i : Nat) (h : Memory.wf s.mem = true) :
    Memory.wf (s.frameRecycle l i).mem = true := by
  unfold State.frameRecycle
  grind [State.wf_catchUp, State.wf_emptySlot, State.wf_setStream, State.wf_wake]
@[simp] theorem State.wf_streamStall {s : State} (l i : Nat) (h : Memory.wf s.mem = true) :
    Memory.wf (s.streamStall l i).mem = true := by
  simp only [State.streamStall]
  (repeat' split) <;> simp [State.wf_setStream, h]
@[simp] theorem State.heldReadTimeout_mem (s : State) (pl : PlaneId) (rid : Nat) : (s.heldReadTimeout pl rid).mem = s.mem := by
  simp only [State.heldReadTimeout]
  (repeat' split) <;> simp
@[simp] theorem State.wf_consumeWord {s : State} (l i k a : Nat) (st : Stream) (h : Memory.wf s.mem = true) :
    Memory.wf (s.consumeWord l i k a st).mem = true := by
  unfold State.consumeWord
  grind [State.wf_wake, State.wf_putDesc, State.wf_setStream, State.wf_foldIn, State.setHomeBit_mem]
@[simp] theorem State.wf_hwmPublish {s : State} (l i : Nat) (h : Memory.wf s.mem = true) :
    Memory.wf (s.hwmPublish l i).mem = true := by
  simp only [State.hwmPublish]
  (repeat' split) <;> simp [h]
@[simp] theorem State.wf_hostRelease {s : State} (l i j : Nat) (h : Memory.wf s.mem = true) :
    Memory.wf (s.hostRelease l i j).mem = true := by
  simp only [State.hostRelease]
  (repeat' split) <;> simp [h]

/-! ### Machine/Fabric.lean -/

@[simp] theorem State.pushAll_mem (s : State) (l : Nat) (cs : List (Nat × ChanRec)) (t : Token) :
    (s.pushAll l cs t).mem = s.mem := by
  simp [State.pushAll]
@[simp] theorem State.modOut_mem (s : State) (pl : PlaneId) (o : Nat) (f : OutEp → OutEp) : (s.modOut pl o f).mem = s.mem := by
  rfl
@[simp] theorem State.sendJoined_mem (s : State) (l : Nat) (cs : List (Nat × ChanRec)) (t : Token) :
    (s.sendJoined l cs t).mem = s.mem := by
  simp only [State.sendJoined]
  split <;> simp
@[simp] theorem sendLate_mem (l : Nat) (pl : PlaneId) (o : Nat) (cs : List (Nat × ChanRec)) (n : Nat) (s : State) :
    (sendLate l pl o cs n s).mem = s.mem := by
  induction n generalizing s with
  | zero => rfl
  | succ n ih =>
    simp only [sendLate]
    (repeat' split) <;> simp [ih]
@[simp] theorem State.flushLate_mem (s : State) (l : Nat) (pl : PlaneId) (o : Nat) (cs : List (Nat × ChanRec)) :
    (s.flushLate l pl o cs).mem = s.mem := by
  simp [State.flushLate]
@[simp] theorem flushHold_mem (l : Nat) (pl : PlaneId) (o : Nat) (cs : List (Nat × ChanRec)) (ts : List Token) (s : State) :
    (flushHold l pl o cs ts s).mem = s.mem := by
  induction ts generalizing s with
  | nil => simp [flushHold]
  | cons t ts ih =>
    simp only [flushHold]
    split <;> simp [ih]
@[simp] theorem State.passBlaze_mem (s : State) (l o : Nat) (cs : List (Nat × ChanRec)) (pls : List PlaneId) (k : CutKind) (n : Nat) :
    (s.passBlaze l o cs pls k n).mem = s.mem := by
  simp [State.passBlaze, foldl_mem]
@[simp] theorem joinOut_mem (l actor o : Nat) (cs : List (Nat × ChanRec)) (n : Nat) (s : State) :
    (joinOut l actor o cs n s).mem = s.mem := by
  induction n generalizing s with
  | zero => rfl
  | succ n ih =>
    simp only [joinOut]
    (repeat' split) <;> simp [ih, foldl_mem]
@[simp] theorem State.flushOut_mem (s : State) (l actor o : Nat) : (s.flushOut l actor o).mem = s.mem := by
  simp only [State.flushOut]
  (repeat' split) <;> simp
@[simp] theorem State.sendOut_mem (s : State) (pl : PlaneId) (o : Nat) (t : Token) : (s.sendOut pl o t).mem = s.mem := by
  simp only [State.sendOut]
  (repeat' split) <;> simp
@[simp] theorem State.inject_mem (s : State) (l : Nat) (k : CutKind) (core : Option Nat) : (s.inject l k core).mem = s.mem := by
  simp only [State.inject]
  (repeat' split) <;> simp
@[simp] theorem State.modEp_mem (s : State) (l : Nat) (x : Launch) (r : ChanRec) (j : Nat) (f : Endpoint → Endpoint) :
    (s.modEp l x r j f).mem = s.mem := by
  simp only [State.modEp]
  (repeat' split) <;> simp
@[simp] theorem State.brkHit_mem (s : State) (l : Nat) (x : Launch) (r : ChanRec) (j : Nat) (pre : Bool) :
    (s.brkHit l x r j pre).mem = s.mem := by
  simp only [State.brkHit]
  (repeat' split) <;> simp
@[simp] theorem State.land_mem (s : State) (l : Nat) (x : Launch) (r : ChanRec) (j : Nat) (t : Token) :
    (s.land l x r j t).mem = s.mem := by
  simp only [State.land]
  (repeat' split) <;> simp [foldl_mem]
@[simp] theorem State.arrive_mem (s : State) (l : Nat) (x : Launch) (ci : Nat) (r : ChanRec) (j : Nat) (t : Token) :
    (s.arrive l x ci r j t).mem = s.mem := by
  simp only [State.arrive]
  split <;> simp
@[simp] theorem State.settle_mem (s : State) (pl : PlaneId) : (s.settle pl).mem = s.mem := by
  simp only [State.settle]
  (repeat' split) <;> simp
@[simp] theorem State.noteBlaze_mem (s : State) (l : Nat) (x : Launch) (r : ChanRec) (j : Nat) (e : Endpoint) (k : CutKind) (n : Nat) :
    (s.noteBlaze l x r j e k n).mem = s.mem := by
  simp only [State.noteBlaze]
  split <;> simp
@[simp] theorem State.deliver_mem (s : State) (l ci j : Nat) : (s.deliver l ci j).mem = s.mem := by
  simp only [State.deliver]
  (repeat' split) <;> simp
@[simp] theorem State.setNode_mem (s : State) (l n : Nat) (nd : Node) : (s.setNode l n nd).mem = s.mem := by
  simp [State.setNode]
@[simp] theorem State.nodeFault_mem (s : State) (l n : Nat) (x : Launch) (r : NodeRec) (cls : FCls) (pops : List Nat) :
    (s.nodeFault l n x r cls pops).mem = s.mem := by
  simp [State.nodeFault]
@[simp] theorem State.nodeSend_mem (s : State) (l n : Nat) (x : Launch) (nd : Node) (outs : List (Nat × Token)) :
    (s.nodeSend l n x nd outs).mem = s.mem := by
  simp only [State.nodeSend]
  (repeat' split) <;> simp [foldl_mem]
@[simp] theorem State.steerStep_mem (s : State) (l n : Nat) : (s.steerStep l n).mem = s.mem := by
  simp only [State.steerStep]
  (repeat' split) <;> simp
@[simp] theorem State.mergeStep_mem (s : State) (l n : Nat) : (s.mergeStep l n).mem = s.mem := by
  simp only [State.mergeStep]
  (repeat' split) <;> simp
@[simp] theorem State.filterStep_mem (s : State) (l n : Nat) : (s.filterStep l n).mem = s.mem := by
  simp only [State.filterStep]
  (repeat' split) <;> simp
@[simp] theorem State.delayStep_mem (s : State) (l n : Nat) : (s.delayStep l n).mem = s.mem := by
  simp only [State.delayStep]
  (repeat' split) <;> simp
@[simp] theorem State.isectSend_mem (s : State) (l n : Nat) (x : Launch) (nd : Node) (t : Token) (oa ob : Nat) :
    (s.isectSend l n x nd t oa ob).mem = s.mem := by
  simp [State.isectSend]
@[simp] theorem State.intersectStep_mem (s : State) (l n : Nat) : (s.intersectStep l n).mem = s.mem := by
  simp only [State.intersectStep]
  (repeat' split) <;> simp
@[simp] theorem State.arriveAt_mem (s : State) (pl : PlaneId) (ch : Nat) (t : Token) : (s.arriveAt pl ch t).mem = s.mem := by
  simp only [State.arriveAt]
  (repeat' split) <;> simp
@[simp] theorem State.respDeliver_mem (s : State) (pl : PlaneId) (ch : Nat) : (s.respDeliver pl ch).mem = s.mem := by
  simp only [State.respDeliver]
  (repeat' split) <;> simp
@[simp] theorem State.timerDue_mem (s : State) (pl : PlaneId) (k : Nat) : (s.timerDue pl k).mem = s.mem := by
  simp only [State.timerDue]
  (repeat' split) <;> simp
@[simp] theorem State.faultDeliver_mem (s : State) (g : Nat) : (s.faultDeliver g).mem = s.mem := by
  simp only [State.faultDeliver]
  (repeat' split) <;> simp

/-! ### Machine/Firing.lean -/

@[simp] theorem State.mapBlock_mem (s : State) (pl : PlaneId) : (s.mapBlock pl).mem = s.mem := by
  simp only [State.mapBlock]
  (repeat' split) <;> simp
@[simp] theorem State.startFiring_mem (s : State) (pl : PlaneId) (f : Firing) : (s.startFiring pl f).mem = s.mem := by
  simp only [State.startFiring]
  split <;> simp
@[simp] theorem State.taskFiring_mem (s : State) (pl : PlaneId) : (s.taskFiring pl).mem = s.mem := by
  simp only [State.taskFiring]
  (repeat' split) <;> simp
@[simp] theorem State.popCtl_mem (s : State) (pl : PlaneId) (k : Ctl) (ins : List Nat) : (s.popCtl pl k ins).mem = s.mem := by rfl
@[simp] theorem State.controlStep_mem (s : State) (pl : PlaneId) : (s.controlStep pl).mem = s.mem := by
  simp only [State.controlStep]
  (repeat' split) <;> simp [foldl_mem]
@[simp] theorem State.respond_mem (s : State) (pl : PlaneId) (ch : Nat) (t : Token) : (s.respond pl ch t).mem = s.mem := by rfl
@[simp] theorem State.promiseTo_mem (s : State) (l : Nat) (pl : PlaneId) (ch : Nat) (due : W64) :
    (s.promiseTo l pl ch due).mem = s.mem := by
  simp [State.promiseTo]
@[simp] theorem State.sendPromise_mem (s : State) (f : FaultRec) : (s.sendPromise f).mem = s.mem := by
  simp only [State.sendPromise]
  split <;> simp
@[simp] theorem State.unhandled_mem (s : State) (fid : Nat) : (s.unhandled fid).mem = s.mem := by
  simp only [State.unhandled]
  (repeat' split) <;> simp
@[simp] theorem State.padOut_mem (s : State) (pl : PlaneId) (f : Firing) : (s.padOut pl f).mem = s.mem := by
  simp only [State.padOut]
  (repeat' split) <;> simp [foldl_mem]
@[simp] theorem State.endCore_mem (s : State) (pl : PlaneId) : (s.endCore pl).mem = s.mem := by
  simp only [State.endCore]
  (repeat' split) <;> simp
@[simp] theorem State.endFiring_mem (s : State) (pl : PlaneId) : (s.endFiring pl).mem = s.mem := by
  simp only [State.endFiring]
  (repeat' split) <;> simp
@[simp] theorem State.goNext_mem (s : State) (pl : PlaneId) (f : Firing) : (s.goNext pl f).mem = s.mem := by
  simp only [State.goNext]
  (repeat' split) <;> simp
@[simp] theorem State.goOn_mem (s : State) (pl : PlaneId) (fid : Nat) : (s.goOn pl fid).mem = s.mem := by
  simp only [State.goOn]
  (repeat' split) <;> simp
@[simp] theorem State.wf_resumeRecord {s : State} (pl : PlaneId) (rid : Nat) (h : Memory.wf s.mem = true) :
    Memory.wf (s.resumeRecord pl rid).mem = true := by
  simp only [State.resumeRecord]
  split
  · split
    · refine State.wf_wake _ (State.wf_tryRec _ ?_ _ ‹_›)
      split <;> simp [h]
    · split <;> simp [h]
  · exact h
@[simp] theorem State.wf_resumeFault {s : State} (fid : Nat) (h : Memory.wf s.mem = true) :
    Memory.wf (s.resumeFault fid).mem = true := by
  simp only [State.resumeFault]
  (repeat' split) <;> simp [h]
@[simp] theorem State.repairFault_mem (s : State) (fid : Nat) (t : Token) : (s.repairFault fid t).mem = s.mem := by
  simp only [State.repairFault]
  (repeat' split) <;> simp
@[simp] theorem State.admitWave_mem (s : State) (pl : PlaneId) (r : BlockRun) (w : Wave) :
    (s.admitWave pl r w).mem = s.mem := by
  simp only [State.admitWave]
  (repeat' split) <;> simp
@[simp] theorem State.waveAdmit_mem (s : State) (pl : PlaneId) (slot : Nat) : (s.waveAdmit pl slot).mem = s.mem := by
  simp only [State.waveAdmit]
  (repeat' split) <;> simp
@[simp] theorem State.twinLog_mem (s : State) (pl : PlaneId) (r : Req) : (s.twinLog pl r).mem = s.mem := by
  simp only [State.twinLog]
  (repeat' split) <;> simp
@[simp] theorem State.enterReq_mem (s : State) (pl : PlaneId) (r : Req) : (s.enterReq pl r).mem = s.mem := by
  simp only [State.enterReq]
  split <;> simp
@[simp] theorem State.wf_commitEff {s : State} (pl : PlaneId) (f : Firing) (slot : Nat) (a : Eff) (h : Memory.wf s.mem = true) :
    Memory.wf (s.commitEff pl f slot a).mem = true := by
  simp only [State.commitEff]
  (repeat' split) <;> simp [h]
@[simp] theorem State.takeExit_mem (s : State) (pl : PlaneId) (e : ExitKind) : (s.takeExit pl e).mem = s.mem := by
  simp only [State.takeExit]
  (repeat' split) <;> simp
@[simp] theorem State.wf_blockCommit {s : State} (pl : PlaneId) (h : Memory.wf s.mem = true) :
    Memory.wf (s.blockCommit pl).mem = true := by
  simp only [State.blockCommit]
  (repeat' split) <;> simp only [State.takeExit_mem, State.count_mem, State.blockFault_mem, State.mapBlock_mem, h]
  exact foldl_wf _ (fun t q ht => State.wf_commitEff _ _ _ _ ht) _ _ h
@[simp] theorem State.yieldRelease_mem (s : State) (pl : PlaneId) : (s.yieldRelease pl).mem = s.mem := by
  simp only [State.yieldRelease]
  (repeat' split) <;> simp

/-! ### Machine/Barrier.lean -/

@[simp] theorem State.unbar_mem (s : State) (pl : PlaneId) (rid : Nat) : (s.unbar pl rid).mem = s.mem := by rfl
@[simp] theorem State.wf_phaseCheck {s : State} (key : Nat) (h : Memory.wf s.mem = true) :
    Memory.wf (s.phaseCheck key).mem = true := by
  simp only [State.phaseCheck]
  split
  · rw [foldl_mem fun t q => by split <;> simp]
    exact State.wf_setBar _ _ h
  · exact h
@[simp] theorem State.wf_barDo {s : State} (l : Nat) (pl : PlaneId) (key : Nat) (f : BarObj → BarObj) (h : Memory.wf s.mem = true) :
    Memory.wf (s.barDo l pl key f).mem = true := by
  simp [State.barDo, State.wf_setBar, h]
@[simp] theorem State.wf_lowerPend {s : State} (l : Nat) (pl : PlaneId) (key n : Nat) (h : Memory.wf s.mem = true) :
    Memory.wf (s.lowerPend l pl key n).mem = true := by
  simp [State.lowerPend, h]
@[simp] theorem State.wf_barAct {s : State} (pl : PlaneId) (ver : BitVec 16) (r : Req) (key : Nat) (h : Memory.wf s.mem = true) :
    ∀ t, s.barAct pl ver r key = some t → Memory.wf t.mem = true := by
  simp only [State.barAct]
  (repeat' split) <;> simp [h]
@[simp] theorem State.barHold_mem (s : State) (pl : PlaneId) (r : Req) (key : Nat) : (s.barHold pl r key).mem = s.mem := by
  simp only [State.barHold]
  (repeat' split) <;> simp
@[simp] theorem State.wf_barNext {s : State} (key : Nat) (pl : PlaneId) (rid : Nat) (h : Memory.wf s.mem = true) :
    Memory.wf (s.barNext key pl rid).mem = true := by
  simp only [State.barNext]
  (repeat' split) <;> try exact h
  refine State.wf_phaseCheck _ (State.wf_onReq _ _ h fun t ht => ?_)
  cases hb : t.barAct pl _ _ key with
  | none => exact ht
  | some u => exact State.wf_barAct _ _ _ _ ht _ hb
@[simp] theorem State.wf_barInit {s : State} (pl : PlaneId) (lid : Nat) (ver : BitVec 16) (r : Req) (key : Nat) (h : Memory.wf s.mem = true) :
    Memory.wf (s.barInit pl lid ver r key).mem = true := by
  simp only [State.barInit]
  split
  · simp [h]
  · refine foldl_wf _ (fun t q ht => State.wf_barNext _ _ _ ht) _ _ ?_
    simp [h]
@[simp] theorem State.wf_barPerform {s : State} (pl : PlaneId) (rid : Nat) (h : Memory.wf s.mem = true) :
    Memory.wf (s.barPerform pl rid).mem = true := by
  unfold State.barPerform
  grind [State.xlate1_mem, State.holdPage_mem, State.reqFault_mem, State.wf_barInit, State.wf_barAct,
    State.wf_phaseCheck, State.barHold_mem]
@[simp] theorem State.barExpire_mem (s : State) (pl : PlaneId) (rid : Nat) : (s.barExpire pl rid).mem = s.mem := by
  simp only [State.barExpire]
  (repeat' split) <;> simp
@[simp] theorem State.barTimeout_mem (s : State) (edge k : Nat) : (s.barTimeout edge k).mem = s.mem := by
  simp only [State.barTimeout]
  (repeat' split) <;> simp

/-! ### Machine/Copy.lean -/

@[simp] theorem State.promiseOf_mem (s : State) (engine glade : Nat) (now : List CopyJob) :
    (s.promiseOf engine glade now).2.mem = s.mem := by
  rfl
@[simp] theorem State.copyAccept_mem (s : State) (pl : PlaneId) (rid : Nat) : (s.copyAccept pl rid).mem = s.mem := by
  unfold State.copyAccept
  grind [State.reqFault_mem, State.xlate1_mem, State.finish_mem, State.promiseOf_mem]
@[simp] theorem State.copyPage_mem (s : State) (c : CopyJob) (port va level : Nat) (kind : PKind) :
    (s.copyPage c port va level kind).mem = s.mem := by
  simp [State.copyPage]
@[simp] theorem State.copyXlate_mem (s : State) (c : CopyJob) (x : Launch) (port : Nat) (write : Bool) (vs : List (Nat × Nat)) :
    (s.copyXlate c x port write vs).2.2.mem = s.mem := by
  induction vs generalizing s with
  | nil => rfl
  | cons v vs ih =>
    unfold State.copyXlate
    grind [State.xlateFor_mem]
@[simp] theorem State.srcParts_mem (s : State) (c : CopyJob) (x : Launch) (port n : Nat) :
    (s.srcParts c x port n).2.mem = s.mem := by
  refine foldl_mem_proj (st := Prod.snd) (fun q i => ?_) _ _
  grind [State.xlateFor_mem]
@[simp] theorem State.wf_copyRead {s : State} (c : CopyJob) (x : Launch) (port n : Nat) (h : Memory.wf s.mem = true) :
    Memory.wf (s.copyRead c x port n).2.mem = true := by
  unfold State.copyRead
  grind [State.copyXlate_mem, State.wf_demandReads, State.srcParts_mem]
@[simp] theorem State.parkCopy_mem (s : State) (c : CopyJob) (x : Launch) (key va : Nat) :
    (s.parkCopy c x key va).mem = s.mem := by
  simp only [State.parkCopy]
  (repeat' split) <;> simp
@[simp] theorem State.parkWords_mem (s : State) (c : CopyJob) (x : Launch) (found : List Nat) (miss : List (Nat × Nat)) :
    (s.parkWords c x found miss).mem = s.mem := by
  simp only [State.parkWords]
  refine (foldl_mem (fun t q => ?_) _ _).trans (State.modCopy_mem ..)
  split <;> simp
@[simp] theorem State.holdCopy_mem (s : State) (c : CopyJob) (keys : List Nat) : (s.holdCopy c keys).mem = s.mem := by
  simp only [State.holdCopy]
  split <;> simp
@[simp] theorem State.wf_copyPut {s : State} (c : CopyJob) (p : Part) (n : Nat) (bs : List Byte) (bits : List Bool) (bar : Option Nat) (h : Memory.wf s.mem = true) :
    Memory.wf (s.copyPut c p n bs bits bar).mem = true := by
  unfold State.copyPut
  extract_lets ws changed s1 s2 s3 s4
  have hs2 : Memory.wf s2.mem = true :=
    foldl_wf _ (fun t q ht => by dsimp only; split <;> simp [ht]) _ _ (State.wf_putEff _ _ _ _ _ h)
  have hs3 : Memory.wf s3.mem = true := by
    unfold s3
    split <;> simp [hs2]
  have hs4 : Memory.wf s4.mem = true := by
    unfold s4
    split <;> simp [hs3]
  exact State.wf_wake _ hs4
@[simp] theorem State.wf_copyWrite {s : State} (c : CopyJob) (x : Launch) (port n : Nat) (bs : List Byte) (bits : List Bool) (src : List Part) (h : Memory.wf s.mem = true) :
    Memory.wf (s.copyWrite c x port n bs bits src).mem = true := by
  unfold State.copyWrite
  grind [State.copyXlate_mem, State.copyPage_mem, State.copyFault_mem, State.xlate1_mem, State.holdCopy_mem,
    State.wf_copyPut, State.signParts_mem]
@[simp] theorem State.wf_copyLine {s : State} (cid : Nat) (h : Memory.wf s.mem = true) :
    Memory.wf (s.copyLine cid).mem = true := by
  unfold State.copyLine
  grind [State.wf_copyRead, State.copyPage_mem, State.copyFault_mem, State.parkWords_mem, State.wf_copyWrite]
@[simp] theorem State.promiseMiss_mem (s : State) (cid : Nat) : (s.promiseMiss cid).mem = s.mem := by
  simp only [State.promiseMiss]
  (repeat' split) <;> simp

/-! ### Machine/Matrix.lean -/

@[simp] theorem State.modRec_mem (s : State) (g mid : Nat) (f : MRec → MRec) : (s.modRec g mid f).mem = s.mem := by
  simp [State.modRec]
@[simp] theorem State.modRegion_mem (s : State) (g r : Nat) (f : Region → Region) : (s.modRegion g r f).mem = s.mem := by
  simp [State.modRegion]
@[simp] theorem State.mFault_mem (s : State) (g : Nat) (m : MRec) (cls : FCls) : (s.mFault g m cls).mem = s.mem := by
  simp [State.mFault]
@[simp] theorem State.mAccept_mem (s : State) (pl : PlaneId) (rid : Nat) : (s.mAccept pl rid).mem = s.mem := by
  simp only [State.mAccept]
  (repeat' split) <;> simp
@[simp] theorem State.mPage_mem (s : State) (g : Nat) (m : MRec) (port va level : Nat) :
    (s.mPage g m port va level).mem = s.mem := by
  simp [State.mPage]
@[simp] theorem State.pin_mem (s : State) (gl mid va : Nat) (bs : List Byte) : (s.pin gl mid va bs).mem = s.mem := by
  simp [State.pin]
@[simp] theorem State.wf_mLine {s : State} (m : MRec) (x : Launch) (port va : Nat) (h : Memory.wf s.mem = true) :
    Memory.wf (s.mLine m x port va).2.mem = true := by
  unfold State.mLine
  grind [State.xlateFor_mem, State.wf_demandRead, State.sign_mem, State.pin_mem]
@[simp] theorem State.wf_mFetch {s : State} (m : MRec) (x : Launch) (port : Nat) (vs : List (Nat × Nat)) (h : Memory.wf s.mem = true) :
    Memory.wf (s.mFetch m x port vs).2.mem = true := by
  induction vs generalizing s with
  | nil => exact h
  | cons v vs ih =>
    unfold State.mFetch
    grind [State.wf_mLine]
@[simp] theorem State.wf_mRead {s : State} (m : MRec) (x : Launch) (va n : Nat) (h : Memory.wf s.mem = true) :
    Memory.wf (s.mRead m x va n).2.mem = true := by
  simp [State.mRead, h]
@[simp] theorem State.mComplete_mem (s : State) (g mid : Nat) : (s.mComplete g mid).mem = s.mem := by
  simp [State.mComplete]
@[simp] theorem State.wf_seqDispatch {s : State} (gl k : Nat) (h : Memory.wf s.mem = true) :
    Memory.wf (s.seqDispatch gl k).mem = true := by
  unfold State.seqDispatch
  split
  · exact h
  split
  · exact h
  split
  · exact h
  split
  · exact h
  extract_lets cw start
  have hstart : ∀ (t : State) r f, (start t r f).mem = t.mem := fun t r f => by simp [start]
  clear_value start
  grind [State.wf_mRead, State.mPage_mem, State.mFault_mem, State.modLaunch_mem, State.mComplete_mem, State.modRegion_mem]
@[simp] theorem State.wf_mBlock {s : State} (m : MRec) (x : Launch) (npol : W32) (f : MFmt) (base scl ld row c : Nat) (h : Memory.wf s.mem = true) :
    Memory.wf (s.mBlock m x npol f base scl ld row c).2.mem = true := by
  unfold State.mBlock
  grind [State.wf_mRead]
@[simp] theorem State.wf_mBlocks {s : State} (m : MRec) (x : Launch) (npol : W32) (f : MFmt) (base scl ld c : Nat) (rows : List Nat)
    (h : Memory.wf s.mem = true) : Memory.wf (s.mBlocks m x npol f base scl ld c rows).2.mem = true := by
  induction rows generalizing s with
  | nil => exact h
  | cons row rows ih =>
    unfold State.mBlocks
    grind [State.wf_mBlock]
@[simp] theorem State.wf_wLoad {s : State} (gl : Nat) (m : MRec) (x : Launch) (r : RegionRec) (c n : Nat) (h : Memory.wf s.mem = true) :
    Memory.wf (s.wLoad gl m x r c n).2.mem = true := by
  unfold State.wLoad
  grind [State.wf_mRead, Memory.wf_writeBytes]
@[simp] theorem State.wf_wLoadAll {s : State} (gl : Nat) (m : MRec) (x : Launch) (r : RegionRec) (cs : List (Nat × Nat))
    (h : Memory.wf s.mem = true) : Memory.wf (s.wLoadAll gl m x r cs).2.mem = true := by
  induction cs generalizing s with
  | nil => exact h
  | cons c cs ih =>
    unfold State.wLoadAll
    grind [State.wf_wLoad]
@[simp] theorem State.mStop_mem (s : State) (gl : Nat) (m : MRec) (a : Fetched) : (s.mStop gl m a).mem = s.mem := by
  simp only [State.mStop]
  split <;> simp
@[simp] theorem State.wf_mmChunk {s : State} (gl r : Nat) (h : Memory.wf s.mem = true) :
    Memory.wf (s.mmChunk gl r).mem = true := by
  unfold State.mmChunk
  split
  · exact h
  extract_lets cw rr n c left cut resident
  split
  · grind [State.wf_wLoadAll, State.mStop_mem, State.modRegion_mem]
  · split
    · exact h
    split
    · simpa using wf_of_snd ‹_› (State.wf_mBlocks _ _ _ _ _ _ _ _ _ h)
    · have ht := wf_of_snd ‹_› (State.wf_mBlocks _ _ _ _ _ _ _ _ _ h)
      split
      rename_i hres
      have hu := wf_of_snd hres (by split; exact ht; exact (State.wf_mBlocks _ _ _ _ _ _ _ _ _ ht))
      (repeat' split) <;> simpa using hu
  · exact h
@[simp] theorem sendRoom_mem (pl : PlaneId) (ch : Nat) (ts : List Token) (s : State) (n : Nat) :
    (sendRoom pl ch ts s n).2.mem = s.mem := by
  induction ts generalizing s n with
  | nil => rfl
  | cons t ts ih =>
    simp only [sendRoom]
    split <;> simp [ih]
@[simp] theorem State.drainTile_mem (s : State) (gl r : Nat) : (s.drainTile gl r).mem = s.mem := by
  simp only [State.drainTile]
  (repeat' split) <;> simp
@[simp] theorem State.mRetire_mem (s : State) (gl : Nat) (m : MRec) : (s.mRetire gl m).mem = s.mem := by
  simp only [State.mRetire]
  (repeat' split) <;> simp
@[simp] theorem State.mCompletion_mem (s : State) (gl mid : Nat) : (s.mCompletion gl mid).mem = s.mem := by
  simp only [State.mCompletion]
  (repeat' split) <;> simp

/-! ### Machine/Watch.lean -/

@[simp] theorem State.armAt_mem (s : State) (l : Nat) (x : Launch) (ci : Nat) (r : ChanRec) (j : Nat) (ord : BitVec 48) (pre : Bool) :
    (s.armAt l x ci r j ord pre).mem = s.mem := by
  simp only [State.armAt]
  split <;> simp
@[simp] theorem State.arm_mem (s : State) (ep : EpId) (ord : BitVec 48) (pre : Bool) : (s.arm ep ord pre).mem = s.mem := by
  simp only [State.arm]
  (repeat' split) <;> simp
@[simp] theorem State.drainSamples_mem (s : State) (g : Nat) : (s.drainSamples g).mem = s.mem := by
  simp only [State.drainSamples]
  (repeat' split) <;> simp
@[simp] theorem State.trailTick_mem (s : State) : s.trailTick.mem = s.mem := by
  simp only [State.trailTick]
  (repeat' split) <;> simp
@[simp] theorem State.trailWalk_mem (s : State) (l : Nat) (e : Elem) (back : Bool) (w : Nat) :
    (s.trailWalk l e back w).mem = s.mem := by
  simp only [State.trailWalk]
  (repeat' split) <;> simp

/-! ### Machine/Launch.lean -/

@[simp] theorem State.wf_fwWrite {s : State} (asid : BitVec 16) (va : Nat) (bs : List Byte) (h : Memory.wf s.mem = true) :
    Memory.wf (s.fwWrite asid va bs).2.mem = true := by
  simp only [State.fwWrite]
  split
  · exact h
  · exact foldl_wf_proj (st := Prod.fst) (fun q k hq => by simp [hq]) _ _ h
@[simp] theorem State.failEntry_mem (s : State) (gl q : Nat) (asid : BitVec 16) (tenant : Nat) (e : QEnt) (rep : Nat × List W64) :
    (s.failEntry gl q asid tenant e rep).mem = s.mem := by
  simp [State.failEntry]
@[simp] theorem State.setQueue_mem (s : State) (gl q : Nat) (l : List QEnt) : (s.setQueue gl q l).mem = s.mem := by
  simp [State.setQueue]
@[simp] theorem State.checkHead_mem (s : State) (gl q : Nat) : (s.checkHead gl q).mem = s.mem := by
  simp only [State.checkHead]
  (repeat' split) <;> simp [foldl_mem]
@[simp] theorem State.issueWait_mem (s : State) (gl : Nat) (asid : BitVec 16) (e : QEnt) (i : Nat) :
    (s.issueWait gl asid e i).2.mem = s.mem := by
  simp only [State.issueWait]
  (repeat' split) <;> simp
@[simp] theorem State.issueWaits_mem (s : State) (gl : Nat) (asid : BitVec 16) (e : QEnt) :
    (s.issueWaits gl asid e).2.mem = s.mem := by
  simp only [State.issueWaits]
  exact foldl_mem_proj (st := fun q : QEnt × State => q.2) (fun q i => State.issueWait_mem _ gl asid e i) _ (e, s)
@[simp] theorem State.headWaits_mem (s : State) (gl q : Nat) : (s.headWaits gl q).mem = s.mem := by
  simp only [State.headWaits]
  (repeat' split) <;> try rfl
  rw [State.setQueue_mem]
  exact foldl_mem_proj (st := fun q : List QEnt × State => q.2) (fun q m => State.issueWaits_mem ..) _ _
@[simp] theorem State.headCheck_mem (s : State) (gl q : Nat) : (s.headCheck gl q).mem = s.mem := by
  simp [State.headCheck]
@[simp] theorem State.wf_loadCopy {s : State} (l : Nat) (img : Image) (pl : PlaneId) (i j : Nat) (a : ActorRec) (h : Memory.wf s.mem = true) :
    Memory.wf (s.loadCopy l img pl i j a).mem = true := by
  simp only [State.loadCopy]
  split <;> simp [h]
@[simp] theorem State.wf_emptyWindow {s : State} (l i : Nat) (x : Launch) (r : StreamRec) (h : Memory.wf s.mem = true) :
    Memory.wf (s.emptyWindow l i x r).mem = true := by
  have hwin := foldl_wf_proj (st := Prod.snd (α := List Nat)) (f := fun acc k => ((acc.1 ++ (acc.2.emptySlot x r k).1), (acc.2.emptySlot x r k).2))
    (fun q k hq => State.wf_emptySlot x r k hq) (List.range r.nfrm) ([], s) h
  simp only [State.emptyWindow]
  split
  · exact hwin
  · simpa using hwin
@[simp] theorem State.wf_writeDesc {s : State} (l i : Nat) (x : Launch) (st : Stream) (h : Memory.wf s.mem = true) :
    Memory.wf (s.writeDesc l i x st).mem = true := by
  simp only [State.writeDesc]
  split <;> simp [State.wf_foldIn, h]
@[simp] theorem State.loadWin_mem (s : State) (l : Nat) (x : Launch) (w : WinRec) : (s.loadWin l x w).mem = s.mem := by rfl
@[simp] theorem State.putCounts_mem (s : State) (l : Nat) (x : Launch) : (s.putCounts l x).mem = s.mem := by
  refine foldl_mem (fun t q => ?_) _ _
  dsimp only
  split <;> simp
@[simp] theorem State.putArms_mem (s : State) (l : Nat) (x : Launch) : (s.putArms l x).mem = s.mem := by
  refine foldl_mem (fun t q => ?_) _ _
  dsimp only
  split <;> simp
@[simp] theorem State.loadWins_mem (s : State) (l : Nat) (x : Launch) : (s.loadWins l x).mem = s.mem := by
  refine foldl_mem (fun t q => ?_) _ _
  dsimp only
  split <;> simp
@[simp] theorem State.measureLoad_mem (s : State) (x : Launch) : (s.measureLoad x).mem = s.mem := by
  simp only [State.measureLoad]
  split <;> simp
@[simp] theorem State.wf_putFifos {s : State} (l : Nat) (h : Memory.wf s.mem = true) : Memory.wf (s.putFifos l).mem = true := by
  simp only [State.putFifos]
  split
  · exact h
  · simp only [State.modLaunch_mem]
    refine foldl_wf _ (fun t q ht => foldl_wf _ (fun u f hu => ?_) _ _ ?_) _ _ h
    · split <;> simp [hu]
    · split <;> simp [ht]
@[simp] theorem State.noteResident_mem (s : State) (x : Launch) (p : Nat) : (s.noteResident x p).mem = s.mem := by
  simp [State.noteResident]
@[simp] theorem State.wf_loadInto {s : State} (l p : Nat) (first : Bool) (h : Memory.wf s.mem = true) :
    Memory.wf (s.loadInto l p first).mem = true := by
  simp only [State.loadInto]
  split
  · exact h
  · simp only [State.putArms_mem, State.putCounts_mem]
    refine foldl_wf _ (fun t q ht => ?_) _ _ ?_
    · split <;> simp [ht]
    · refine State.wf_putFifos _ ?_
      simp only [State.modLaunch_mem, State.noteResident_mem, State.modGlade_mem, State.loadWins_mem]
      refine Memory.wf_writeBytes (foldl_wf _ (fun t q ht => ?_) _ _ h)
      split <;> simp [ht]
@[simp] theorem State.startTokens_mem (s : State) (l : Nat) : (s.startTokens l).mem = s.mem := by
  simp only [State.startTokens]
  split <;> simp
@[simp] theorem State.unload_mem (s : State) (l : Nat) : (s.unload l).mem = s.mem := by
  simp only [State.unload]
  (repeat' split) <;> simp
@[simp] theorem State.ticketTo_mem (s : State) (l gl : Nat) : (s.ticketTo l gl).mem = s.mem := by
  simp only [State.ticketTo]
  split <;> simp
@[simp] theorem State.wf_placeStarting {s : State} (gl : Nat) (h : Memory.wf s.mem = true) :
    Memory.wf (s.placeStarting gl).mem = true := by
  simp only [State.placeStarting]
  split
  · rw [foldl_mem fun t q => State.startTokens_mem ..]
    refine foldl_wf _ (fun t q ht => ?_) _ _ h
    (repeat' split) <;> simp [ht]
  · refine foldl_wf _ (fun t q ht => ?_) _ _ h
    (repeat' split) <;> simp [ht]
@[simp] theorem State.letIn_mem (s : State) (gl q tenant : Nat) (asid : BitVec 16) (ms : List QEnt) :
    (s.letIn gl q tenant asid ms).mem = s.mem := by
  refine foldl_mem (fun t m => ?_) _ _
  grind [State.fresh_mem, State.setLaunch_mem, State.ticketTo_mem]
@[simp] theorem State.wf_flushLaunch {s : State} (l : Nat) (h : Memory.wf s.mem = true) :
    Memory.wf (s.flushLaunch l).mem = true := by
  simp [State.flushLaunch, h]
@[simp] theorem State.wf_complete {s : State} (l : Nat) (h : Memory.wf s.mem = true) : Memory.wf (s.complete l).mem = true := by
  simp only [State.complete]
  (repeat' split) <;> simp [h]
@[simp] theorem State.wf_commitOne {s : State} (l : Nat) (x : Launch) (h : Memory.wf s.mem = true) :
    Memory.wf (s.commitOne l x).1.mem = true := by
  simp only [State.commitOne, State.modGlade_mem, State.modLaunch_mem]
  refine foldl_wf _ (fun t k ht => State.wf_homeFill _ _ ht) _ _ ?_
  rw [foldl_mem fun t e => State.commitTest_mem ..]
  exact h
@[simp] theorem State.wf_commitGroup {s : State} (ms : List (Nat × Launch)) (h : Memory.wf s.mem = true) :
    Memory.wf (s.commitGroup ms).mem = true := by
  refine State.wf_wake _ (foldl_wf_proj (st := Prod.fst) (fun q m hq => ?_) _ _ h)
  exact State.wf_commitOne _ _ hq

/-! ### Machine/Recover.lean -/

@[simp] theorem State.modCut_mem (s : State) (l : Nat) (k : CutKind) (f : Cut → Cut) : (s.modCut l k f).mem = s.mem := by
  simp [State.modCut]
@[simp] theorem State.recordActor_mem (s : State) (l : Nat) (x : Launch) (pl : PlaneId) (k : CutKind) (n : Nat) :
    (s.recordActor l x pl k n).mem = s.mem := by
  simp only [State.recordActor]
  (repeat' split) <;> simp [foldl_mem]
@[simp] theorem State.recordNode_mem (s : State) (l : Nat) (x : Launch) (n : Nat) (k : CutKind) (num : Nat) :
    (s.recordNode l x n k num).mem = s.mem := by
  simp [State.recordNode]
@[simp] theorem State.recordMatrix_mem (s : State) (l : Nat) (k : CutKind) : (s.recordMatrix l k).mem = s.mem := by
  simp only [State.recordMatrix]
  (repeat' split) <;> simp [foldl_mem]
@[simp] theorem State.dropWork_mem (s : State) (l : Nat) : (s.dropWork l).mem = s.mem := by
  simp only [State.dropWork]
  split <;> simp
@[simp] theorem State.wf_holdOff {s : State} (l : Nat) (c : Cut) (h : Memory.wf s.mem = true) :
    Memory.wf (s.holdOff l c).mem = true := by
  simp [State.holdOff, h]
@[simp] theorem State.wf_completeCut {s : State} (l : Nat) (x : Launch) (c : Cut) (h : Memory.wf s.mem = true) :
    Memory.wf (s.completeCut l x c).mem = true := by
  simp only [State.completeCut]
  split <;> simp [h]
@[simp] theorem State.wf_finishCut {s : State} (l : Nat) (k : CutKind) (h : Memory.wf s.mem = true) :
    Memory.wf (s.finishCut l k).mem = true := by
  simp only [State.finishCut]
  (repeat' split) <;> simp [h]
@[simp] theorem State.wf_scanCutDone {s : State} (l : Nat) (k : CutKind) (h : Memory.wf s.mem = true) :
    Memory.wf (s.scanCutDone l k).mem = true := by
  simp only [State.scanCutDone]
  (repeat' split) <;> simp [h]
@[simp] theorem State.wf_scanRecord {s : State} (l : Nat) (h : Memory.wf s.mem = true) :
    Memory.wf (s.scanRecord l).mem = true := by
  simp only [State.scanRecord]
  (repeat' split) <;> try exact h
  exact foldl_wf _ (fun t c ht => State.wf_scanCutDone _ _ ht) _ _ h
@[simp] theorem State.wf_takeCut {s : State} (l : Nat) (k : CutKind) (core : Option Nat) (h : Memory.wf s.mem = true) :
    Memory.wf (s.takeCut l k core).mem = true := by
  simp [State.takeCut, h]
@[simp] theorem State.wf_blazeArrive {s : State} (l : Nat) (e : Elem) (k : CutKind) (h : Memory.wf s.mem = true) :
    Memory.wf (s.blazeArrive l e k).mem = true := by
  simp only [State.blazeArrive]
  (repeat' split) <;> simp [h]
@[simp] theorem State.wf_putWeights {s : State} (gl : Nat) (q : Region) (bs : List (List Byte)) (h : Memory.wf s.mem = true) :
    Memory.wf (s.putWeights gl q bs).mem = true := by
  exact foldl_wf _ (fun t q => Memory.wf_writeBytes) _ _ h
@[simp] theorem State.wf_putActor {s : State} (l : Nat) (x : Launch) (again : Req → Req) (pl : PlaneId) (a : ActorSave) (h : Memory.wf s.mem = true) :
    Memory.wf (s.putActor l x again pl a).mem = true := by
  simp only [State.putActor]
  (repeat' split) <;> simp [h]
@[simp] theorem State.wf_putMatrix {s : State} (l : Nat) (x : Launch) (c : Cut) (recs : List MRec) (h : Memory.wf s.mem = true) :
    Memory.wf (s.putMatrix l x c recs).mem = true := by
  simp only [State.putMatrix]
  refine foldl_wf _ (fun t q ht => ?_) _ _ (by simp [h])
  split <;> simp [ht]
@[simp] theorem State.putCopy_mem (s : State) (l : Nat) (x : Launch) (mv : List (PlaneId × PlaneId)) (faults : List FaultRec) (w : CopySave) :
    (s.putCopy l x mv faults w).mem = s.mem := by
  simp [State.putCopy]
@[simp] theorem State.putParks_mem (s : State) (l : Nat) (x : Launch) (mv : List (PlaneId × PlaneId)) (rs : List ParkRec) :
    (s.putParks l x mv rs).mem = s.mem := by
  simp only [State.putParks]
  simp [foldl_mem]
@[simp] theorem State.wf_wakeParks {s : State} (l : Nat) (h : Memory.wf s.mem = true) : Memory.wf (s.wakeParks l).mem = true := by
  simp [State.wakeParks, h]
@[simp] theorem State.wf_putCut {s : State} (l p : Nat) (c : Cut) (h : Memory.wf s.mem = true) :
    Memory.wf (s.putCut l p c).mem = true := by
  simp only [State.putCut]
  split
  · exact h
  · simp only [State.putArms_mem, State.putCounts_mem, State.refill_mem]
    refine foldl_wf _ (fun t i ht => State.wf_catchUp _ _ ht) _ _ ?_
    rw [State.putParks_mem, foldl_mem fun t w => State.putCopy_mem ..]
    refine State.wf_putMatrix _ _ _ _ ?_
    rw [State.loadWins_mem]
    refine foldl_wf _ (fun t a ht => ?_) _ _ (by simp [h])
    split <;> simp [ht]
@[simp] theorem State.wf_fillGroup {s : State} (x : Launch) (st : Stream) (p : W32) (f : Bool) (h : Memory.wf s.mem = true) :
    Memory.wf (s.fillGroup x st p f).mem = true := by
  simp only [State.fillGroup]
  split <;> simp [h]
@[simp] theorem wf_supplyGo (l i n : Nat) {s : State} (h : Memory.wf s.mem = true) : Memory.wf (supplyGo l i n s).mem = true := by
  induction n generalizing s with
  | zero => exact h
  | succ n ih =>
    simp only [supplyGo]
    (repeat' split) <;> try exact h
    all_goals exact ih (State.wf_setStream _ _ _ (by simp [h]))
@[simp] theorem State.wf_supply {s : State} (l i : Nat) (h : Memory.wf s.mem = true) : Memory.wf (s.supply l i).mem = true :=
  wf_supplyGo _ _ _ h
@[simp] theorem State.wf_restoreGroup {s : State} (x : Launch) (st : Stream) (held : W32 → Bool) (known : List (W32 × List W64)) (p : W32) (h : Memory.wf s.mem = true) :
    Memory.wf (s.restoreGroup x st held known p).mem = true := by
  simp only [State.restoreGroup]
  (repeat' split) <;> try simp [h]
  exact State.wf_fillGroup _ _ _ _ (foldl_wf _ (fun t q ht => by simp [ht]) _ _ h)
@[simp] theorem State.wf_restoreStream {s : State} (l i : Nat) (x : Launch) (now : Stream) (saved : Option Stream) (h : Memory.wf s.mem = true) :
    Memory.wf (s.restoreStream l i x now saved).mem = true := by
  exact State.wf_supply _ _ (State.wf_setStream _ _ _ (foldl_wf _ (fun t p ht => State.wf_restoreGroup _ _ _ _ _ ht) _ _ h))
@[simp] theorem State.wf_restoreStreams {s : State} (l : Nat) (c : Option Cut) (old : List Stream) (h : Memory.wf s.mem = true) :
    Memory.wf (s.restoreStreams l c old).mem = true := by
  simp only [State.restoreStreams]
  split
  · exact h
  · exact foldl_wf _ (fun t q ht => State.wf_restoreStream _ _ _ _ _ ht) _ _ h
@[simp] theorem State.discard_mem (s : State) (l n : Nat) : (s.discard l n).mem = s.mem := by
  simp only [State.discard]
  refine (foldl_mem (fun t k => ?_) _ _).trans rfl
  split <;> simp
@[simp] theorem State.wf_clearBars {s : State} (x : Launch) (h : Memory.wf s.mem = true) :
    Memory.wf (s.clearBars x).mem = true := by
  exact foldl_wf _ (fun t k ht => State.wf_setBar _ _ ht) _ _ h
@[simp] theorem State.cutTwin_mem (s : State) (l : Nat) (c : Option Cut) : (s.cutTwin l c).mem = s.mem := by rfl
@[simp] theorem State.wf_replay {s : State} (l : Nat) (h : Memory.wf s.mem = true) : Memory.wf (s.replay l).mem = true := by
  simp only [State.replay]
  (repeat' split) <;> simp [h]
@[simp] theorem State.wf_rollback {s : State} (l : Nat) (x : Launch) (h : Memory.wf s.mem = true) :
    Memory.wf (s.rollback l x).mem = true := by
  have hback : ∀ (c : Cut) (p : Nat) (t : State), Memory.wf t.mem = true →
      Memory.wf (((((c.bars.foldl (fun (s : State) (b : BarSave) => { s with mem := Memory.writeBytes s.mem b.pa b.bytes }) t).cutTwin l
        (some c)).putCut l p c).restoreStreams l (some c) x.streams).wakeParks l).mem = true := by
    intro c p t ht
    refine State.wf_wakeParks _ (State.wf_restoreStreams _ _ _ (State.wf_putCut _ _ _ ?_))
    rw [State.cutTwin_mem]
    exact foldl_wf _ (fun u b => Memory.wf_writeBytes) _ _ ht
  simp only [State.rollback]
  split
  · exact h
  · split <;> simp only [State.inject_mem, State.modLaunch_mem] <;> split
    · exact State.wf_replay _ (State.wf_clearBars _ (by simpa using h))
    · exact hback _ _ _ (State.wf_clearBars _ (by simpa using h))
    · exact State.wf_replay _ (State.wf_clearBars _ (by simpa using h))
    · exact hback _ _ _ (State.wf_clearBars _ (by simpa using h))
@[simp] theorem State.wf_discardAll {s : State} (l : Nat) (x : Launch) (h : Memory.wf s.mem = true) :
    Memory.wf (s.discardAll l x).mem = true := by
  simp [State.discardAll, h]
@[simp] theorem State.wf_failLaunch {s : State} (l : Nat) (x : Launch) (fid : Nat) (h : Memory.wf s.mem = true) :
    Memory.wf (s.failLaunch l x fid).mem = true := by
  simp only [State.failLaunch]
  split <;> simp [h]
@[simp] theorem State.wf_abort {s : State} (l : Nat) (x : Launch) (h : Memory.wf s.mem = true) :
    Memory.wf (s.abort l x).mem = true := by
  simp [State.abort, h]
@[simp] theorem State.wf_abortGroup {s : State} (x : Launch) (h : Memory.wf s.mem = true) :
    Memory.wf (s.abortGroup x).mem = true := by
  simp only [State.abortGroup]
  refine foldl_wf _ (fun t q ht => ?_) _ _ (foldl_wf _ (fun t q ht => State.wf_abort _ _ ht) _ _ h)
  split <;> simp [ht]
@[simp] theorem State.wf_failGroup {s : State} (x : Launch) (fid : Nat) (h : Memory.wf s.mem = true) :
    Memory.wf (s.failGroup x fid).mem = true := by
  refine foldl_wf _ (fun t q ht => ?_) _ _ h
  dsimp only
  split <;> simp [ht]
@[simp] theorem State.wf_recover {s : State} (l : Nat) (h : Memory.wf s.mem = true) : Memory.wf (s.recover l).mem = true := by
  simp only [State.recover]
  (repeat' split) <;> simp [h]
@[simp] theorem State.wf_oldestStart {s : State} (l : Nat) (h : Memory.wf s.mem = true) :
    Memory.wf (s.oldestStart l).mem = true := by
  simp only [State.oldestStart]
  (repeat' split) <;> simp [h]
@[simp] theorem State.wf_snapCadence {s : State} (l : Nat) (h : Memory.wf s.mem = true) :
    Memory.wf (s.snapCadence l).mem = true := by
  simp only [State.snapCadence]
  (repeat' split) <;> simp [h]
@[simp] theorem State.unpause_mem (s : State) (l : Nat) (x : Launch) : (s.unpause l x).mem = s.mem := by
  simp only [State.unpause]
  refine (foldl_mem (fun t pl => ?_) _ _).trans ((foldl_mem (fun t c => ?_) _ _).trans ?_)
  · (repeat' split) <;> simp
  · simp
  · simp
@[simp] theorem State.wf_resumePre {s : State} (l : Nat) (x : Launch) (h : Memory.wf s.mem = true) :
    Memory.wf (s.resumePre l x).mem = true := by
  simp only [State.resumePre]
  split <;> simp [h]

/-! ### Machine/Pages.lean -/

@[simp] theorem State.invalDone_mem (s : State) (iid : Nat) : (s.invalDone iid).mem = s.mem := by
  simp only [State.invalDone]
  (repeat' split) <;> simp
@[simp] theorem State.portInval_mem (s : State) (iid port : Nat) : (s.portInval iid port).mem = s.mem := by
  simp only [State.portInval]
  (repeat' split) <;> simp
@[simp] theorem State.portAck_mem (s : State) (iid port : Nat) : (s.portAck iid port).mem = s.mem := by
  simp only [State.portAck]
  (repeat' split) <;> simp
@[simp] theorem State.dropFetch_mem (s : State) (port : Nat) : (s.dropFetch port).mem = s.mem := by rfl
@[simp] theorem State.runAhead_mem (s : State) (port : Nat) (asid : BitVec 16) (va prompt : Nat) :
    (s.runAhead port asid va prompt).mem = s.mem := by
  simp only [State.runAhead]
  (repeat' split) <;> simp
@[simp] theorem State.unholdPages_mem (s : State) (l : Nat) : (s.unholdPages l).mem = s.mem := by
  simp only [State.unholdPages]
  (repeat' split) <;> simp
@[simp] theorem State.rehold_mem (s : State) (ix : Nat) (st : ReqSt) (dst : Option Nat) : (s.rehold ix st dst).mem = s.mem := by rfl
@[simp] theorem State.faultHeld_mem (s : State) (l ix : Nat) : (s.faultHeld l ix).mem = s.mem := by
  simp only [State.faultHeld]
  (repeat' split) <;> simp [foldl_mem]
@[simp] theorem State.postWait_mem (s : State) (w : PrqEnt) : (s.postWait w).mem = s.mem := by
  simp only [State.postWait]
  (repeat' split) <;> simp [foldl_mem]
@[simp] theorem State.freePrqEnt_mem (s : State) (ix : Nat) : (s.freePrqEnt ix).mem = s.mem := by
  simp only [State.freePrqEnt]
  simp [foldl_mem]
@[simp] theorem State.rePlane_mem (s : State) (l : Nat) (x : Launch) (mv : List (PlaneId × PlaneId)) :
    (s.rePlane l x mv).mem = s.mem := by
  simp [State.rePlane]
@[simp] theorem State.wf_reload {s : State} (l : Nat) (h : Memory.wf s.mem = true) : Memory.wf (s.reload l).mem = true := by
  simp only [State.reload]
  (repeat' split) <;> try exact h
  all_goals
    simp only [State.faultHeld_mem, State.putArms_mem, State.putCounts_mem]
    refine State.wf_putMatrix _ _ _ _ ?_
    rw [State.loadWins_mem]
    exact foldl_wf _ (fun t a ht => State.wf_putActor _ _ _ _ _ ht) _ _ (by simp [h])
@[simp] theorem State.wf_resumeHolders {s : State} (hs : List (Nat × Launch)) (h : Memory.wf s.mem = true) :
    Memory.wf (s.resumeHolders hs).mem = true := by
  exact foldl_wf _ (fun t q ht => by simp [ht]) _ _ h
@[simp] theorem State.refuseAnswer_mem (s : State) : s.refuseAnswer.mem = s.mem := by rfl
@[simp] theorem State.wf_answerResume {s : State} (val : W64) (h : Memory.wf s.mem = true) :
    Memory.wf (s.answerResume val).mem = true := by
  simp only [State.answerResume]
  (repeat' split) <;> simp [h]
@[simp] theorem State.wf_answerFault {s : State} (val : W64) (h : Memory.wf s.mem = true) :
    Memory.wf (s.answerFault val).mem = true := by
  simp only [State.answerFault]
  (repeat' split) <;> try simp [h]
  refine State.wf_resumeHolders _ ?_
  rw [State.freePrqEnt_mem, State.rehold_mem, foldl_mem fun t q => by split <;> simp]
  exact h
@[simp] theorem State.answerAbort_mem (s : State) (val : W64) : (s.answerAbort val).mem = s.mem := by
  simp only [State.answerAbort]
  (repeat' split) <;> simp [foldl_mem]
@[simp] theorem State.answerRefused_mem (s : State) (val : W64) : (s.answerRefused val).mem = s.mem := by
  simp only [State.answerRefused]
  split <;> simp
@[simp] theorem State.wf_scanLaunch {s : State} (l : Nat) (x : Launch) (h : Memory.wf s.mem = true) :
    Memory.wf (s.scanLaunch l x).mem = true := by
  simp only [State.scanLaunch]
  split <;> simp [h]
@[simp] theorem State.wf_scanOut {s : State} (ix : Nat) (h : Memory.wf s.mem = true) : Memory.wf (s.scanOut ix).mem = true := by
  simp only [State.scanOut]
  (repeat' split) <;> try exact h
  refine foldl_wf _ (fun t q ht => ?_) _ _ h
  split <;> simp [ht]
@[simp] theorem State.wf_pageOut {s : State} (asid : BitVec 16) (va f : Nat) (h : Memory.wf s.mem = true) :
    Memory.wf (s.pageOut asid va f).mem = true := by
  simp only [State.pageOut]
  split
  · refine State.wf_catchUpAll_with _ _ _ ?_
    exact foldl_wf _ (fun u i hu => State.wf_foldLine _ hu) _ _ (State.wf_flushBank _ _ h)
  · exact h
@[simp] theorem State.wf_pageIn {s : State} (asid : BitVec 16) (va f : Nat) (h : Memory.wf s.mem = true) :
    Memory.wf (s.pageIn asid va f).mem = true := by
  simp only [State.pageIn]
  split
  · split
    · apply State.wf_wake
      rw [foldl_mem fun t k => State.markParked_mem .., foldl_mem fun t k => State.setHomeBit_mem ..]
      exact Memory.wf_writeBytes h
    · exact h
  · exact h
@[simp] theorem State.parkTimeouts_mem (s : State) (gl : Nat) : (s.parkTimeouts gl).mem = s.mem := by
  simp only [State.parkTimeouts]
  (repeat' split) <;> simp [foldl_mem]

/-! ### Machine/Context.lean -/

@[simp] theorem State.wf_ctxSave {s : State} (asid : BitVec 16) (l dst : Nat) (h : Memory.wf s.mem = true) :
    Memory.wf (s.ctxSave asid l dst).2.mem = true := by
  unfold State.ctxSave
  grind [State.freeIx_mem, State.wf_fwWrite]
@[simp] theorem State.moveLaunch_mem (s : State) (l gl q core : Nat) (x : Launch) (img : Image) (c : Cut) (last : Option Cut) (susp : Bool) :
    (s.moveLaunch l gl q core x img c last susp).mem = s.mem := by
  simp [State.moveLaunch]
@[simp] theorem State.ctxLoad_mem (s : State) (core gl : Nat) (asid : BitVec 16) (va q : Nat) :
    (s.ctxLoad core gl asid va q).2.mem = s.mem := by
  simp only [State.ctxLoad]
  (repeat' split) <;> simp
@[simp] theorem State.wf_newVersion {s : State} (l : Nat) (h : Memory.wf s.mem = true) :
    Memory.wf (s.newVersion l).mem = true := by
  simp only [State.newVersion]
  split
  · exact h
  · exact foldl_wf _ (fun t k ht => State.wf_setBar _ _ ht) _ _ h
@[simp] theorem State.wf_startCtx {s : State} (gl q l : Nat) (rest : List QEnt) (h : Memory.wf s.mem = true) :
    Memory.wf (s.startCtx gl q l rest).mem = true := by
  unfold State.startCtx
  grind [State.setQueue_mem, State.wf_newVersion, State.ticketTo_mem, State.wf_wakeParks, State.wf_putCut,
    State.unpause_mem, State.modLaunch_mem]
@[simp] theorem State.wf_launchStart {s : State} (gl q : Nat) (h : Memory.wf s.mem = true) :
    Memory.wf (s.launchStart gl q).mem = true := by
  simp only [State.launchStart]
  (repeat' split) <;> simp [h]

/-! ### Machine/Border.lean -/

@[simp] theorem State.coreRet_mem (s : State) (c rd : Nat) (v : W64) : (s.coreRet c rd v).mem = s.mem := by rfl
@[simp] theorem State.coreTrap_mem (s : State) (c : Nat) (cause tval : W64) : (s.coreTrap c cause tval).mem = s.mem := by rfl
@[simp] theorem State.launchRecord_mem (s : State) (gl : Nat) (isOpen : Bool) (c : Nat) (asid : BitVec 16) (a q : W64) :
    (s.launchRecord gl isOpen c asid a q).2.mem = s.mem := by
  simp only [State.launchRecord]
  (repeat' split) <;> simp
@[simp] theorem State.coreAnswer_mem (c rd : Nat) (cause va : W64) (r : Option W64 × State) :
    (State.coreAnswer c rd cause va r).mem = r.2.mem := by
  simp only [State.coreAnswer]
  split <;> simp
@[simp] theorem State.jLaunch_mem (s : State) (rd rs1 rs2 : BitVec 5) (c : Nat) (x : Core) :
    (s.jLaunch rd rs1 rs2 c x).mem = s.mem := by
  simp [State.jLaunch]
@[simp] theorem State.jQuery_mem (s : State) (rd rs1 rs2 : BitVec 5) (c : Nat) (x : Core) :
    (s.jQuery rd rs1 rs2 c x).mem = s.mem := by
  rfl
@[simp] theorem State.jInvr_mem (s : State) (rd rs1 rs2 : BitVec 5) (c : Nat) (x : Core) :
    (s.jInvr rd rs1 rs2 c x).mem = s.mem := by
  simp only [State.jInvr]
  split <;> simp
@[simp] theorem State.wf_kill {s : State} (l : Nat) (x : Launch) (c : Nat) (h : Memory.wf s.mem = true) :
    Memory.wf (s.kill l x c).2.mem = true := by
  simp only [State.kill]
  (repeat' split) <;> simp [h]
@[simp] theorem State.wf_resumeTry {s : State} (l : Nat) (h : Memory.wf s.mem = true) : Memory.wf (s.resumeTry l).mem = true := by
  simp only [State.resumeTry]
  (repeat' split) <;> simp [h]
@[simp] theorem State.wf_command {s : State} (l : Nat) (x : Launch) (cmd c : Nat) (h : Memory.wf s.mem = true) :
    Memory.wf (s.command l x cmd c).2.mem = true := by
  simp only [State.command]
  (repeat' split) <;> simp [h]
@[simp] theorem State.wf_jCmd {s : State} (rd rs1 rs2 : BitVec 5) (c : Nat) (x : Core) (h : Memory.wf s.mem = true) :
    Memory.wf (s.jCmd rd rs1 rs2 c x).mem = true := by
  simp only [State.jCmd]
  (repeat' split) <;> simp [h]
@[simp] theorem State.wf_jWaitw {s : State} (rd rs1 rs2 : BitVec 5) (c : Nat) (x : Core) (h : Memory.wf s.mem = true) :
    Memory.wf (s.jWaitw rd rs1 rs2 c x).mem = true := by
  simp only [State.jWaitw]
  (repeat' split) <;> simp [h]
@[simp] theorem State.endWait_mem (s : State) (c : Nat) (v : W64) : (s.endWait c v).mem = s.mem := by
  simp only [State.endWait]
  split <;> simp
@[simp] theorem State.waitTimeout_mem (s : State) (c : Nat) : (s.waitTimeout c).mem = s.mem := by
  simp only [State.waitTimeout]
  (repeat' split) <;> simp
@[simp] theorem State.interrupt_mem (s : State) (c : Nat) (cause : W64) : (s.interrupt c cause).mem = s.mem := by
  simp only [State.interrupt]
  split <;> simp
@[simp] theorem State.wf_jCtxsave {s : State} (rd rs1 rs2 : BitVec 5) (c : Nat) (x : Core) (h : Memory.wf s.mem = true) :
    Memory.wf (s.jCtxsave rd rs1 rs2 c x).mem = true := by
  simp only [State.jCtxsave]
  (repeat' split) <;> simp [h]
@[simp] theorem State.jCtxload_mem (s : State) (rd rs1 rs2 : BitVec 5) (c : Nat) (x : Core) :
    (s.jCtxload rd rs1 rs2 c x).mem = s.mem := by
  simp [State.jCtxload]
@[simp] theorem State.ringAnswer_mem (s : State) (pl : PlaneId) (v : W64) : (s.ringAnswer pl v).mem = s.mem := by
  simp only [State.ringAnswer]
  split <;> simp
@[simp] theorem State.callRoutine_mem (s : State) (c : Nat) : (s.callRoutine c).mem = s.mem := by
  simp only [State.callRoutine]
  (repeat' split) <;> simp
@[simp] theorem State.callAnswer_mem (s : State) (c : Nat) : (s.callAnswer c).mem = s.mem := by
  simp only [State.callAnswer]
  (repeat' split) <;> simp
@[simp] theorem State.switchCore_mem (s : State) (c t : Nat) : (s.switchCore c t).mem = s.mem := by
  simp only [State.switchCore]
  (repeat' split) <;> simp
@[simp] theorem State.budgetTimer_mem (s : State) (c : Nat) : (s.budgetTimer c).mem = s.mem := by
  simp only [State.budgetTimer]
  split <;> simp
@[simp] theorem State.budgetRenew_mem (s : State) (c : Nat) : (s.budgetRenew c).mem = s.mem := by
  simp only [State.budgetRenew]
  split <;> simp

/-! ### Machine/Abi.lean -/

@[simp] theorem State.frameClaim_mem (s : State) (x : Core) (t : Nat) : (s.frameClaim x t).2.mem = s.mem := by
  simp only [State.frameClaim]
  (repeat' split) <;> try rfl
  exact foldl_mem (fun t f => State.setFrame_mem ..) _ _
@[simp] theorem State.frameReturn_mem (s : State) (x : Core) (t : Nat) : (s.frameReturn x t).2.mem = s.mem := by
  simp only [State.frameReturn]
  (repeat' split) <;> try rfl
  exact foldl_mem (fun t f => State.setFrame_mem ..) _ _
@[simp] theorem State.asidSet_mem (s : State) (x : Core) (t : Nat) : (s.asidSet x t).2.mem = s.mem := by
  simp only [State.asidSet]
  (repeat' split) <;> simp
@[simp] theorem State.queueBind_mem (s : State) (x : Core) (t : Nat) : (s.queueBind x t).2.mem = s.mem := by
  simp only [State.queueBind]
  (repeat' split) <;> simp
@[simp] theorem State.wf_ringStatus {s : State} (r : Ring) (hd : List Byte) (st : Nat) (h : Memory.wf s.mem = true) :
    Memory.wf (s.ringStatus r hd st).mem = true := by
  simp [State.ringStatus, h]
@[simp] theorem State.wf_ringRegister {s : State} (x : Core) (c t : Nat) (h : Memory.wf s.mem = true) :
    Memory.wf (s.ringRegister x c t).2.mem = true := by
  simp only [State.ringRegister]
  (repeat' split) <;> simp [h]
@[simp] theorem State.svcWeight_mem (s : State) (x : Core) (t : Nat) : (s.svcWeight x t).2.mem = s.mem := by
  simp only [State.svcWeight]
  split <;> simp
@[simp] theorem State.hostRange_mem (s : State) (x : Core) (t : Nat) : (s.hostRange x t).2.mem = s.mem := by
  simp only [State.hostRange]
  (repeat' split) <;> simp
@[simp] theorem State.noticeWordSet_mem (s : State) (x : Core) (t : Nat) : (s.noticeWordSet x t).2.mem = s.mem := by
  simp only [State.noticeWordSet]
  (repeat' split) <;> simp
@[simp] theorem State.noticeTake_mem (s : State) (t : Nat) : (s.noticeTake t).2.mem = s.mem := by
  simp only [State.noticeTake]
  split <;> simp
@[simp] theorem State.wf_prqInfo {s : State} (x : Core) (t : Nat) (h : Memory.wf s.mem = true) :
    Memory.wf (s.prqInfo x t).2.mem = true := by
  simp only [State.prqInfo]
  (repeat' split) <;> simp [h]
@[simp] theorem State.collStart_mem (s : State) (x : Core) (c t : Nat) : (s.collStart x c t).2.mem = s.mem := by
  simp only [State.collStart]
  (repeat' split) <;> simp
@[simp] theorem State.abiUnknown_mem (s : State) (c : Nat) : (s.abiUnknown c).mem = s.mem := by
  simp only [State.abiUnknown]
  split <;> simp

/-! ### Machine/Ras.lean -/

@[simp] theorem State.wf_patrol {s : State} (f : Nat) (corr uncorr : Bool) (h : Memory.wf s.mem = true) :
    Memory.wf (s.patrol f corr uncorr).mem = true := by
  simp only [State.patrol]
  (repeat' split) <;> simp [h]
@[simp] theorem State.wf_scrub {s : State} (f : Nat) (h : Memory.wf s.mem = true) : Memory.wf (s.scrub f).mem = true := by
  unfold State.scrub
  grind [State.setFrame_mem, Memory.wf_filter, State.retireFrame_mem, State.wf_notice]

/-! ### Machine/HostPort.lean -/

@[simp] theorem State.wf_ringTake {s : State} (r : Ring) (h : Memory.wf s.mem = true) :
    Memory.wf (s.ringTake r).2.mem = true := by
  simp only [State.ringTake]
  (repeat' split) <;> simp [State.wf_foldLine, h]
@[simp] theorem State.modRing_mem (s : State) (r : Ring) (f : Ring → Ring) : (s.modRing r f).mem = s.mem := by rfl
@[simp] theorem State.wf_ringOverrun {s : State} (r : Ring) (hd : List Byte) (h : Memory.wf s.mem = true) :
    Memory.wf (s.ringOverrun r hd).mem = true := by
  simp [State.ringOverrun, h]
@[simp] theorem wf_ringGo (r : Ring) (n : Nat) {s : State} (h : Memory.wf s.mem = true) : Memory.wf (ringGo r n s).mem = true := by
  induction n generalizing s with
  | zero => exact h
  | succ n ih =>
    unfold ringGo
    grind [State.wf_ringOverrun, State.wf_fwWrite, State.launchRecord_mem]
@[simp] theorem State.wf_ringDrain {s : State} (gl k : Nat) (h : Memory.wf s.mem = true) :
    Memory.wf (s.ringDrain gl k).mem = true := by
  simp only [State.ringDrain]
  (repeat' split) <;> simp [h]
@[simp] theorem State.wf_ringReset {s : State} (gl k : Nat) (h : Memory.wf s.mem = true) :
    Memory.wf (s.ringReset gl k).mem = true := by
  unfold State.ringReset
  grind [State.wf_ringTake, State.modRing_mem, State.wf_ringStatus, State.wf_fwWrite]
@[simp] theorem State.hostFail_mem (s : State) (off : Nat) : (s.hostFail off).mem = s.mem := by rfl
@[simp] theorem State.hostXlate_mem (s : State) (e : W64) (va : Nat) (write : Bool) : (s.hostXlate e va write).2.mem = s.mem := by
  unfold State.hostXlate
  grind [State.xlate_mem]
@[simp] theorem State.hostAnswer_mem (s : State) (a : HostAns) : (s.hostAnswer a).mem = s.mem := by rfl
@[simp] theorem State.wf_hostRead {s : State} (base o n : Nat) (corr bad : Bool) (h : Memory.wf s.mem = true) :
    ∀ t, s.hostRead base o n corr bad = some t → Memory.wf t.mem = true := by
  unfold State.hostRead
  grind [State.hostAnswer_mem, State.hostXlate_mem, State.hostFail_mem, State.wf_readError]
@[simp] theorem State.wf_plainWrite {s : State} (o : Nat) (bs : List Byte) (h : Memory.wf s.mem = true) :
    ∀ t, s.plainWrite o bs = some t → Memory.wf t.mem = true := by
  unfold State.plainWrite
  grind [State.hostFail_mem, State.hostXlate_mem, State.wf_homeWrite]
@[simp] theorem State.wf_fillWrite {s : State} (o : Nat) (bs : List Byte) (h : Memory.wf s.mem = true) :
    ∀ t, s.fillWrite o bs = some t → Memory.wf t.mem = true := by
  intro t ht
  have hfill : ∀ (ws : List Nat) (t : State), Memory.wf t.mem = true → Memory.wf (ws.foldl (fun s w => s.homeFill (w * 8) true) t).mem = true :=
    fun ws t ht => foldl_wf _ (fun u w hu => State.wf_homeFill _ _ hu) _ _ ht
  unfold State.fillWrite at ht
  grind [State.hostXlate_mem, State.hostFail_mem, State.wf_homeWrite, State.wf_catchUpAll, State.wf_wake]
@[simp] theorem State.wf_probeRead {s : State} (o n : Nat) (corr bad : Bool) (h : Memory.wf s.mem = true) :
    ∀ t, s.probeRead o n corr bad = some t → Memory.wf t.mem = true := by
  unfold State.probeRead
  grind [State.hostAnswer_mem, State.hostFail_mem, State.hostXlate_mem, State.wf_readError]
@[simp] theorem State.wf_hostDo {s : State} (a : HostAcc) (h : Memory.wf s.mem = true) :
    ∀ t, s.hostDo a = some t → Memory.wf t.mem = true := by
  unfold State.hostDo
  grind [State.wf_hostRead, State.wf_probeRead, State.wf_plainWrite, State.wf_fillWrite]
@[simp] theorem State.wf_hostAccess {s : State} (a : HostAcc) (h : Memory.wf s.mem = true) :
    Memory.wf (s.hostAccess a).mem = true := by
  simp only [State.hostAccess]
  split
  · exact h
  · cases hd : s.hostDo a with
    | none => exact h
    | some t => exact State.wf_hostDo a h t hd
@[simp] theorem State.wf_hostRetry {s : State} (port : Nat) (h : Memory.wf s.mem = true) :
    Memory.wf (s.hostRetry port).mem = true := by
  simp only [State.hostRetry]
  split
  · exact h
  · exact foldl_wf _ (fun t a => State.wf_hostAccess a) _ _ h
@[simp] theorem State.registerWrite_mem (s : State) (o : Nat) (v : W64) : (s.registerWrite o v).mem = s.mem := by
  simp only [State.registerWrite]
  (repeat' split) <;> simp
@[simp] theorem State.hostTrain_mem (s : State) (n : Nat) : (s.hostTrain n).mem = s.mem := by
  simp only [State.hostTrain]
  split <;> simp

/-! ### Machine/Twin.lean -/

theorem State.wf_guarded (l : Nat) (pl : PlaneId) (x : Launch) (r : Req) {k : State → List Part → State × List Nat} {s : State}
    (ps : List Part) (h : Memory.wf s.mem = true) (hk : ∀ t qs, Memory.wf t.mem = true → Memory.wf (k t qs).1.mem = true) :
    Memory.wf (State.guarded l pl x r k s ps).1.mem = true := by
  unfold State.guarded
  grind [State.reqFault_mem, State.wf_demandRead]
@[simp] theorem State.dropPair_mem (s : State) (a b : Nat) : (s.dropPair a b).mem = s.mem := by rfl
@[simp] theorem State.twinCompare_mem (s : State) (l : Nat) (last : Bool) : (s.twinCompare l last).mem = s.mem := by
  simp only [State.twinCompare]
  (repeat' split) <;> simp
@[simp] theorem State.commitTwin_mem (s : State) (l : Nat) (x : Launch) : (s.commitTwin l x).mem = s.mem := by
  simp [State.commitTwin]
@[simp] theorem State.wf_launchCommit {s : State} (l : Nat) (h : Memory.wf s.mem = true) :
    Memory.wf (s.launchCommit l).mem = true := by
  simp only [State.launchCommit]
  (repeat' split) <;> try simp [h, foldl_mem]

/-! ### Machine/Links.lean -/

@[simp] theorem State.setSlink_mem (s : State) (k : Nat) (x : SLink) : (s.setSlink k x).mem = s.mem := by rfl
@[simp] theorem State.linkTrain_mem (s : State) (k : Nat) (masks : List (BitVec 16)) : (s.linkTrain k masks).mem = s.mem := by
  simp only [State.linkTrain]
  (repeat' split) <;> simp
@[simp] theorem State.linkFault_mem (s : State) (l : Nat) : (s.linkFault l).mem = s.mem := by
  simp only [State.linkFault]
  split <;> simp
@[simp] theorem State.wf_collFail {s : State} (q : Coll) (h : Memory.wf s.mem = true) :
    Memory.wf (s.collFail q).mem = true := by
  simp [State.collFail, h]
@[simp] theorem State.wf_linkDown {s : State} (k : Nat) (h : Memory.wf s.mem = true) : Memory.wf (s.linkDown k).mem = true := by
  simp only [State.linkDown]
  refine foldl_wf _ (fun t q ht => State.wf_collFail _ ht) _ _ (foldl_wf _ (fun t q ht => State.wf_notice _ _ ht) _ _ ?_)
  simpa [foldl_mem] using h
@[simp] theorem State.wf_flit {s : State} (k : Nat) (ok : Bool) (h : Memory.wf s.mem = true) :
    Memory.wf (s.flit k ok).mem = true := by
  simp only [State.flit]
  (repeat' split) <;> simp [h]
@[simp] theorem State.peerWait_mem (s : State) (pl : PlaneId) (r : Req) (left : Nat) : (s.peerWait pl r left).mem = s.mem := by
  simp only [State.peerWait]
  (repeat' split) <;> simp
@[simp] theorem State.wf_peerParts {s : State} (pl : PlaneId) (lid : Nat) (x : Launch) (r : Req) (ps : List Part) (h : Memory.wf s.mem = true) :
    Memory.wf (s.peerParts pl lid x r ps).1.mem = true := by
  simp only [State.peerParts]
  (repeat' split) <;> simp [State.wf_homeEff, h]
@[simp] theorem State.wf_peerStream {s : State} (pl : PlaneId) (rid : Nat) (h : Memory.wf s.mem = true) :
    Memory.wf (s.peerStream pl rid).mem = true := by
  simp only [State.peerStream]
  (repeat' split) <;> simp [h]
@[simp] theorem State.wf_peerAccess {s : State} (pl : PlaneId) (rid : Nat) (h : Memory.wf s.mem = true) :
    Memory.wf (s.peerAccess pl rid).mem = true := by
  simp only [State.peerAccess]
  split
  · simp [h]
  · split
    · refine State.wf_wake _ (State.wf_access _ _ _ _ h fun t ps ht => State.wf_guarded _ _ _ _ _ ht fun u qs hu => ?_)
      exact State.wf_peerParts _ _ _ _ _ hu
    · simp [h]
@[simp] theorem State.wf_peerRetry {s : State} (pl : PlaneId) (rid : Nat) (h : Memory.wf s.mem = true) :
    Memory.wf (s.peerRetry pl rid).mem = true := by
  unfold State.peerRetry
  grind [State.xlateFor_mem, State.reqFault_mem, State.linkFault_mem, State.wf_doAccess, State.wf_wake, State.setReq_mem]
@[simp] theorem State.wf_collDone {s : State} (k : Nat) (rows : List (List W64)) (agree : Bool) (h : Memory.wf s.mem = true) :
    Memory.wf (s.collDone k rows agree).mem = true := by
  unfold State.collDone
  grind [State.wf_collFail, State.wf_fwWrite, State.wf_wake, State.wf_homeFill]

/-! ### Machine/Forester.lean -/

@[simp] theorem State.setIsland_mem (s : State) (i : Nat) (x : Island) : (s.setIsland i x).mem = s.mem := by rfl
@[simp] theorem State.applyLayout_mem (s : State) (rs : List JRec) : (s.applyLayout rs).mem = s.mem := by
  simp only [State.applyLayout]
  refine (foldl_mem (fun t r => ?_) _ _).trans rfl
  (repeat' split) <;> simp
@[simp] theorem State.rollIsland_mem (s : State) (j : List JRec) (i : Nat) : (s.rollIsland j i).mem = s.mem := by
  simp only [State.rollIsland]
  (repeat' split) <;> simp
@[simp] theorem State.layoutRecovery_mem (s : State) : s.layoutRecovery.mem = s.mem := by
  simp only [State.layoutRecovery]
  rw [foldl_mem fun t i => State.rollIsland_mem ..]
  split <;> simp
@[simp] theorem State.bootLayout_mem (s : State) : s.bootLayout.mem = s.mem := by
  simp only [State.bootLayout, State.applyLayout_mem]
  exact foldl_mem (fun t r => State.setIsland_mem ..) _ _
@[simp] theorem State.deriveKeys_mem (s : State) : s.deriveKeys.mem = s.mem := by rfl
@[simp] theorem State.wf_startForester {s : State} (img : List Byte) (h : Memory.wf s.mem = true) :
    Memory.wf (s.startForester img).mem = true := by
  simp only [State.startForester]
  refine State.wf_releaseMarks ?_
  rw [State.bootLayout_mem, foldl_mem fun t f => State.setFrame_mem ..]
  simpa using h
@[simp] theorem State.wf_boot {s : State} (h : Memory.wf s.mem = true) : Memory.wf s.boot.mem = true := by
  simp only [State.boot]
  (repeat' split) <;> simp [h]
@[simp] theorem State.wf_foresterReset {s : State} (h : Memory.wf s.mem = true) : Memory.wf s.foresterReset.mem = true := by
  simp only [State.foresterReset]
  split
  · exact h
  · apply State.wf_releaseMarks
    dsimp only
    rw [State.layoutRecovery_mem]
    refine foldl_wf _ (fun t q ht => ?_) _ _ h
    split <;> simp [ht]
  · exact h
@[simp] theorem State.powerStep_mem (s : State) (i avg : Nat) : (s.powerStep i avg).mem = s.mem := by
  simp only [State.powerStep]
  split <;> simp
@[simp] theorem State.tableStep_mem (s : State) : s.tableStep.mem = s.mem := by
  simp only [State.tableStep]
  (repeat' split) <;> simp
@[simp] theorem State.certInstall_mem (s : State) : s.certInstall.mem = s.mem := by
  simp only [State.certInstall]
  split <;> simp
@[simp] theorem State.shareRange_mem (s : State) (t base len : Nat) : (s.shareRange t base len).mem = s.mem := by
  simp only [State.shareRange]
  split <;> simp
@[simp] theorem State.debugAuth_mem (s : State) (t : Nat) (on : Bool) : (s.debugAuth t on).mem = s.mem := by
  simp only [State.debugAuth]
  split <;> simp

/-! ### Machine/Tick.lean -/

@[simp] theorem State.passLaunch_mem (s : State) (i l : Nat) : (s.passLaunch i l).mem = s.mem := by
  simp only [State.passLaunch]
  (repeat' split) <;> try rfl
  refine foldl_mem (fun t q => foldl_mem (fun u j => ?_) _ _) _ _
  split <;> simp
@[simp] theorem State.countCycle_mem (s : State) (col row : Nat) (was : Option Issue) :
    (s.countCycle col row was).mem = s.mem := by
  refine foldl_mem (fun t q => ?_) _ _
  dsimp only
  (repeat' split) <;> simp
@[simp] theorem State.tileCycle_mem (s : State) (ix : Nat) : (s.tileCycle ix).mem = s.mem := by
  simp only [State.tileCycle]
  (repeat' split) <;> simp [foldl_mem]
@[simp] theorem State.islandCycle_mem (s : State) (i : Nat) : (s.islandCycle i).mem = s.mem := by
  simp only [State.islandCycle]
  simp [foldl_mem]
@[simp] theorem State.islandTick_mem (s : State) (i : Nat) : (s.islandTick i).mem = s.mem := by
  simp only [State.islandTick]
  (repeat' split) <;> simp
@[simp] theorem State.wf_stallTick {s : State} (l : Nat) (x : Launch) (h : Memory.wf s.mem = true) :
    Memory.wf (s.stallTick l x).mem = true := by
  simp only [State.stallTick]
  split
  · exact h
  · refine foldl_wf _ (fun t q ht => ?_) _ _ h
    split <;> simp [State.wf_setStream, ht]
@[simp] theorem State.wf_wakeRipe {s : State} (h : Memory.wf s.mem = true) : Memory.wf s.wakeRipe.mem = true := by
  simp only [State.wakeRipe]
  split <;> simp [h]
@[simp] theorem State.wf_tick {s : State} (h : Memory.wf s.mem = true) : Memory.wf s.tick.mem = true := by
  unfold State.tick
  refine State.wf_wakeRipe ?_
  rw [State.trailTick_mem, foldl_mem fun t i => State.islandTick_mem ..]
  exact foldl_wf _ (fun t q ht => State.wf_stallTick _ _ ht) _ _ h

/-! ### Machine/CoreMem.lean -/

@[simp] theorem State.wf_coreLoad {s : State} (c rd : Nat) (a : W64) (n : Nat) (sx : Bool) (h : Memory.wf s.mem = true) :
    Memory.wf (s.coreLoad c rd a n sx).mem = true := by
  unfold State.coreLoad
  grind [State.coreTrap_mem, State.freeIx_mem, State.coreRet_mem, State.wf_demandRead]
@[simp] theorem State.wf_prqAnswer {s : State} (v : W64) (h : Memory.wf s.mem = true) :
    Memory.wf (s.prqAnswer v).mem = true := by
  simp only [State.prqAnswer]
  split <;> simp [h]
@[simp] theorem State.coreNext_mem (s : State) (c : Nat) : (s.coreNext c).mem = s.mem := by rfl
@[simp] theorem State.wf_coreStore {s : State} (c : Nat) (a v : W64) (n : Nat) (h : Memory.wf s.mem = true) :
    Memory.wf (s.coreStore c a v n).mem = true := by
  unfold State.coreStore
  grind [State.coreTrap_mem, State.coreNext_mem, State.wf_wake, State.wf_prqAnswer, State.wf_fwWrite, State.modGlade_mem,
    State.setCore_mem]

/-! ### Machine/Riscv.lean -/

@[simp] theorem State.rvCsr_mem (s : State) (c : Nat) (w : W32) : ∀ t, s.rvCsr c w = some t → t.mem = s.mem := by
  simp only [State.rvCsr]
  (repeat' split) <;> simp
@[simp] theorem State.wf_baseWord {s : State} (c : Nat) (w : W32) (h : Memory.wf s.mem = true) :
    ∀ t, s.baseWord c w = some t → Memory.wf t.mem = true := by
  intro t ht
  unfold State.baseWord at ht
  extract_lets k a b go at ht
  have hgo : ∀ rd u, (go rd u).mem = s.mem := fun rd u => State.setCore_mem ..
  clear_value go
  split at ht
  · grind
  · grind
  · obtain ⟨t, -, rfl⟩ := Option.map_eq_some_iff.mp ht
    split <;> simp [h]
  · grind [State.wf_coreLoad]
  · grind [State.wf_coreStore]
  · grind [State.coreNext_mem]
  · grind [State.rvCsr_mem, State.coreNext_mem, State.coreTrap_mem, State.setCore_mem]
  · obtain ⟨t, -, rfl⟩ := Option.map_eq_some_iff.mp ht
    simp [h]

/-! ### The results of steps -/

/-- A result that leaves memory in its canonical form, if it leaves a state. -/
def Res.Wf : Res → Prop
  | .next t => Memory.wf t.mem = true
  | _ => True

theorem Res.Wf.of_next {r : Res} {t : State} (h : r.Wf) (ht : r = .next t) : Memory.wf t.mem = true := by
  subst ht; exact h

@[simp] theorem Res.wf_next (t : State) : Res.Wf (.next t) ↔ Memory.wf t.mem = true := Iff.rfl

/-! ### The frames that words of one kind share -/

theorem wf_borderDo {s : State} {k : Nat → Core → State} (h : Memory.wf s.mem = true) (hk : ∀ c x, Memory.wf (k c x).mem = true) :
    (borderDo s k).Wf := by
  simp only [borderDo]
  (repeat' split) <;> simp [h, hk]

theorem wf_abiCall {code : Nat} {s : State} {k : Nat → Core → Nat → W64 × State} (h : Memory.wf s.mem = true)
    (hk : ∀ c x t, Memory.wf (k c x t).2.mem = true) : (abiCall code s k).Wf := by
  simp only [abiCall]
  split <;> simp [h, hk]

theorem wf_mgmt {code : Nat} {fits : Nat → Bool} {s : State} {run : List Nat → State → MRes} (h : Memory.wf s.mem = true)
    (hrun : ∀ as, (run as s).st.mem = s.mem) : (mgmt code fits s run).Wf := by
  simp only [mgmt]
  (repeat' split) <;> simp [h, hrun]

theorem wf_spdm {code : Nat} {from_ : List SpdmSt} {nextSt : SpdmSt → SpdmSt} {s : State} {body : State → List Byte} {peer : Nat}
    (h : Memory.wf s.mem = true) : (spdm code from_ nextSt s body peer).Wf := by
  simp only [spdm]
  (repeat' split) <;> simpa using h

/-! ### Management commands -/

@[simp] theorem mOkay_st (s : State) (ws : List W64) : (mOkay s ws).st = s := rfl
@[simp] theorem mErr_st (s : State) (n : Nat) : (mErr s n).st = s := rfl
@[simp] theorem State.layout_mem (s : State) (ws : List Nat) (strike : Option Nat) (torn : Bool) : (s.layout ws strike torn).st.mem = s.mem := by
  simp only [State.layout]
  (repeat' split) <;> simp [foldl_mem, State.setIsland_mem]
@[simp] theorem State.power_mem (s : State) (i v : Nat) : (s.power i v).st.mem = s.mem := by
  simp only [State.power]
  (repeat' split) <;> simp
@[simp] theorem State.frameTable_mem (s : State) (es : List Nat) : (s.frameTable es).st.mem = s.mem := by
  simp only [State.frameTable]
  split <;> simp
@[simp] theorem State.gladeParams_mem (s : State) (gl pool spill park quick share : Nat) :
    (s.gladeParams gl pool spill park quick share).st.mem = s.mem := by
  simp only [State.gladeParams]
  (repeat' split) <;> simp
@[simp] theorem State.tenantSet_mem (s : State) (t flags limit : Nat) (key : List W64) : (s.tenantSet t flags limit key).st.mem = s.mem := by
  simp only [State.tenantSet]
  (repeat' split) <;> simp
@[simp] theorem State.gladeAssign_mem (s : State) (gl t : Nat) : (s.gladeAssign gl t).st.mem = s.mem := by
  simp only [State.gladeAssign]
  (repeat' split) <;> simp
@[simp] theorem State.svcBudget_mem (s : State) (c t n : Nat) : (s.svcBudget c t n).st.mem = s.mem := by
  simp only [State.svcBudget]
  split
  · rfl
  · generalize (if c = 2 ^ 64 - 1 then List.range 192 else [c]) = cs
    split
    · rfl
    · rw [mOkay_st]
      exact foldl_mem (fun t c => State.setCore_mem ..) _ _
@[simp] theorem State.l2Quota_mem (s : State) (t n : Nat) : (s.l2Quota t n).st.mem = s.mem := by
  simp only [State.l2Quota]
  split <;> simp
@[simp] theorem State.twinSet_mem (s : State) (p q k : Nat) : (s.twinSet p q k).st.mem = s.mem := by
  simp only [State.twinSet]
  (repeat' split) <;> simp
@[simp] theorem State.peerRoute_mem (s : State) (p m : Nat) : (s.peerRoute p m).st.mem = s.mem := by
  simp only [State.peerRoute]
  split <;> simp
@[simp] theorem State.svnRaise_mem (s : State) (n : Nat) : (s.svnRaise n).st.mem = s.mem := by
  simp only [State.svnRaise]
  split <;> simp
@[simp] theorem State.rasRead_mem (s : State) (c : Nat) : (s.rasRead c).st.mem = s.mem := by
  simp only [State.rasRead]
  split <;> simp
@[simp] theorem State.rasClear_mem (s : State) (c : Nat) : (s.rasClear c).st.mem = s.mem := by
  simp only [State.rasClear]
  (repeat' split) <;> simp
@[simp] theorem State.gladeCounters_mem (s : State) (gl : Nat) : (s.gladeCounters gl).st.mem = s.mem := by
  simp only [State.gladeCounters]
  split <;> simp

/-! ### The steps whose meaning is more than one operation -/

/-- A request at the home unit: what is done at its address, then the waiters and the twin. -/
theorem State.wf_atHome {s : State} (l : Nat) (pl : PlaneId) (x : Launch) (r : Req) {k : State → List Part → State × List Nat}
    (h : Memory.wf s.mem = true) (hk : ∀ t ps, Memory.wf t.mem = true → Memory.wf (k t ps).1.mem = true) :
    Memory.wf ((((s.access pl l x r (State.guarded l pl x r k)).1.wake (s.access pl l x r (State.guarded l pl x r k)).2).twinCompare l
      false).mem) = true := by
  rw [State.twinCompare_mem]
  exact State.wf_wake _ (State.wf_access pl l x r h fun t ps ht => State.wf_guarded l pl x r ps ht hk)

theorem wf_execHomeAccess {s : State} (h : Memory.wf s.mem = true) : (execHomeAccess s).Wf := by
  refine State.wf_onReq _ _ h fun t ht => ?_
  split
  · exact ht
  · rename_i l x r hr
    have hmem := State.wf_atHome l t.cur.pl x r ht fun u ps hu => State.wf_accessParts t.cur.pl l x r ps hu
    dsimp only
    (split <;> try exact hmem) <;> simp [ht]

theorem wf_execAtomicPerform {s : State} (h : Memory.wf s.mem = true) : (execAtomicPerform s).Wf := by
  refine State.wf_onReq _ _ h fun t ht => ?_
  split
  · exact ht
  · split
    · exact State.wf_atHome _ _ _ _ ht fun u ps hu => State.wf_atomParts _ _ _ _ _ _ _ hu
    · exact ht

theorem wf_execUpdatePerform {s : State} (h : Memory.wf s.mem = true) : (execUpdatePerform s).Wf := by
  refine State.wf_onReq _ _ h fun t ht => ?_
  split
  · exact ht
  · split
    · exact State.wf_atHome _ _ _ _ ht fun u ps hu => State.wf_updParts _ _ _ _ _ _ _ hu
    · exact ht

/-- Every instruction keeps memory in its canonical form. -/
theorem exec_wf {s : State} (i : Instr) (h : Memory.wf s.mem = true) : Res.Wf (exec i s) := by
  by_cases htile : i.hasWord = true ∧ isBorder i = false
  · cases hr : exec i s with
    | next t =>
      rw [Res.wf_next, (firingKeepsArchitecture i s t htile.1 htile.2 hr).mem]
      exact h
    | fault r => exact trivial
    | refused r => exact trivial
  cases i
  all_goals try exact absurd ⟨rfl, rfl⟩ htile
  case jlaunch | jfence | jquery | jinvr | jcmdKill | jcmdPre | jcmdSnap | jcmdStop | jcmdResume | jwaitw | jctxsave |
      jctxload =>
    simp only [exec, execJlaunch, execJfence, execJquery, execJinvr, execJcmdKill, execJcmdPre, execJcmdSnap, execJcmdStop,
      execJcmdResume, execJwaitw, execJctxsave, execJctxload]
    exact wf_borderDo h fun c x => by simp [h]
  case layout | layoutRead | power | frameTable | gladeParams | tenant | gladeAssign | svcBudget | l2Quota | twin |
      peerRoute | svnRaise | rasRead | rasClear | gladeCounters =>
    simp only [exec, execLayout, execLayoutRead, execPower, execFrameTable, execGladeParams, execTenant, execGladeAssign,
      execSvcBudget, execL2Quota, execTwin, execPeerRoute, execSvnRaise, execRasRead, execRasClear, execGladeCounters]
    exact wf_mgmt h fun as => by simp [State.layoutRead]
  case getVersion | getCapabilities | negotiateAlgorithms | getDigests | getCertificate | challenge | getMeasurements |
      keyExchange | finish =>
    simp only [exec, execGetVersion, execGetCapabilities, execNegotiateAlgorithms, execGetDigests, execGetCertificate,
      execChallenge, execGetMeasurements, execKeyExchange, execFinish]
    exact wf_spdm h
  case frameClaim | frameReturn | asidSet | queueBind | ringRegister | svcWeight | hostRange | collective | noticeWord |
      noticeRead | prqInfo =>
    simp only [exec, execFrameClaim, execFrameReturn, execAsidSet, execQueueBind, execRingRegister, execSvcWeight,
      execHostRange, execCollective, execNoticeWord, execNoticeRead, execPrqInfo]
    exact wf_abiCall h fun c x t => by simp [h]
  case homeAccess => exact wf_execHomeAccess h
  case atomicPerform => exact wf_execAtomicPerform h
  case updatePerform => exact wf_execUpdatePerform h
  case streamWrite | streamClose | streamRead | streamRelease | streamRewind | forcedRelease | matrixRecordAccept |
      copyAccept | barrierPerform | peerAccess | peerRetry =>
    simp only [exec, execStreamWrite, execStreamClose, execStreamRead, execStreamRelease, execStreamRewind,
      execForcedRelease, execMatrixRecordAccept, execCopyAccept, execBarrierPerform, execPeerAccess, execPeerRetry]
    exact State.wf_wake _ (State.wf_onReq _ _ h fun t ht => by simp [ht])
  case recoveryRung => exact State.wf_resumeTry _ (State.wf_reload _ (State.wf_recover _ h))
  case frameRecycle => exact State.wf_wake _ (State.wf_supply _ _ (State.wf_frameRecycle _ _ h))
  case eventCounterOverflow =>
    simp only [exec, execEventCounterOverflow]
    split <;> simp [h]
  case frameScrub =>
    simp only [exec, execFrameScrub]
    split <;> simp [h]
  case fSoft =>
    simp only [exec, execFSoft]
    (repeat' split) <;> simp [h]
  case taskFiring | controlStep | blockCommit | waveAdmission | pyieldRelease | tokenDelivery | steerNode | mergeNode |
      filterNode | intersectNode | delayNode | graphCompletion | responseDelivery | timerDue | streamStall | hostHwmPublish |
      hostReaderRelease | parkTimeoutCheck | updateLineMerge | anchorRelease | launchCommit | fold | oldestOnlyStart |
      blazeArrival | snapCadence | trailWalk | sequencerDispatch | mmChunk | commandCompletion | drainTile | copyLineWrite |
      promiseMissed | callAnswer | budgetTimer | launchHeadCheck | launchStart | hostRingDrain | hostRingReset |
      frameTableStep | runAheadFetch | portInvalidation | portAcknowledge | quickServiceScanOut | prqAnswerResume |
      prqAnswerFault | prqAnswerAbort | prqAnswerRefused | pageOut | pageIn | faultDelivery | plainApertureRead |
      plainApertureWrite | fillApertureRead | fillApertureWrite | probeApertureRead | probeApertureWrite | registerWrite |
      linkTraining | flitReceive | collectiveComplete | powerOnBoot | foresterReset | powerStep | patrolScrub |
      jwaitwTimeout | barrierWaitQueueTimeout | heldStreamReadTimeout | tenantBudgetPeriod | interruptTaken |
      hostLinkTraining | breakpointComparatorArm | operatorCertificateInstall | sharedSetDeclaration | debugAuthorisation =>
    simp [exec, execTaskFiring, execControlStep, execBlockCommit, execWaveAdmission, execPyieldRelease, execTokenDelivery,
      execSteerNode, execMergeNode, execFilterNode, execIntersectNode, execDelayNode, execGraphCompletion,
      execResponseDelivery, execTimerDue, execStreamStall, execHostHwmPublish, execHostReaderRelease, execParkTimeoutCheck,
      execUpdateLineMerge, execAnchorRelease, execLaunchCommit, execFold, execOldestOnlyStart, execBlazeArrival,
      execSnapCadence, execTrailWalk, execSequencerDispatch, execMmChunk, execCommandCompletion, execDrainTile,
      execCopyLineWrite, execPromiseMissed, execCallAnswer, execBudgetTimer, execLaunchHeadCheck, execLaunchStart,
      execHostRingDrain, execHostRingReset, execFrameTableStep, execRunAheadFetch, execPortInvalidation, execPortAcknowledge,
      execQuickServiceScanOut, execPrqAnswerResume, execPrqAnswerFault, execPrqAnswerAbort, execPrqAnswerRefused,
      execPageOut, execPageIn, execFaultDelivery, execPlainApertureRead, execPlainApertureWrite, execFillApertureRead,
      execFillApertureWrite, execProbeApertureRead, execProbeApertureWrite, execRegisterWrite, execLinkTraining,
      execFlitReceive, execCollectiveComplete, execPowerOnBoot, execForesterReset, execPowerStep, execPatrolScrub,
      execJwaitwTimeout, execBarrierWaitQueueTimeout, execHeldStreamReadTimeout, execTenantBudgetPeriod, execInterruptTaken,
      execHostLinkTraining, execBreakpointComparatorArm, execOperatorCertificateInstall, execSharedSetDeclaration,
      execDebugAuthorisation, State.wf_foldLine, h]

/-! ### The moves -/

theorem State.wf_fireSlot {s : State} (pl : PlaneId) (slot : Nat) (h : Memory.wf s.mem = true) : Res.Wf (s.fireSlot pl slot) := by
  simp only [State.fireSlot]
  split
  · exact h
  · split
    · exact exec_wf _ h
    · exact trivial

theorem State.wf_coreWord {s : State} (c : Nat) (corr unc : Bool) (h : Memory.wf s.mem = true) : Res.Wf (s.coreWord c corr unc) := by
  unfold State.coreWord
  extract_lets cw u w
  have hu : Memory.wf u.mem = true := h
  clear_value u
  split
  · exact hu
  split
  · exact exec_wf _ hu
  split
  · split
    · exact exec_wf _ hu
    · simpa using hu
  split
  · simpa using hu
  split
  · exact State.wf_baseWord _ _ hu _ ‹_›
  · exact trivial

theorem State.wf_move {s : State} (m : Move) (h : Memory.wf s.mem = true) : Res.Wf (s.move m) := by
  cases m with
  | fire pl slot => exact State.wf_fireSlot pl slot h
  | core c => exact State.wf_coreWord c false false h
  | coreErr c unc => exact State.wf_coreWord c (!unc) unc h
  | event i x =>
    simp only [State.move]
    split
    · exact h
    · exact exec_wf i h
  | tick => exact State.wf_tick h

/-- Settles O59: the next move, whichever it is, keeps memory in its canonical form. -/
theorem stepKeepsInv : Obligations.StepKeepsInv := by
  intro s t hinv hstep
  have hwf : Res.Wf (step s) := by
    unfold step
    split
    · exact State.wf_move _ hinv
    · exact State.wf_move _ hinv
  exact hwf.of_next hstep

end Sys2Proof.Machine

/-!
PROOF. The loads, stores and full/empty forms of format M as they fire: a request waits for admission, a local form waits with
its part in the share or in a neighbour's SRAM (07 R130; 10 R195 to R203).
-/
namespace Sys2Proof.Machine

/-- Where instruction `i` fires on `x`, the local form of request `r` waits for admission: in a neighbour's SRAM or the own
share, a store or a load to target `tgt` (R130, R201, R202). -/
def FX.near (x : FX) (i : Instr) (s : State) (lk : Link) (nb st : Bool) (tgt : Nat) (r : Req) : Prop :=
  x.waits i s { slot := x.slot, lk := lk, kind := none, lcl := some (nb, st), tgt := tgt, req := r }

section
variable {i : Instr} {s : State} {x : FX} {lk : Link} {r : Req} {a : W64} {wd : Width} {nb st : Bool} {tgt : Nat}

theorem waits_of_action {k : FX → FR} {w : Wave} (hi : exec i s = fireWord i s k) (hk : k x = .wave w) : x.waits i s w := by
  intro hfires
  rw [hi, fireWord_fires hfires, hk]
  exact ⟨fun hopen => by rw [fireOut_wave _ hopen], fun hskipped => by rw [State.fireOut, if_pos hskipped]⟩

section
variable (ha : x.a.s64 = some a) (hal : va48 a % widAlign wd = 0)
include ha hal

theorem holds_loadForm {kind : ReqKind} {ch : BitVec 4} (hi : exec i s = fireWord i s fun x => loadForm x lk kind wd ch) :
    x.holds i s lk (mkReq x kind wd (some ch.toNat) a 0#64 0#64 []) :=
  holds_addr1 ha hal hi rfl

theorem near_addr1 (hi : exec i s = fireWord i s fun x => addr1 x (widAlign wd) (localWave x lk nb st wd tgt)) :
    x.near i s lk nb st tgt (mkReq x (if st then .st else .ld) wd none a x.b.bits 0#64 x.b.lanes) :=
  waits_of_action hi ((addr1_of_s64 _ ha).trans (aligned_of_multiple _ hal))

variable (hfits : x.b.fits wd = true)
include hfits

theorem holds_storeForm {kind : ReqKind} (hi : exec i s = fireWord i s fun x => storeForm x lk kind wd) :
    x.holds i s lk (mkReq x kind wd none a x.b.bits 0#64 x.b.lanes) :=
  waits_of_action hi ((addrData_of_fits _ ha hfits).trans (aligned_of_multiple _ hal))

theorem near_addrData (hi : exec i s = fireWord i s fun x => addrData x wd (localWave x lk nb st wd tgt)) :
    x.near i s lk nb st tgt (mkReq x (if st then .st else .ld) wd none a x.b.bits 0#64 x.b.lanes) :=
  waits_of_action hi ((addrData_of_fits _ ha hfits).trans (aligned_of_multiple _ hal))

end

end

/-- Settles O12: the loads and the full/empty tests need an aligned address, the stores a data operand of the width too. -/
theorem memoryForms : Obligations.MemoryForms := by
  intro pr lk wd ch t s x a ha holds near req hal
  refine ⟨?ld, ?ldw, ?ldc, ?feq, ?fempty, ?ldl, ?ldn, fun hshape => ?stores⟩
  case ld => exact holds_loadForm ha hal (execLd.eq_def ..)
  case ldw => exact holds_loadForm ha hal (execLdw.eq_def ..)
  case ldc => exact holds_loadForm ha hal (execLdc.eq_def ..)
  case feq => exact holds_loadForm ha hal (execFeq.eq_def ..)
  case fempty => exact holds_addr1 ha hal (execFempty.eq_def ..) rfl
  case ldl => exact near_addr1 ha hal (execLdl.eq_def ..)
  case ldn => exact near_addr1 ha hal (execLdn.eq_def ..)
  case stores =>
    have hfits := Datum.fits_of_iff hshape
    exact ⟨holds_storeForm ha hal hfits (execSt.eq_def ..), holds_storeForm ha hal hfits (execStf.eq_def ..),
      holds_storeForm ha hal hfits (execSts.eq_def ..), near_addrData ha hal hfits (execStl.eq_def ..),
      near_addrData ha hal hfits (execStn.eq_def ..)⟩

end Sys2Proof.Machine

/-!
PROOF. Requests as they are performed, held or parked; fences, prefetches, write-backs and budgets (04 R67 to R74; 10 R200 to
R222). An access that meets no obstacle is performed on its parts; what a form does with them is one equation per form.
-/
namespace Sys2Proof.Machine

/-! ### Memory forms -/

/-- The global memory forms, which the home units perform (R203). -/
def ReqKind.isMemory (k : ReqKind) : Bool := decide (k ∈ [ReqKind.ld, .ldw, .ldc, .feq, .st, .stf, .sts, .fempty])

theorem ReqKind.isMemory_of_storing : ∀ k ∈ [ReqKind.st, .stf, .sts, .fempty, .ldc], k.isMemory = true := by decide

section
variable {s s1 : State} {l : Nat} {x : Launch} {r : Req} {qs : List (Nat × Nat × Bool)}

/-- A memory form goes through the checks of an access; what it changed is woken. -/
theorem exec_homeAccess_of_memory (hready : s.ready? s.cur.pl s.cur.rid = some (l, x, r)) (hk : r.kind.isMemory = true) :
    exec .homeAccess s = .next
      (let (t, ws) := s.access s.cur.pl l x r (State.guarded l s.cur.pl x r fun t ps => t.accessParts s.cur.pl l x r ps)
       (t.wake ws).twinCompare l false) := by
  refine (execHomeAccess.eq_def s).trans ?_
  rw [Laws.onReq_of_here (Laws.ready?_here hready).2]
  simp only [ReqKind.isMemory, decide_eq_true_eq, List.mem_cons, List.not_mem_nil, or_false] at hk
  obtain hk | hk | hk | hk | hk | hk | hk | hk := hk <;> simp only [hready, hk]

variable (hready : s.ready? s.cur.pl s.cur.rid = some (l, x, r))
  (hfree : s.holdsRange (tilePort s.cur.pl) x.asid (va48 r.a) r.bytes = false)
  (hx : s.xlateFor l x (tilePort s.cur.pl) (va48 r.a) r.bytes r.kind.writes = (.ok qs, s1))
  (hcorr : s1.cur.flag = false) (hbad : s1.cur.flag2 = false) (htwin : s1.fo.twin = none)
include hready hfree hx hcorr hbad htwin

/-- A memory form whose address translates is performed on its parts. -/
theorem exec_homeAccess_of_xlate (hk : r.kind.isMemory = true) {t : State} {ws : List Nat}
    (hdo : s1.accessParts s.cur.pl l x r (partsOf r.bytes qs) = (t, ws)) :
    exec .homeAccess s = .next ((t.wake ws).twinCompare l false) := by
  rw [exec_homeAccess_of_memory hready hk, State.access_of_xlate hfree hx hcorr hbad htwin, hdo]

end

/-! ### The checks of an access -/

section
variable {s s2 : State} {pl : PlaneId} {l : Nat} {x : Launch} {r : Req} {ps : List Part}
  (hkeys : ∀ p ∈ ps, isPeer p.key = false ∧ (isHost p.key = false ∨ r.kind.hostOk = true)) (hwords : s.wordsOk r.kind ps = true)
  (hdesc : r.kind.writes = true → s.userDesc pl ps = false)
include hkeys hwords hdesc

/-- Where its words may be acted on, an access anchors its launch, waits, overflows the quota or is performed. -/
theorem State.accessParts_of_checked (hs2 : s.flushFor pl r.kind ps = s2) :
    s.accessParts pl l x r ps =
      if r.kind.anchors && (ps.any fun p => p.imm) && !x.irrev then
        (s.holdAnchor l pl r ((partWords ps).map fun w => w * 8), [])
      else if !s2.condHolds (actorObs s2 pl l) r.kind ps then
        ((s2.signParts l (if r.budget = 0#8 then ps else [])).parkReq pl l x r (formOf r.kind)
          ((partWords ps).map fun w => w * 8) (va48 r.a), [])
      else if r.kind.entries && !x.irrev && s2.overQuota l ((ps.filter fun p => !p.imm).map fun p => p.key / 64) then
        (s2.overflow l x pl r, [])
      else s2.doAccess pl l r ps := by
  have hpeer : (ps.any fun p => isPeer p.key) = false := List.any_eq_false.mpr fun p hp => by simp [(hkeys p hp).1]
  have hhost : ((ps.any fun p => isHost p.key) && !r.kind.hostOk) = false := by
    cases hok : r.kind.hostOk with
    | true => exact Bool.and_false _
    | false =>
      refine Bool.and_eq_false_imp.mpr fun hany => ?_
      obtain ⟨p, hp, hyes⟩ := List.any_eq_true.mp hany
      obtain hno | hno := (hkeys p hp).2
      · exact absurd (hno.symm.trans hyes) Bool.false_ne_true
      · exact absurd (hok.symm.trans hno) Bool.false_ne_true
  have hprot : (r.kind.writes && s.userDesc pl ps) = false := Bool.and_eq_false_imp.mpr hdesc
  simp only [State.accessParts, hpeer, hhost, hwords, hprot, hs2, Bool.not_true, Bool.false_eq_true, if_false]

/-- A storing form on an IMM page holds a launch that is not irrevocable (R83). -/
theorem State.accessParts_of_anchor (hirrev : x.irrev = false) (hanchors : r.kind.anchors = true) (himm : ∃ p ∈ ps, p.imm = true) :
    s.accessParts pl l x r ps = (s.holdAnchor l pl r ((partWords ps).map fun w => w * 8), []) := by
  have hany : (ps.any fun p => p.imm) = true := List.any_eq_true.mpr himm
  rw [State.accessParts_of_checked hkeys hwords hdesc rfl, hirrev, hanchors, hany]
  rfl

variable (hs2 : s.flushFor pl r.kind ps = s2)
  (hclass : x.irrev = true ∨ r.kind.anchors = false ∨ ∀ p ∈ ps, p.imm = false)
include hs2 hclass

omit hkeys hwords hdesc hs2 in
theorem anchors_nothing : (r.kind.anchors && (ps.any fun p => p.imm) && !x.irrev) = false := by
  obtain h | h | h := hclass
  · rw [h, Bool.not_true, Bool.and_false]
  · rw [h, Bool.false_and, Bool.false_and]
  · rw [List.any_eq_false.mpr fun p hp => by simp [h p hp], Bool.and_false, Bool.false_and]

/-- A waiting form whose words are not in the state that it needs parks (R73). -/
theorem State.accessParts_of_wait (hcond : s2.condHolds (actorObs s2 pl l) r.kind ps = false) :
    s.accessParts pl l x r ps = ((s2.signParts l (if r.budget = 0#8 then ps else [])).parkReq pl l x r (formOf r.kind)
      ((partWords ps).map fun w => w * 8) (va48 r.a), []) := by
  rw [State.accessParts_of_checked hkeys hwords hdesc hs2, anchors_nothing hclass, hcond]
  rfl

/-- Any other access, within the quota, is performed (R69, R87). -/
theorem State.accessParts_of_open (hcond : s2.condHolds (actorObs s2 pl l) r.kind ps = true)
    (hquota : x.irrev = true ∨ r.kind.entries = false ∨ s2.overQuota l ((ps.filter fun p => !p.imm).map fun p => p.key / 64) = false) :
    s.accessParts pl l x r ps = s2.doAccess pl l r ps := by
  have hwithin : (r.kind.entries && !x.irrev && s2.overQuota l ((ps.filter fun p => !p.imm).map fun p => p.key / 64)) = false := by
    obtain h | h | h := hquota
    · rw [h, Bool.not_true, Bool.and_false, Bool.false_and]
    · rw [h, Bool.false_and, Bool.false_and]
    · rw [h, Bool.and_false]
  rw [State.accessParts_of_checked hkeys hwords hdesc hs2, anchors_nothing hclass, hcond, hwithin]
  rfl

end

/-- Only a waiting form may find its words in the wrong state. -/
theorem isMemory_of_condHolds_false {s : State} {o : Obs} {k : ReqKind} {ps : List Part} (h : s.condHolds o k ps = false) :
    k.isMemory = true := by
  revert h
  unfold State.condHolds
  split
  case h_4 => exact fun h => nomatch h
  all_goals exact fun _ => rfl

/-! ### What each form does -/

section
variable {s : State} {pl : PlaneId} {l : Nat} {r : Req} {ps : List Part}

theorem State.doAccess_ld (hk : r.kind = .ld) :
    s.doAccess pl l r ps = ((s.signParts l ps).finish pl r
      (respToken s pl r (s.readParts (actorObs s pl l) ps) (s.readBits (actorObs s pl l) ps)), []) := by
  simp [State.doAccess, hk, ReqKind.signs, ReqKind.loadLike]

theorem State.doAccess_ldw (hk : r.kind = .ldw) :
    s.doAccess pl l r ps = ((s.signParts l ps).finish pl r
      (respToken s pl r (s.readParts (actorObs s pl l) ps) (s.readBits (actorObs s pl l) ps)), []) := by
  simp [State.doAccess, hk, ReqKind.signs, ReqKind.loadLike]

theorem State.doAccess_feq (hk : r.kind = .feq) :
    s.doAccess pl l r ps = ((s.signParts l ps).finish pl r
      (.data ⟨.scalar, [bitsMask (s.readBits (actorObs s pl l) ps)], .u64, 1#64⟩), []) := by
  simp [State.doAccess, hk, ReqKind.signs, ReqKind.loadLike, respToken]

theorem State.doAccess_ldc (hk : r.kind = .ldc) :
    s.doAccess pl l r ps = ((((s.signParts l ps).fillParts pl l false ps).finish pl r
      (respToken s pl r (s.readParts (actorObs s pl l) ps) (s.readBits (actorObs s pl l) ps))),
      flips ps (s.readBits (actorObs s pl l) ps) false) := by
  simp [State.doAccess, hk, ReqKind.signs, ReqKind.loadLike]

theorem State.doAccess_st (hk : r.kind = .st) :
    s.doAccess pl l r ps = ((s.writeParts pl l true ps r.data).finish pl r .null, []) := by
  simp [State.doAccess, hk, ReqKind.signs, ReqKind.loadLike, ReqKind.waits]

theorem State.doAccess_stf (hk : r.kind = .stf) :
    s.doAccess pl l r ps = ((((s.signParts l ps).writeParts pl l false ps r.data).fillParts pl l true ps).finish pl r .null,
      flips ps (s.readBits (actorObs s pl l) ps) true) := by
  simp [State.doAccess, hk, ReqKind.signs, ReqKind.loadLike, ReqKind.waits]

theorem State.doAccess_sts (hk : r.kind = .sts) :
    s.doAccess pl l r ps = (((s.writeParts pl l false ps r.data).fillParts pl l true ps).finish pl r .null,
      flips ps (s.readBits (actorObs s pl l) ps) true) := by
  simp [State.doAccess, hk, ReqKind.signs, ReqKind.loadLike, ReqKind.waits]

theorem State.doAccess_fempty (hk : r.kind = .fempty) :
    s.doAccess pl l r ps = ((s.fillParts pl l false ps).finish pl r .null, flips ps (s.readBits (actorObs s pl l) ps) false) := by
  simp [State.doAccess, hk, ReqKind.signs, ReqKind.loadLike, ReqKind.waits]

end

/-- The words of some parts whose bits change are those that had the other value (R74). -/
theorem mem_flips_iff (ps : List Part) (bits : List Bool) (f : Bool) (w : Nat) :
    w ∈ flips ps bits f ↔ (w, !f) ∈ (partWords ps).zip bits := by
  simp only [flips, List.mem_filterMap]
  constructor
  · rintro ⟨⟨v, b⟩, hmem, hsome⟩
    obtain ⟨hne, hv⟩ := Option.ite_none_left_eq_some.mp hsome
    cases hv
    rwa [← Bool.eq_not.mpr hne]
  · intro hmem
    exact ⟨(w, !f), hmem, if_neg (by simp)⟩

/-! ### Parking (R71 to R73) -/

section
variable {s : State} {pl : PlaneId} {l : Nat} {x : Launch} {r : Req} {form va : Nat} {keys : List Nat} {g : Glade}

/-- The record of a request that parks (R72). -/
def recordOf (pl : PlaneId) (l : Nat) (x : Launch) (r : Req) (form : Nat) (keys : List Nat) (va : Nat) (g : Glade) : ParkRec :=
  { glade := x.glade, pl := pl, rid := r.rid, lid := l, ver := x.ver, va := va / 8 * 8, asid := x.asid, form := form,
    wid := (widCode r.wd).toNat, nw := keys.length, left := r.budget.toNat,
    data := if form = 2 then BitVec.ofNat 64 ((r.b.toNat % 2 ^ (8 * min 8 r.bytes)) * 2 ^ (8 * (va % 8))) else 0#64,
    rch := r.resp.getD 0, stamp := g.cycle }

theorem State.parkReq_of_full (hb : r.budget ≠ 0#8) (hg : s.glade? x.glade = some g) (hroom : g.parkRoom = false) :
    s.parkReq pl l x r form keys va = s.reqFault pl r .parkFull 0 (vaInfo r.a) := by
  simp only [State.parkReq, hb, hg, hroom, if_false, Bool.not_false, if_true]

theorem State.parkReq_of_room (hb : r.budget ≠ 0#8) (hg : s.glade? x.glade = some g) (hroom : g.parkRoom = true) :
    s.parkReq pl l x r form keys va =
      (((s.park (recordOf pl l x r form keys va g) keys).setReq pl r.rid .parked).count pl 9 r.block r.slot).cycleScan keys := by
  simp only [State.parkReq, hb, hg, hroom, if_false, Bool.not_true, Bool.false_eq_true, recordOf]

/-- Marking a line of parked words leaves the glades as they are. -/
@[simp] theorem State.markParked_glade? (s : State) (key : Nat) (b : Bool) (g : Nat) : (s.markParked key b).glade? g = s.glade? g := rfl

theorem State.foldl_markParked_glade? (keys : List Nat) (s : State) (g : Nat) :
    (keys.foldl (fun t k => t.markParked k true) s).glade? g = s.glade? g := by
  induction keys generalizing s with
  | nil => rfl
  | cons k keys ih => rw [List.foldl_cons, ih, State.markParked_glade?]

/-- A record takes the lowest free place of its glade's pool (assumption 42). -/
theorem State.park_glade? (q : ParkRec) (hg : s.glade? q.glade = some g) :
    (s.park q keys).glade? q.glade =
      some { g with park := g.park ++ [{ q with keys := if keys.all ownKey then keys else [], slot := g.freeRec }] } := by
  simp only [State.park, State.foldl_markParked_glade?, State.modGlade, hg, State.glade?_setGlade]

end

/-! ### Fences, prefetches and write-backs -/

theorem ReqKind.fences {k : ReqKind} (h : k.isFence = true) :
    (∃ sc, k = .fence sc) ∨ k = .sbar ∨ ∃ src dst, k = .xfence src dst := by
  revert h
  unfold ReqKind.isFence
  split
  · exact fun _ => .inl ⟨_, rfl⟩
  · exact fun _ => .inr (.inl rfl)
  · exact fun _ => .inr (.inr ⟨_, _, rfl⟩)
  · exact fun h => nomatch h

section
variable {s s1 : State} {l : Nat} {x : Launch} {r : Req} (hready : s.ready? s.cur.pl s.cur.rid = some (l, x, r))
include hready

/-- A form other than the memory forms acts by its own step. -/
theorem exec_homeAccess_of_fence (hk : r.kind.isFence = true) : exec .homeAccess s = .next (s.fenceStep s.cur.pl r) := by
  refine (execHomeAccess.eq_def s).trans ?_
  rw [Laws.onReq_of_here (Laws.ready?_here hready).2]
  obtain ⟨sc, h⟩ | h | ⟨src, dst, h⟩ := ReqKind.fences hk <;> simp only [hready, h]

theorem exec_homeAccess_of_pref {bank : Bool} (hk : r.kind = .pref bank) :
    exec .homeAccess s = .next (s.prefStep s.cur.pl x r) := by
  refine (execHomeAccess.eq_def s).trans ?_
  rw [Laws.onReq_of_here (Laws.ready?_here hready).2]
  simp only [hready, hk]

theorem exec_homeAccess_of_wback (hk : r.kind = .wback) : exec .homeAccess s = .next (s.wbackStep s.cur.pl x r) := by
  refine (execHomeAccess.eq_def s).trans ?_
  rw [Laws.onReq_of_here (Laws.ready?_here hready).2]
  simp only [hready, hk]

theorem exec_homeAccess_of_spos (hk : r.kind = .spos) :
    exec .homeAccess s = .next (s.streamSpos s.cur.pl s.cur.rid) := by
  refine (execHomeAccess.eq_def s).trans ?_
  rw [Laws.onReq_of_here (Laws.ready?_here hready).2]
  simp only [hready, hk]

end

section
variable {s s1 : State} {pl : PlaneId} {x : Launch} {r : Req} {key : Nat} {imm : Bool}

theorem State.fenceStep_fence {sc : Scope} (hk : r.kind = .fence sc) (hpre : reqsBefore (s.plane pl).rq r.rid = []) :
    s.fenceStep pl r = (if sc = .dev ∨ sc = .sys then s.flushPlane pl else s).retire pl r.rid := by
  cases sc <;> simp [State.fenceStep, hk, hpre, State.fenceDone]

theorem State.fenceStep_sbar (hk : r.kind = .sbar) (hpre : reqsBefore (s.plane pl).rq r.rid = [] ∨ r.a = 0#64) :
    s.fenceStep pl r = s.retire pl r.rid := by
  obtain hpre | hpre := hpre <;> simp [State.fenceStep, hk, hpre, State.fenceDone]

theorem State.fenceStep_xfence {src dst : AClass} (hk : r.kind = .xfence src dst)
    (hdone : s.fenceDone pl (reqsBefore (s.plane pl).rq r.rid) r.kind = true) :
    s.fenceStep pl r =
      (let t := if src = .fab then s.flushPlane pl else s
       if dst = .fab then t.flushBank false (fun b => decide (b.glade = t.gladeOf pl.col) && b.copy.isSome) else t).retire pl r.rid := by
  rw [hk] at hdone
  cases src <;> cases dst <;> simp [State.fenceStep, hk, hdone]

theorem State.prefStep_ok {bank : Bool} (hk : r.kind = .pref bank) (hfree : s.invalHolds (tilePort pl) x.asid (va48 r.a) = false)
    (hx : s.xlate (tilePort pl) x.asid (va48 r.a) false = (.ok key imm, s1)) :
    s.prefStep pl x r = (if bank = true ∧ s1.banked (s1.gladeOf pl.col) (key / 64 * 64) = true then
      (s1.bringLine (s1.gladeOf pl.col) (key / 64) imm).touch pl (key / 64) else s1).retire pl r.rid := by
  cases bank <;> simp [State.prefStep, hfree, hx, hk]

theorem State.prefStep_notPresent {lvl : Nat} (hfree : s.invalHolds (tilePort pl) x.asid (va48 r.a) = false)
    (hx : s.xlate (tilePort pl) x.asid (va48 r.a) false = (.notPresent lvl, s1))
    (hroom : (s1.port (tilePort pl)).drops ≠ BitVec.allOnes 48) :
    s.prefStep pl x r = (s1.setPort (tilePort pl)
      { s1.port (tilePort pl) with drops := (s1.port (tilePort pl)).drops + 1#48 }).retire pl r.rid := by
  simp only [State.prefStep, hfree, hx, if_neg hroom, Bool.false_eq_true, if_false]

theorem State.wbackStep_ok (hfree : s.invalHolds (tilePort pl) x.asid (va48 r.a) = false)
    (hx : s.xlate (tilePort pl) x.asid (va48 r.a) false = (.ok key imm, s1)) :
    s.wbackStep pl x r =
      (let g := s.gladeOf pl.col
       let here (b : BankLine) : Bool := decide (b.glade = g) && decide (b.line = key / 64)
       let home := s1.flushBank true fun b => here b && b.owes
       if s1.bank.any here = true then (home.bringLine g (key / 64) imm).touch pl (key / 64) else home).retire pl r.rid := by
  simp only [State.wbackStep, hfree, hx, Bool.false_eq_true, if_false]

theorem State.streamSpos_of_ready {rid l i : Nat} {st : Stream} (h : s.streamReady pl rid = some (l, x, r, i, st))
    (hk : r.kind = .spos) :
    s.streamSpos pl rid = (s.setStream l i { st with served := true }).finish pl r
      (.data ⟨.scalar, [(st.words x.glade x.asid).getD (r.b.toNat % 8) 0#64], .u64, 1#64⟩) := by
  simp only [State.streamSpos, h, hk, ne_eq, not_true_eq_false, if_false]

/-- What each class of XFENCE waits for (R211). -/
theorem State.fenceDone_classes (s : State) (pl : PlaneId) (pre : List Req) :
    (s.fenceDone pl pre (.xfence .fab .cpy) = true ↔ pre = []) ∧
    (s.fenceDone pl pre (.xfence .lnk .fab) = true ↔ ∀ q ∈ pre, s.linkOp pl q = false) ∧
    (s.fenceDone pl pre (.xfence .cpy .fab) = true ↔ (∀ q ∈ pre, q.kind ≠ .copy) ∧ ∀ c ∈ s.copies, c.pl ≠ pl) ∧
    (s.fenceDone pl pre (.xfence .mtx .fab) = true ↔ (∀ q ∈ pre, q.kind ≠ .mmpost) ∧
      ∀ g ∈ s.glades, ∀ m ∈ g.2.seqr, m.pl = pl → m.st = .completed) ∧
    (s.fenceDone pl pre (.xfence .hst .fab) = true ↔ s.host.held = []) := by
  refine ⟨List.isEmpty_iff, ?lnk, ?cpy, ?mtx, List.isEmpty_iff⟩
  case lnk => simp [State.fenceDone]
  case cpy => simp [State.fenceDone]
  case mtx =>
    simp only [State.fenceDone, Bool.and_eq_true, List.all_eq_true, decide_eq_true_eq, Bool.or_eq_true, ne_eq]
    refine and_congr_right' (forall₄_congr fun g hg m hm => ?_)
    by_cases hpl : m.pl = pl <;> cases m.st <;> simp [hpl]

end

/-! ### Requests as they enter (R70) -/

section
variable {s : State} {pl : PlaneId} {r : Req}

/-- Counting an event changes counters alone. -/
theorem State.count_planes (s : State) (pl : PlaneId) (code : Nat) (blk : BitVec 16) (slot : Nat) :
    (s.count pl code blk slot).planes = s.planes := by
  unfold State.count
  extract_lets ix x
  split
  · rfl
  · exact foldl_keeps (·.planes) _ (fun t n => by dsimp only; split <;> rfl) _ _

theorem State.twinLog_planes (s : State) (pl : PlaneId) (r : Req) : (s.twinLog pl r).planes = s.planes := by
  unfold State.twinLog
  split
  · split <;> rfl
  · rfl

/-- A request as it enters the plane's queue: with a number of its own and the plane's budget; a COPY takes its record along. -/
def State.entered (s : State) (pl : PlaneId) (r : Req) : Req :=
  { (if r.kind = .copy then { r with lanes := { s with seqNo := s.seqNo + 1 }.recordAt pl r.a } else r) with
    rid := s.seqNo, budget := (s.plane pl).budget }

theorem State.entered_operands (s : State) (pl : PlaneId) (r : Req) :
    (s.entered pl r).kind = r.kind ∧ (s.entered pl r).a = r.a ∧ (s.entered pl r).b = r.b := by
  simp only [State.entered]
  split <;> exact ⟨rfl, rfl, rfl⟩

theorem State.enterReq_rq (hk : r.kind ≠ .setbud) : ((s.enterReq pl r).plane pl).rq = (s.plane pl).rq ++ [s.entered pl r] := by
  have hkeeps (t : State) (q : Req) (blk : BitVec 16) (n : Nat) : ((t.count pl 8 blk n).twinLog pl q).plane pl = t.plane pl := by
    rw [State.plane, State.twinLog_planes, State.count_planes, ← State.plane]
  unfold State.enterReq
  rw [if_neg hk]
  refine (congrArg Plane.rq (hkeeps _ _ _ _)).trans ?_
  rw [State.plane_modPlane]
  rfl

end

/-! ### The statement -/

/-- Settles O34: the checks pass, and each form, fence and record acts as its own equation says. -/
theorem requestsArePerformed : Obligations.RequestsArePerformed := by
  refine ⟨?memory, mem_flips_iff, ?parkReq, ?park, ?fences, ?enter⟩
  case memory =>
    intro s s1 l x r qs pl ps s2 o bits tok signed ends hready hfree hx hcorr hbad htwin hkeys hwords hdesc
    have hends {t : State} {ws : List Nat} (hk : r.kind.isMemory = true) (hdo : s1.accessParts pl l x r ps = (t, ws)) : ends t ws :=
      exec_homeAccess_of_xlate hready hfree hx hcorr hbad htwin hk hdo
    refine ⟨fun hirrev hanchors hk himm => ?anchor, fun hclass hcond => ?wait, fun hclass hcond hquota => ?perform⟩
    case anchor =>
      exact hends (ReqKind.isMemory_of_storing _ hk) (State.accessParts_of_anchor hkeys hwords hdesc hirrev hanchors himm)
    case wait =>
      exact hends (isMemory_of_condHolds_false hcond) (State.accessParts_of_wait hkeys hwords hdesc rfl hclass hcond)
    case perform =>
      have hdoes {t : State} {ws : List Nat} (hk : r.kind.isMemory = true) (hdo : s2.doAccess pl l r ps = (t, ws)) : ends t ws :=
        hends hk ((State.accessParts_of_open hkeys hwords hdesc rfl hclass hcond hquota).trans hdo)
      have hform {k : ReqKind} (hk : r.kind = k) (h : k.isMemory = true) : r.kind.isMemory = true := hk ▸ h
      exact ⟨fun hk => hdoes (hform hk rfl) (State.doAccess_ld hk), fun hk => hdoes (hform hk rfl) (State.doAccess_ldw hk),
        fun hk => hdoes (hform hk rfl) (State.doAccess_feq hk), fun hk => hdoes (hform hk rfl) (State.doAccess_ldc hk),
        fun hk => hdoes (hform hk rfl) (State.doAccess_st hk), fun hk => hdoes (hform hk rfl) (State.doAccess_stf hk),
        fun hk => hdoes (hform hk rfl) (State.doAccess_sts hk),
        fun hk => hdoes (hform hk rfl) (State.doAccess_fempty hk)⟩
  case parkReq =>
    intro s l x r form keys va g pl
    refine ⟨fun hb hresp => ?null, fun hb hresp => ?fault, fun hb hg hroom => State.parkReq_of_full hb hg hroom,
      fun hb hg hroom => ⟨recordOf pl l x r form keys va g, rfl, rfl, rfl, rfl, rfl, rfl, rfl, rfl, rfl, rfl, rfl,
        State.parkReq_of_room hb hg hroom⟩⟩
    case null => rw [State.parkReq, if_pos hb, if_pos hresp]
    case fault => rw [State.parkReq, if_pos hb, hresp]; rfl
  case park => exact fun s q keys g hg => ⟨{ q with keys := if keys.all ownKey then keys else [], slot := g.freeRec }, rfl, rfl, rfl, State.park_glade? q hg⟩
  case fences =>
    intro s s1 l x r key imm pl port pre ends hready
    refine ⟨fun sc hk hpre => ?fence, fun hk hpre => ?sbar, fun src dst hk hdone => ?xfence, State.fenceDone_classes s pl pre,
      fun bank hk hfree => ⟨fun hx => ?near, fun lvl hx hroom => ?dropped⟩, fun hk hfree hx => ?wback, fun i st hstream hk => ?spos⟩
    case fence =>
      exact (exec_homeAccess_of_fence hready (by rw [hk]; rfl)).trans (congrArg Host.Outcome.next (State.fenceStep_fence hk hpre))
    case sbar =>
      exact (exec_homeAccess_of_fence hready (by rw [hk]; rfl)).trans (congrArg Host.Outcome.next (State.fenceStep_sbar hk hpre))
    case xfence =>
      exact (exec_homeAccess_of_fence hready (by rw [hk]; rfl)).trans (congrArg Host.Outcome.next (State.fenceStep_xfence hk hdone))
    case near => exact (exec_homeAccess_of_pref hready hk).trans (congrArg Host.Outcome.next (State.prefStep_ok hk hfree hx))
    case dropped => exact (exec_homeAccess_of_pref hready hk).trans (congrArg Host.Outcome.next (State.prefStep_notPresent hfree hx hroom))
    case wback => exact (exec_homeAccess_of_wback hready hk).trans (congrArg Host.Outcome.next (State.wbackStep_ok hfree hx))
    case spos =>
      exact (exec_homeAccess_of_spos hready hk).trans (congrArg Host.Outcome.next (State.streamSpos_of_ready hstream hk))
  case enter =>
    intro s pl f slot r
    refine ⟨fun hk => ?setbud, fun hk => ?request⟩
    case setbud => exact if_pos hk
    case request =>
      obtain ⟨hkind, ha, hb⟩ := State.entered_operands s pl r
      exact ⟨s.entered pl r, hkind, ha, hb, rfl, State.enterReq_rq hk⟩

end Sys2Proof.Machine

/-!
PROOF. A plain store to an IMM page writes its bytes and no other (04 R85; 07 R132; 10 R203): it goes past the banks to the home
line, behind what has been committed there.
-/
namespace Sys2Proof.Machine

/-! ### What translating an access keeps (R317) -/

section
variable {β : Type} (g : State → β) (hport : ∀ (s : State) k p, g (s.setPort k p) = g s)
  (hctr : ∀ (s : State) n, g { s with freeCtr := n } = g s)
include hport hctr

theorem State.xlate1_keeps (s : State) (l : Nat) (x : Launch) (port va n : Nat) (write : Bool) :
    g (s.xlate1 l x port va n write).2 = g s := by
  unfold State.xlate1
  extract_lets base
  split
  · rfl
  · split
    · rfl
    · exact State.xlate_keeps g hport hctr ..

theorem State.xlateEach_keeps (s : State) (l : Nat) (x : Launch) (port n : Nat) (write : Bool) (vas : List Nat) :
    g (s.xlateEach l x port n write vas).2 = g s := by
  induction vas generalizing s with
  | nil => rfl
  | cons va vas ih =>
    have hone := State.xlate1_keeps g hport hctr s l x port va n write
    unfold State.xlateEach
    split
    · rename_i t heq
      rw [heq] at hone
      have hrest := ih t
      split
      · rename_i hmore
        rw [hmore] at hrest
        exact hrest.trans hone
      · exact hrest.trans hone
    · rename_i heq
      rw [heq] at hone
      exact hone
    · rename_i heq
      rw [heq] at hone
      exact hone

end

theorem State.xlateFor_barq (s : State) (l : Nat) (x : Launch) (port va n : Nat) (write : Bool) :
    (s.xlateFor l x port va n write).2.barq = s.barq :=
  State.xlateEach_keeps (·.barq) (fun _ _ _ => rfl) (fun _ _ => rfl) ..

/-! ### The data of a store (R198) -/

theorem length_toLE (n x : Nat) : (toLE n x).length = n := by
  induction n generalizing x with
  | zero => rfl
  | succ n ih => rw [toLE, List.length_cons, ih]

theorem length_bytesOfWords (ws : List W64) : (bytesOfWords ws).length = 8 * ws.length := by
  simp only [bytesOfWords, List.length_flatten, List.map_map]
  induction ws with
  | nil => rfl
  | cons w ws ih => rw [List.map_cons, List.sum_cons, ih, Function.comp_apply, length_toLE, List.length_cons]; omega

/-- A store's data has as many bytes as its width. -/
theorem Req.length_data (r : Req) : r.data.length = r.bytes := by
  unfold Req.data
  split
  next hvec =>
    rw [length_bytesOfWords, List.length_map, List.length_range, Req.bytes]
    cases h : r.wd <;> simp_all [widVec, widWords, widBytes]
  next => exact length_toLE ..

/-! ### A store past the banks -/

section
variable {s : State} {pl : PlaneId} {l : Nat} {va : Nat} {e : MEff} {r : Req} {t : Token}

theorem State.putEff_of_imm (s : State) (l cut va : Nat) (e : MEff) : s.putEff l cut true va e = s.direct e := by
  unfold State.putEff
  split <;> rfl

/-- On an IMM line outside the banks an effect acts on the home line at once. -/
theorem State.actorEff_of_imm (hbank : s.banked (s.gladeOf pl.col) (e.line * 64) = false) :
    s.actorEff pl l true va e = s.direct e := by
  simp only [State.actorEff, hbank, Bool.false_eq_true, if_false, State.putEff_of_imm]

theorem State.twinCompare_of_no_twin (h : s.fo.twin = none) (l : Nat) (last : Bool) : s.twinCompare l last = s := by
  simp only [State.twinCompare, h]

@[simp] theorem State.finish_barq (s : State) (pl : PlaneId) (r : Req) (t : Token) : (s.finish pl r t).barq = s.barq := by
  unfold State.finish
  split <;> rfl

@[simp] theorem State.direct_barq (s : State) (e : MEff) : (s.direct e).barq = s.barq := by
  rw [State.direct, State.homeEff_barq, State.foldLine_barq]

theorem State.direct_bytes_mem (s : State) (a : Nat) (bs : List Byte) :
    (s.direct (.bytes a bs)).mem = Memory.writeBytes (s.foldLine (a / 64)).mem a bs := rfl

/-- With no core waiting and no twin run, a performed access ends where its request leaves the queue. -/
theorem State.wake_twinCompare_of_quiet (hbarq : s.barq = []) (htwin : s.fo.twin = none) (l : Nat) :
    (s.wake []).twinCompare l false = s := by
  rw [State.wake_nil_of_no_waiter hbarq, State.twinCompare_of_no_twin htwin]

end

/-- A plain store to an IMM line outside the banks, by an irrevocable launch, acts on the home line (R203). -/
theorem State.accessParts_of_imm_store {s : State} {pl : PlaneId} {l va key : Nat} {x : Launch} {r : Req} (hk : r.kind = .st)
    (hirrev : x.irrev = true) (hwords : s.wordsOk r.kind [⟨va, key, true, r.data.length⟩] = true)
    (hdesc : s.userDesc pl [⟨va, key, true, r.data.length⟩] = false) (hpeer : isPeer key = false) (hhost : isHost key = false)
    (hbank : s.banked (s.gladeOf pl.col) (key / 64 * 64) = false) :
    s.accessParts pl l x r [⟨va, key, true, r.data.length⟩] = ((s.direct (.bytes key r.data)).finish pl r .null, []) := by
  have hflush : s.flushFor pl r.kind [⟨va, key, true, r.data.length⟩] = s := by simp [State.flushFor, hk, ReqKind.atHome]
  have hcond : s.condHolds (actorObs s pl l) r.kind [⟨va, key, true, r.data.length⟩] = true := by simp only [State.condHolds, hk]
  have hwrite : s.writeParts pl l true [⟨va, key, true, r.data.length⟩] r.data = s.direct (.bytes key r.data) := by
    simp only [State.writeParts, List.take_length, if_true]
    exact State.actorEff_of_imm hbank
  rw [State.accessParts_of_open (by simp [hpeer, hhost]) hwords (fun _ => hdesc) hflush (.inl hirrev) hcond (.inl hirrev),
    State.doAccess_st hk, hwrite]

/-- Settles O36: the store writes its bytes on the folded line and nothing else. -/
theorem storeFrame : Obligations.StoreFrame := by
  intro s s1 l x r va key pl ps hinv hready hfree hx hcorr hbad htwin hpeer hhost hirrev hwords hdesc hk hbytes hbank hbarq
  have hmem1 : s1.mem = s.mem := by simpa [hx] using State.xlateFor_mem s l x (tilePort pl) (va48 r.a) r.bytes r.kind.writes
  have hbarq1 : s1.barq = [] := by
    simpa [hx, hbarq] using State.xlateFor_barq s l x (tilePort pl) (va48 r.a) r.bytes r.kind.writes
  have hlen : min r.bytes 64 = r.data.length := by rw [Req.length_data, Nat.min_eq_left hbytes]
  have hps : ps = [⟨va, key, true, r.data.length⟩] := by simp [ps, partsOf, hlen]
  have hdo : s1.accessParts pl l x r ps = ((s1.direct (.bytes key r.data)).finish pl r .null, []) := by
    rw [hps] at hwords hdesc ⊢
    exact State.accessParts_of_imm_store hk hirrev hwords hdesc hpeer hhost hbank
  refine ⟨_, exec_homeAccess_of_xlate hready hfree hx hcorr hbad htwin (by rw [hk]; rfl) hdo, ?_⟩
  rw [State.wake_twinCompare_of_quiet (by simpa using hbarq1) (by simpa using htwin), State.finish_mem, State.direct_bytes_mem]
  have hother (a : Nat) (ha : a < key ∨ key + r.bytes ≤ a) :
      Memory.read (Memory.writeBytes (s1.foldLine (key / 64)).mem key r.data) a = Memory.read (s1.foldLine (key / 64)).mem a :=
    Memory.read_writeBytes_other (by rwa [Req.length_data])
  refine ⟨hother, fun hclear a ha => ?clear, fun k hk => ?own⟩
  case clear => rw [hother a ha, State.foldLine_of_clear hclear, hmem1]
  case own =>
    have hwf : Memory.wf (s1.foldLine (key / 64)).mem = true := State.wf_foldLine _ (by rw [hmem1]; exact hinv)
    rw [← Req.length_data] at hk
    rw [Memory.read_writeBytes_same hwf hk, List.getD_eq_getElem?_getD, List.getElem?_eq_getElem hk, Option.getD_some]

end Sys2Proof.Machine

/-!
PROOF. Bank lines, committed entries and long-parked records as they go home (04 R74, R79, R84, R85; 19 R325).
-/
namespace Sys2Proof.Machine

/-! ### A line that leaves a bank (R79) -/

theorem State.lineHome_owned {s : State} {b : BankLine} {l : Nat} (h : b.lid = some l) :
    s.lineHome b = b.effs.foldl (fun s e => s.putEff l b.cut false b.va e) s := by
  simp only [State.lineHome, h]

theorem State.lineHome_shared {s : State} {b : BankLine} (h : b.lid = none) :
    s.lineHome b = b.tx.foldl (fun s l => s.commitTest l b.va) (b.effs.foldl (fun s e => s.direct e) s) := by
  simp only [State.lineHome, h]

theorem filterMap_drop_eq_filter {α : Type} (p : α → Bool) (l : List α) :
    (l.filterMap fun a => if p a then none else some a) = l.filter fun a => !p a := by
  rw [← List.filterMap_eq_filter]
  exact congrArg (fun f => l.filterMap f) (funext fun a => by cases h : p a <;> simp [Option.guard, h])

/-- The lines that leave a bank for good go home in the bank's order. -/
theorem State.flushBank_away (s : State) (pick : BankLine → Bool) :
    s.flushBank false pick = (s.bank.filter pick).foldl State.lineHome { s with bank := s.bank.filter fun b => !pick b } := by
  rw [State.flushBank, ← filterMap_drop_eq_filter]
  rfl

/-! ### The committed entries of a line (R84, R85, R325) -/

section
variable {s : State} {line : Nat}

@[simp] theorem State.homeEff_under (s : State) (e : MEff) : (s.homeEff e).under = s.under := by
  cases e <;> simp [State.homeEff]

theorem foldl_homeEff_under (es : List UEnt) (s : State) : (es.foldl (fun t e => t.homeEff e.eff) s).under = s.under :=
  foldl_keeps (·.under) _ (fun t e => t.homeEff_under e.eff) es s

/-- A line whose entries are all committed is left without one, and not SHADOWED. -/
theorem State.foldLine_of_all_committed (hsome : (s.under.filter fun e => e.committed && decide (e.eff.line = line)) ≠ [])
    (hall : ∀ e ∈ s.under, e.eff.line = line → e.committed = true) {bare t : State}
    (hbare : bare = { s with under := s.under.filter fun e => !(e.committed && decide (e.eff.line = line)) })
    (ht : t = if s.scrubbing line then bare
      else (s.under.filter fun e => e.committed && decide (e.eff.line = line)).foldl (fun s e => s.homeEff e.eff) bare) :
    s.foldLine line = t.setSide line { Store.getD t.side line {} with shadowed := false } := by
  have hunder : t.under = s.under.filter fun e => !(e.committed && decide (e.eff.line = line)) := by
    rw [ht]
    split
    · rw [hbare]
    · rw [foldl_homeEff_under, hbare]
  have hnone : (t.under.any fun e => decide (e.eff.line = line)) = false := by
    rw [hunder, List.any_eq_false]
    intro e he hline
    obtain ⟨hmem, hleft⟩ := List.mem_filter.mp he
    rw [hall e hmem (of_decide_eq_true hline), hline] at hleft
    exact nomatch hleft
  have hempty : (s.under.filter fun e => e.committed && decide (e.eff.line = line)).isEmpty = false := by
    simpa only [List.isEmpty_eq_false_iff] using hsome
  subst ht hbare
  exact (if_neg (by rw [hempty]; decide)).trans (if_neg (by rw [hnone]; decide))

end

/-! ### The statement -/

/-- Settles O37: the bank lines, the entries and the records, each by its own equation. -/
theorem linesGoHome : Obligations.LinesGoHome := by
  intro s
  refine ⟨?line, ?fold, fun g hg => ?parked⟩
  case line =>
    refine (congrArg Host.Outcome.next (s.flushBank_away _)).trans (congrArg Host.Outcome.next ?_)
    refine congrArg (fun f => List.foldl f _ _) (funext fun t => funext fun b => ?_)
    cases h : b.lid with
    | none => exact State.lineHome_shared h
    | some l => exact State.lineHome_owned h
  case fold =>
    intro hit bare ends hsome hall
    exact ⟨fun hkeep => congrArg Host.Outcome.next (State.foldLine_of_all_committed hsome hall rfl (by rw [hkeep]; rfl)),
      fun hgone => congrArg Host.Outcome.next (State.foldLine_of_all_committed hsome hall rfl (by rw [hgone]; rfl))⟩
  case parked =>
    refine (execParkTimeoutCheck.eq_def s).trans ?_
    simp only [State.parkTimeouts, hg]

end Sys2Proof.Machine

/-!
PROOF. Held launches that become irrevocable, launches that commit, that run again and that take SNAP cuts (04 R83 to R93;
18 R306).
-/
namespace Sys2Proof.Machine

/-! ### What each step of a launch does where its condition holds -/

section
variable {s : State} {x : Launch} {l : Nat} (hx : s.launch? l = some x)
include hx

theorem State.launchCommit_of_single (hms : s.members x = [(l, x)]) (hmay : s.mayCommit [(l, x)] = true)
    (htwin : s.fo.twin = none) : s.launchCommit l = (s.commitOne l x).1.wake (s.commitOne l x).2 := by
  have hpair : s.pairOf l = none := by rw [State.pairOf, htwin]; rfl
  simp only [State.launchCommit, hx, hms, hmay, hpair, Bool.not_true, Bool.false_eq_true, if_false, State.commitGroup,
    List.foldl_cons, List.foldl_nil, List.nil_append]

theorem State.oldestStart_of_oldest (hst : x.st = .oldestOnly) (hrung : x.rung = none) (hold : s.isOldest l x = true) :
    s.oldestStart l = s.replay l := by
  simp only [State.oldestStart, hx, hst, hrung, hold, Option.isNone_none, and_self, if_true]

theorem State.snapCadence_of_due (htakes : x.takesCuts = true) (hcad : x.cad ≠ 0)
    (hdue : x.cadTaken < (s.cycle x.glade - x.startCycle).toNat / (x.cad * 65536)) :
    s.snapCadence l =
      (s.modLaunch l fun y => { y with cadTaken := (s.cycle x.glade - x.startCycle).toNat / (x.cad * 65536) }).takeCut l .snap := by
  simp only [State.snapCadence, hx]
  exact if_pos ⟨hcad, htakes, hdue⟩

end

/-! ### Launches that stay, and entries that stay, in a commit test (R85, R86) -/

@[simp] theorem State.isSome_modLaunch (s : State) (k l : Nat) (f : Launch → Launch) :
    ((s.modLaunch k f).launch? l).isSome = (s.launch? l).isSome := by
  unfold State.modLaunch
  split
  next y hy =>
    by_cases h : l = k
    · subst h; rw [State.launch?_setLaunch, hy]; rfl
    · rw [State.launch?_setLaunch_other _ _ h]
  next => rfl

theorem State.launch?_modLaunch {s : State} {l : Nat} {x : Launch} (f : Launch → Launch) (hx : s.launch? l = some x) :
    (s.modLaunch l f).launch? l = some (f x) := by
  simp only [State.modLaunch, hx, State.launch?_setLaunch]

section
variable {β : Type} (g : State → β) (hmod : ∀ (s : State) k f, g (s.modLaunch k f) = g s)
  (hfault : ∀ (s : State) n fs, g { s with seqNo := n, faults := fs } = g s)
include hmod hfault

/-- A fault adds its record and, where no handler takes it, asks for a rung. -/
theorem State.raise_keeps (s : State) (cls : FCls) (lid : Nat) (charged : Option PlaneId) (where_ : PlaneId) (src : FSrc)
    (code : Nat) (req : Bool) (blk slot ch ord : Nat) (info : W64) (noHandler : Bool) :
    g (s.raise cls lid charged where_ src code req blk slot ch ord info noHandler).2 = g s := by
  have hdefault (t : State) (f : FaultRec) : g (t.defaultAction f) = g t := by
    unfold State.defaultAction
    split
    · rfl
    · exact hmod ..
    · rfl
  simp only [State.raise, State.fresh]
  split
  · exact hfault s _ _
  · exact (hdefault _ _).trans (hfault s _ _)

theorem State.commitTest_keeps (s : State) (lid va : Nat) : g (s.commitTest lid va) = g s := by
  unfold State.commitTest
  split
  · rfl
  · exact foldl_keeps g _ (fun t q => State.raise_keeps g hmod hfault t ..) _ _

end

/-! ### The commit of one launch (R84, R85) -/

@[simp] theorem State.commitTest_under (s : State) (l va : Nat) : (s.commitTest l va).under = s.under :=
  State.commitTest_keeps (·.under) (fun _ _ _ => State.modLaunch_under ..) (fun _ _ _ => rfl) s l va

@[simp] theorem State.isSome_commitTest (s : State) (k va l : Nat) :
    ((s.commitTest k va).launch? l).isSome = (s.launch? l).isSome :=
  State.commitTest_keeps (fun t => (t.launch? l).isSome) (fun t k f => t.isSome_modLaunch k l f) (fun _ _ _ => rfl) s k va

theorem State.isSome_foldl_commitTest (es : List UEnt) (k l : Nat) (s : State) :
    ((es.foldl (fun t e => t.commitTest k e.va) s).launch? l).isSome = (s.launch? l).isSome := by
  induction es generalizing s with
  | nil => rfl
  | cons e es ih => rw [List.foldl_cons, ih, State.isSome_commitTest]

theorem State.foldl_commitTest_under (es : List UEnt) (l : Nat) (s : State) :
    (es.foldl (fun t e => t.commitTest l e.va) s).under = s.under :=
  foldl_keeps (·.under) _ (fun t e => t.commitTest_under l e.va) es s

/-- A fold of a line takes entries away and adds none. -/
theorem State.mem_under_foldLine {s : State} {line : Nat} {e : UEnt} (he : e ∈ (s.foldLine line).under) : e ∈ s.under := by
  revert he
  unfold State.foldLine
  extract_lets pick es gone u v
  have hv : v.under = u.under := by
    dsimp only [v]
    split
    · rfl
    · exact foldl_homeEff_under ..
  have hu {e : UEnt} (he : e ∈ u.under) : e ∈ s.under := (List.mem_filter.mp he).1
  split
  · exact id
  · split
    · rw [hv]; exact hu
    · rw [State.setSide_under, hv]; exact hu

theorem State.mem_under_foldl_homeFill {ks : List Nat} {f : Bool} {s : State} {e : UEnt}
    (he : e ∈ (ks.foldl (fun t k => t.homeFill k f) s).under) : e ∈ s.under := by
  induction ks generalizing s with
  | nil => exact he
  | cons k ks ih =>
    have hone : e ∈ (s.homeFill k f).under := ih he
    rw [State.homeFill, State.homeEff_under] at hone
    exact State.mem_under_foldLine hone

@[simp] theorem State.homeFill_launches (s : State) (key : Nat) (f : Bool) : (s.homeFill key f).launches = s.launches := by
  rw [State.homeFill, State.homeEff_launches, State.foldLine_launches]

theorem State.foldl_homeFill_launches (ks : List Nat) (f : Bool) (s : State) :
    (ks.foldl (fun t k => t.homeFill k f) s).launches = s.launches :=
  foldl_keeps (·.launches) _ (fun t k => t.homeFill_launches k f) ks s

theorem State.modGlade_launch? (s : State) (g : Nat) (f : Glade → Glade) (l : Nat) :
    (s.modGlade g f).launch? l = s.launch? l := by
  rw [State.launch?, State.launch?, State.modGlade_launches]

section
variable {s : State} {l : Nat} {x : Launch} (hx : s.launch? l = some x)
include hx

theorem State.commitOne_committed : ∃ y, (s.commitOne l x).1.launch? l = some y ∧ y.st = .committed := by
  unfold State.commitOne
  extract_lets mine es ws tested old rest moved sigs dry filled done counted
  have htested : (tested.launch? l).isSome = true := by
    rw [State.isSome_foldl_commitTest, hx]; rfl
  have hfilled : filled.launches = tested.launches := State.foldl_homeFill_launches dry true moved
  clear_value filled
  obtain ⟨y, hy⟩ := Option.isSome_iff_exists.mp htested
  have hy' : filled.launch? l = some y := by rw [State.launch?, hfilled]; exact hy
  have hdone := State.launch?_modLaunch (fun y => { y with st := .committed, lastCut := none, cuts := [] }) hy'
  exact ⟨_, (State.modGlade_launch? done x.glade _ l).trans hdone, rfl⟩

end

theorem State.mem_under_commitOne {s : State} {l : Nat} {x : Launch} {e : UEnt} (he : e ∈ (s.commitOne l x).1.under) :
    (e.lid = l → e.committed = true) ∧ (e.lid ≠ l → e ∈ s.under) := by
  revert he
  unfold State.commitOne
  extract_lets mine es ws tested old rest moved sigs dry filled done counted
  intro he
  have htested : tested.under = s.under := State.foldl_commitTest_under es l s
  have hmoved : e ∈ moved.under := by
    rw [State.modGlade_under, State.modLaunch_under] at he
    exact State.mem_under_foldl_homeFill he
  obtain hkept | hrest := List.mem_append.mp hmoved
  · obtain hold | hmine := List.mem_append.mp hkept
    case inl =>
      obtain ⟨hmem, hcom⟩ := List.mem_filter.mp hold
      exact ⟨fun _ => hcom, fun _ => htested ▸ hmem⟩
    case inr =>
      obtain ⟨d, hd, rfl⟩ := List.mem_map.mp hmine
      obtain ⟨-, hown⟩ := List.mem_filter.mp hd
      exact ⟨fun _ => rfl, fun hother => absurd (of_decide_eq_true ((Bool.and_eq_true _ _).mp hown).1) hother⟩
  · obtain ⟨hmem, hleft⟩ := List.mem_filter.mp hrest
    refine ⟨fun hown => ?_, fun _ => htested ▸ hmem⟩
    simp [mine, hown] at hleft

/-! ### The statement -/

/-- Settles O38: each step of a launch by its own equation, the commit by what it leaves of the entries. -/
theorem launchesProceed : Obligations.LaunchesProceed := by
  refine ⟨fun s x => ?steps, fun s l x hx => ?commit⟩
  case steps =>
    intro l hx
    refine ⟨fun hst hold => ?released, fun hms hmay htwin => ?commits, fun hst hrung hold => ?again, fun htakes hcad hdue => ?snap⟩
    case released =>
      refine congrArg Host.Outcome.next ?_
      unfold State.anchorRelease
      rw [hx]
      exact if_pos ⟨hst, hold⟩
    case commits => exact congrArg Host.Outcome.next (State.launchCommit_of_single hx hms hmay htwin)
    case again => exact congrArg Host.Outcome.next (State.oldestStart_of_oldest hx hst hrung hold)
    case snap => exact congrArg Host.Outcome.next (State.snapCadence_of_due hx htakes hcad hdue)
  case commit =>
    exact ⟨fun e he => (State.mem_under_commitOne he).1, fun e he => (State.mem_under_commitOne he).2, State.commitOne_committed hx⟩

end Sys2Proof.Machine

/-!
PROOF. What a launch that fails leaves as its report (21 R338). A confidential tenant's fault is reported by its CLASS, CODE, STAMP
and TICKET alone (23 R371), so the report is not always the words of the fault.
-/
namespace Sys2Proof.Machine

/-- A launch of tenant 1. -/
def confidentialLaunch : Launch := { rcd := [], st := .live, glade := 0, queue := 0, asid := 1#16, tenant := 1 }

/-- A soft error that has been raised at the launch, with a detail in its second word. -/
def detailedFault : FaultRec :=
  { fid := 0, cls := .soft, glade := 0, lid := 0, words := [0#64, 5#64, 0#64, 0#64], src := .launch 0, input := none, st := .reported }

/-- The fabric with that launch and that fault, where tenant 1 is confidential and has authorised no debugging. -/
def confidentialSt : State :=
  { State.reset with
    launches := [(0, confidentialLaunch)]
    faults := [detailedFault]
    fo := { State.reset.fo with tenants := [(1, { confidential := true })] } }

/-- The report of the launch keeps nothing of the detail. -/
theorem report_of_confidential : ((confidentialSt.failLaunch 0 confidentialLaunch 0).launch? 0).bind (·.report) =
    some (9, [0#64, 0#64, 0#64, 0#64]) := by decide +kernel

/-- Refutes O39: the report of a confidential tenant's launch is not the words of its fault, which R371 hides. -/
theorem not_rungsAreTaken : ¬ Obligations.RungsAreTaken := by
  rintro ⟨-, hfails⟩
  obtain ⟨⟨y, hy, -, hreport⟩, -⟩ := hfails confidentialSt 0 confidentialLaunch 0 detailedFault (by decide +kernel) (by decide +kernel)
  have hshown := report_of_confidential
  rw [hy, Option.bind_some, hreport] at hshown
  exact absurd hshown (by decide)

end Sys2Proof.Machine

/-!
PROOF. The launch unit: heads of queues, host rings and the frame table (18 R301 to R304, R309, R310).
-/
namespace Sys2Proof.Machine

/-! ### The check of a head (R301, R302) -/

/-- The report of a record that fails its check. -/
def State.recordFault (s : State) (gl q : Nat) (g : Glade) (asid : BitVec 16) (m : QEnt) : Option (Nat × List W64) :=
  match s.checkRecord gl q g asid m.rcd with
  | .error r => some r
  | .ok _ => none

/-- A group member that keeps its image and has its wait words to load. -/
def State.keepImage (s : State) (gl q : Nat) (g : Glade) (asid : BitVec 16) (m : QEnt) : QEnt :=
  { m with img := (s.checkRecord gl q g asid m.rcd).toOption, waits := List.range (rcWaits m.rcd).length }

section
variable {s : State} {gl q tenant : Nat} {g : Glade} {asid : BitVec 16} {e : QEnt} {rest ms : List QEnt}

theorem State.findSome?_checked (s : State) (gl q : Nat) (g : Glade) (asid : BitVec 16) (ms : List QEnt) :
    ((ms.map fun m => (m, s.checkRecord gl q g asid m.rcd)).findSome? fun p => match p.2 with | .error e => some e | .ok _ => none) =
      ms.findSome? (s.recordFault gl q g asid) := by
  rw [List.findSome?_map]
  rfl

variable (hg : s.glade? gl = some g) (hq : Store.getD g.queues q [] = e :: rest) (hb : Store.get? g.binds q = some (tenant, asid))
include hg hq hb

section
variable (hctx : e.ctx = none) (himg : e.img = none) (hgroup : headGroup (e :: rest) = (ms, true, false)) (hms : ms ≠ [])
include hctx himg hgroup hms

/-- A whole group whose records all pass keeps their images. -/
theorem State.checkHead_of_ok (hok : ∀ m ∈ ms, s.recordFault gl q g asid m = none) :
    s.checkHead gl q = s.setQueue gl q (ms.map (s.keepImage gl q g asid) ++ (e :: rest).drop ms.length) := by
  have hkeep (m : QEnt) : ({ m with
      img := (match s.checkRecord gl q g asid m.rcd with
        | .ok i => some i
        | .error _ => none)
      waits := List.range (rcWaits m.rcd).length } : QEnt) = s.keepImage gl q g asid m := by
    unfold State.keepImage
    cases s.checkRecord gl q g asid m.rcd <;> rfl
  have hnone := List.findSome?_eq_none_iff.mpr hok
  rw [← State.findSome?_checked] at hnone
  have hempty : ms.isEmpty = false := by simpa only [List.isEmpty_eq_false_iff] using hms
  unfold State.checkHead
  simp only [hg, hq, hb, hctx, himg, hgroup, hempty, Option.isSome_none, Bool.false_eq_true, or_self, if_false, Bool.not_true]
  split
  next bad heq => exact absurd (heq.symm.trans hnone) (Option.some_ne_none _)
  next =>
    rw [List.map_map]
    exact congrArg (fun l => s.setQueue gl q (l ++ _)) (List.map_congr_left fun m _ => hkeep m)

/-- A whole group with a record that fails leaves the queue: each member with its own report, or the first. -/
theorem State.checkHead_of_bad {r : Nat × List W64} (hbad : ms.findSome? (s.recordFault gl q g asid) = some r) :
    s.checkHead gl q = (ms.foldl (fun t m => t.failEntry gl q asid tenant m ((s.recordFault gl q g asid m).getD r)) s).setQueue gl q
      ((e :: rest).drop ms.length) := by
  rw [← State.findSome?_checked] at hbad
  have hempty : ms.isEmpty = false := by simpa only [List.isEmpty_eq_false_iff] using hms
  unfold State.checkHead
  simp only [hg, hq, hb, hctx, himg, hgroup, hempty, Option.isSome_none, Bool.false_eq_true, or_self, if_false, Bool.not_true]
  split
  next bad heq =>
    obtain rfl := Option.some.inj (heq.symm.trans hbad)
    rw [List.foldl_map]
    refine congrArg (fun f => (List.foldl f s ms).setQueue gl q _) (funext fun t => funext fun m => ?_)
    unfold State.recordFault
    cases s.checkRecord gl q g asid m.rcd <;> rfl
  next heq => exact absurd (hbad.symm.trans heq) (Option.some_ne_none _)

end

/-- The head of the queue that is next takes tickets, leaves the queue and is placed (R303). -/
theorem State.launchStart_of_next (hidle : s.starting gl = []) (hnext : s.nextQueue g = some q) (hctx : e.ctx = none) {t : State}
    (ht : ((s.letIn gl q tenant asid (headGroup (e :: rest)).1).setQueue gl q
      ((e :: rest).drop (headGroup (e :: rest)).1.length)).placeStarting gl = t) (htwin : t.twinOther gl q = none) :
    s.launchStart gl q = t := by
  simp only [State.launchStart, hg, hidle, hnext, hq, hb, hctx, ht, htwin, List.isEmpty_nil, Bool.not_true, Bool.false_eq_true,
    if_false, ne_eq, not_true_eq_false]

end

/-! ### Rings (R309) -/

section
variable {s t : State} {gl k : Nat} {r : Ring} {h : List Byte} (hring : s.ringOf gl k = some r) (hhead : s.ringHead r = some h)
include hring hhead

theorem State.ringDrain_of_take {took : Bool} (hrun : recBits h 191 191 = 0) (htake : s.ringTake r = (took, t)) :
    s.ringDrain gl k = if recBits h 9 8 = 0 then
        let r' : Ring := { r with tail := if took then recBits h 190 128 else r.tail }
        ringGo r' (2 ^ (r.lcap + 4) + 1) (t.modRing r fun _ => r')
      else t := by
  simp only [State.ringDrain, hring, Option.bind_some, hhead, Option.map_some, hrun, htake]
  cases took <;> by_cases h0 : recBits h 9 8 = 0 <;> simp [h0]

theorem State.ringReset_of_take (hreset : recBits h 191 191 = 1) (htake : s.ringTake r = (true, t)) :
    s.ringReset gl k =
      ((t.modRing r fun r => { r with lcap := recBits h 7 4, tail := 0 }).fwWrite r.asid (r.va.toNat + 8) (toLE 8 0)).2.ringStatus r h
        (if ringOk h then 0 else 2) := by
  simp only [State.ringReset, hring, Option.bind_some, hhead, Option.map_some, hreset, htake]
  rfl

end

/-! ### The frame table (R310) -/

section
variable {s : State} (hdue : 64 ≤ s.fo.tabCyc)
include hdue

theorem State.tableStep_of_old (h : (s.fo.tabIx + 1) % 16 ≠ 0 ∨ s.fo.pendTable = none) :
    s.tableStep = { s with fo := { s.fo with tabIx := (s.fo.tabIx + 1) % 16, tabCyc := s.fo.tabCyc - 64 } } := by
  rw [State.tableStep, if_neg (Nat.not_lt.mpr hdue)]
  dsimp only
  split
  next t hix hpend =>
    obtain hne | hnone := h
    · exact absurd hix hne
    · exact nomatch hpend.symm.trans hnone
  next => rfl

theorem State.tableStep_of_new {t : List W32} (hstart : (s.fo.tabIx + 1) % 16 = 0) (hpend : s.fo.pendTable = some t) :
    s.tableStep = { s with fo := { s.fo with tabIx := (s.fo.tabIx + 1) % 16, tabCyc := s.fo.tabCyc - 64, table := t, pendTable := none } } := by
  rw [State.tableStep, if_neg (Nat.not_lt.mpr hdue)]
  simp only [hstart, hpend]

end

/-! ### The statement -/

/-- Settles O46: the head, its start, the rings and the frame table, each by its own equation. -/
theorem launchUnitSteps : Obligations.LaunchUnitSteps := by
  intro s g tenant asid e rest ms gl q es
  refine ⟨fun hg hq hb => ⟨fun hctx himg hgroup hms => ⟨fun hok => ?kept, fun r hbad => ?failed⟩, fun hidle hnext hctx => ?started⟩,
    fun r h hring hhead => ⟨fun took t hrun htake => ⟨fun hlive => ?drained, fun hdead => ?taken⟩, fun t hreset htake => ?reset⟩,
    fun hdue => ⟨fun hold => ?moved, fun t hstart hpend => ?loaded⟩⟩
  case kept =>
    exact congrArg (fun t : State => Host.Outcome.next (t.headWaits gl q)) (State.checkHead_of_ok hg hq hb hctx himg hgroup hms hok)
  case failed =>
    exact congrArg (fun t : State => Host.Outcome.next (t.headWaits gl q)) (State.checkHead_of_bad hg hq hb hctx himg hgroup hms hbad)
  case started =>
    intro t htwin
    exact congrArg Host.Outcome.next (State.launchStart_of_next hg hq hb hidle hnext hctx rfl htwin)
  case drained => exact congrArg Host.Outcome.next ((State.ringDrain_of_take hring hhead hrun htake).trans (if_pos hlive))
  case taken => exact congrArg Host.Outcome.next ((State.ringDrain_of_take hring hhead hrun htake).trans (if_neg hdead))
  case reset => exact congrArg Host.Outcome.next (State.ringReset_of_take hring hhead hreset htake)
  case moved => exact congrArg Host.Outcome.next (State.tableStep_of_old hdue hold)
  case loaded => exact congrArg Host.Outcome.next (State.tableStep_of_new hdue hstart hpend)

end Sys2Proof.Machine

/-!
PROOF. Translation: run-ahead, invalidations, the answers to page requests, scan-out, and frames and pages that come and go
(04 R77; 19 R318 to R325; 22 R362).
-/
namespace Sys2Proof.Machine

/-! ### Run-ahead (R318) -/

section
variable {s : State} {port va prompt : Nat} {asid : BitVec 16}

/-- Whether a window entry or a cached leaf of a port covers the access that prompts a fetch. -/
def State.covers (s : State) (port : Nat) (asid : BitVec 16) (prompt : Nat) : Bool :=
  ((s.port port).wins.any fun q => q.2.v && decide (q.2.asid = asid) && decide (q.2.vbase ≤ prompt) &&
    decide (prompt < q.2.vbase + q.2.npg * 2 ^ 16)) ||
  (s.port port).cache.any fun l => decide (l.asid = asid) && decide (l.va ≤ prompt) && decide (prompt < l.va + l.size)

theorem State.runAhead_of_covered (h : s.covers port asid prompt = true) : s.runAhead port asid va prompt = s := if_pos h

variable (h : s.covers port asid prompt = false)
include h

theorem State.runAhead_of_leaf {f : Leaf} (hwalk : s.walk asid va = .leaf f) :
    s.runAhead port asid va prompt = if f.va ≤ prompt ∧ prompt < f.va + f.size then s.cacheLeaf port f else s := by
  refine (if_neg fun hyes => Bool.false_ne_true (h.symm.trans hyes)).trans ?_
  rw [hwalk]

theorem State.runAhead_of_no_leaf (hwalk : s.walk asid va = .malformed ∨ ∃ n, s.walk asid va = .notPresent n) :
    s.runAhead port asid va prompt = s.dropFetch port := by
  refine (if_neg fun hyes => Bool.false_ne_true (h.symm.trans hyes)).trans ?_
  obtain hwalk | ⟨n, hwalk⟩ := hwalk <;> rw [hwalk]

end

/-! ### Invalidations (R319, R320) -/

section
variable {s : State} {iid port : Nat} {v : Inval} (hv : s.invals.find? (fun v => decide (v.iid = iid)) = some v)
include hv

theorem State.portInval_of_todo (htodo : v.todo.contains port = true) :
    s.portInval iid port =
      { s.setPort port { s.port port with
          wins := Store.mapV (fun _ w => if w.meets v then { w with v := false } else w) (s.port port).wins
          cache := (s.port port).cache.filter fun l => !l.meets v } with
        invals := s.invals.map fun w => if w.iid = iid then
          { v with todo := v.todo.erase port, active := port :: v.active, acks := if (s.port port).meets v then v.acks + 1 else v.acks }
          else w } := by
  simp only [State.portInval, hv, htodo, Bool.not_true, Bool.false_eq_true, if_false]

theorem State.portAck_of_active (hactive : v.active.contains port = true) :
    s.portAck iid port =
      State.invalDone { s with invals := s.invals.map fun w => if w.iid = iid then { w with active := w.active.erase port } else w } iid := by
  simp only [State.portAck, hv, hactive, Bool.not_true, Bool.false_eq_true, if_false]

end

/-! ### Answers to page requests (R321 to R323) -/

theorem State.scanOut_of_single {s : State} {ix l : Nat} {e : PrqEnt} {g : Glade} {x : Launch}
    (he : s.prq.ents.find? (fun e => decide (e.ix = ix)) = some e) (hg : s.glade? e.glade = some g)
    (hlate : g.quick < (s.cycle e.glade - e.stamp).toNat) (hhold : s.holders ix = [(l, x)]) (hplane : x.plane.isSome = true)
    (hscan : x.scanned = none) (hpre : x.preHeld = false) (hdrain : x.planes.all s.canDrain = true)
    (hstill : s.matrixStill l x g = true) : s.scanOut ix = s.scanLaunch l x := by
  simp only [State.scanOut, he, hg, hhold, if_neg (Nat.not_le.mpr hlate), List.foldl_cons, List.foldl_nil, hplane, hscan, hpre,
    hdrain, hstill, Option.isNone_none, Bool.not_false, Bool.and_self, if_true]

section
variable {s : State} {val : W64} {e : PrqEnt} (he : s.answered val = some e)
include he

theorem State.answerResume_of_entry (hact : answerAct val = 0) :
    s.answerResume val = ((s.rehold e.ix .waiting none).freePrqEnt e.ix).resumeHolders (s.holders e.ix) := by
  simp only [State.answerResume, hact, he, ne_eq, not_true_eq_false, if_false]

theorem State.answerFault_of_entry (hact : answerAct val = 1) :
    s.answerFault val =
      ((((s.holders e.ix).foldl (fun s q => if q.2.scanned.isSome then s else s.faultHeld q.1 e.ix) s).rehold e.ix
        (.pageHeld prqFault) (some prqFault)).freePrqEnt e.ix).resumeHolders (s.holders e.ix) := by
  simp only [State.answerFault, hact, he, ne_eq, not_true_eq_false, if_false]

theorem State.answerAbort_of_entry (hact : answerAct val = 2) :
    s.answerAbort val = (s.holders e.ix).foldl (fun s q => s.askRung q.1 3 0)
      ((s.rehold e.ix (.pageHeld prqDrop) (some prqDrop)).freePrqEnt e.ix) := by
  simp only [State.answerAbort, hact, he, ne_eq, not_true_eq_false, if_false]

end

theorem State.answerRefused_of_refused {s : State} {val : W64} (h : answerAct val = 3 ∨ s.answered val = none) :
    s.answerRefused val = s.refuseAnswer :=
  if_pos (h.imp id fun hnone => by rw [hnone]; rfl)

/-! ### Frames (R325, R362) -/

theorem Memory.read_filter (m : Memory) (p : Nat → Bool) (a : Nat) :
    Memory.read (m.filter fun c => p c.1) a = if p a then Memory.read m a else Config.unlisted := by
  induction m with
  | nil => simp [Memory.read]
  | cons c m ih =>
    obtain ⟨k, b⟩ := c
    by_cases hk : k = a
    · subst hk
      cases hp : p k <;> simp_all [Memory.read]
    · cases hp : p k <;> simp_all [Memory.read]

/-- A frame without entries becomes free, and every byte of it reads 0. -/
theorem State.scrub_of_clean {s : State} {f : Nat} (hst : (s.frame f).st = .scrubbing)
    (hclean : ∀ e ∈ s.under, inFrame f (e.eff.line * 64) = false) (hmark : (s.frame f).mark = false) :
    s.scrub f = State.setFrame
      { s with
        bank := s.bank.filter fun b => !inFrame f (b.line * 64)
        under := s.under.filter fun e => !(e.committed && inFrame f (e.eff.line * 64))
        mem := s.mem.filter fun c => !inFrame f c.1
        side := s.side.filter fun q => !inFrame f (q.1 * 64) } f { s.frame f with tenant := 0, st := .free } := by
  have hnone : ((s.under.filter fun e => !(e.committed && inFrame f (e.eff.line * 64))).any fun e => inFrame f (e.eff.line * 64)) =
      false :=
    List.any_eq_false.mpr fun e he => by simp [hclean e (List.mem_filter.mp he).1]
  simp only [State.scrub, hst, hnone, hmark, ne_eq, not_true_eq_false, Bool.false_eq_true, if_false]

/-! ### Pages (R77, R326) -/

theorem State.foldl_foldLine_of_empty {s : State} (h : s.under = []) (base : Nat) (ks : List Nat) :
    ks.foldl (fun (t : State) i => t.foldLine (base + i)) s = s := by
  induction ks with
  | nil => rfl
  | cons k ks ih => rw [List.foldl_cons, State.foldLine_of_clear (by simp [h]), ih]

theorem State.catchUpAll_of_no_launch {s : State} (h : s.launches = []) : s.catchUpAll = s := by
  rw [State.catchUpAll, h, List.foldl_nil]

theorem State.foldl_setHomeBit_glades (base : Nat) (bs : List (Bool × Nat)) (s : State) :
    (bs.foldl (fun (t : State) b => t.setHomeBit (base + b.2) b.1) s).glades = s.glades :=
  foldl_keeps (·.glades) _ (fun t b => t.setHomeBit_glades (base + b.2) b.1) bs s

theorem State.parked_of_no_glade {s : State} (h : s.glades = []) : s.parked = [] := by
  rw [State.parked, h]
  rfl

theorem State.pageWaiters_of_none {s : State} (h : s.parked = []) (asid : BitVec 16) (page frame : Nat) :
    s.pageWaiters asid page frame = [] := by
  rw [State.pageWaiters, h]
  rfl

theorem State.ripe_of_none {s : State} (h : s.parked = []) (pick : ParkRec → Bool) : s.ripe pick = [] := by
  rw [State.ripe, h]
  rfl

/-- The side array with PARKED taken from the lines of a frame. -/
def unparked (k : Nat) (side : Store SideBits) : Store SideBits :=
  (side.map fun q => if q.1 * 64 / 2 ^ 16 = k / 2 ^ 16 then (q.1, { q.2 with parked := false }) else q).filter fun q => decide (q.2 ≠ {})

/-- A page as it leaves: the bits and bytes that its frame holds. -/
def State.pageSide (s : State) (asid : BitVec 16) (page k : Nat) : PageSide :=
  { asid := asid, va := page * 2 ^ 16, bits := (List.range 8192).map fun i => s.homeBit (k / 8 + i),
    bytes := Memory.readBytes s.mem k 65536 }

section
variable {s : State} {asid : BitVec 16} {va f : Nat}

theorem State.pageFrame_of_leaf {lf : Leaf} {page : Nat} (h : s.walk asid (page * 2 ^ 16) = .leaf lf) :
    s.pageFrame asid page f = some (paKey (lf.pa + (page * 2 ^ 16 - lf.va))) := by
  simp only [State.pageFrame, State.keyAt, h]

/-- With no bank line, no entry and no launch, a page leaves with what its frame holds. -/
theorem State.pageOut_of_quiet {k : Nat} (hk : s.pageFrame asid (va / 2 ^ 16) f = some k) (hbank : s.bank = []) (hunder : s.under = [])
    (hlaunches : s.launches = []) :
    s.pageOut asid va f =
      { s with
        side := unparked k s.side
        paged := s.pageSide asid (va / 2 ^ 16) k ::
          s.paged.filter fun q => !(decide (q.asid = asid) && decide (q.va = va / 2 ^ 16 * 2 ^ 16)) } := by
  simp only [State.pageOut, hk, State.flushBank_of_empty hbank, State.foldl_foldLine_of_empty hunder]
  exact State.catchUpAll_of_no_launch hlaunches

/-- With no glade, no record waits for the page that comes in. -/
theorem State.pageIn_of_no_glade {q : PageSide} {e : AsidEnt}
    (hq : s.paged.find? (fun q => decide (q.asid = asid) && decide (q.va = va / 2 ^ 16 * 2 ^ 16)) = some q)
    (he : Store.get? s.asids asid.toNat = some e) (hst : (s.frame f).st = .owned) (hten : (s.frame f).tenant = e.tenant)
    (hglades : s.glades = []) :
    s.pageIn asid va f = (q.bits.zipIdx.foldl (fun (s : State) b => s.setHomeBit (f * 2 ^ 16 / 8 + b.2) b.1)
      { s with mem := Memory.writeBytes s.mem (f * 2 ^ 16) q.bytes, paged := s.paged.erase q }).wake [] := by
  unfold State.pageIn
  simp only [hq, he, hst, hten, and_self, if_true]
  generalize hrestored : List.foldl _ _ q.bits.zipIdx = restored
  have hnone : restored.parked = [] := by
    refine State.parked_of_no_glade ?_
    rw [← hrestored, State.foldl_setHomeBit_glades]
    exact hglades
  rw [State.pageWaiters_of_none hnone, List.foldl_nil, State.ripe_of_none hnone]

end

/-! ### The statement -/

/-- Settles O47: each step of translation by its own equation. -/
theorem translationSteps : Obligations.TranslationSteps := by
  intro s port
  refine ⟨?runAhead, fun v hv => ⟨fun htodo => ?inval, fun hactive => ?ack⟩, fun e g l x he hg hlate hhold hplane hscan hpre hdrain hstill => ?scanOut,
    fun e he => ?answers, fun hrefused => ?refused, fun hup hst hclean hmark => ?scrub, fun lf hwalk hbank hunder hglades hlaunches => ?pageOut,
    fun q e hq he hst hten hglades => ?pageIn⟩
  case runAhead =>
    intro prompt win leaf
    refine ⟨fun hcovered => ?covered, fun hwin hleaf => ?fetched⟩
    case covered => exact congrArg Host.Outcome.next (State.runAhead_of_covered ((Bool.or_eq_true _ _).mpr hcovered))
    case fetched =>
      have hopen : s.covers port s.cur.asid prompt = false := (Bool.or_eq_false_iff).mpr ⟨hwin, hleaf⟩
      refine ⟨fun f hwalk => ⟨fun hlow hhigh => ?leaf, fun hout => ?far⟩, fun hwalk => ?none⟩
      case leaf => exact congrArg Host.Outcome.next ((State.runAhead_of_leaf hopen hwalk).trans (if_pos ⟨hlow, hhigh⟩))
      case far =>
        have hfar : ¬(f.va ≤ prompt ∧ prompt < f.va + f.size) := by omega
        exact congrArg Host.Outcome.next ((State.runAhead_of_leaf hopen hwalk).trans (if_neg hfar))
      case none => exact congrArg Host.Outcome.next (State.runAhead_of_no_leaf hopen hwalk)
  case inval => exact congrArg Host.Outcome.next (State.portInval_of_todo hv htodo)
  case ack => exact congrArg (fun t : State => Host.Outcome.next (t.hostRetry port)) (State.portAck_of_active hv hactive)
  case scanOut =>
    exact congrArg Host.Outcome.next (State.scanOut_of_single he hg hlate hhold hplane hscan hpre hdrain hstill)
  case answers =>
    intro hs
    refine ⟨fun hact => ?resume, fun hact => ?fault, fun hact => ?abort⟩
    case resume => exact congrArg (fun t : State => Host.Outcome.next (t.wake [])) (State.answerResume_of_entry he hact)
    case fault => exact congrArg (fun t : State => Host.Outcome.next (t.wake [])) (State.answerFault_of_entry he hact)
    case abort => exact congrArg (fun t : State => Host.Outcome.next (t.wake [])) (State.answerAbort_of_entry he hact)
  case refused => exact congrArg (fun t : State => Host.Outcome.next (t.wake [])) (State.answerRefused_of_refused hrefused)
  case scrub =>
    refine ⟨_, congrArg Host.Outcome.next ((if_pos hup).trans (State.scrub_of_clean hst hclean hmark)), State.frame_setFrame .., fun a ha => ?zero,
      fun a ha => ?kept⟩
    case zero => exact (Memory.read_filter s.mem (fun b => !inFrame s.cur.n b) a).trans (if_neg (by rw [inFrame, decide_eq_true ha]; decide))
    case kept => exact (Memory.read_filter s.mem (fun b => !inFrame s.cur.n b) a).trans (if_pos (by rw [inFrame, decide_eq_false ha]; rfl))
  case pageOut =>
    exact congrArg Host.Outcome.next (State.pageOut_of_quiet (State.pageFrame_of_leaf hwalk) hbank hunder hlaunches)
  case pageIn => exact congrArg Host.Outcome.next (State.pageIn_of_no_glade hq he hst hten hglades)

end Sys2Proof.Machine
